-- ==== Sys2Proof/Word.lean ====
section
/-! DEFINITION. Word types of the Gheith architecture (spec/00_scope.md R4, R5, R11). -/

namespace Sys2Proof

/-- A byte of memory. -/
abbrev Byte := BitVec 8
/-- An instruction word (R268). -/
abbrev W32 := BitVec 32
/-- A scalar register or an address (R178). -/
abbrev W64 := BitVec 64
/-- A vector register of 64 lanes of 32 bits (R178, R338). -/
abbrev VReg := BitVec 2048

/-- An agent that executes instructions: a physical core (R11, 0 to 639), the command sequencer of
a stream (R57, 0 to 7), or the matrix sequencer of a physical core (R189, R374). -/
inductive Agent where
  | core (n : Nat)
  | seq (n : Nat)
  | jig (n : Nat)
  deriving DecidableEq, Repr

end Sys2Proof
end

