-- ==== Sys2Proof/Machine/Bits.lean ====
section
/-! DEFINITION. Bit fields, sign extension, byte order and keyed lists shared by the decoder and the
machine (spec/00_scope.md R4, R5, R12). -/

namespace Sys2Proof.Bits

/-- Field [lo + len - 1 : lo] of a number (R4). -/
def fieldN (w lo len : Nat) : Nat := w / 2 ^ lo % 2 ^ len

/-- sext(v, n) of R12: the low n bits of `v` read as two's complement. -/
def sextN (v n : Nat) : Int :=
  let u := v % 2 ^ n
  if 2 * u < 2 ^ n then (u : Int) else (u : Int) - (2 ^ n : Nat)

/-- wrap(v, n) of R12: an exact integer modulo 2^n. -/
def wrapN (v : Int) (n : Nat) : Nat := (v % ((2 ^ n : Nat) : Int)).toNat

/-- wrap(v, 64) as a register value. -/
def wrap64 (v : Int) : W64 := BitVec.ofInt 64 v

/-- One bit of a number. -/
def bit (v i : Nat) : Bool := v / 2 ^ i % 2 == 1

/-- A truth value as a number. -/
def boolN (b : Bool) : Nat := if b then 1 else 0

/-- Little-endian value of bytes, the first at the lowest address (R5). -/
def leNat : List Byte → Nat
  | [] => 0
  | b :: bs => b.toNat + 256 * leNat bs

/-- The low `n` bytes of a value, little-endian (R5). -/
def leBytes : Nat → Nat → List Byte
  | 0, _ => []
  | n + 1, v => BitVec.ofNat 8 v :: leBytes n (v / 256)

/-- ceil(a ÷ b). -/
def ceilDiv (a b : Nat) : Nat := (a + b - 1) / b

/-- floor(log2 v), 0 for 0. -/
def log2 (v : Nat) : Nat := Nat.log2 v

/-- The number of set bits among the low `n` bits. -/
def popCount : Nat → Nat → Nat
  | 0, _ => 0
  | n + 1, v => v % 2 + popCount n (v / 2)

/-- The index of the lowest set bit among bits below `n`, counted from `i`; none if there is none. -/
def firstSet : Nat → Nat → Nat → Option Nat
  | 0, _, _ => none
  | n + 1, i, v => if v % 2 = 1 then some i else firstSet n (i + 1) (v / 2)

/-- The entry of a keyed list. -/
def find? {α : Type} : List (Nat × α) → Nat → Option α
  | [], _ => none
  | (j, v) :: rest, k => if j = k then some v else find? rest k

/-- Puts an entry into a keyed list whose keys strictly rise. -/
def put {α : Type} : List (Nat × α) → Nat → α → List (Nat × α)
  | [], k, v => [(k, v)]
  | (j, u) :: rest, k, v =>
    if k < j then (k, v) :: (j, u) :: rest
    else if k = j then (k, v) :: rest
    else (j, u) :: put rest k v

/-- Takes an entry out of a keyed list. -/
def drop {α : Type} (l : List (Nat × α)) (k : Nat) : List (Nat × α) :=
  l.filter (fun e => e.1 != k)

/-- The value at an index of a list, or a given one beyond its end. -/
def nth {α : Type} : List α → Nat → α → α
  | [], _, d => d
  | a :: _, 0, _ => a
  | _ :: as, n + 1, d => nth as n d

/-- Replaces the value at an index of a list; beyond its end nothing changes. -/
def setNth {α : Type} : List α → Nat → α → List α
  | [], _, _ => []
  | _ :: as, 0, v => v :: as
  | a :: as, n + 1, v => a :: setNth as n v

/-- Adds a number to a list with no repeats. -/
def addOnce (l : List Nat) (n : Nat) : List Nat := if l.contains n then l else l ++ [n]

end Sys2Proof.Bits
end

