-- ==== Sys2Proof/Syntax.lean ====
section
/-! DEFINITION. The instructions and device steps of spec/opcode_table.json, one constructor a row.
An encoded row carries its word's fields but the bundle-start bit B, which frames bundles (R268) and
names no operand. A row without an encoding is a step of the device (spec/95_what_each_step_holds.md). Its
constructor carries nothing: what the step takes from outside (which link, which reading, what the
host writes, whether a training succeeds) stands in the machine's `inp` field while it is taken
(log entry 1), since Lean's runtime holds at most 244 constructors with fields. -/

namespace Sys2Proof

/-- One constructor per row of spec/opcode_table.json. -/
inductive Instr where
  /-- NOP, R300. No operation. -/
  | nop (g : BitVec 3)
  /-- ADD, R300. xd := xa + xb with optional saturation. -/
  | add (g : BitVec 3) (d : BitVec 5) (a : BitVec 5) (b : BitVec 5)
  /-- SUB, R300. xd := xa − xb with optional saturation. -/
  | sub (g : BitVec 3) (d : BitVec 5) (a : BitVec 5) (b : BitVec 5)
  /-- ADDI, R301. xd := xa + imm with optional saturation. -/
  | addi (g : BitVec 3) (d : BitVec 5) (a : BitVec 5) (i : BitVec 7)
  /-- MUL, R300. Low 64 bits of xa × xb. -/
  | mul (g : BitVec 3) (d : BitVec 5) (a : BitVec 5) (b : BitVec 5)
  /-- MULH, R300. High 64 bits of the signed product. -/
  | mulh (g : BitVec 3) (d : BitVec 5) (a : BitVec 5) (b : BitVec 5)
  /-- MULHN, R300. High 64 bits of the unsigned product. -/
  | mulhn (g : BitVec 3) (d : BitVec 5) (a : BitVec 5) (b : BitVec 5)
  /-- MADD, R300. xd := xd + xa × xb. -/
  | madd (g : BitVec 3) (d : BitVec 5) (a : BitVec 5) (b : BitVec 5)
  /-- DIV, R300. Signed quotient. -/
  | div (g : BitVec 3) (d : BitVec 5) (a : BitVec 5) (b : BitVec 5)
  /-- DIVN, R300. Unsigned quotient. -/
  | divn (g : BitVec 3) (d : BitVec 5) (a : BitVec 5) (b : BitVec 5)
  /-- REM, R300. Signed remainder. -/
  | rem (g : BitVec 3) (d : BitVec 5) (a : BitVec 5) (b : BitVec 5)
  /-- REMN, R300. Unsigned remainder. -/
  | remn (g : BitVec 3) (d : BitVec 5) (a : BitVec 5) (b : BitVec 5)
  /-- AND, R300. Bitwise and. -/
  | andR (g : BitVec 3) (d : BitVec 5) (a : BitVec 5) (b : BitVec 5)
  /-- OR, R300. Bitwise or. -/
  | orR (g : BitVec 3) (d : BitVec 5) (a : BitVec 5) (b : BitVec 5)
  /-- XOR, R300. Bitwise exclusive or. -/
  | xorR (g : BitVec 3) (d : BitVec 5) (a : BitVec 5) (b : BitVec 5)
  /-- ANDI, R301. Bitwise and with a sign-extended immediate. -/
  | andi (g : BitVec 3) (d : BitVec 5) (a : BitVec 5) (i : BitVec 7)
  /-- ORI, R301. Bitwise or with an immediate. -/
  | ori (g : BitVec 3) (d : BitVec 5) (a : BitVec 5) (i : BitVec 7)
  /-- XORI, R301. Bitwise exclusive or with an immediate. -/
  | xori (g : BitVec 3) (d : BitVec 5) (a : BitVec 5) (i : BitVec 7)
  /-- SHL, R300. Shift left by xb[5:0]. -/
  | shl (g : BitVec 3) (d : BitVec 5) (a : BitVec 5) (b : BitVec 5)
  /-- SHR, R300. Logical shift right by xb[5:0]. -/
  | shr (g : BitVec 3) (d : BitVec 5) (a : BitVec 5) (b : BitVec 5)
  /-- SHA, R300. Arithmetic shift right by xb[5:0]. -/
  | sha (g : BitVec 3) (d : BitVec 5) (a : BitVec 5) (b : BitVec 5)
  /-- SHLI, R301. Shift left by imm[5:0]. -/
  | shli (g : BitVec 3) (d : BitVec 5) (a : BitVec 5) (i : BitVec 7)
  /-- SHRI, R301. Logical shift right by imm[5:0]. -/
  | shri (g : BitVec 3) (d : BitVec 5) (a : BitVec 5) (i : BitVec 7)
  /-- SHAI, R301. Arithmetic shift right by imm[5:0]. -/
  | shai (g : BitVec 3) (d : BitVec 5) (a : BitVec 5) (i : BitVec 7)
  /-- MIN, R300. Signed minimum. -/
  | minS (g : BitVec 3) (d : BitVec 5) (a : BitVec 5) (b : BitVec 5)
  /-- MAX, R300. Signed maximum. -/
  | maxS (g : BitVec 3) (d : BitVec 5) (a : BitVec 5) (b : BitVec 5)
  /-- MINN, R300. Unsigned minimum. -/
  | minn (g : BitVec 3) (d : BitVec 5) (a : BitVec 5) (b : BitVec 5)
  /-- MAXN, R300. Unsigned maximum. -/
  | maxn (g : BitVec 3) (d : BitVec 5) (a : BitVec 5) (b : BitVec 5)
  /-- CLZ, R302. Count of leading zero bits. -/
  | clz (g : BitVec 3) (d : BitVec 5) (a : BitVec 5)
  /-- POPC, R302. Count of set bits. -/
  | popc (g : BitVec 3) (d : BitVec 5) (a : BitVec 5)
  /-- MOV, R302. xd := xa. -/
  | mov (g : BitVec 3) (d : BitVec 5) (a : BitVec 5)
  /-- MOVI, R302. xd := sign-extended imm12. -/
  | movi (g : BitVec 3) (d : BitVec 5) (i : BitVec 12)
  /-- MOVL, R302. Double-word move of a 41-bit sign-extended value. -/
  | movl (g : BitVec 3) (d : BitVec 5) (hi : BitVec 12) (lo : BitVec 29)
  /-- BEXT, R303. Bit-field extract. -/
  | bext (g : BitVec 3) (d : BitVec 5) (a : BitVec 5) (b : BitVec 5)
  /-- BINS, R303. Bit-field insert. -/
  | bins (g : BitVec 3) (d : BitVec 5) (a : BitVec 5) (b : BitVec 5)
  /-- CMPEQ, R304. Writes a predicate pair with xa = xb. -/
  | cmpeq (g : BitVec 3) (p : BitVec 2) (a : BitVec 5) (b : BitVec 5)
  /-- CMPNE, R304. Writes a predicate pair with xa ≠ xb. -/
  | cmpne (g : BitVec 3) (p : BitVec 2) (a : BitVec 5) (b : BitVec 5)
  /-- CMPLT, R304. Signed less-than compare into a predicate pair. -/
  | cmplt (g : BitVec 3) (p : BitVec 2) (a : BitVec 5) (b : BitVec 5)
  /-- CMPLE, R304. Signed less-or-equal compare into a predicate pair. -/
  | cmple (g : BitVec 3) (p : BitVec 2) (a : BitVec 5) (b : BitVec 5)
  /-- CMPLTN, R304. Unsigned less-than compare into a predicate pair. -/
  | cmpltn (g : BitVec 3) (p : BitVec 2) (a : BitVec 5) (b : BitVec 5)
  /-- CMPLEN, R304. Unsigned less-or-equal compare into a predicate pair. -/
  | cmplen (g : BitVec 3) (p : BitVec 2) (a : BitVec 5) (b : BitVec 5)
  /-- CMPEQI, R304. Equality compare with an immediate. -/
  | cmpeqi (g : BitVec 3) (p : BitVec 2) (a : BitVec 5) (i : BitVec 7)
  /-- CMPLTI, R304. Signed less-than compare with an immediate. -/
  | cmplti (g : BitVec 3) (p : BitVec 2) (a : BitVec 5) (i : BitVec 7)
  /-- CMPGTI, R304. Signed greater-than compare with an immediate. -/
  | cmpgti (g : BitVec 3) (p : BitVec 2) (a : BitVec 5) (i : BitVec 7)
  /-- PAND, R305. Predicate and. -/
  | pand (g : BitVec 3) (d : BitVec 3) (a : BitVec 3) (b : BitVec 3)
  /-- POR, R305. Predicate or. -/
  | por (g : BitVec 3) (d : BitVec 3) (a : BitVec 3) (b : BitVec 3)
  /-- PXOR, R305. Predicate exclusive or. -/
  | pxor (g : BitVec 3) (d : BitVec 3) (a : BitVec 3) (b : BitVec 3)
  /-- PANDN, R305. Predicate and-not. -/
  | pandn (g : BitVec 3) (d : BitVec 3) (a : BitVec 3) (b : BitVec 3)
  /-- PMOVX, R305. xd := the predicate registers. -/
  | pmovx (g : BitVec 3) (d : BitVec 5)
  /-- XMOVP, R305. p2–p7 := xa[7:2]. -/
  | xmovp (g : BitVec 3) (a : BitVec 5)
  /-- FADD, R306. Scalar floating-point add. -/
  | fadd (g : BitVec 3) (d : BitVec 5) (a : BitVec 5) (b : BitVec 5)
  /-- FSUB, R306. Scalar floating-point subtract. -/
  | fsub (g : BitVec 3) (d : BitVec 5) (a : BitVec 5) (b : BitVec 5)
  /-- FMUL, R306. Scalar floating-point multiply. -/
  | fmul (g : BitVec 3) (d : BitVec 5) (a : BitVec 5) (b : BitVec 5)
  /-- FFMA, R306. Scalar fused multiply-add into xd. -/
  | ffma (g : BitVec 3) (d : BitVec 5) (a : BitVec 5) (b : BitVec 5)
  /-- FMIN, R306. Scalar floating-point minimum. -/
  | fmin (g : BitVec 3) (d : BitVec 5) (a : BitVec 5) (b : BitVec 5)
  /-- FMAX, R306. Scalar floating-point maximum. -/
  | fmax (g : BitVec 3) (d : BitVec 5) (a : BitVec 5) (b : BitVec 5)
  /-- FCMPEQ, R306. Quiet floating-point equality into a predicate pair. -/
  | fcmpeq (g : BitVec 3) (p : BitVec 2) (a : BitVec 5) (b : BitVec 5)
  /-- FCMPLT, R306. Floating-point less-than into a predicate pair. -/
  | fcmplt (g : BitVec 3) (p : BitVec 2) (a : BitVec 5) (b : BitVec 5)
  /-- FCMPLE, R306. Floating-point less-or-equal into a predicate pair. -/
  | fcmple (g : BitVec 3) (p : BitVec 2) (a : BitVec 5) (b : BitVec 5)
  /-- FCVT, R308. Double-word scalar format conversion. -/
  | fcvt (g : BitVec 3) (d : BitVec 5) (a : BitVec 5) (sf : BitVec 4) (df : BitVec 4) (r : BitVec 3) (t : BitVec 2)
  /-- FCLASS, R307. Floating-point class mask. -/
  | fclass (g : BitVec 3) (d : BitVec 5) (a : BitVec 5)
  /-- LDB, R309. Zero-extending byte load. -/
  | ldb (g : BitVec 3) (d : BitVec 5) (a : BitVec 5) (i : BitVec 7)
  /-- LDBS, R309. Sign-extending byte load. -/
  | ldbs (g : BitVec 3) (d : BitVec 5) (a : BitVec 5) (i : BitVec 7)
  /-- LDH, R309. Zero-extending halfword load. -/
  | ldh (g : BitVec 3) (d : BitVec 5) (a : BitVec 5) (i : BitVec 7)
  /-- LDHS, R309. Sign-extending halfword load. -/
  | ldhs (g : BitVec 3) (d : BitVec 5) (a : BitVec 5) (i : BitVec 7)
  /-- LDW, R309. Zero-extending word load. -/
  | ldw (g : BitVec 3) (d : BitVec 5) (a : BitVec 5) (i : BitVec 7)
  /-- LDWS, R309. Sign-extending word load. -/
  | ldws (g : BitVec 3) (d : BitVec 5) (a : BitVec 5) (i : BitVec 7)
  /-- LDD, R309. Doubleword load. -/
  | ldd (g : BitVec 3) (d : BitVec 5) (a : BitVec 5) (i : BitVec 7)
  /-- STB, R309. Withheld byte store. -/
  | stb (g : BitVec 3) (d : BitVec 5) (a : BitVec 5) (i : BitVec 7)
  /-- STH, R309. Withheld halfword store. -/
  | sth (g : BitVec 3) (d : BitVec 5) (a : BitVec 5) (i : BitVec 7)
  /-- STW, R309. Withheld word store. -/
  | stw (g : BitVec 3) (d : BitVec 5) (a : BitVec 5) (i : BitVec 7)
  /-- STD, R309. Withheld doubleword store. -/
  | std (g : BitVec 3) (d : BitVec 5) (a : BitVec 5) (i : BitVec 7)
  /-- LDL, R310. Double-word load with a declared arrival and an unscaled offset. -/
  | ldl (g : BitVec 3) (d : BitVec 5) (a : BitVec 5) (m : BitVec 8) (w : BitVec 3) (h : BitVec 2) (o : BitVec 16)
  /-- AMADD, R312. Atomic add, returning or no-return. -/
  | amadd (g : BitVec 3) (d : BitVec 5) (a : BitVec 5) (b : BitVec 5) (n : BitVec 1) (w : BitVec 1)
  /-- AMMIN, R312. Atomic signed minimum. -/
  | ammin (g : BitVec 3) (d : BitVec 5) (a : BitVec 5) (b : BitVec 5) (n : BitVec 1) (w : BitVec 1)
  /-- AMMINN, R312. Atomic unsigned minimum. -/
  | amminn (g : BitVec 3) (d : BitVec 5) (a : BitVec 5) (b : BitVec 5) (n : BitVec 1) (w : BitVec 1)
  /-- AMMAX, R312. Atomic signed maximum. -/
  | ammax (g : BitVec 3) (d : BitVec 5) (a : BitVec 5) (b : BitVec 5) (n : BitVec 1) (w : BitVec 1)
  /-- AMMAXN, R312. Atomic unsigned maximum. -/
  | ammaxn (g : BitVec 3) (d : BitVec 5) (a : BitVec 5) (b : BitVec 5) (n : BitVec 1) (w : BitVec 1)
  /-- AMAND, R312. Atomic and. -/
  | amand (g : BitVec 3) (d : BitVec 5) (a : BitVec 5) (b : BitVec 5) (n : BitVec 1) (w : BitVec 1)
  /-- AMOR, R312. Atomic or. -/
  | amor (g : BitVec 3) (d : BitVec 5) (a : BitVec 5) (b : BitVec 5) (n : BitVec 1) (w : BitVec 1)
  /-- AMXOR, R312. Atomic exclusive or. -/
  | amxor (g : BitVec 3) (d : BitVec 5) (a : BitVec 5) (b : BitVec 5) (n : BitVec 1) (w : BitVec 1)
  /-- AMSWP, R312. Atomic swap. -/
  | amswp (g : BitVec 3) (d : BitVec 5) (a : BitVec 5) (b : BitVec 5) (n : BitVec 1) (w : BitVec 1)
  /-- AMCAS, R313. Double-word atomic compare-and-swap. -/
  | amcas (g : BitVec 3) (d : BitVec 5) (a : BitVec 5) (b : BitVec 5) (w : BitVec 1) (c : BitVec 5)
  /-- GINIT, R314. Writes a whole gauge word; commits as a peg. -/
  | ginit (g : BitVec 3) (a : BitVec 5) (b : BitVec 5)
  /-- GSIG, R314. Adds to a gauge under R242; commits as a peg. -/
  | gsig (g : BitVec 3) (a : BitVec 5) (b : BitVec 5)
  /-- GWAIT, R315. Waits for the gauge generation to differ from xb. -/
  | gwait (g : BitVec 3) (d : BitVec 5) (a : BitVec 5) (b : BitVec 5)
  /-- GREAD, R314. Reads part n of a gauge word; a gauge poll. -/
  | gread (g : BitVec 3) (d : BitVec 5) (a : BitVec 5) (n : BitVec 2)
  /-- TKGET, R317. Takes a ticket; commits as a peg. -/
  | tkget (g : BitVec 3) (d : BitVec 5) (a : BitVec 5)
  /-- TKWAIT, R317. Waits until ticket xb is served. -/
  | tkwait (g : BitVec 3) (a : BitVec 5) (b : BitVec 5)
  /-- TKNEXT, R317. Advances SERVING and broadcasts it; commits as a peg. -/
  | tknext (g : BitVec 3) (a : BitVec 5)
  /-- FENCE, R318. Waits for the scoped commands to finish, then commits as a peg. -/
  | fence (g : BitVec 3) (c : BitVec 3)
  /-- AWAIT, R316. Waits for the core's queue copies to land, then for a gauge generation change. -/
  | await (g : BitVec 3) (d : BitVec 5) (a : BitVec 5) (b : BitVec 5)
  /-- QINIT, R319. Sets a queue handle and makes the queue empty. -/
  | qinit (g : BitVec 3) (q : BitVec 4) (a : BitVec 5) (b : BitVec 5)
  /-- QWAITF, R320. Waits until filled ≥ xb. -/
  | qwaitf (g : BitVec 3) (q : BitVec 4) (b : BitVec 5)
  /-- QWAITE, R320. Waits until free ≥ xb. -/
  | qwaite (g : BitVec 3) (q : BitVec 4) (b : BitVec 5)
  /-- QADVH, R320. Advances the queue head. -/
  | qadvh (g : BitVec 3) (q : BitVec 4) (b : BitVec 5)
  /-- QADVT, R320. Advances the queue tail. -/
  | qadvt (g : BitVec 3) (q : BitVec 4) (b : BitVec 5)
  /-- QSTAT, R320. Reads a queue handle's state. -/
  | qstat (g : BitVec 3) (d : BitVec 5) (q : BitVec 4)
  /-- PFL, R311. Prefetches a line into the L1 and memory-side caches. -/
  | pfl (g : BitVec 3) (a : BitVec 5) (i : BitVec 7)
  /-- TPREP, R321. Prepares a target-buffer entry at a bundle-relative offset. -/
  | tprep (g : BitVec 3) (n : BitVec 2) (o : BitVec 15)
  /-- TPREPX, R321. Prepares a target-buffer entry relative to x30. -/
  | tprepx (g : BitVec 3) (n : BitVec 2) (o : BitVec 15)
  /-- TREAD, R321. Reads a target-buffer entry. -/
  | tread (g : BitVec 3) (d : BitVec 5) (n : BitVec 2)
  /-- CSRR, R322. Reads a control register. -/
  | csrr (g : BitVec 3) (d : BitVec 5) (c : BitVec 12)
  /-- CSRW, R322. Writes a control register. -/
  | csrw (g : BitVec 3) (d : BitVec 5) (c : BitVec 12)
  /-- CSRS, R322. Sets bits of a control register. -/
  | csrs (g : BitVec 3) (d : BitVec 5) (c : BitVec 12)
  /-- CSRC, R322. Clears bits of a control register. -/
  | csrc (g : BitVec 3) (d : BitVec 5) (c : BitVec 12)
  /-- PEG, R135. Commits a peg, releasing withheld stores and recording peg state. -/
  | peg
  /-- HWIN, R63. Cuts and applies the stream's host write group. -/
  | hwin
  /-- END, R323. Ends the point, abandons it in frame mode, or idles the stream. -/
  | endOp
  /-- TRAP, R324. Raises cause 0x70. -/
  | trap (g : BitVec 3) (i : BitVec 7)
  /-- BRK, R324. Raises cause 0x71. -/
  | brk (g : BitVec 3) (i : BitVec 7)
  /-- ERET, R324. Returns from frame mode to the peg state at PEGADDR. -/
  | eret
  /-- SPAWN, R325. Submits a task record into the point's job. -/
  | spawn (g : BitVec 3) (d : BitVec 5) (a : BitVec 5)
  /-- CANCELJ, R326. Cancels a job of the issuing stream. -/
  | cancelj (g : BitVec 3) (d : BitVec 5) (a : BitVec 5)
  /-- PHASE, R327. Requests a new DSLICES carve-out. -/
  | phase (g : BitVec 3) (d : BitVec 5) (n : BitVec 4) (m : BitVec 8)
  /-- PINW, R329. Pins a window's lines into cache slices. -/
  | pinw (g : BitVec 3) (d : BitVec 5) (a : BitVec 5) (b : BitVec 5)
  /-- UNPINW, R329. Releases a window's pinned lines. -/
  | unpinw (g : BitVec 3) (d : BitVec 5) (a : BitVec 5)
  /-- TLBINV, R330. Invalidates TLB entries, sets a root, or unseals. -/
  | tlbinv (g : BitVec 3) (d : BitVec 5) (a : BitVec 5) (b : BitVec 5) (f : BitVec 2)
  /-- DIRTYH, R331. Harvests dirty bits into a bitmap. -/
  | dirtyh (g : BitVec 3) (d : BitVec 5) (a : BitVec 5) (b : BitVec 5)
  /-- LINKQ, R332. Reads a link or peer register. -/
  | linkq (g : BitVec 3) (d : BitVec 5) (a : BitVec 5)
  /-- LINKSET, R333. Clears latched link bits and submits a step request. -/
  | linkset (g : BitVec 3) (d : BitVec 5) (a : BitVec 5)
  /-- OPREQ, R328. Sets or clears the task's operating-point hint. -/
  | opreq (g : BitVec 3) (a : BitVec 5)
  /-- JOB, R335. Opens a job. -/
  | job (d : BitVec 5)
  /-- TASK, R335. Loads the staging record. -/
  | task (a : BitVec 5)
  /-- OPT, R335. Sets the staging OPTADDR and NOPT. -/
  | opt (a : BitVec 5) (b : BitVec 5)
  /-- DEPV, R335. Sets a staging dependence vector. -/
  | depv (i : BitVec 2) (a : BitVec 5)
  /-- TSET, R335. Sets a staging doubleword. -/
  | tset (k : BitVec 5) (a : BitVec 5)
  /-- LAUNCH, R335. Submits the staging record into a job. -/
  | launch (d : BitVec 5) (a : BitVec 5)
  /-- JWAIT, R335. Closes a job and waits for its completion. -/
  | jwait (d : BitVec 5) (a : BitVec 5)
  /-- NOTIFY, R335. Closes a job and requests a completion record. -/
  | notify (a : BitVec 5) (b : BitVec 5)
  /-- CURVEQ, R335. Reads an energy register item. -/
  | curveq (d : BitVec 5) (a : BitVec 5)
  /-- CASKOUT, R336. Freezes a task and writes its cask. -/
  | caskout (d : BitVec 5) (a : BitVec 5) (b : BitVec 5) (c : BitVec 5) (fl : BitVec 2)
  /-- CASKIN, R337. Checks a cask and enters it as a PARKED task. -/
  | caskin (d : BitVec 5) (a : BitVec 5) (b : BitVec 5) (c : BitVec 5) (fl : BitVec 2)
  /-- VADD, R343. Lane-wise add. -/
  | vadd (g : BitVec 3) (d : BitVec 5) (a : BitVec 5) (b : BitVec 5) (k : BitVec 2)
  /-- VSUB, R343. Lane-wise subtract. -/
  | vsub (g : BitVec 3) (d : BitVec 5) (a : BitVec 5) (b : BitVec 5) (k : BitVec 2)
  /-- VMUL, R343. Lane-wise multiply. -/
  | vmul (g : BitVec 3) (d : BitVec 5) (a : BitVec 5) (b : BitVec 5) (k : BitVec 2)
  /-- VFMA, R343. Lane-wise fused multiply-add. -/
  | vfma (g : BitVec 3) (d : BitVec 5) (a : BitVec 5) (b : BitVec 5) (k : BitVec 2)
  /-- VFMS, R343. Lane-wise fused multiply-subtract. -/
  | vfms (g : BitVec 3) (d : BitVec 5) (a : BitVec 5) (b : BitVec 5) (k : BitVec 2)
  /-- VMIN, R343. Lane-wise minimum. -/
  | vmin (g : BitVec 3) (d : BitVec 5) (a : BitVec 5) (b : BitVec 5) (k : BitVec 2)
  /-- VMAX, R343. Lane-wise maximum. -/
  | vmax (g : BitVec 3) (d : BitVec 5) (a : BitVec 5) (b : BitVec 5) (k : BitVec 2)
  /-- VABS, R343. Lane-wise absolute value. -/
  | vabs (g : BitVec 3) (d : BitVec 5) (a : BitVec 5) (k : BitVec 2)
  /-- VNEG, R343. Lane-wise negation. -/
  | vneg (g : BitVec 3) (d : BitVec 5) (a : BitVec 5) (k : BitVec 2)
  /-- VAND, R343. Lane-wise bitwise and. -/
  | vand (g : BitVec 3) (d : BitVec 5) (a : BitVec 5) (b : BitVec 5) (k : BitVec 2)
  /-- VOR, R343. Lane-wise bitwise or. -/
  | vor (g : BitVec 3) (d : BitVec 5) (a : BitVec 5) (b : BitVec 5) (k : BitVec 2)
  /-- VXOR, R343. Lane-wise bitwise exclusive or. -/
  | vxor (g : BitVec 3) (d : BitVec 5) (a : BitVec 5) (b : BitVec 5) (k : BitVec 2)
  /-- VSHL, R343. Lane-wise shift left. -/
  | vshl (g : BitVec 3) (d : BitVec 5) (a : BitVec 5) (b : BitVec 5) (k : BitVec 2)
  /-- VSHR, R343. Lane-wise logical shift right. -/
  | vshr (g : BitVec 3) (d : BitVec 5) (a : BitVec 5) (b : BitVec 5) (k : BitVec 2)
  /-- VSHA, R343. Lane-wise arithmetic shift right. -/
  | vsha (g : BitVec 3) (d : BitVec 5) (a : BitVec 5) (b : BitVec 5) (k : BitVec 2)
  /-- VADDX, R343. Adds a scalar to every lane. -/
  | vaddx (g : BitVec 3) (d : BitVec 5) (a : BitVec 5) (b : BitVec 5) (k : BitVec 2)
  /-- VMULX, R343. Multiplies every lane by a scalar. -/
  | vmulx (g : BitVec 3) (d : BitVec 5) (a : BitVec 5) (b : BitVec 5) (k : BitVec 2)
  /-- VFMAX, R343. Fused multiply-add of every lane with a scalar. -/
  | vfmax (g : BitVec 3) (d : BitVec 5) (a : BitVec 5) (b : BitVec 5) (k : BitVec 2)
  /-- VCMPEQ, R346. Lane equality into a mask. -/
  | vcmpeq (g : BitVec 3) (d : BitVec 3) (a : BitVec 5) (b : BitVec 5) (k : BitVec 2)
  /-- VCMPLT, R346. Lane less-than into a mask. -/
  | vcmplt (g : BitVec 3) (d : BitVec 3) (a : BitVec 5) (b : BitVec 5) (k : BitVec 2)
  /-- VCMPLE, R346. Lane less-or-equal into a mask. -/
  | vcmple (g : BitVec 3) (d : BitVec 3) (a : BitVec 5) (b : BitVec 5) (k : BitVec 2)
  /-- VCMPNE, R346. Lane inequality into a mask. -/
  | vcmpne (g : BitVec 3) (d : BitVec 3) (a : BitVec 5) (b : BitVec 5) (k : BitVec 2)
  /-- VSEL, R344. Selects lanes of va or vb by the mask. -/
  | vsel (g : BitVec 3) (d : BitVec 5) (a : BitVec 5) (b : BitVec 5) (k : BitVec 2)
  /-- VCVT, R350. Double-word vector format conversion. -/
  | vcvt (g : BitVec 3) (d : BitVec 5) (a : BitVec 5) (k : BitVec 2) (sf : BitVec 4) (df : BitVec 4) (r : BitVec 3) (t : BitVec 2) (n : BitVec 2)
  /-- VQNT, R351. Double-word quantisation into two q4 blocks. -/
  | vqnt (g : BitVec 3) (d : BitVec 5) (a : BitVec 5) (k : BitVec 2) (ty : BitVec 2) (au : BitVec 1) (r : BitVec 3) (x : BitVec 5)
  /-- VDQNT, R352. Double-word expansion of q4 codes. -/
  | vdqnt (g : BitVec 3) (d : BitVec 5) (a : BitVec 5) (b : BitVec 5) (k : BitVec 2) (df : BitVec 4)
  /-- VEXP2, R347. Lane-wise 2^a. -/
  | vexp2 (g : BitVec 3) (d : BitVec 5) (a : BitVec 5) (k : BitVec 2)
  /-- VLOG2, R347. Lane-wise log2 a. -/
  | vlog2 (g : BitVec 3) (d : BitVec 5) (a : BitVec 5) (k : BitVec 2)
  /-- VRCP, R347. Lane-wise reciprocal. -/
  | vrcp (g : BitVec 3) (d : BitVec 5) (a : BitVec 5) (k : BitVec 2)
  /-- VRSQRT, R347. Lane-wise reciprocal square root. -/
  | vrsqrt (g : BitVec 3) (d : BitVec 5) (a : BitVec 5) (k : BitVec 2)
  /-- VTANH, R347. Lane-wise tanh. -/
  | vtanh (g : BitVec 3) (d : BitVec 5) (a : BitVec 5) (k : BitVec 2)
  /-- VDOT4, R348. Four-element dot product accumulated per lane. -/
  | vdot4 (g : BitVec 3) (d : BitVec 5) (a : BitVec 5) (b : BitVec 5) (k : BitVec 2)
  /-- VREDADD, R349. Sum reduction into xd. -/
  | vredadd (g : BitVec 3) (d : BitVec 5) (a : BitVec 5) (k : BitVec 2)
  /-- VREDMAX, R349. Maximum reduction into xd. -/
  | vredmax (g : BitVec 3) (d : BitVec 5) (a : BitVec 5) (k : BitVec 2)
  /-- VREDMIN, R349. Minimum reduction into xd. -/
  | vredmin (g : BitVec 3) (d : BitVec 5) (a : BitVec 5) (k : BitVec 2)
  /-- VSCANADD, R349. Running sum across lanes. -/
  | vscanadd (g : BitVec 3) (d : BitVec 5) (a : BitVec 5) (k : BitVec 2)
  /-- VCLASS, R345. Lane-wise class mask. -/
  | vclass (g : BitVec 3) (d : BitVec 5) (a : BitVec 5) (k : BitVec 2)
  /-- VMULH, R343. High half of the lane products. -/
  | vmulh (g : BitVec 3) (d : BitVec 5) (a : BitVec 5) (b : BitVec 5) (k : BitVec 2)
  /-- VRNDI, R345. Rounds lanes to integral values. -/
  | vrndi (g : BitVec 3) (d : BitVec 5) (a : BitVec 5) (k : BitVec 2)
  /-- VLD, R353. Vector load of consecutive lanes. -/
  | vld (g : BitVec 3) (d : BitVec 5) (a : BitVec 5) (i : BitVec 7)
  /-- VST, R353. Vector store of consecutive lanes. -/
  | vst (g : BitVec 3) (d : BitVec 5) (a : BitVec 5) (i : BitVec 7)
  /-- VLDS, R354. Double-word strided vector load. -/
  | vlds (g : BitVec 3) (d : BitVec 5) (a : BitVec 5) (k : BitVec 2) (x : BitVec 5) (m : BitVec 8) (o : BitVec 16)
  /-- VSTS, R354. Double-word strided vector store. -/
  | vsts (g : BitVec 3) (d : BitVec 5) (a : BitVec 5) (k : BitVec 2) (x : BitVec 5) (o : BitVec 16)
  /-- VGATH, R355. Gather load. -/
  | vgath (g : BitVec 3) (d : BitVec 5) (a : BitVec 5) (b : BitVec 5) (k : BitVec 2)
  /-- VSCAT, R355. Scatter store. -/
  | vscat (g : BitVec 3) (d : BitVec 5) (a : BitVec 5) (b : BitVec 5) (k : BitVec 2)
  /-- VLDQ, R357. Loads a queue slot at HEAD + i. -/
  | vldq (g : BitVec 3) (d : BitVec 5) (q : BitVec 4) (b : BitVec 5) (k : BitVec 2)
  /-- VSTQ, R357. Stores a queue slot at TAIL + i. -/
  | vstq (g : BitVec 3) (d : BitVec 5) (q : BitVec 4) (b : BitVec 5) (k : BitVec 2)
  /-- VBCX, R359. Broadcasts xa into the active lanes. -/
  | vbcx (g : BitVec 3) (d : BitVec 5) (a : BitVec 5) (k : BitVec 2)
  /-- VEXTX, R359. Extracts one lane into xd. -/
  | vextx (g : BitVec 3) (d : BitVec 5) (a : BitVec 5) (b : BitVec 5)
  /-- VINSX, R359. Inserts xa into one lane. -/
  | vinsx (g : BitVec 3) (d : BitVec 5) (a : BitVec 5) (b : BitVec 5)
  /-- VPERM, R360. Permutes lanes by index. -/
  | vperm (g : BitVec 3) (d : BitVec 5) (a : BitVec 5) (b : BitVec 5) (k : BitVec 2)
  /-- VSLIDE, R360. Slides lanes by a signed amount. -/
  | vslide (g : BitVec 3) (d : BitVec 5) (a : BitVec 5) (b : BitVec 5) (k : BitVec 2)
  /-- VZIP, R360. Interleaves the low halves of va and vb. -/
  | vzip (g : BitVec 3) (d : BitVec 5) (a : BitVec 5) (b : BitVec 5) (k : BitVec 2)
  /-- VUNZIP, R360. De-interleaves the even lanes of va and vb. -/
  | vunzip (g : BitVec 3) (d : BitVec 5) (a : BitVec 5) (b : BitVec 5) (k : BitVec 2)
  /-- VIOTA, R361. Writes active-lane counts. -/
  | viota (g : BitVec 3) (d : BitVec 5) (k : BitVec 2)
  /-- VMOV, R359. Copies the active lanes of va. -/
  | vmov (g : BitVec 3) (d : BitVec 5) (a : BitVec 5) (k : BitVec 2)
  /-- KAND, R362. Mask and. -/
  | kand (g : BitVec 3) (d : BitVec 3) (a : BitVec 3) (b : BitVec 3)
  /-- KOR, R362. Mask or. -/
  | kor (g : BitVec 3) (d : BitVec 3) (a : BitVec 3) (b : BitVec 3)
  /-- KXOR, R362. Mask exclusive or. -/
  | kxor (g : BitVec 3) (d : BitVec 3) (a : BitVec 3) (b : BitVec 3)
  /-- KNOT, R362. Mask not. -/
  | knot (g : BitVec 3) (d : BitVec 3) (a : BitVec 3)
  /-- KPOPC, R362. Counts the set bits of a mask. -/
  | kpopc (g : BitVec 3) (d : BitVec 5) (a : BitVec 3)
  /-- KFIRST, R362. Index of the lowest set mask bit. -/
  | kfirst (g : BitVec 3) (d : BitVec 5) (a : BitVec 3)
  /-- KMOVX, R362. xd := mask. -/
  | kmovx (g : BitVec 3) (d : BitVec 5) (a : BitVec 3)
  /-- XMOVK, R362. mask := xa. -/
  | xmovk (g : BitVec 3) (d : BitVec 3) (a : BitVec 5)
  /-- VAMADD, R358. Per-lane no-return atomic add. -/
  | vamadd (g : BitVec 3) (d : BitVec 5) (a : BitVec 5) (b : BitVec 5) (k : BitVec 2)
  /-- VAMMIN, R358. Per-lane no-return atomic minimum. -/
  | vammin (g : BitVec 3) (d : BitVec 5) (a : BitVec 5) (b : BitVec 5) (k : BitVec 2)
  /-- VCOMPRESS, R361. Packs the active lanes downwards. -/
  | vcompress (g : BitVec 3) (d : BitVec 5) (a : BitVec 5) (k : BitVec 2)
  /-- VEXPAND, R361. Spreads lanes into the active positions. -/
  | vexpand (g : BitVec 3) (d : BitVec 5) (a : BitVec 5) (k : BitVec 2)
  /-- VSETT, R363. Sets VTYPE from a lane count and a format. -/
  | vsett (g : BitVec 3) (d : BitVec 5) (a : BitVec 5) (b : BitVec 5)
  /-- MCALL, R365. Starts or queues a matrix call of jig j. -/
  | mcall (g : BitVec 3) (j : BitVec 6)
  /-- MPARW, R366. Writes a live or shadow matrix parameter. -/
  | mparw (g : BitVec 3) (n : BitVec 3) (a : BitVec 5)
  /-- MPARR, R366. Reads a live matrix parameter. -/
  | mparr (g : BitVec 3) (d : BitVec 5) (n : BitVec 3)
  /-- MLDJ, R368. Loads jig j from a sealed jig block. -/
  | mldj (g : BitVec 3) (d : BitVec 5) (a : BitVec 5) (j : BitVec 6)
  /-- MRETIRE, R369. Waits for the calls and returns the last call code. -/
  | mretire (g : BitVec 3) (d : BitVec 5)
  /-- MFENCE, R369. Waits for the calls and releases CHECK holds. -/
  | mfence (g : BitVec 3)
  /-- MROT, R370. Sets the check-column origin. -/
  | mrot (g : BitVec 3) (a : BitVec 5)
  /-- MSTAT, R371. Reads and clears the matrix flags. -/
  | mstat (g : BitVec 3) (d : BitVec 5) (a : BitVec 5)
  /-- CPY, R395. Linear copy. -/
  | cpy (g : BitVec 3) (d : BitVec 5) (a : BitVec 5) (b : BitVec 5) (f : BitVec 2) (l : BitVec 5) (e : BitVec 5) (h : BitVec 2)
  /-- CPYT, R396. Strided tensor copy under a walk descriptor. -/
  | cpyt (g : BitVec 3) (d : BitVec 5) (a : BitVec 5) (b : BitVec 5) (f : BitVec 2) (l : BitVec 5) (e : BitVec 5) (h : BitVec 2)
  /-- CPYG, R397. Gather copy through an index block. -/
  | cpyg (g : BitVec 3) (d : BitVec 5) (a : BitVec 5) (b : BitVec 5) (f : BitVec 2) (l : BitVec 5) (e : BitVec 5) (h : BitVec 2)
  /-- CPYS, R397. Scatter copy through an index block. -/
  | cpys (g : BitVec 3) (d : BitVec 5) (a : BitVec 5) (b : BitVec 5) (f : BitVec 2) (l : BitVec 5) (e : BitVec 5) (h : BitVec 2)
  /-- CPYM, R398. Multicast copy into the own windows of the bay's cores. -/
  | cpym (g : BitVec 3) (d : BitVec 5) (a : BitVec 5) (b : BitVec 5) (f : BitVec 2) (l : BitVec 5) (e : BitVec 5) (m : BitVec 8)
  /-- CPYQ, R399. Copy that fills queue slots under permits. -/
  | cpyq (g : BitVec 3) (d : BitVec 5) (a : BitVec 5) (b : BitVec 5) (f : BitVec 2) (l : BitVec 5) (e : BitVec 5)
  /-- CPYA, R400. Accumulating copy. -/
  | cpya (g : BitVec 3) (d : BitVec 5) (a : BitVec 5) (b : BitVec 5) (f : BitVec 2) (l : BitVec 5) (e : BitVec 5) (t : BitVec 4)
  /-- CPF, R401. Prefetch into the memory-side cache. -/
  | cpf (g : BitVec 3) (d : BitVec 5) (a : BitVec 5) (f : BitVec 2) (l : BitVec 5) (e : BitVec 5) (q : BitVec 2)
  /-- CPH, R402. Copy to or from host or peer memory. -/
  | cph (g : BitVec 3) (d : BitVec 5) (a : BitVec 5) (b : BitVec 5) (f : BitVec 2) (l : BitVec 5) (e : BitVec 5) (dir : BitVec 1) (tgt : BitVec 1) (port : BitVec 3) (rs : BitVec 3)
  /-- CCAN, R403. Cancels an outstanding copy. -/
  | ccan (g : BitVec 3) (d : BitVec 5) (a : BitVec 5)
  /-- CPUB, R404. Publishes a swap buffer. -/
  | cpub (g : BitVec 3) (d : BitVec 5) (a : BitVec 5) (f : BitVec 2) (e : BitVec 5)
  /-- CQRY, R405. Queries a copy handle. -/
  | cqry (g : BitVec 3) (d : BitVec 5) (a : BitVec 5)
  /-- BDEF, R406. Defines or removes a swap buffer. -/
  | bdef (g : BitVec 3) (d : BitVec 5) (a : BitVec 5) (b : BitVec 5) (l : BitVec 5)
  /-- MOD, R275. Prefix giving rounding, saturation, hint, format and mask-high to the next op. -/
  | mod (r : BitVec 3) (t : BitVec 2) (h : BitVec 2) (f : BitVec 4) (m : BitVec 1)
  /-- IMM, R276. Prefix supplying 26 upper immediate bits. -/
  | imm (i : BitVec 26)
  /-- XFER, R277. Guarded transfer through a target-buffer entry, ending its bundle. -/
  | xfer (g : BitVec 3) (t : BitVec 2)
  /-- XFER_LINK, R277. Unguarded transfer that writes x30 with the next bundle's address. -/
  | xferLink (t : BitVec 2)
  /-- J_LDW, R378. Starts loading a weight tile into the shadow plane. -/
  | jLdw (p : BitVec 3) (f : BitVec 4)
  /-- J_SWAPW, R378. Makes the shadow plane current once loaded. -/
  | jSwapw
  /-- J_SKIPMAP, R378. Loads the shadow plane's skip map. -/
  | jSkipmap (p : BitVec 3)
  /-- J_STRM, R380. Streams activation rows through the plane into a bank. -/
  | jStrm (p : BitVec 3) (f : BitVec 4) (k : BitVec 1) (r : BitVec 8) (o : BitVec 5) (e : BitVec 1) (m : BitVec 3)
  /-- J_ACCZ, R379. Clears a bank and sets its type. -/
  | jAccz (k : BitVec 1) (t : BitVec 1)
  /-- J_LOOP, R381. Loop with an immediate count. -/
  | jLoop (t : BitVec 8) (c : BitVec 2) (n : BitVec 16)
  /-- J_LOOP_REG, R381. Loop with its count from a jig pointer. -/
  | jLoopReg (t : BitVec 8) (c : BitVec 2) (r : BitVec 3)
  /-- J_ADDP, R382. Adds an immediate to a jig pointer. -/
  | jAddp (d : BitVec 3) (i : BitVec 23)
  /-- J_ADDP_REG, R382. Adds a jig pointer to a jig pointer. -/
  | jAddpReg (d : BitVec 3) (a : BitVec 3)
  /-- J_WAITQ, R383. Waits for filled or free queue slots. -/
  | jWaitq (q : BitVec 4) (k : BitVec 1) (n : BitVec 10)
  /-- J_ADVQ, R383. Advances a queue head or tail. -/
  | jAdvq (q : BitVec 4) (e : BitVec 1) (n : BitVec 10)
  /-- J_BIAS, R384. Sets or clears the retirement bias. -/
  | jBias (e : BitVec 1) (p : BitVec 3)
  /-- J_SCALE, R384. Sets a power-of-two retirement scale. -/
  | jScale (e : BitVec 8)
  /-- J_SCALE_VEC, R384. Sets per-column retirement scales from a vector. -/
  | jScaleVec (p : BitVec 3)
  /-- J_RETIRE, R385. Retires bank rows to a destination with rounding and saturation. -/
  | jRetire (p : BitVec 3) (f : BitVec 4) (k : BitVec 1) (r : BitVec 3) (t : BitVec 2) (o : BitVec 5) (n : BitVec 8)
  /-- J_SIG, R386. Adds n to a gauge after the call's earlier retirement writes. -/
  | jSig (p : BitVec 3) (n : BitVec 24)
  /-- J_END, R386. Ends the call. -/
  | jEnd
  /-- RAILSET_WRITE, R18. A host write of RAILSET_VH or RAILSET_VL either is discarded with ERR set or starts or redirects the rail ramp towards TARGET, first moving any bay that is not permitted at a lowered TARGET. -/
  | railsetWrite
  /-- RAIL_RAMP_END, R18. A rail reaches its TARGET at the end of its 1 mV/µs ramp and BUSY clears. -/
  | railRampEnd
  /-- FREQ_LOCK_DONE, R20. A bay's frequency lock completes within 300 ns and the bay starts running at its new step. -/
  | freqLockDone
  /-- GATE_HELD_RELEASE, R22. A held gate command is carried out once 250 µs have passed since the previous gating. -/
  | gateHeldRelease
  /-- UNGATE_COMPLETE, R23. An ungating die finishes self-test and calibration, and its bays are offered to the dispatchers, or it stays gated. -/
  | ungateComplete
  /-- THERMAL_POLL, R25. Every 100 µs each diode is converted and its reading is compared against the advise, hold and park thresholds. -/
  | thermalPoll
  /-- MGMT_FIRMWARE_UPDATE, R28. A host command takes one management core out of service for a firmware update; a request for the second core while the first is out is refused. -/
  | mgmtFirmwareUpdate
  /-- HANDOVER, R28. The other hub's management core takes the primary role within 5 ms, posts HANDOVER, and then handles the curves and power commands that were held. -/
  | handover
  /-- HBM_CHANNEL_RETIRE, R27. A host command retires an HBM pseudo-channel and remaps its pages. -/
  | hbmChannelRetire
  /-- LINKCTL_GO, R32. A LINKCTL write with GO = 1 submits a rate-step request, which is refused, completes at once, is held, or starts a retrain. -/
  | linkctlGo
  /-- LINK_TRAIN_COMPLETE, R34. A link training attempt ends; on success the link is UP and resends its unacknowledged flits; on failure it retrains at its old step or goes DOWN; then any held request is handled. -/
  | linkTrainComplete
  /-- ROUTE_RELEASE, R41. Once every earlier flit of a channel on the old route has been delivered or resent, the flits held for the route change are released on the new route. -/
  | routeRelease
  /-- FLIT_SEND, R36. A transmitter numbers a flit, sends it, and keeps it in its replay buffer. -/
  | flitSend
  /-- FLIT_RECEIVE, R36. A receiver checks a flit's CRC and then delivers it in channel order, or discards it and requests replay. -/
  | flitReceive
  /-- REPLAY_REQUEST, R36. A transmitter that receives a replay request resends from the named flit onwards. -/
  | replayRequest
  /-- FLIT_ACK, R36. A receiver's acknowledgement frees flits from the transmitter's replay buffer. -/
  | flitAck
  /-- LANE_RETIRE, R38. A lane whose error count in one time-base millisecond exceeds LANETHR.COUNT is retired into a spare, and the link retrains. -/
  | laneRetire
  /-- DRAIN_MARKER_ACK, R42. A drain marker reaches its destination router, which returns an acknowledgement; the drain completes at its last acknowledgement. -/
  | drainMarkerAck
  /-- DRAIN_TIMEOUT, R43. A drain that has not completed within 10 ms is recorded as DRAIN_TIMEOUT. -/
  | drainTimeout
  /-- PERMIT_GRANT, R44. A consumer grants a permit for a free buffer slot over the compute ring. -/
  | permitGrant
  /-- PERMIT_AUDIT, R45. At each FABAUDIT interval a die quiesces injection, compares permits with slots, posts any difference, and resets the permit counts. -/
  | permitAudit
  /-- REPLAY_WINDOW_END, R48. A replay window closes, the replay rate is compared with LINKTHR, and a kind-1 event may be raised. -/
  | replayWindowEnd
  /-- PEER_PORT_DOWN, R51. A peer port loses its partner or exceeds its FEC limit, goes DOWN, fails its copies with PEER_DOWN, and raises kind 4. -/
  | peerPortDown
  /-- PEERSTAT_WRITE, R53. A host write of 1 to PEERSTAT.EVDOWN clears the bit and starts the port's retrain. -/
  | peerstatWrite
  /-- PEER_TRAIN_COMPLETE, R51. A peer port completes training, exchanges identities and records PEERID. -/
  | peerTrainComplete
  /-- HOST_WRITE_TLP, R60. A host write TLP to a mailbox or BAR4 window is accepted whole into staging, or is discarded if it crosses. -/
  | hostWriteTlp
  /-- HOST_READ, R60. A host read of a mailbox or BAR4 window is translated and served from memory with pending-write forwarding, or is answered with Completer Abort. -/
  | hostRead
  /-- INGRESS_STAGING_MOVE, R61. A TLP waiting in the shared staging buffer moves into its stream's ingress buffer once that buffer has room. -/
  | ingressStagingMove
  /-- INGRESS_STALL, R61. FULL has lasted 10 ms, so STALL sets and INGRESS_STALL is posted. -/
  | ingressStall
  /-- PCIE_RESET, R61. A PCIe hot reset or link-down discards every ingress buffer and staging, and sets LOST. -/
  | pcieReset
  /-- PCIE_LINK_UP, R68. The PCIe link comes up again, and INGRESS_LOST is posted for each stream that lost bytes. -/
  | pcieLinkUp
  /-- STRMCTL_GO, R59. STRMCTL.GO starts the stream's command program at STRMENTRY if STATE is IDLE or FAULT. -/
  | strmctlGo
  /-- STRMCTL_HALT, R59. STRMCTL.HALT stops issue at the next bundle boundary and sets STATE to IDLE. -/
  | strmctlHalt
  /-- STREAM_REG_WRITE, R58. A write of STRMENTRY, STRMMBX or APBASE is stored, or is discarded with REFUSED set while the stream is RUN or WAIT. -/
  | streamRegWrite
  /-- NQBASE_WRITE, R65. An NQBASE write is stored, or is discarded while EN = 1. -/
  | nqbaseWrite
  /-- NQCTL_WRITE, R65. An NQCTL write is stored, or is discarded whole when it changes LOGSIZE while EN is 1; enabling the queue may release backlogged records. -/
  | nqctlWrite
  /-- NQHEAD_WRITE, R65. An NQHEAD write records consumed records, or is discarded if it would exceed the queue size. -/
  | nqheadWrite
  /-- MSIX_WINDOW_CLOSE, R67. A coalescing window closes, and one MSI-X message covers the records written so far. -/
  | msixWindowClose
  /-- MSIX_VECTOR_UNMASK, R67. Unmasking a vector with its pending bit set sends the deferred message. -/
  | msixVectorUnmask
  /-- DEVICE_START, R69. Main power starts boot: the ROM verifies the firmware slots, and then the records, bring-up and self-test follow. -/
  | deviceStart
  /-- BOOT_READY, R69. Bring-up completes, the measurements are logged, and BOOTSTAT.PHASE becomes READY. -/
  | bootReady
  /-- AUX_POWER_ON, R222. The auxiliary input is applied, powering the always-on domain and generating the 16 key slots. -/
  | auxPowerOn
  /-- AUX_POWER_OFF, R16. The auxiliary input is removed, and the LPDDR-6 contents, keys and facility-key state are lost. -/
  | auxPowerOff
  /-- SEAL_GO, R71. SEALCTL.GO starts a seal check, making the image's pages read-only; it is ignored while an earlier check runs. -/
  | sealGo
  /-- SEAL_COMPLETE, R71. The sealer finishes its check and seals the pages, writes SEALHASH and logs the image, or reports a refusal code and offset. -/
  | sealComplete
  /-- ATTEST_GO, R72. ATTCTL.GO starts the building of an attestation report over the nonce. -/
  | attestGo
  /-- ATTEST_DONE, R72. The signed report is written to the host buffer and ATTEST_DONE is posted. -/
  | attestDone
  /-- HOST_GROUP_APPLIED, R63. The host write group cut by HWIN has been applied at one logical instant, HWINST is written, and the HWIN bundle retires. -/
  | hostGroupApplied
  /-- DISPATCH, R85. The dispatchers examine the ready order from the head and place each task that fits, counting skips. -/
  | dispatch
  /-- SLAB_ISSUE, R87. The leader issues slab NEXT to its logical bay and writes claim records to both hubs. -/
  | slabIssue
  /-- HEARTBEAT, R88. Every 10 µs each dispatcher sends a heartbeat to both hubs. -/
  | heartbeat
  /-- DIE_LOST, R88. Three missing heartbeats cause the hubs to declare a die lost, fence it, post DIE_LOST, and refire or stop its slabs. -/
  | dieLost
  /-- POINT_FIRE, R100. An enabled point that meets the slab, residency, core, window, reach and task conditions fires on its logical core in point mode. -/
  | pointFire
  /-- TASK_COMPLETE, R92. A done task's completion code is entered in both hubs' tables, its waiters are released, and its entry is freed. -/
  | taskComplete
  /-- DEFBUDGET_WRITE, R113. A DEFBUDGET write is stored and takes effect when no curve is in force. -/
  | defbudgetWrite
  /-- CURVE_GO, R115. CURVECTL.GO copies LEN bytes of CURVEBUF to the verifier, unless verification is already BUSY. -/
  | curveGo
  /-- CURVE_VERIFY_DONE, R116. Verification ends, and the curve is accepted as in force or pending, or is refused with a code, posting its event. -/
  | curveVerifyDone
  /-- CURVE_IN_FORCE, R117. A pending curve comes into force at its VFROM, which counts as a segment start. -/
  | curveInForce
  /-- CURVE_EXPIRE, R117. At VTO the curve leaves force, DEFBUDGET applies and CURVE_EXPIRED is posted. -/
  | curveExpire
  /-- FKEY_INSTALL, R118. FKEYCTL.GO installs the facility key, discards any pending curve and resets the highest accepted SEQ. -/
  | fkeyInstall
  /-- FKEY_LOCK, R118. FKEYCTL.LOCK sets, and key installation is then ignored until auxiliary power is removed. -/
  | fkeyLock
  /-- THERMTAB_WRITE, R131. A THERMTAB entry write is stored, or is discarded if it breaks the threshold ordering. -/
  | thermtabWrite
  /-- MALTSTER_LOOP, R121. Every 10 µs the Maltster computes the budget and need, curtails if need exceeds budget, and chooses each placed task's entry. -/
  | maltsterLoop
  /-- CURTAILMENT_END, R126. The response interval of the deepest response passes, and the event ends. -/
  | curtailmentEnd
  /-- BAND_CHECK, R124. At the end of each 10 ms window PWRAVG is published, the mean power is checked against the band, and BAND_MISS may be posted. -/
  | bandCheck
  /-- PARKTASK, R133. A host power command freezes a PLACED task and writes its cask to the LPDDR-6 tier. -/
  | parktask
  /-- RESUMETASK, R133. A host power command makes a PARKED task resumable under R123. -/
  | resumetask
  /-- GATEDIE, R133. A host power command gates a compute die, subject to R22. -/
  | gatedie
  /-- UNGATEDIE, R133. A host power command starts ungating a die under R23. -/
  | ungatedie
  /-- DRAINDIE, R133. A host power command parks every task on a die, moves its homed pages to LPDDR-6, and gates it. -/
  | draindie
  /-- REPAIRDIE, R133. A host power command fences, gates and ungates a lost or gated die, and retrains its links afresh. -/
  | repairdie
  /-- REPAIRLINK, R133. A host power command reroutes a link's traffic and retrains it afresh at width 64, testing every lane. -/
  | repairlink
  /-- PWRCMD_BAD_CODE, R133. A PWRCMD GO with an undefined CODE is refused with BAD_CODE. -/
  | pwrcmdBadCode
  /-- IMPLICIT_PEG, R139. At a bundle's start the core takes an implicit peg, for buffer pressure, an unmet wait, or a pending trap or rotation request. -/
  | implicitPeg
  /-- PEG_STALL, R140. A peg stalled for 1 ms on an outstanding matrix call raises PEG_STALL and rolls back. -/
  | pegStall
  /-- WATCHDOG_EXPIRE, R148. A core's watchdog count reaches MODE.WDOG, so the point is abandoned and HANG is posted. -/
  | watchdogExpire
  /-- ROTATION_QUANTUM_END, R152. A physical bay's ROTQ quantum ends while a logical bay with work is not resident, so its logical bay is asked to rotate out. -/
  | rotationQuantumEnd
  /-- BAY_ROTATE_COMPLETE, R152. The outgoing logical bay's state has been written to the rotation area; the next logical bay with work is read in, and its cores resume. -/
  | bayRotateComplete
  /-- FREEZE_COMPLETE, R164. The cask is assembled, hashed and written, and the task is PARKED with its bays free. -/
  | freezeComplete
  /-- LOAD_DATA_ARRIVE, R177. Late data arrives for a core frozen at a landing bundle or at a peg commit, and the bundle issues. -/
  | loadDataArrive
  /-- GAUGE_WAKE, R244. A wake event on a gauge word completes a stopped GWAIT or AWAIT, which writes xd with GEN. -/
  | gaugeWake
  /-- TICKET_BROADCAST, R246. A SERVING broadcast reaches sleeping TKWAIT cores, which evaluate their tickets again. -/
  | ticketBroadcast
  /-- QUEUE_WAIT_COMPLETE, R320. A landing or a permit return meets the count of a stopped QWAITF or QWAITE, and the core resumes. -/
  | queueWaitComplete
  /-- SHADOW_LOAD_DONE, R190. The shadow weight-plane load ends, releasing a waiting J.SWAPW or J.LDW. -/
  | shadowLoadDone
  /-- JIG_DEPTH_EXPIRE, R375. A call's cycle count reaches its jig's DEPTH, and the call completes with DEPTH. -/
  | jigDepthExpire
  /-- COPY_COMPLETE, R198. A copy command finishes or fails, writes any status, adds to its gauge, and frees its slot. -/
  | copyComplete
  /-- CANCEL_ACK, R403. The engine acknowledges a cancel, the command stops writing, and the CCAN result is determined. -/
  | cancelAck
  /-- CONFLICT_ROLLBACK, R232. A wait cycle among withheld stores is broken by rolling back the core whose oldest withheld store has the highest WTS. -/
  | conflictRollback
  /-- TSFLOOR_PUBLISH, R228. Every 10 µs the hubs publish TSFLOOR, and every core raises its PTS to it. -/
  | tsfloorPublish
  /-- HOME_RD, R230. A read request at a line's home returns data, WTS and a lease, or forwards to the owner. -/
  | homeRd
  /-- HOME_EX, R230. An exclusive request at a line's home grants ownership, or forwards to the current owner. -/
  | homeEx
  /-- HOME_UP, R230. An upgrade request at a line's home grants ownership without data, or is handled as EX. -/
  | homeUp
  /-- HOME_NR, R234. A no-return atomic is applied at the line's home, after fetching the line from any owner. -/
  | homeNr
  /-- HOME_WB, R230. A write-back at the home takes data, WTS and RTS, and answers a pending FWD. -/
  | homeWb
  /-- HOME_DATA, R230. An owner's DATA reply ends FETCH and serves the queued request. -/
  | homeData
  /-- OWNER_FWD, R232. An owner receiving a FWD gives up the line once R232 allows, answers an early read at once, or drops a stale FWD. -/
  | ownerFwd
  /-- BANK_HOLD_END, R218. The 350 ns bank hold ends, and waiting requests proceed. -/
  | bankHoldEnd
  /-- CACHE_WRITEBACK, R223. A cache writes back a line, and a sector merge that finds poison or a tag failure posts an event. -/
  | cacheWriteback
  /-- REGISTER_WRITE, R9. A host write of a register without behaviour of its own stores its fields, or is discarded whole for a reserved value. -/
  | registerWrite
  /-- DESTINATION_UNIT_WRITTEN, R198. The tile-walk engine writes an aligned 128-byte destination unit of a running copy, which joins the global order and adds its arriving bytes to the completion gauge (a wake event), or for CPYQ lands a slot and advances TAIL. -/
  | destinationUnitWritten
  /-- MGMT_CORE_RETURN, R28. A management core whose firmware update has finished returns to service, after which the other core may be updated. -/
  | mgmtCoreReturn
  /-- MAIN_POWER_OFF, R69. Main power is removed while the auxiliary input stays on, so the compute dies, hubs and boot state go down and the always-on domain keeps the LPDDR-6 contents and keys. -/
  | mainPowerOff
  /-- REMOTE_ANSWER_ARRIVE, R299. The answer to a command-sequencer operation from memory, the dependence table or a hub arrives, and the stream, held in RUN, issues its next bundle. -/
  | remoteAnswerArrive
  deriving DecidableEq, Repr

end Sys2Proof
end

