-- ==== Sys2Proof/WellFormed.lean ====
section
/-! DEFINITION. Which instructions the sealer accepts (spec/12_encoding.md R271 to R289,
spec/15_isa_matrix_copy.md R389, R391): the limits on single fields, one named check per refusal, and
what each op takes from a prefix. Limits that concern several words are in Decode and Machine/Seal. -/

namespace Sys2Proof

/-- The sealer's refusals (R288), and the two words that start no instruction. -/
inductive Reject where
  | orphanPrefix | packetCross | slotOversubscribed | reservedClass | reservedOp | nonzeroMbz
  | tailWithoutHead | headWithoutTail | xferNotLast | badFill | formatReserved | roundingReserved
  | jigInvalid | imageHash | guardInvalid | sealRange
  /-- a fill word, which belongs to no bundle (R269) -/
  | fillWord
  /-- there is no word to decode -/
  | noWord
  deriving DecidableEq, Repr

/-- The refusal's code (R288). -/
def Reject.code : Reject → Nat
  | .orphanPrefix => 0x01 | .packetCross => 0x02 | .slotOversubscribed => 0x03
  | .reservedClass => 0x04 | .reservedOp => 0x05 | .nonzeroMbz => 0x06
  | .tailWithoutHead => 0x07 | .headWithoutTail => 0x08 | .xferNotLast => 0x09
  | .badFill => 0x0A | .formatReserved => 0x0B | .roundingReserved => 0x0C
  | .jigInvalid => 0x0D | .imageHash => 0x0E | .guardInvalid => 0x0F | .sealRange => 0x10
  | .fillWord => 0 | .noWord => 0

/-- The place of a refusal in the order of R289; the lower is reported. -/
def Reject.rank : Reject → Nat
  | .sealRange => 1 | .badFill => 2 | .tailWithoutHead => 3 | .headWithoutTail => 4
  | .packetCross => 5 | .reservedClass => 6 | .reservedOp => 7 | .guardInvalid => 8
  | .formatReserved => 9 | .roundingReserved => 10 | .nonzeroMbz => 11 | .orphanPrefix => 12
  | .xferNotLast => 13 | .slotOversubscribed => 14 | .jigInvalid => 15 | .imageHash => 16
  | .fillWord => 17 | .noWord => 18

/-- Formats of class A (R339). -/
def fmtA : List Nat := [0, 1, 2, 3, 4, 5, 6, 7, 8]
/-- Formats of class I (R339). -/
def fmtI : List Nat := [0, 1, 2, 3, 4, 5]
/-- Formats of class F (R339), and of the scalar floating-point ops (R306). -/
def fmtF : List Nat := [6, 7, 8]
/-- Formats of VDOT4 (R348). -/
def fmtDot : List Nat := [0, 1, 9, 10]
/-- Formats of a stream or weight tile (R189). -/
def fmtTile : List Nat := [0, 1, 2, 3, 7, 8, 9, 10, 11]

/-- The width in bits of a format (R249). -/
def fmtWidth : Nat → Nat
  | 0 => 8 | 1 => 8 | 2 => 16 | 3 => 16 | 4 => 32 | 5 => 32 | 6 => 32 | 7 => 16 | 8 => 16
  | 9 => 8 | 10 => 8 | 11 => 4 | 12 => 64 | _ => 0

/-- The parts that VCVT allows for two widths (R350). -/
def vcvtParts (sf df : Nat) : Nat :=
  let s := fmtWidth sf; let d := fmtWidth df
  if s = d then 1 else if s + d = 48 then 2 else 4

/-- A field value that is a reserved encoding of the op (R310, R318, R329, R331, R350, R391). -/
def Instr.fieldReserved : Instr → Bool
  | .ldl _ _ _ _ w _ _ => w == 7#3
  | .fence _ c => c.toNat ≥ 5
  | .pinw _ _ a _ => a == 31#5
  | .unpinw _ _ a => a == 31#5
  | .dirtyh _ _ a _ => a == 31#5
  | .vcvt _ _ _ _ sf df _ _ n =>
    sf.toNat ≤ 10 && df.toNat ≤ 10 && decide (vcvtParts sf.toNat df.toNat ≤ n.toNat)
  | .cpym _ _ _ _ _ _ _ m => m == 0#8
  | .cpf _ _ _ _ _ _ q => q == 3#2
  | _ => false

/-- A format field the op does not accept (R249, R308, R350, R352, R391). -/
def Instr.formatReserved : Instr → Bool
  | .fcvt _ _ _ sf df _ _ => sf.toNat == 11 || sf.toNat > 12 || df.toNat == 11 || df.toNat > 12
  | .vcvt _ _ _ _ sf df _ _ _ => sf.toNat > 10 || df.toNat > 10
  | .vdqnt _ _ _ _ _ df => !fmtF.contains df.toNat
  | .cpya _ _ _ _ _ _ _ t => !List.contains [4, 5, 6, 7, 8] t.toNat
  | _ => false

/-- A reserved rounding or saturation code (R256, R258). -/
def Instr.roundingReserved : Instr → Bool
  | .fcvt _ _ _ _ _ r t => r == 7#3 || t == 3#2
  | .vcvt _ _ _ _ _ _ r t _ => r == 7#3 || t == 3#2
  | .vqnt _ _ _ _ _ _ r _ => r == 7#3
  | .mod r t _ _ _ => r == 7#3 || t == 3#2
  | _ => false

/-- A field that another field's value makes MBZ (R312, R351, R391). -/
def Instr.mbzNonzero : Instr → Bool
  | .amadd _ d _ _ n _ | .ammin _ d _ _ n _ | .amminn _ d _ _ n _ | .ammax _ d _ _ n _ | .ammaxn _ d _ _ n _
  | .amand _ d _ _ n _ | .amor _ d _ _ n _ | .amxor _ d _ _ n _ | .amswp _ d _ _ n _ => n == 1#1 && d != 0#5
  | .vqnt _ _ _ _ ty au _ _ => au == 1#1 && ty != 0#2
  | .cph _ _ _ _ _ _ _ _ tgt port rs => tgt == 0#1 && (port != 0#3 || rs != 0#3)
  | _ => false

/-- A micro-word refused for its own fields (R389). -/
def Instr.jigReserved : Instr → Bool
  | .jLdw _ f => !fmtTile.contains f.toNat
  | .jStrm _ f _ r o e m =>
    !fmtTile.contains f.toNat || decide (256 < 8 * o.toNat + r.toNat + 1) || (e == 0#1 && m != 0#3)
  | .jBias e p => e == 0#1 && p != 0#3
  | .jRetire _ f _ r t o n =>
    decide (10 < f.toNat) || r == 7#3 || t == 3#2 || decide (256 < 8 * o.toNat + n.toNat + 1)
  | _ => false

/-- The first check of R289's order that an instruction's own fields fail. -/
def Instr.check (i : Instr) : Option Reject :=
  if i.fieldReserved then some .reservedOp
  else if i.formatReserved then some .formatReserved
  else if i.roundingReserved then some .roundingReserved
  else if i.mbzNonzero then some .nonzeroMbz
  else if i.jigReserved then some .jigInvalid
  else none

/-- Every field of the instruction is one the sealer accepts. -/
abbrev Instr.WellFormed (i : Instr) : Prop := i.check = none

/-- The MOD fields an op takes (R275): rounding, saturation, hint, the formats it accepts (none when
it takes no FMT), mask-high. -/
structure ModTaken where
  rnd : Bool
  sat : Bool
  hint : Bool
  fmt : List Nat
  mh : Bool
  deriving DecidableEq, Repr

/-- What an op takes from a MOD; none when it accepts no MOD (chapters 13 to 15, R275). -/
def Instr.modTaken : Instr → Option ModTaken
  | .add .. | .sub .. | .mul .. | .madd .. | .addi .. => some ⟨false, true, false, [], false⟩
  | .fadd .. | .fsub .. | .fmul .. | .ffma .. => some ⟨true, true, false, fmtF, false⟩
  | .fmin .. | .fmax .. | .fcmpeq .. | .fcmplt .. | .fcmple .. | .fclass .. => some ⟨false, false, false, fmtF, false⟩
  | .ldb .. | .ldbs .. | .ldh .. | .ldhs .. | .ldw .. | .ldws .. | .ldd .. | .stb .. | .sth .. | .stw .. | .std .. | .pfl .. | .vld .. | .vst .. => some ⟨false, false, true, [], false⟩
  | .vadd .. | .vsub .. | .vmul .. | .vfma .. | .vfms .. | .vaddx .. | .vmulx .. | .vfmax .. | .vredadd .. | .vredmax .. | .vredmin .. | .vscanadd .. => some ⟨true, true, false, fmtA, true⟩
  | .vmin .. | .vmax .. | .vcmpeq .. | .vcmplt .. | .vcmple .. | .vcmpne .. => some ⟨false, false, false, fmtA, true⟩
  | .vabs .. | .vneg .. => some ⟨false, true, false, fmtA, true⟩
  | .vand .. | .vor .. | .vxor .. | .vsel .. | .vcvt .. | .vldq .. | .vstq .. | .vmov .. | .vbcx .. | .vperm .. | .vslide .. | .vzip .. | .vunzip .. | .viota .. | .vcompress .. | .vexpand .. => some ⟨false, false, false, [], true⟩
  | .vshl .. | .vshr .. | .vsha .. | .vmulh .. => some ⟨false, false, false, fmtI, true⟩
  | .vrndi .. => some ⟨true, false, false, fmtF, true⟩
  | .vclass .. | .vqnt .. => some ⟨false, false, false, fmtF, true⟩
  | .vexp2 .. | .vlog2 .. | .vrcp .. | .vrsqrt .. | .vtanh .. => some ⟨true, true, false, fmtF, true⟩
  | .vdot4 .. => some ⟨true, true, false, fmtDot, true⟩
  | .vdqnt .. => some ⟨true, true, false, [], true⟩
  | .vlds .. | .vsts .. | .vgath .. | .vscat .. => some ⟨false, false, true, [], true⟩
  | .vamadd .. | .vammin .. => some ⟨false, false, false, [4, 5, 6], true⟩
  | _ => none

/-- The ops an IMM applies to (R271, R276). -/
def Instr.takesImm : Instr → Bool
  | .addi .. | .andi .. | .ori .. | .xori .. | .shli .. | .shri .. | .shai .. | .cmpeqi .. | .cmplti .. | .cmpgti .. | .ldb .. | .ldbs .. | .ldh .. | .ldhs .. | .ldw .. | .ldws .. | .ldd .. | .stb .. | .sth .. | .stw .. | .std .. | .vld .. | .vst .. | .trap .. | .brk .. | .movi .. | .tprep .. | .tprepx .. | .movl .. | .ldl .. | .vlds .. | .vsts .. => true
  | _ => false

/-- A MOD before an op: FORMAT_RESERVED for a format the op does not accept (R249), NONZERO_MBZ for a
field it does not take (R275), an orphan where the op accepts no MOD (R278), in the order of R289. -/
def Instr.modRefused (i : Instr) (r : BitVec 3) (t h : BitVec 2) (f : BitVec 4) (m : BitVec 1) :
    Option Reject :=
  match i.modTaken with
  | none =>
    if r != 0#3 || t != 0#2 || h != 0#2 || f != 0#4 || m != 0#1 then some .nonzeroMbz else some .orphanPrefix
  | some k =>
    if !k.fmt.isEmpty && !k.fmt.contains f.toNat then some .formatReserved
    else if (!k.rnd && r != 0#3) || (!k.sat && t != 0#2) || (!k.hint && h != 0#2)
        || (k.fmt.isEmpty && f != 0#4) || (!k.mh && m != 0#1) then some .nonzeroMbz
    else none

end Sys2Proof
end

