-- ==== Sys2Proof/Machine/Flags.lean ====
section
/-! DEFINITION. Number formats, rounding, saturation and the flags they set
(spec/11_formats.md R249 to R263). A value is exact: a sign, a natural magnitude and a power of two. -/

namespace Sys2Proof.Machine

open Sys2Proof.Bits

/-- The FFLAGS bits (R182). -/
def flNX : BitVec 6 := 0x01#6
/-- Underflow (R182). -/
def flUF : BitVec 6 := 0x02#6
/-- Overflow (R182). -/
def flOF : BitVec 6 := 0x04#6
/-- Divide by zero (R182). -/
def flDZ : BitVec 6 := 0x08#6
/-- Invalid (R182). -/
def flNV : BitVec 6 := 0x10#6
/-- Saturated (R182). -/
def flSAT : BitVec 6 := 0x20#6

/-- A flag that is set when a condition holds. -/
def flagIf (c : Bool) (f : BitVec 6) : BitVec 6 := if c then f else 0#6

/-- A value read in a format: a NaN (signalling or quiet), an infinity, or ±m × 2^e (R250, R251). -/
inductive FVal where
  | nan (signalling : Bool)
  | inf (neg : Bool)
  | fin (neg : Bool) (m : Nat) (e : Int)
  deriving DecidableEq, Repr

/-- The layout of a floating-point format (R250): width, exponent bits, fraction bits, bias. -/
structure FloatFmt where
  w : Nat
  eb : Nat
  fb : Nat
  bias : Nat
  deriving DecidableEq, Repr

/-- The floating-point formats (R249, R250). -/
def floatFmt : Nat → Option FloatFmt
  | 6 => some ⟨32, 8, 23, 127⟩
  | 7 => some ⟨16, 8, 7, 127⟩
  | 8 => some ⟨16, 5, 10, 15⟩
  | 9 => some ⟨8, 4, 3, 7⟩
  | 10 => some ⟨8, 5, 2, 15⟩
  | _ => none

/-- The format is floating-point. -/
def isFloat (f : Nat) : Bool := (floatFmt f).isSome

/-- The format is a signed integer (R249). -/
def isSigned (f : Nat) : Bool := f == 0 || f == 2 || f == 4 || f == 12

/-- The least and greatest values of an integer format (R249). -/
def intRange (f : Nat) : Int × Int :=
  let w := fmtWidth f
  if isSigned f then (-(2 ^ (w - 1) : Nat), (2 ^ (w - 1) : Nat) - 1) else (0, (2 ^ w : Nat) - 1)

/-- An integer element read from its bits. -/
def intOf (f : Nat) (bits : Nat) : Int :=
  if isSigned f then sextN bits (fmtWidth f) else ((bits % 2 ^ fmtWidth f : Nat) : Int)

/-- The canonical NaN of a format (R261). -/
def canonNaN : Nat → Nat
  | 6 => 0x7FC00000 | 7 => 0x7FC0 | 8 => 0x7E00 | 9 => 0x7F | 10 => 0x7E | _ => 0

/-- The exact magnitude of the largest finite value, as m × 2^e (R249). -/
def maxFinite (f : FloatFmt) : Nat × Int :=
  if f.w = 8 ∧ f.eb = 4 then (14, 5)
  else (2 ^ (f.fb + 1) - 1, (2 ^ f.eb - 2 - f.bias - f.fb : Int))

/-- The bits of ±(the largest finite value). -/
def maxBits (f : FloatFmt) (neg : Bool) : Nat :=
  boolN neg * 2 ^ (f.w - 1) +
    (if f.w = 8 ∧ f.eb = 4 then 0x7E else (2 ^ f.eb - 2) * 2 ^ f.fb + (2 ^ f.fb - 1))

/-- The bits of ±∞, or e4m3's NaN, which stands for it (R259). -/
def infBits (f : FloatFmt) (neg : Bool) : Nat :=
  if f.w = 8 ∧ f.eb = 4 then 0x7F
  else boolN neg * 2 ^ (f.w - 1) + (2 ^ f.eb - 1) * 2 ^ f.fb

/-- Reads a floating-point value (R250, R251). -/
def readFloat (f : FloatFmt) (bits : Nat) : FVal :=
  let neg := bit bits (f.w - 1)
  let ef := fieldN bits f.fb f.eb
  let fr := fieldN bits 0 f.fb
  if ef = 2 ^ f.eb - 1 ∧ f.w = 8 ∧ f.eb = 4 ∧ fr = 7 then .nan false
  else if ef = 2 ^ f.eb - 1 ∧ ¬ (f.w = 8 ∧ f.eb = 4) then
    if fr = 0 then .inf neg else .nan (!(bit fr (f.fb - 1)))
  else if ef = 0 then .fin neg fr (1 - f.bias - f.fb)
  else .fin neg (fr + 2 ^ f.fb) (ef - f.bias - f.fb)

/-- Reads an element of any format but q4. -/
def readElem (f : Nat) (bits : Nat) : FVal :=
  match floatFmt f with
  | some ff => readFloat ff bits
  | none => let v := intOf f bits; .fin (decide (v < 0)) v.natAbs 0

/-- The value is a NaN. -/
def FVal.isNaN : FVal → Bool
  | .nan _ => true
  | _ => false
/-- The value is a signalling NaN. -/
def FVal.isSNaN : FVal → Bool
  | .nan s => s
  | _ => false
/-- The value is zero. -/
def FVal.isZero : FVal → Bool
  | .fin _ m _ => m == 0
  | _ => false
/-- The sign. -/
def FVal.neg? : FVal → Bool
  | .nan _ => false
  | .inf n => n
  | .fin n _ _ => n
/-- The value with its sign inverted. -/
def FVal.negate : FVal → FVal
  | .nan s => .nan s
  | .inf n => .inf (!n)
  | .fin n m e => .fin (!n) m e

/-- One step of the stochastic-rounding LFSR (R257). -/
def lfsrStep (s : W32) : W32 :=
  let f := s.getLsbD 31 ^^ s.getLsbD 21 ^^ s.getLsbD 1 ^^ s.getLsbD 0
  (s <<< 1) ||| (BitVec.ofBool f).setWidth 32

/-- `n` steps of the LFSR. -/
def lfsrSteps : Nat → W32 → W32
  | 0, s => s
  | n + 1, s => lfsrSteps n (lfsrStep s)

/-- Whether a magnitude a + r / 2^k (0 < r < 2^k, or more when `sticky`) goes up to a + 1 under a
rounding mode (R256, R257); `sr` is the LFSR's low half. -/
def roundsUp (mode : Nat) (sr : Nat) (neg : Bool) (a r k : Nat) (sticky : Bool) : Bool :=
  let half := 2 ^ (k - 1)
  match mode with
  | 0 => decide (half < r) || (r == half && (sticky || a % 2 == 1))
  | 1 => false
  | 2 => neg
  | 3 => !neg
  | 4 => decide (half ≤ r)
  | 5 => decide (2 ^ 16 ≤ r * 2 ^ 16 / 2 ^ k + sr)
  | _ => false

/-- Rounds m × 2^e (strictly between it and the next when `sticky`) to a multiple of 2^q: the
multiple, whether it differs from the exact value, and whether it went up (R256). -/
def roundAt (mode sr : Nat) (neg : Bool) (m : Nat) (e q : Int) (sticky : Bool) : Nat × Bool × Bool :=
  if q ≤ e ∧ ¬ sticky then (m * 2 ^ (e - q).toNat, false, false)
  else
    -- two more bits, so that a sticky remainder is never empty or a tie
    let m4 := 4 * m + boolN sticky
    let k := (q - (e - 2)).toNat
    let a := m4 / 2 ^ k
    let r := m4 % 2 ^ k
    if r = 0 then (a, false, false)
    else
      let up := roundsUp mode sr neg a r k sticky
      (a + boolN up, true, up)

/-- What an op's mode settings are: the rounding mode, the saturation code, the LFSR's low half. -/
structure RoundCtl where
  mode : Nat
  sat : Nat
  sr : Nat
  deriving DecidableEq, Repr

/-- round then sat of R12 into a floating-point format, for a finite nonzero or zero value (R256,
R259, R260): the bits and the flags. -/
def packFloat (f : FloatFmt) (c : RoundCtl) (neg : Bool) (m : Nat) (e : Int) (sticky : Bool) :
    Nat × BitVec 6 :=
  let sign := boolN neg * 2 ^ (f.w - 1)
  if m = 0 ∧ ¬ sticky then (sign, 0#6)
  else
    let emin : Int := 1 - f.bias
    let top : Int := (log2 (max m 1) : Int) + e
    let q : Int := max top emin - f.fb
    let (a, inexact, up) := roundAt c.mode c.sr neg m e q sticky
    -- a carry to the next power of two keeps the value
    let (a, q) := if a = 2 ^ (f.fb + 1) then (2 ^ f.fb, q + 1) else (a, q)
    let (mm, me) := maxFinite f
    let beyond : Bool := if q ≥ me then decide (mm < a * 2 ^ (q - me).toNat)
      else decide (mm * 2 ^ (me - q).toNat < a)
    if beyond then
      let fl := flOF ||| flNX
      if c.sat = 1 then (maxBits f neg, fl ||| flSAT)
      else if c.sat = 2 then (if neg then 0 else maxBits f false, fl ||| flSAT)
      else
        let toInf : Bool := match c.mode with
          | 1 => false
          | 2 => neg
          | 3 => !neg
          | 5 => up
          | _ => true
        (if toInf then infBits f neg else maxBits f neg, fl)
    else
      -- tininess after rounding with unbounded exponent
      let qu : Int := top - f.fb
      let (au, _, _) := roundAt c.mode c.sr neg m e qu sticky
      let tiny : Bool := decide (top < emin) &&
        !(au == 2 ^ (f.fb + 1) && decide (top + 1 ≥ emin))
      let fl := flagIf inexact flNX ||| flagIf (inexact && tiny) flUF
      if c.sat = 2 ∧ neg ∧ a ≠ 0 then (0, fl ||| flSAT ||| flNX)
      else if a < 2 ^ f.fb then (sign + a, fl)
      else (sign + (q + f.fb + f.bias).toNat * 2 ^ f.fb + (a - 2 ^ f.fb), fl)

/-- An infinite result in a floating-point format (R259, R260). -/
def packInf (f : FloatFmt) (sat : Nat) (neg : Bool) : Nat × BitVec 6 :=
  if sat = 1 then (maxBits f neg, flSAT ||| flNX)
  else if sat = 2 then (if neg then 0 else maxBits f false, flSAT ||| flNX)
  else (infBits f neg, flagIf (f.w == 8 && f.eb == 4) flNV)

/-- Fits an exact integer into an integer format named by the op (R252, R259): the bits, and whether
a clamp changed it. -/
def fitInt (f : Nat) (sat : Nat) (v : Int) : Nat × Bool :=
  let (lo, hi) := intRange f
  if sat = 0 then (wrapN v (fmtWidth f), false)
  else
    let u := max lo (min hi v)
    (wrapN u (fmtWidth f), u != v)

/-- Any value into any format but q4 (R263): the bits and the flags; `fromInt` marks an integer
source. -/
def convertVal (df : Nat) (c : RoundCtl) (fromInt : Bool) (v : FVal) : Nat × BitVec 6 :=
  match floatFmt df with
  | some f =>
    match v with
    | .nan s => (canonNaN df, flagIf s flNV)
    | .inf n => packInf f c.sat n
    | .fin n m e => packFloat f c n m e false
  | none =>
    match v with
    | .nan _ => (0, flNV)
    | .inf n =>
      if c.sat = 0 then (0, flNV)
      else
        let (lo, hi) := intRange df
        (wrapN (if n then lo else hi) (fmtWidth df), flNV ||| flSAT ||| flNX)
    | .fin n m e =>
      let (a, inexact, _) := roundAt c.mode c.sr n m e 0 false
      let x : Int := if n then -(a : Int) else a
      let (bits, clamped) := fitInt df c.sat x
      let (lo, hi) := intRange df
      let out : Bool := decide (x < lo) || decide (hi < x)
      (bits, flagIf clamped flSAT ||| flagIf (!fromInt && (inexact || out)) flNX)

/-- FCVT and VCVT of one element (R263). -/
def convert (sf df : Nat) (c : RoundCtl) (bits : Nat) : Nat × BitVec 6 :=
  convertVal df c (!isFloat sf) (readElem sf bits)

/-- An exact sum ±m×2^e of two finite values. -/
def addFin (n1 : Bool) (m1 : Nat) (e1 : Int) (n2 : Bool) (m2 : Nat) (e2 : Int) : Bool × Nat × Int :=
  let e := min e1 e2
  let a : Int := (m1 * 2 ^ (e1 - e).toNat : Nat)
  let b : Int := (m2 * 2 ^ (e2 - e).toNat : Nat)
  let t := (if n1 then -a else a) + (if n2 then -b else b)
  (decide (t < 0), t.natAbs, e)

/-- An exact sum, with the zero rule of R251 under a rounding mode; none for ∞ - ∞. NaNs are the
caller's. -/
def addVal (mode : Nat) : FVal → FVal → Option FVal
  | .inf a, .inf b => if a = b then some (.inf a) else none
  | .inf a, _ => some (.inf a)
  | _, .inf b => some (.inf b)
  | .fin n1 m1 e1, .fin n2 m2 e2 =>
    let (n, m, e) := addFin n1 m1 e1 n2 m2 e2
    if m = 0 then
      some (.fin (if m1 = 0 ∧ m2 = 0 ∧ n1 = n2 then n1 else mode == 2) 0 0)
    else some (.fin n m e)
  | a, _ => some a

/-- An exact product; none for 0 × ∞. NaNs are the caller's. -/
def mulVal : FVal → FVal → Option FVal
  | .inf a, .inf b => some (.inf (a != b))
  | .inf a, .fin n m _ => if m = 0 then none else some (.inf (a != n))
  | .fin n m _, .inf b => if m = 0 then none else some (.inf (n != b))
  | .fin n1 m1 e1, .fin n2 m2 e2 => some (.fin (n1 != n2) (m1 * m2) (e1 + e2))
  | a, _ => some a

/-- A NaN result of arithmetic: the canonical NaN (R261). -/
def nanResult (f : Nat) (nv : Bool) : Nat × BitVec 6 := (canonNaN f, flagIf nv flNV)

/-- An exact value rounded into a floating-point format; none is an invalid operation (R260). -/
def packOpt (f : Nat) (c : RoundCtl) : Option FVal → Nat × BitVec 6
  | none => nanResult f true
  | some v => convertVal f c false v

/-- a + b, rounded once (R306, R343). -/
def fAdd (f : Nat) (c : RoundCtl) (a b : Nat) : Nat × BitVec 6 :=
  let x := readElem f a; let y := readElem f b
  if x.isNaN || y.isNaN then nanResult f (x.isSNaN || y.isSNaN)
  else packOpt f c (addVal c.mode x y)

/-- a - b, rounded once. -/
def fSub (f : Nat) (c : RoundCtl) (a b : Nat) : Nat × BitVec 6 :=
  let x := readElem f a; let y := readElem f b
  if x.isNaN || y.isNaN then nanResult f (x.isSNaN || y.isSNaN)
  else packOpt f c (addVal c.mode x y.negate)

/-- a × b, rounded once. -/
def fMul (f : Nat) (c : RoundCtl) (a b : Nat) : Nat × BitVec 6 :=
  let x := readElem f a; let y := readElem f b
  if x.isNaN || y.isNaN then nanResult f (x.isSNaN || y.isSNaN)
  else packOpt f c (mulVal x y)

/-- d + a × b, or d - a × b, rounded once; 0 × ∞ is invalid whatever the addend (R260). -/
def fFma (f : Nat) (c : RoundCtl) (sub : Bool) (d a b : Nat) : Nat × BitVec 6 :=
  let x := readElem f a; let y := readElem f b; let z := readElem f d
  let snan := x.isSNaN || y.isSNaN || z.isSNaN
  if x.isNaN || y.isNaN then nanResult f snan
  else match mulVal x y with
    | none => nanResult f true
    | some p =>
      if z.isNaN then nanResult f snan
      else packOpt f c (addVal c.mode z (if sub then p.negate else p))

/-- The order of two values that are not NaNs, as an exact comparison a < b; zeros are equal. -/
def ltVal : FVal → FVal → Bool
  | .inf a, .inf b => a && !b
  | .inf a, _ => a
  | _, .inf b => !b
  | .fin n1 m1 e1, .fin n2 m2 e2 =>
    let (n, m, _) := addFin n1 m1 e1 (!n2) m2 e2
    n && m != 0
  | _, _ => false

/-- Equality of two values that are not NaNs; +0 equals -0 (R262). -/
def eqVal (a b : FVal) : Bool := !a.isNaN && !b.isNaN && !ltVal a b && !ltVal b a

/-- a < b for minimum and maximum, where -0 is below +0 (R262). -/
def belowVal (a b : FVal) : Bool := ltVal a b || (a.isZero && b.isZero && a.neg? && !b.neg?)

/-- Minimum or maximum of two elements (R262): one operand's bits or the canonical NaN, and NV for a
signalling operand. -/
def fMinMax (f : Nat) (isMax : Bool) (a b : Nat) : Nat × BitVec 6 :=
  let x := readElem f a; let y := readElem f b
  let fl := flagIf (x.isSNaN || y.isSNaN) flNV
  let r :=
    if x.isNaN && y.isNaN then canonNaN f
    else if x.isNaN then b
    else if y.isNaN then a
    else if isMax then (if belowVal x y then b else a)
    else (if belowVal y x then b else a)
  (r % 2 ^ fmtWidth f, fl)

/-- The relations of the compares. -/
inductive Rel where
  | eq | ne | lt | le
  deriving DecidableEq, Repr

/-- A compare of two elements of a format (R262, R304, R346): the truth value and NV. -/
def compareElem (f : Nat) (rel : Rel) (a b : Nat) : Bool × BitVec 6 :=
  let x := readElem f a; let y := readElem f b
  if x.isNaN || y.isNaN then
    match rel with
    | .eq => (false, flagIf (x.isSNaN || y.isSNaN) flNV)
    | .ne => (true, flagIf (x.isSNaN || y.isSNaN) flNV)
    | .lt => (false, flNV)
    | .le => (false, flNV)
  else match rel with
    | .eq => (eqVal x y, 0#6)
    | .ne => (!eqVal x y, 0#6)
    | .lt => (ltVal x y, 0#6)
    | .le => (!ltVal y x, 0#6)

/-- The class mask of R307. -/
def classMask (f : Nat) (bits : Nat) : Nat :=
  match readElem f bits with
  | .nan s => if s then 2 ^ 8 else 2 ^ 9
  | .inf n => if n then 1 else 2 ^ 7
  | .fin n m _ =>
    let fb := match floatFmt f with
      | some ff => ff.fb
      | none => 0
    if m = 0 then (if n then 2 ^ 3 else 2 ^ 4)
    else if m < 2 ^ fb then (if n then 2 ^ 2 else 2 ^ 5)
    else (if n then 2 else 2 ^ 6)

/-- The result of an integer op whose width alone is fixed (R259, R300): a wrap under 00, a clamp to
the signed or the unsigned range of 64 bits otherwise. -/
def fit64 (sat : Nat) (v : Int) : W64 × BitVec 6 :=
  if sat = 1 then
    let u := max (-(2 ^ 63 : Int)) (min (2 ^ 63 - 1) v)
    (BitVec.ofInt 64 u, flagIf (u != v) flSAT)
  else if sat = 2 then
    let u := max 0 (min (2 ^ 64 - 1) v)
    (BitVec.ofInt 64 u, flagIf (u != v) flSAT)
  else (BitVec.ofInt 64 v, 0#6)

end Sys2Proof.Machine
end

