-- ==== Sys2Proof/Config.lean ====
section
/-! DEFINITION. What an implementation fixes, and the free values: opaque constants that nothing in
Lean can evaluate (log entries 7, 12 to 15, 17, 30, 38, 83, 91). A field of State counts the free values drawn. -/

namespace Sys2Proof.Config

/-- A 64-bit value the spec leaves open, by the number of the draw. -/
opaque free64 : Nat → W64
/-- A byte the spec leaves open. -/
opaque freeByte : Nat → Byte
/-- A truth value the spec leaves open. -/
opaque freeBool : Nat → Bool
/-- A natural number the spec leaves open. -/
opaque freeNat : Nat → Nat
/-- The length of a read lease (R227: not architectural), by the number of the grant. -/
opaque lease : Nat → Nat
/-- Whether a translation still uses a TLB entry whose page-table entry has changed (R204). -/
opaque staleTlb : Nat → Bool
/-- The bank of a stack that holds a byte offset (R217: the mapping is not given). -/
opaque bankOf : Nat → Nat
/-- The row within its bank that holds a byte offset of a stack (R217). -/
opaque rowOf : Nat → Nat
/-- The number of rows of a bank (R218: not given). -/
opaque rowCount : Nat
/-- Whether the base die keeps a row open after an access (R217: not architectural). -/
opaque keepsOpen : Nat → Bool
/-- A transcendental result that the refinement of Machine/Special did not decide: function, format,
mode, saturation, LFSR half and operand bits (log entry 13). -/
opaque transcendental : Nat → Nat → Nat → Nat → Nat → Nat → Nat
/-- The identity public key of 64 bytes (R72, R154). -/
opaque identityBits : BitVec 512
/-- The signature of `n` bytes that the holder of a public key makes over a message (FIPS 205; log entry 12). -/
opaque slhDsa (n : Nat) (key msg : List Byte) : BitVec (8 * n)
/-- The hub whose channels hold a 512-byte sector of the LPDDR-6 tier: H1 if true (not given). -/
opaque lpddrHub : Nat → Bool
/-- The router of a die by which a line homed on its stack is reached (R44: not given). -/
opaque homeRouter : Nat → Nat
/-- The edge router at which a compute die receives traffic from another place, by the die and the place (R44: not
given). -/
opaque edgeRouter : Nat → Nat → Nat
/-- How many more credits than one a receiver gives the transmitter of a link's direction, by the channel (R35: not
given). -/
opaque linkCredits : Nat → Nat
/-- The vendor public key of 64 bytes (R69, R70). -/
opaque vendorBits : BitVec 512
/-- The lowest security version that the firmware image states for a record kind (R70). -/
opaque minVersion : Nat → BitVec 32
/-- A value that the body of a configuration record gives, by its number (R70 gives no body layout). -/
opaque recordField : List Byte → Nat → Nat
/-- The static draw of a compute die in W, from its calibration record (R123). -/
opaque dieStatic : Nat → Nat

/-- The bytes of a value, the lowest first. -/
def bytesOf {w : Nat} (n : Nat) (v : BitVec w) : List Byte := (List.range n).map (fun i => v.extractLsb' (8 * i) 8)
/-- The identity public key (R72, R154). -/
def identityKey : List Byte := bytesOf 64 identityBits
/-- The vendor public key (R69, R70). -/
def vendorKey : List Byte := bytesOf 64 vendorBits
/-- A public key's signature of `n` bytes over a message. -/
def signature (n : Nat) (key msg : List Byte) : List Byte := bytesOf n (slhDsa n key msg)
/-- The SLH-DSA-SHA2-256s signature of a message under the identity key: 29,792 bytes (R72, R154). -/
def sign (msg : List Byte) : List Byte := signature 29792 identityKey msg
/-- SLH-DSA verification of a signature of `n` bytes: public key, message, signature (R114, R115, R166). What passes is
the signature that the key's holder makes (DESIGN CHOICE, log entry 12). -/
def verify (n : Nat) (key msg sig : List Byte) : Bool := sig == signature n key msg

end Sys2Proof.Config
end

