-- ==== Sys2Proof/Decode.lean ====
section
/-! DEFINITION. The decoder, total on any words and rejecting by name, the framing of bundles, and the
encoder, both written from the encoding tables of spec/12_encoding.md (R268 to R286),
spec/15_isa_matrix_copy.md (R364, R377, R391) and the op entries of chapters 13 to 15. -/

namespace Sys2Proof

open Sys2Proof.Bits

/-- The class CL of an op (R280); 8 for MOD and IMM, 9 for XFER, 10 for a micro-word, 11 for a step
of the device. -/
def Instr.cls : Instr → Nat
  | .nop .. => 0
  | .add .. => 0
  | .sub .. => 0
  | .addi .. => 0
  | .mul .. => 0
  | .mulh .. => 0
  | .mulhn .. => 0
  | .madd .. => 0
  | .div .. => 0
  | .divn .. => 0
  | .rem .. => 0
  | .remn .. => 0
  | .andR .. => 0
  | .orR .. => 0
  | .xorR .. => 0
  | .andi .. => 0
  | .ori .. => 0
  | .xori .. => 0
  | .shl .. => 0
  | .shr .. => 0
  | .sha .. => 0
  | .shli .. => 0
  | .shri .. => 0
  | .shai .. => 0
  | .minS .. => 0
  | .maxS .. => 0
  | .minn .. => 0
  | .maxn .. => 0
  | .clz .. => 0
  | .popc .. => 0
  | .mov .. => 0
  | .movi .. => 0
  | .movl .. => 0
  | .bext .. => 0
  | .bins .. => 0
  | .cmpeq .. => 0
  | .cmpne .. => 0
  | .cmplt .. => 0
  | .cmple .. => 0
  | .cmpltn .. => 0
  | .cmplen .. => 0
  | .cmpeqi .. => 0
  | .cmplti .. => 0
  | .cmpgti .. => 0
  | .pand .. => 0
  | .por .. => 0
  | .pxor .. => 0
  | .pandn .. => 0
  | .pmovx .. => 0
  | .xmovp .. => 0
  | .fadd .. => 0
  | .fsub .. => 0
  | .fmul .. => 0
  | .ffma .. => 0
  | .fmin .. => 0
  | .fmax .. => 0
  | .fcmpeq .. => 0
  | .fcmplt .. => 0
  | .fcmple .. => 0
  | .fcvt .. => 0
  | .fclass .. => 0
  | .ldb .. => 1
  | .ldbs .. => 1
  | .ldh .. => 1
  | .ldhs .. => 1
  | .ldw .. => 1
  | .ldws .. => 1
  | .ldd .. => 1
  | .stb .. => 1
  | .sth .. => 1
  | .stw .. => 1
  | .std .. => 1
  | .ldl .. => 1
  | .amadd .. => 1
  | .ammin .. => 1
  | .amminn .. => 1
  | .ammax .. => 1
  | .ammaxn .. => 1
  | .amand .. => 1
  | .amor .. => 1
  | .amxor .. => 1
  | .amswp .. => 1
  | .amcas .. => 1
  | .ginit .. => 1
  | .gsig .. => 1
  | .gwait .. => 1
  | .gread .. => 1
  | .tkget .. => 1
  | .tkwait .. => 1
  | .tknext .. => 1
  | .fence .. => 1
  | .await .. => 1
  | .qinit .. => 1
  | .qwaitf .. => 1
  | .qwaite .. => 1
  | .qadvh .. => 1
  | .qadvt .. => 1
  | .qstat .. => 1
  | .pfl .. => 1
  | .tprep .. => 2
  | .tprepx .. => 2
  | .tread .. => 2
  | .csrr .. => 2
  | .csrw .. => 2
  | .csrs .. => 2
  | .csrc .. => 2
  | .peg => 2
  | .hwin => 2
  | .endOp => 2
  | .trap .. => 2
  | .brk .. => 2
  | .eret => 2
  | .spawn .. => 2
  | .cancelj .. => 2
  | .phase .. => 2
  | .pinw .. => 2
  | .unpinw .. => 2
  | .tlbinv .. => 2
  | .dirtyh .. => 2
  | .linkq .. => 2
  | .linkset .. => 2
  | .opreq .. => 2
  | .job .. => 2
  | .task .. => 2
  | .opt .. => 2
  | .depv .. => 2
  | .tset .. => 2
  | .launch .. => 2
  | .jwait .. => 2
  | .notify .. => 2
  | .curveq .. => 2
  | .caskout .. => 2
  | .caskin .. => 2
  | .vadd .. => 3
  | .vsub .. => 3
  | .vmul .. => 3
  | .vfma .. => 3
  | .vfms .. => 3
  | .vmin .. => 3
  | .vmax .. => 3
  | .vabs .. => 3
  | .vneg .. => 3
  | .vand .. => 3
  | .vor .. => 3
  | .vxor .. => 3
  | .vshl .. => 3
  | .vshr .. => 3
  | .vsha .. => 3
  | .vaddx .. => 3
  | .vmulx .. => 3
  | .vfmax .. => 3
  | .vcmpeq .. => 3
  | .vcmplt .. => 3
  | .vcmple .. => 3
  | .vcmpne .. => 3
  | .vsel .. => 3
  | .vcvt .. => 3
  | .vqnt .. => 3
  | .vdqnt .. => 3
  | .vexp2 .. => 3
  | .vlog2 .. => 3
  | .vrcp .. => 3
  | .vrsqrt .. => 3
  | .vtanh .. => 3
  | .vdot4 .. => 3
  | .vredadd .. => 3
  | .vredmax .. => 3
  | .vredmin .. => 3
  | .vscanadd .. => 3
  | .vclass .. => 3
  | .vmulh .. => 3
  | .vrndi .. => 3
  | .vld .. => 4
  | .vst .. => 4
  | .vlds .. => 4
  | .vsts .. => 4
  | .vgath .. => 4
  | .vscat .. => 4
  | .vldq .. => 4
  | .vstq .. => 4
  | .vbcx .. => 4
  | .vextx .. => 4
  | .vinsx .. => 4
  | .vperm .. => 4
  | .vslide .. => 4
  | .vzip .. => 4
  | .vunzip .. => 4
  | .viota .. => 4
  | .vmov .. => 4
  | .kand .. => 4
  | .kor .. => 4
  | .kxor .. => 4
  | .knot .. => 4
  | .kpopc .. => 4
  | .kfirst .. => 4
  | .kmovx .. => 4
  | .xmovk .. => 4
  | .vamadd .. => 4
  | .vammin .. => 4
  | .vcompress .. => 4
  | .vexpand .. => 4
  | .vsett .. => 4
  | .mcall .. => 5
  | .mparw .. => 5
  | .mparr .. => 5
  | .mldj .. => 5
  | .mretire .. => 5
  | .mfence .. => 5
  | .mrot .. => 5
  | .mstat .. => 5
  | .cpy .. => 6
  | .cpyt .. => 6
  | .cpyg .. => 6
  | .cpys .. => 6
  | .cpym .. => 6
  | .cpyq .. => 6
  | .cpya .. => 6
  | .cpf .. => 6
  | .cph .. => 6
  | .ccan .. => 6
  | .cpub .. => 6
  | .cqry .. => 6
  | .bdef .. => 6
  | .mod .. => 8
  | .imm .. => 8
  | .xfer .. => 9
  | .xferLink .. => 9
  | .jLdw .. => 10
  | .jSwapw => 10
  | .jSkipmap .. => 10
  | .jStrm .. => 10
  | .jAccz .. => 10
  | .jLoop .. => 10
  | .jLoopReg .. => 10
  | .jAddp .. => 10
  | .jAddpReg .. => 10
  | .jWaitq .. => 10
  | .jAdvq .. => 10
  | .jBias .. => 10
  | .jScale .. => 10
  | .jScaleVec .. => 10
  | .jRetire .. => 10
  | .jSig .. => 10
  | .jEnd => 10
  | .railsetWrite => 11
  | .railRampEnd => 11
  | .freqLockDone => 11
  | .gateHeldRelease => 11
  | .ungateComplete => 11
  | .thermalPoll => 11
  | .mgmtFirmwareUpdate => 11
  | .handover => 11
  | .hbmChannelRetire => 11
  | .linkctlGo => 11
  | .linkTrainComplete => 11
  | .routeRelease => 11
  | .flitSend => 11
  | .flitReceive => 11
  | .replayRequest => 11
  | .flitAck => 11
  | .laneRetire => 11
  | .drainMarkerAck => 11
  | .drainTimeout => 11
  | .permitGrant => 11
  | .permitAudit => 11
  | .replayWindowEnd => 11
  | .peerPortDown => 11
  | .peerstatWrite => 11
  | .peerTrainComplete => 11
  | .hostWriteTlp => 11
  | .hostRead => 11
  | .ingressStagingMove => 11
  | .ingressStall => 11
  | .pcieReset => 11
  | .pcieLinkUp => 11
  | .strmctlGo => 11
  | .strmctlHalt => 11
  | .streamRegWrite => 11
  | .nqbaseWrite => 11
  | .nqctlWrite => 11
  | .nqheadWrite => 11
  | .msixWindowClose => 11
  | .msixVectorUnmask => 11
  | .deviceStart => 11
  | .bootReady => 11
  | .auxPowerOn => 11
  | .auxPowerOff => 11
  | .sealGo => 11
  | .sealComplete => 11
  | .attestGo => 11
  | .attestDone => 11
  | .hostGroupApplied => 11
  | .dispatch => 11
  | .slabIssue => 11
  | .heartbeat => 11
  | .dieLost => 11
  | .pointFire => 11
  | .taskComplete => 11
  | .defbudgetWrite => 11
  | .curveGo => 11
  | .curveVerifyDone => 11
  | .curveInForce => 11
  | .curveExpire => 11
  | .fkeyInstall => 11
  | .fkeyLock => 11
  | .thermtabWrite => 11
  | .maltsterLoop => 11
  | .curtailmentEnd => 11
  | .bandCheck => 11
  | .parktask => 11
  | .resumetask => 11
  | .gatedie => 11
  | .ungatedie => 11
  | .draindie => 11
  | .repairdie => 11
  | .repairlink => 11
  | .pwrcmdBadCode => 11
  | .implicitPeg => 11
  | .pegStall => 11
  | .watchdogExpire => 11
  | .rotationQuantumEnd => 11
  | .bayRotateComplete => 11
  | .freezeComplete => 11
  | .loadDataArrive => 11
  | .gaugeWake => 11
  | .ticketBroadcast => 11
  | .queueWaitComplete => 11
  | .shadowLoadDone => 11
  | .jigDepthExpire => 11
  | .copyComplete => 11
  | .cancelAck => 11
  | .conflictRollback => 11
  | .tsfloorPublish => 11
  | .homeRd => 11
  | .homeEx => 11
  | .homeUp => 11
  | .homeNr => 11
  | .homeWb => 11
  | .homeData => 11
  | .ownerFwd => 11
  | .bankHoldEnd => 11
  | .cacheWriteback => 11
  | .registerWrite => 11
  | .destinationUnitWritten => 11
  | .mgmtCoreReturn => 11
  | .mainPowerOff => 11
  | .remoteAnswerArrive => 11

/-- The OP field of an op (R281 to R286), as TRAPINFO reports it for PRIVILEGE (R145). -/
def Instr.opField : Instr → Nat
  | .nop .. => 0x00
  | .add .. => 0x01
  | .sub .. => 0x02
  | .addi .. => 0x03
  | .mul .. => 0x04
  | .mulh .. => 0x05
  | .mulhn .. => 0x06
  | .madd .. => 0x07
  | .div .. => 0x08
  | .divn .. => 0x09
  | .rem .. => 0x0A
  | .remn .. => 0x0B
  | .andR .. => 0x0C
  | .orR .. => 0x0D
  | .xorR .. => 0x0E
  | .andi .. => 0x0F
  | .ori .. => 0x10
  | .xori .. => 0x11
  | .shl .. => 0x12
  | .shr .. => 0x13
  | .sha .. => 0x14
  | .shli .. => 0x15
  | .shri .. => 0x16
  | .shai .. => 0x17
  | .minS .. => 0x18
  | .maxS .. => 0x19
  | .minn .. => 0x1A
  | .maxn .. => 0x1B
  | .clz .. => 0x1C
  | .popc .. => 0x1D
  | .mov .. => 0x1E
  | .movi .. => 0x1F
  | .movl .. => 0x20
  | .bext .. => 0x21
  | .bins .. => 0x22
  | .cmpeq .. => 0x23
  | .cmpne .. => 0x24
  | .cmplt .. => 0x25
  | .cmple .. => 0x26
  | .cmpltn .. => 0x27
  | .cmplen .. => 0x28
  | .cmpeqi .. => 0x29
  | .cmplti .. => 0x2A
  | .cmpgti .. => 0x2B
  | .pand .. => 0x2C
  | .por .. => 0x2D
  | .pxor .. => 0x2E
  | .pandn .. => 0x2F
  | .pmovx .. => 0x30
  | .xmovp .. => 0x31
  | .fadd .. => 0x32
  | .fsub .. => 0x33
  | .fmul .. => 0x34
  | .ffma .. => 0x35
  | .fmin .. => 0x36
  | .fmax .. => 0x37
  | .fcmpeq .. => 0x38
  | .fcmplt .. => 0x39
  | .fcmple .. => 0x3A
  | .fcvt .. => 0x3B
  | .fclass .. => 0x3C
  | .ldb .. => 0x00
  | .ldbs .. => 0x01
  | .ldh .. => 0x02
  | .ldhs .. => 0x03
  | .ldw .. => 0x04
  | .ldws .. => 0x05
  | .ldd .. => 0x06
  | .stb .. => 0x07
  | .sth .. => 0x08
  | .stw .. => 0x09
  | .std .. => 0x0A
  | .ldl .. => 0x0B
  | .amadd .. => 0x0C
  | .ammin .. => 0x0D
  | .amminn .. => 0x0E
  | .ammax .. => 0x0F
  | .ammaxn .. => 0x10
  | .amand .. => 0x11
  | .amor .. => 0x12
  | .amxor .. => 0x13
  | .amswp .. => 0x14
  | .amcas .. => 0x15
  | .ginit .. => 0x16
  | .gsig .. => 0x17
  | .gwait .. => 0x18
  | .gread .. => 0x19
  | .tkget .. => 0x1A
  | .tkwait .. => 0x1B
  | .tknext .. => 0x1C
  | .fence .. => 0x1D
  | .await .. => 0x1E
  | .qinit .. => 0x1F
  | .qwaitf .. => 0x20
  | .qwaite .. => 0x21
  | .qadvh .. => 0x22
  | .qadvt .. => 0x23
  | .qstat .. => 0x24
  | .pfl .. => 0x25
  | .tprep .. => 0x00
  | .tprepx .. => 0x01
  | .tread .. => 0x02
  | .csrr .. => 0x03
  | .csrw .. => 0x04
  | .csrs .. => 0x05
  | .csrc .. => 0x06
  | .peg => 0x07
  | .hwin => 0x08
  | .endOp => 0x09
  | .trap .. => 0x0A
  | .brk .. => 0x0B
  | .eret => 0x0C
  | .spawn .. => 0x0D
  | .cancelj .. => 0x0E
  | .phase .. => 0x0F
  | .pinw .. => 0x10
  | .unpinw .. => 0x11
  | .tlbinv .. => 0x12
  | .dirtyh .. => 0x13
  | .linkq .. => 0x14
  | .linkset .. => 0x15
  | .opreq .. => 0x16
  | .job .. => 0x20
  | .task .. => 0x21
  | .opt .. => 0x22
  | .depv .. => 0x23
  | .tset .. => 0x24
  | .launch .. => 0x25
  | .jwait .. => 0x26
  | .notify .. => 0x27
  | .curveq .. => 0x28
  | .caskout .. => 0x29
  | .caskin .. => 0x2A
  | .vadd .. => 0x00
  | .vsub .. => 0x01
  | .vmul .. => 0x02
  | .vfma .. => 0x03
  | .vfms .. => 0x04
  | .vmin .. => 0x05
  | .vmax .. => 0x06
  | .vabs .. => 0x07
  | .vneg .. => 0x08
  | .vand .. => 0x09
  | .vor .. => 0x0A
  | .vxor .. => 0x0B
  | .vshl .. => 0x0C
  | .vshr .. => 0x0D
  | .vsha .. => 0x0E
  | .vaddx .. => 0x0F
  | .vmulx .. => 0x10
  | .vfmax .. => 0x11
  | .vcmpeq .. => 0x12
  | .vcmplt .. => 0x13
  | .vcmple .. => 0x14
  | .vcmpne .. => 0x15
  | .vsel .. => 0x16
  | .vcvt .. => 0x17
  | .vqnt .. => 0x18
  | .vdqnt .. => 0x19
  | .vexp2 .. => 0x1A
  | .vlog2 .. => 0x1B
  | .vrcp .. => 0x1C
  | .vrsqrt .. => 0x1D
  | .vtanh .. => 0x1E
  | .vdot4 .. => 0x1F
  | .vredadd .. => 0x20
  | .vredmax .. => 0x21
  | .vredmin .. => 0x22
  | .vscanadd .. => 0x23
  | .vclass .. => 0x24
  | .vmulh .. => 0x25
  | .vrndi .. => 0x26
  | .vld .. => 0x00
  | .vst .. => 0x01
  | .vlds .. => 0x02
  | .vsts .. => 0x03
  | .vgath .. => 0x04
  | .vscat .. => 0x05
  | .vldq .. => 0x06
  | .vstq .. => 0x07
  | .vbcx .. => 0x08
  | .vextx .. => 0x09
  | .vinsx .. => 0x0A
  | .vperm .. => 0x0B
  | .vslide .. => 0x0C
  | .vzip .. => 0x0D
  | .vunzip .. => 0x0E
  | .viota .. => 0x0F
  | .vmov .. => 0x10
  | .kand .. => 0x11
  | .kor .. => 0x12
  | .kxor .. => 0x13
  | .knot .. => 0x14
  | .kpopc .. => 0x15
  | .kfirst .. => 0x16
  | .kmovx .. => 0x17
  | .xmovk .. => 0x18
  | .vamadd .. => 0x19
  | .vammin .. => 0x1A
  | .vcompress .. => 0x1B
  | .vexpand .. => 0x1C
  | .vsett .. => 0x1D
  | .mcall .. => 0x00
  | .mparw .. => 0x01
  | .mparr .. => 0x02
  | .mldj .. => 0x03
  | .mretire .. => 0x04
  | .mfence .. => 0x05
  | .mrot .. => 0x06
  | .mstat .. => 0x07
  | .cpy .. => 0x00
  | .cpyt .. => 0x01
  | .cpyg .. => 0x02
  | .cpys .. => 0x03
  | .cpym .. => 0x04
  | .cpyq .. => 0x05
  | .cpya .. => 0x06
  | .cpf .. => 0x07
  | .cph .. => 0x08
  | .ccan .. => 0x09
  | .cpub .. => 0x0A
  | .cqry .. => 0x0B
  | .bdef .. => 0x0C
  | _ => 0

/-- An op word of R271: B, K, CL, G, OP and the low 17 bits. -/
def opWord (b : Bool) (k : BitVec 2) (cl : BitVec 3) (g : BitVec 3) (op : BitVec 6) (rest : BitVec 17) :
    W32 := BitVec.ofBool b ++ k ++ cl ++ g ++ op ++ rest

/-- A prefix word (R275 to R277). -/
def prefixWord (b : Bool) (pk : BitVec 3) (rest : BitVec 26) : W32 :=
  BitVec.ofBool b ++ 2#2 ++ pk ++ rest

/-- A tail word (R272). -/
def tailWord (ext : BitVec 29) : W32 := 0#1 ++ 3#2 ++ ext

/-- Single-word ops of class SA, by OP (R281 to R286). -/
def decodeSa (op : Nat) (w : W32) : Option Instr :=
  match op with
  | 0x00 => some (.nop (w.extractLsb' 23 3))
  | 0x01 => some (.add (w.extractLsb' 23 3) (w.extractLsb' 12 5) (w.extractLsb' 7 5) (w.extractLsb' 2 5))
  | 0x02 => some (.sub (w.extractLsb' 23 3) (w.extractLsb' 12 5) (w.extractLsb' 7 5) (w.extractLsb' 2 5))
  | 0x03 => some (.addi (w.extractLsb' 23 3) (w.extractLsb' 12 5) (w.extractLsb' 7 5) (w.extractLsb' 0 7))
  | 0x04 => some (.mul (w.extractLsb' 23 3) (w.extractLsb' 12 5) (w.extractLsb' 7 5) (w.extractLsb' 2 5))
  | 0x05 => some (.mulh (w.extractLsb' 23 3) (w.extractLsb' 12 5) (w.extractLsb' 7 5) (w.extractLsb' 2 5))
  | 0x06 => some (.mulhn (w.extractLsb' 23 3) (w.extractLsb' 12 5) (w.extractLsb' 7 5) (w.extractLsb' 2 5))
  | 0x07 => some (.madd (w.extractLsb' 23 3) (w.extractLsb' 12 5) (w.extractLsb' 7 5) (w.extractLsb' 2 5))
  | 0x08 => some (.div (w.extractLsb' 23 3) (w.extractLsb' 12 5) (w.extractLsb' 7 5) (w.extractLsb' 2 5))
  | 0x09 => some (.divn (w.extractLsb' 23 3) (w.extractLsb' 12 5) (w.extractLsb' 7 5) (w.extractLsb' 2 5))
  | 0x0A => some (.rem (w.extractLsb' 23 3) (w.extractLsb' 12 5) (w.extractLsb' 7 5) (w.extractLsb' 2 5))
  | 0x0B => some (.remn (w.extractLsb' 23 3) (w.extractLsb' 12 5) (w.extractLsb' 7 5) (w.extractLsb' 2 5))
  | 0x0C => some (.andR (w.extractLsb' 23 3) (w.extractLsb' 12 5) (w.extractLsb' 7 5) (w.extractLsb' 2 5))
  | 0x0D => some (.orR (w.extractLsb' 23 3) (w.extractLsb' 12 5) (w.extractLsb' 7 5) (w.extractLsb' 2 5))
  | 0x0E => some (.xorR (w.extractLsb' 23 3) (w.extractLsb' 12 5) (w.extractLsb' 7 5) (w.extractLsb' 2 5))
  | 0x0F => some (.andi (w.extractLsb' 23 3) (w.extractLsb' 12 5) (w.extractLsb' 7 5) (w.extractLsb' 0 7))
  | 0x10 => some (.ori (w.extractLsb' 23 3) (w.extractLsb' 12 5) (w.extractLsb' 7 5) (w.extractLsb' 0 7))
  | 0x11 => some (.xori (w.extractLsb' 23 3) (w.extractLsb' 12 5) (w.extractLsb' 7 5) (w.extractLsb' 0 7))
  | 0x12 => some (.shl (w.extractLsb' 23 3) (w.extractLsb' 12 5) (w.extractLsb' 7 5) (w.extractLsb' 2 5))
  | 0x13 => some (.shr (w.extractLsb' 23 3) (w.extractLsb' 12 5) (w.extractLsb' 7 5) (w.extractLsb' 2 5))
  | 0x14 => some (.sha (w.extractLsb' 23 3) (w.extractLsb' 12 5) (w.extractLsb' 7 5) (w.extractLsb' 2 5))
  | 0x15 => some (.shli (w.extractLsb' 23 3) (w.extractLsb' 12 5) (w.extractLsb' 7 5) (w.extractLsb' 0 7))
  | 0x16 => some (.shri (w.extractLsb' 23 3) (w.extractLsb' 12 5) (w.extractLsb' 7 5) (w.extractLsb' 0 7))
  | 0x17 => some (.shai (w.extractLsb' 23 3) (w.extractLsb' 12 5) (w.extractLsb' 7 5) (w.extractLsb' 0 7))
  | 0x18 => some (.minS (w.extractLsb' 23 3) (w.extractLsb' 12 5) (w.extractLsb' 7 5) (w.extractLsb' 2 5))
  | 0x19 => some (.maxS (w.extractLsb' 23 3) (w.extractLsb' 12 5) (w.extractLsb' 7 5) (w.extractLsb' 2 5))
  | 0x1A => some (.minn (w.extractLsb' 23 3) (w.extractLsb' 12 5) (w.extractLsb' 7 5) (w.extractLsb' 2 5))
  | 0x1B => some (.maxn (w.extractLsb' 23 3) (w.extractLsb' 12 5) (w.extractLsb' 7 5) (w.extractLsb' 2 5))
  | 0x1C => some (.clz (w.extractLsb' 23 3) (w.extractLsb' 12 5) (w.extractLsb' 7 5))
  | 0x1D => some (.popc (w.extractLsb' 23 3) (w.extractLsb' 12 5) (w.extractLsb' 7 5))
  | 0x1E => some (.mov (w.extractLsb' 23 3) (w.extractLsb' 12 5) (w.extractLsb' 7 5))
  | 0x1F => some (.movi (w.extractLsb' 23 3) (w.extractLsb' 12 5) (w.extractLsb' 0 12))
  | 0x21 => some (.bext (w.extractLsb' 23 3) (w.extractLsb' 12 5) (w.extractLsb' 7 5) (w.extractLsb' 2 5))
  | 0x22 => some (.bins (w.extractLsb' 23 3) (w.extractLsb' 12 5) (w.extractLsb' 7 5) (w.extractLsb' 2 5))
  | 0x23 => some (.cmpeq (w.extractLsb' 23 3) (w.extractLsb' 12 2) (w.extractLsb' 7 5) (w.extractLsb' 2 5))
  | 0x24 => some (.cmpne (w.extractLsb' 23 3) (w.extractLsb' 12 2) (w.extractLsb' 7 5) (w.extractLsb' 2 5))
  | 0x25 => some (.cmplt (w.extractLsb' 23 3) (w.extractLsb' 12 2) (w.extractLsb' 7 5) (w.extractLsb' 2 5))
  | 0x26 => some (.cmple (w.extractLsb' 23 3) (w.extractLsb' 12 2) (w.extractLsb' 7 5) (w.extractLsb' 2 5))
  | 0x27 => some (.cmpltn (w.extractLsb' 23 3) (w.extractLsb' 12 2) (w.extractLsb' 7 5) (w.extractLsb' 2 5))
  | 0x28 => some (.cmplen (w.extractLsb' 23 3) (w.extractLsb' 12 2) (w.extractLsb' 7 5) (w.extractLsb' 2 5))
  | 0x29 => some (.cmpeqi (w.extractLsb' 23 3) (w.extractLsb' 12 2) (w.extractLsb' 7 5) (w.extractLsb' 0 7))
  | 0x2A => some (.cmplti (w.extractLsb' 23 3) (w.extractLsb' 12 2) (w.extractLsb' 7 5) (w.extractLsb' 0 7))
  | 0x2B => some (.cmpgti (w.extractLsb' 23 3) (w.extractLsb' 12 2) (w.extractLsb' 7 5) (w.extractLsb' 0 7))
  | 0x2C => some (.pand (w.extractLsb' 23 3) (w.extractLsb' 12 3) (w.extractLsb' 7 3) (w.extractLsb' 2 3))
  | 0x2D => some (.por (w.extractLsb' 23 3) (w.extractLsb' 12 3) (w.extractLsb' 7 3) (w.extractLsb' 2 3))
  | 0x2E => some (.pxor (w.extractLsb' 23 3) (w.extractLsb' 12 3) (w.extractLsb' 7 3) (w.extractLsb' 2 3))
  | 0x2F => some (.pandn (w.extractLsb' 23 3) (w.extractLsb' 12 3) (w.extractLsb' 7 3) (w.extractLsb' 2 3))
  | 0x30 => some (.pmovx (w.extractLsb' 23 3) (w.extractLsb' 12 5))
  | 0x31 => some (.xmovp (w.extractLsb' 23 3) (w.extractLsb' 7 5))
  | 0x32 => some (.fadd (w.extractLsb' 23 3) (w.extractLsb' 12 5) (w.extractLsb' 7 5) (w.extractLsb' 2 5))
  | 0x33 => some (.fsub (w.extractLsb' 23 3) (w.extractLsb' 12 5) (w.extractLsb' 7 5) (w.extractLsb' 2 5))
  | 0x34 => some (.fmul (w.extractLsb' 23 3) (w.extractLsb' 12 5) (w.extractLsb' 7 5) (w.extractLsb' 2 5))
  | 0x35 => some (.ffma (w.extractLsb' 23 3) (w.extractLsb' 12 5) (w.extractLsb' 7 5) (w.extractLsb' 2 5))
  | 0x36 => some (.fmin (w.extractLsb' 23 3) (w.extractLsb' 12 5) (w.extractLsb' 7 5) (w.extractLsb' 2 5))
  | 0x37 => some (.fmax (w.extractLsb' 23 3) (w.extractLsb' 12 5) (w.extractLsb' 7 5) (w.extractLsb' 2 5))
  | 0x38 => some (.fcmpeq (w.extractLsb' 23 3) (w.extractLsb' 12 2) (w.extractLsb' 7 5) (w.extractLsb' 2 5))
  | 0x39 => some (.fcmplt (w.extractLsb' 23 3) (w.extractLsb' 12 2) (w.extractLsb' 7 5) (w.extractLsb' 2 5))
  | 0x3A => some (.fcmple (w.extractLsb' 23 3) (w.extractLsb' 12 2) (w.extractLsb' 7 5) (w.extractLsb' 2 5))
  | 0x3C => some (.fclass (w.extractLsb' 23 3) (w.extractLsb' 12 5) (w.extractLsb' 7 5))
  | _ => none

/-- Single-word ops of class SM, by OP (R281 to R286). -/
def decodeSm (op : Nat) (w : W32) : Option Instr :=
  match op with
  | 0x00 => some (.ldb (w.extractLsb' 23 3) (w.extractLsb' 12 5) (w.extractLsb' 7 5) (w.extractLsb' 0 7))
  | 0x01 => some (.ldbs (w.extractLsb' 23 3) (w.extractLsb' 12 5) (w.extractLsb' 7 5) (w.extractLsb' 0 7))
  | 0x02 => some (.ldh (w.extractLsb' 23 3) (w.extractLsb' 12 5) (w.extractLsb' 7 5) (w.extractLsb' 0 7))
  | 0x03 => some (.ldhs (w.extractLsb' 23 3) (w.extractLsb' 12 5) (w.extractLsb' 7 5) (w.extractLsb' 0 7))
  | 0x04 => some (.ldw (w.extractLsb' 23 3) (w.extractLsb' 12 5) (w.extractLsb' 7 5) (w.extractLsb' 0 7))
  | 0x05 => some (.ldws (w.extractLsb' 23 3) (w.extractLsb' 12 5) (w.extractLsb' 7 5) (w.extractLsb' 0 7))
  | 0x06 => some (.ldd (w.extractLsb' 23 3) (w.extractLsb' 12 5) (w.extractLsb' 7 5) (w.extractLsb' 0 7))
  | 0x07 => some (.stb (w.extractLsb' 23 3) (w.extractLsb' 12 5) (w.extractLsb' 7 5) (w.extractLsb' 0 7))
  | 0x08 => some (.sth (w.extractLsb' 23 3) (w.extractLsb' 12 5) (w.extractLsb' 7 5) (w.extractLsb' 0 7))
  | 0x09 => some (.stw (w.extractLsb' 23 3) (w.extractLsb' 12 5) (w.extractLsb' 7 5) (w.extractLsb' 0 7))
  | 0x0A => some (.std (w.extractLsb' 23 3) (w.extractLsb' 12 5) (w.extractLsb' 7 5) (w.extractLsb' 0 7))
  | 0x0C => some (.amadd (w.extractLsb' 23 3) (w.extractLsb' 12 5) (w.extractLsb' 7 5) (w.extractLsb' 2 5) (w.extractLsb' 1 1) (w.extractLsb' 0 1))
  | 0x0D => some (.ammin (w.extractLsb' 23 3) (w.extractLsb' 12 5) (w.extractLsb' 7 5) (w.extractLsb' 2 5) (w.extractLsb' 1 1) (w.extractLsb' 0 1))
  | 0x0E => some (.amminn (w.extractLsb' 23 3) (w.extractLsb' 12 5) (w.extractLsb' 7 5) (w.extractLsb' 2 5) (w.extractLsb' 1 1) (w.extractLsb' 0 1))
  | 0x0F => some (.ammax (w.extractLsb' 23 3) (w.extractLsb' 12 5) (w.extractLsb' 7 5) (w.extractLsb' 2 5) (w.extractLsb' 1 1) (w.extractLsb' 0 1))
  | 0x10 => some (.ammaxn (w.extractLsb' 23 3) (w.extractLsb' 12 5) (w.extractLsb' 7 5) (w.extractLsb' 2 5) (w.extractLsb' 1 1) (w.extractLsb' 0 1))
  | 0x11 => some (.amand (w.extractLsb' 23 3) (w.extractLsb' 12 5) (w.extractLsb' 7 5) (w.extractLsb' 2 5) (w.extractLsb' 1 1) (w.extractLsb' 0 1))
  | 0x12 => some (.amor (w.extractLsb' 23 3) (w.extractLsb' 12 5) (w.extractLsb' 7 5) (w.extractLsb' 2 5) (w.extractLsb' 1 1) (w.extractLsb' 0 1))
  | 0x13 => some (.amxor (w.extractLsb' 23 3) (w.extractLsb' 12 5) (w.extractLsb' 7 5) (w.extractLsb' 2 5) (w.extractLsb' 1 1) (w.extractLsb' 0 1))
  | 0x14 => some (.amswp (w.extractLsb' 23 3) (w.extractLsb' 12 5) (w.extractLsb' 7 5) (w.extractLsb' 2 5) (w.extractLsb' 1 1) (w.extractLsb' 0 1))
  | 0x16 => some (.ginit (w.extractLsb' 23 3) (w.extractLsb' 7 5) (w.extractLsb' 2 5))
  | 0x17 => some (.gsig (w.extractLsb' 23 3) (w.extractLsb' 7 5) (w.extractLsb' 2 5))
  | 0x18 => some (.gwait (w.extractLsb' 23 3) (w.extractLsb' 12 5) (w.extractLsb' 7 5) (w.extractLsb' 2 5))
  | 0x19 => some (.gread (w.extractLsb' 23 3) (w.extractLsb' 12 5) (w.extractLsb' 7 5) (w.extractLsb' 0 2))
  | 0x1A => some (.tkget (w.extractLsb' 23 3) (w.extractLsb' 12 5) (w.extractLsb' 7 5))
  | 0x1B => some (.tkwait (w.extractLsb' 23 3) (w.extractLsb' 7 5) (w.extractLsb' 2 5))
  | 0x1C => some (.tknext (w.extractLsb' 23 3) (w.extractLsb' 7 5))
  | 0x1D => some (.fence (w.extractLsb' 23 3) (w.extractLsb' 12 3))
  | 0x1E => some (.await (w.extractLsb' 23 3) (w.extractLsb' 12 5) (w.extractLsb' 7 5) (w.extractLsb' 2 5))
  | 0x1F => some (.qinit (w.extractLsb' 23 3) (w.extractLsb' 12 4) (w.extractLsb' 7 5) (w.extractLsb' 2 5))
  | 0x20 => some (.qwaitf (w.extractLsb' 23 3) (w.extractLsb' 12 4) (w.extractLsb' 2 5))
  | 0x21 => some (.qwaite (w.extractLsb' 23 3) (w.extractLsb' 12 4) (w.extractLsb' 2 5))
  | 0x22 => some (.qadvh (w.extractLsb' 23 3) (w.extractLsb' 12 4) (w.extractLsb' 2 5))
  | 0x23 => some (.qadvt (w.extractLsb' 23 3) (w.extractLsb' 12 4) (w.extractLsb' 2 5))
  | 0x24 => some (.qstat (w.extractLsb' 23 3) (w.extractLsb' 12 5) (w.extractLsb' 7 4))
  | 0x25 => some (.pfl (w.extractLsb' 23 3) (w.extractLsb' 7 5) (w.extractLsb' 0 7))
  | _ => none

/-- Single-word ops of class SC, by OP (R281 to R286). -/
def decodeSc (op : Nat) (w : W32) : Option Instr :=
  match op with
  | 0x00 => some (.tprep (w.extractLsb' 23 3) (w.extractLsb' 15 2) (w.extractLsb' 0 15))
  | 0x01 => some (.tprepx (w.extractLsb' 23 3) (w.extractLsb' 15 2) (w.extractLsb' 0 15))
  | 0x02 => some (.tread (w.extractLsb' 23 3) (w.extractLsb' 12 5) (w.extractLsb' 7 2))
  | 0x03 => some (.csrr (w.extractLsb' 23 3) (w.extractLsb' 12 5) (w.extractLsb' 0 12))
  | 0x04 => some (.csrw (w.extractLsb' 23 3) (w.extractLsb' 12 5) (w.extractLsb' 0 12))
  | 0x05 => some (.csrs (w.extractLsb' 23 3) (w.extractLsb' 12 5) (w.extractLsb' 0 12))
  | 0x06 => some (.csrc (w.extractLsb' 23 3) (w.extractLsb' 12 5) (w.extractLsb' 0 12))
  | 0x07 => some .peg
  | 0x08 => some .hwin
  | 0x09 => some .endOp
  | 0x0A => some (.trap (w.extractLsb' 23 3) (w.extractLsb' 0 7))
  | 0x0B => some (.brk (w.extractLsb' 23 3) (w.extractLsb' 0 7))
  | 0x0C => some .eret
  | 0x0D => some (.spawn (w.extractLsb' 23 3) (w.extractLsb' 12 5) (w.extractLsb' 7 5))
  | 0x0E => some (.cancelj (w.extractLsb' 23 3) (w.extractLsb' 12 5) (w.extractLsb' 7 5))
  | 0x0F => some (.phase (w.extractLsb' 23 3) (w.extractLsb' 12 5) (w.extractLsb' 8 4) (w.extractLsb' 0 8))
  | 0x10 => some (.pinw (w.extractLsb' 23 3) (w.extractLsb' 12 5) (w.extractLsb' 7 5) (w.extractLsb' 2 5))
  | 0x11 => some (.unpinw (w.extractLsb' 23 3) (w.extractLsb' 12 5) (w.extractLsb' 7 5))
  | 0x12 => some (.tlbinv (w.extractLsb' 23 3) (w.extractLsb' 12 5) (w.extractLsb' 7 5) (w.extractLsb' 2 5) (w.extractLsb' 0 2))
  | 0x13 => some (.dirtyh (w.extractLsb' 23 3) (w.extractLsb' 12 5) (w.extractLsb' 7 5) (w.extractLsb' 2 5))
  | 0x14 => some (.linkq (w.extractLsb' 23 3) (w.extractLsb' 12 5) (w.extractLsb' 7 5))
  | 0x15 => some (.linkset (w.extractLsb' 23 3) (w.extractLsb' 12 5) (w.extractLsb' 7 5))
  | 0x16 => some (.opreq (w.extractLsb' 23 3) (w.extractLsb' 7 5))
  | 0x20 => some (.job (w.extractLsb' 12 5))
  | 0x21 => some (.task (w.extractLsb' 7 5))
  | 0x22 => some (.opt (w.extractLsb' 7 5) (w.extractLsb' 2 5))
  | 0x23 => some (.depv (w.extractLsb' 12 2) (w.extractLsb' 7 5))
  | 0x24 => some (.tset (w.extractLsb' 12 5) (w.extractLsb' 7 5))
  | 0x25 => some (.launch (w.extractLsb' 12 5) (w.extractLsb' 7 5))
  | 0x26 => some (.jwait (w.extractLsb' 12 5) (w.extractLsb' 7 5))
  | 0x27 => some (.notify (w.extractLsb' 7 5) (w.extractLsb' 2 5))
  | 0x28 => some (.curveq (w.extractLsb' 12 5) (w.extractLsb' 7 5))
  | _ => none

/-- Single-word ops of class VA, by OP (R281 to R286). -/
def decodeVa (op : Nat) (w : W32) : Option Instr :=
  match op with
  | 0x00 => some (.vadd (w.extractLsb' 23 3) (w.extractLsb' 12 5) (w.extractLsb' 7 5) (w.extractLsb' 2 5) (w.extractLsb' 0 2))
  | 0x01 => some (.vsub (w.extractLsb' 23 3) (w.extractLsb' 12 5) (w.extractLsb' 7 5) (w.extractLsb' 2 5) (w.extractLsb' 0 2))
  | 0x02 => some (.vmul (w.extractLsb' 23 3) (w.extractLsb' 12 5) (w.extractLsb' 7 5) (w.extractLsb' 2 5) (w.extractLsb' 0 2))
  | 0x03 => some (.vfma (w.extractLsb' 23 3) (w.extractLsb' 12 5) (w.extractLsb' 7 5) (w.extractLsb' 2 5) (w.extractLsb' 0 2))
  | 0x04 => some (.vfms (w.extractLsb' 23 3) (w.extractLsb' 12 5) (w.extractLsb' 7 5) (w.extractLsb' 2 5) (w.extractLsb' 0 2))
  | 0x05 => some (.vmin (w.extractLsb' 23 3) (w.extractLsb' 12 5) (w.extractLsb' 7 5) (w.extractLsb' 2 5) (w.extractLsb' 0 2))
  | 0x06 => some (.vmax (w.extractLsb' 23 3) (w.extractLsb' 12 5) (w.extractLsb' 7 5) (w.extractLsb' 2 5) (w.extractLsb' 0 2))
  | 0x07 => some (.vabs (w.extractLsb' 23 3) (w.extractLsb' 12 5) (w.extractLsb' 7 5) (w.extractLsb' 0 2))
  | 0x08 => some (.vneg (w.extractLsb' 23 3) (w.extractLsb' 12 5) (w.extractLsb' 7 5) (w.extractLsb' 0 2))
  | 0x09 => some (.vand (w.extractLsb' 23 3) (w.extractLsb' 12 5) (w.extractLsb' 7 5) (w.extractLsb' 2 5) (w.extractLsb' 0 2))
  | 0x0A => some (.vor (w.extractLsb' 23 3) (w.extractLsb' 12 5) (w.extractLsb' 7 5) (w.extractLsb' 2 5) (w.extractLsb' 0 2))
  | 0x0B => some (.vxor (w.extractLsb' 23 3) (w.extractLsb' 12 5) (w.extractLsb' 7 5) (w.extractLsb' 2 5) (w.extractLsb' 0 2))
  | 0x0C => some (.vshl (w.extractLsb' 23 3) (w.extractLsb' 12 5) (w.extractLsb' 7 5) (w.extractLsb' 2 5) (w.extractLsb' 0 2))
  | 0x0D => some (.vshr (w.extractLsb' 23 3) (w.extractLsb' 12 5) (w.extractLsb' 7 5) (w.extractLsb' 2 5) (w.extractLsb' 0 2))
  | 0x0E => some (.vsha (w.extractLsb' 23 3) (w.extractLsb' 12 5) (w.extractLsb' 7 5) (w.extractLsb' 2 5) (w.extractLsb' 0 2))
  | 0x0F => some (.vaddx (w.extractLsb' 23 3) (w.extractLsb' 12 5) (w.extractLsb' 7 5) (w.extractLsb' 2 5) (w.extractLsb' 0 2))
  | 0x10 => some (.vmulx (w.extractLsb' 23 3) (w.extractLsb' 12 5) (w.extractLsb' 7 5) (w.extractLsb' 2 5) (w.extractLsb' 0 2))
  | 0x11 => some (.vfmax (w.extractLsb' 23 3) (w.extractLsb' 12 5) (w.extractLsb' 7 5) (w.extractLsb' 2 5) (w.extractLsb' 0 2))
  | 0x12 => some (.vcmpeq (w.extractLsb' 23 3) (w.extractLsb' 12 3) (w.extractLsb' 7 5) (w.extractLsb' 2 5) (w.extractLsb' 0 2))
  | 0x13 => some (.vcmplt (w.extractLsb' 23 3) (w.extractLsb' 12 3) (w.extractLsb' 7 5) (w.extractLsb' 2 5) (w.extractLsb' 0 2))
  | 0x14 => some (.vcmple (w.extractLsb' 23 3) (w.extractLsb' 12 3) (w.extractLsb' 7 5) (w.extractLsb' 2 5) (w.extractLsb' 0 2))
  | 0x15 => some (.vcmpne (w.extractLsb' 23 3) (w.extractLsb' 12 3) (w.extractLsb' 7 5) (w.extractLsb' 2 5) (w.extractLsb' 0 2))
  | 0x16 => some (.vsel (w.extractLsb' 23 3) (w.extractLsb' 12 5) (w.extractLsb' 7 5) (w.extractLsb' 2 5) (w.extractLsb' 0 2))
  | 0x1A => some (.vexp2 (w.extractLsb' 23 3) (w.extractLsb' 12 5) (w.extractLsb' 7 5) (w.extractLsb' 0 2))
  | 0x1B => some (.vlog2 (w.extractLsb' 23 3) (w.extractLsb' 12 5) (w.extractLsb' 7 5) (w.extractLsb' 0 2))
  | 0x1C => some (.vrcp (w.extractLsb' 23 3) (w.extractLsb' 12 5) (w.extractLsb' 7 5) (w.extractLsb' 0 2))
  | 0x1D => some (.vrsqrt (w.extractLsb' 23 3) (w.extractLsb' 12 5) (w.extractLsb' 7 5) (w.extractLsb' 0 2))
  | 0x1E => some (.vtanh (w.extractLsb' 23 3) (w.extractLsb' 12 5) (w.extractLsb' 7 5) (w.extractLsb' 0 2))
  | 0x1F => some (.vdot4 (w.extractLsb' 23 3) (w.extractLsb' 12 5) (w.extractLsb' 7 5) (w.extractLsb' 2 5) (w.extractLsb' 0 2))
  | 0x20 => some (.vredadd (w.extractLsb' 23 3) (w.extractLsb' 12 5) (w.extractLsb' 7 5) (w.extractLsb' 0 2))
  | 0x21 => some (.vredmax (w.extractLsb' 23 3) (w.extractLsb' 12 5) (w.extractLsb' 7 5) (w.extractLsb' 0 2))
  | 0x22 => some (.vredmin (w.extractLsb' 23 3) (w.extractLsb' 12 5) (w.extractLsb' 7 5) (w.extractLsb' 0 2))
  | 0x23 => some (.vscanadd (w.extractLsb' 23 3) (w.extractLsb' 12 5) (w.extractLsb' 7 5) (w.extractLsb' 0 2))
  | 0x24 => some (.vclass (w.extractLsb' 23 3) (w.extractLsb' 12 5) (w.extractLsb' 7 5) (w.extractLsb' 0 2))
  | 0x25 => some (.vmulh (w.extractLsb' 23 3) (w.extractLsb' 12 5) (w.extractLsb' 7 5) (w.extractLsb' 2 5) (w.extractLsb' 0 2))
  | 0x26 => some (.vrndi (w.extractLsb' 23 3) (w.extractLsb' 12 5) (w.extractLsb' 7 5) (w.extractLsb' 0 2))
  | _ => none

/-- Single-word ops of class VM, by OP (R281 to R286). -/
def decodeVm (op : Nat) (w : W32) : Option Instr :=
  match op with
  | 0x00 => some (.vld (w.extractLsb' 23 3) (w.extractLsb' 12 5) (w.extractLsb' 7 5) (w.extractLsb' 0 7))
  | 0x01 => some (.vst (w.extractLsb' 23 3) (w.extractLsb' 12 5) (w.extractLsb' 7 5) (w.extractLsb' 0 7))
  | 0x04 => some (.vgath (w.extractLsb' 23 3) (w.extractLsb' 12 5) (w.extractLsb' 7 5) (w.extractLsb' 2 5) (w.extractLsb' 0 2))
  | 0x05 => some (.vscat (w.extractLsb' 23 3) (w.extractLsb' 12 5) (w.extractLsb' 7 5) (w.extractLsb' 2 5) (w.extractLsb' 0 2))
  | 0x06 => some (.vldq (w.extractLsb' 23 3) (w.extractLsb' 12 5) (w.extractLsb' 7 4) (w.extractLsb' 2 5) (w.extractLsb' 0 2))
  | 0x07 => some (.vstq (w.extractLsb' 23 3) (w.extractLsb' 12 5) (w.extractLsb' 7 4) (w.extractLsb' 2 5) (w.extractLsb' 0 2))
  | 0x08 => some (.vbcx (w.extractLsb' 23 3) (w.extractLsb' 12 5) (w.extractLsb' 7 5) (w.extractLsb' 0 2))
  | 0x09 => some (.vextx (w.extractLsb' 23 3) (w.extractLsb' 12 5) (w.extractLsb' 7 5) (w.extractLsb' 2 5))
  | 0x0A => some (.vinsx (w.extractLsb' 23 3) (w.extractLsb' 12 5) (w.extractLsb' 7 5) (w.extractLsb' 2 5))
  | 0x0B => some (.vperm (w.extractLsb' 23 3) (w.extractLsb' 12 5) (w.extractLsb' 7 5) (w.extractLsb' 2 5) (w.extractLsb' 0 2))
  | 0x0C => some (.vslide (w.extractLsb' 23 3) (w.extractLsb' 12 5) (w.extractLsb' 7 5) (w.extractLsb' 2 5) (w.extractLsb' 0 2))
  | 0x0D => some (.vzip (w.extractLsb' 23 3) (w.extractLsb' 12 5) (w.extractLsb' 7 5) (w.extractLsb' 2 5) (w.extractLsb' 0 2))
  | 0x0E => some (.vunzip (w.extractLsb' 23 3) (w.extractLsb' 12 5) (w.extractLsb' 7 5) (w.extractLsb' 2 5) (w.extractLsb' 0 2))
  | 0x0F => some (.viota (w.extractLsb' 23 3) (w.extractLsb' 12 5) (w.extractLsb' 0 2))
  | 0x10 => some (.vmov (w.extractLsb' 23 3) (w.extractLsb' 12 5) (w.extractLsb' 7 5) (w.extractLsb' 0 2))
  | 0x11 => some (.kand (w.extractLsb' 23 3) (w.extractLsb' 12 3) (w.extractLsb' 7 3) (w.extractLsb' 2 3))
  | 0x12 => some (.kor (w.extractLsb' 23 3) (w.extractLsb' 12 3) (w.extractLsb' 7 3) (w.extractLsb' 2 3))
  | 0x13 => some (.kxor (w.extractLsb' 23 3) (w.extractLsb' 12 3) (w.extractLsb' 7 3) (w.extractLsb' 2 3))
  | 0x14 => some (.knot (w.extractLsb' 23 3) (w.extractLsb' 12 3) (w.extractLsb' 7 3))
  | 0x15 => some (.kpopc (w.extractLsb' 23 3) (w.extractLsb' 12 5) (w.extractLsb' 7 3))
  | 0x16 => some (.kfirst (w.extractLsb' 23 3) (w.extractLsb' 12 5) (w.extractLsb' 7 3))
  | 0x17 => some (.kmovx (w.extractLsb' 23 3) (w.extractLsb' 12 5) (w.extractLsb' 7 3))
  | 0x18 => some (.xmovk (w.extractLsb' 23 3) (w.extractLsb' 12 3) (w.extractLsb' 7 5))
  | 0x19 => some (.vamadd (w.extractLsb' 23 3) (w.extractLsb' 12 5) (w.extractLsb' 7 5) (w.extractLsb' 2 5) (w.extractLsb' 0 2))
  | 0x1A => some (.vammin (w.extractLsb' 23 3) (w.extractLsb' 12 5) (w.extractLsb' 7 5) (w.extractLsb' 2 5) (w.extractLsb' 0 2))
  | 0x1B => some (.vcompress (w.extractLsb' 23 3) (w.extractLsb' 12 5) (w.extractLsb' 7 5) (w.extractLsb' 0 2))
  | 0x1C => some (.vexpand (w.extractLsb' 23 3) (w.extractLsb' 12 5) (w.extractLsb' 7 5) (w.extractLsb' 0 2))
  | 0x1D => some (.vsett (w.extractLsb' 23 3) (w.extractLsb' 12 5) (w.extractLsb' 7 5) (w.extractLsb' 2 5))
  | _ => none

/-- Single-word ops of class MX, by OP (R281 to R286). -/
def decodeMx (op : Nat) (w : W32) : Option Instr :=
  match op with
  | 0x00 => some (.mcall (w.extractLsb' 23 3) (w.extractLsb' 0 6))
  | 0x01 => some (.mparw (w.extractLsb' 23 3) (w.extractLsb' 12 3) (w.extractLsb' 7 5))
  | 0x02 => some (.mparr (w.extractLsb' 23 3) (w.extractLsb' 12 5) (w.extractLsb' 7 3))
  | 0x03 => some (.mldj (w.extractLsb' 23 3) (w.extractLsb' 12 5) (w.extractLsb' 7 5) (w.extractLsb' 0 6))
  | 0x04 => some (.mretire (w.extractLsb' 23 3) (w.extractLsb' 12 5))
  | 0x05 => some (.mfence (w.extractLsb' 23 3))
  | 0x06 => some (.mrot (w.extractLsb' 23 3) (w.extractLsb' 7 5))
  | 0x07 => some (.mstat (w.extractLsb' 23 3) (w.extractLsb' 12 5) (w.extractLsb' 7 5))
  | _ => none

/-- Double-word ops (R272): class and OP of the head `w`, tail `t`. -/
def decodeDouble (cl op : Nat) (w t : W32) : Option Instr :=
  match cl, op with
  | 0, 0x20 => some (.movl (w.extractLsb' 23 3) (w.extractLsb' 12 5) (w.extractLsb' 0 12) (t.extractLsb' 0 29))
  | 0, 0x3B => some (.fcvt (w.extractLsb' 23 3) (w.extractLsb' 12 5) (w.extractLsb' 7 5) (t.extractLsb' 25 4) (t.extractLsb' 21 4) (t.extractLsb' 18 3) (t.extractLsb' 16 2))
  | 1, 0x0B => some (.ldl (w.extractLsb' 23 3) (w.extractLsb' 12 5) (w.extractLsb' 7 5) (t.extractLsb' 21 8) (t.extractLsb' 18 3) (t.extractLsb' 16 2) (t.extractLsb' 0 16))
  | 1, 0x15 => some (.amcas (w.extractLsb' 23 3) (w.extractLsb' 12 5) (w.extractLsb' 7 5) (w.extractLsb' 2 5) (w.extractLsb' 0 1) (t.extractLsb' 24 5))
  | 2, 0x29 => some (.caskout (w.extractLsb' 12 5) (w.extractLsb' 7 5) (w.extractLsb' 2 5) (t.extractLsb' 24 5) (t.extractLsb' 22 2))
  | 2, 0x2A => some (.caskin (w.extractLsb' 12 5) (w.extractLsb' 7 5) (w.extractLsb' 2 5) (t.extractLsb' 24 5) (t.extractLsb' 22 2))
  | 3, 0x17 => some (.vcvt (w.extractLsb' 23 3) (w.extractLsb' 12 5) (w.extractLsb' 7 5) (w.extractLsb' 0 2) (t.extractLsb' 25 4) (t.extractLsb' 21 4) (t.extractLsb' 18 3) (t.extractLsb' 16 2) (t.extractLsb' 14 2))
  | 3, 0x18 => some (.vqnt (w.extractLsb' 23 3) (w.extractLsb' 12 5) (w.extractLsb' 7 5) (w.extractLsb' 0 2) (t.extractLsb' 27 2) (t.extractLsb' 26 1) (t.extractLsb' 23 3) (t.extractLsb' 18 5))
  | 3, 0x19 => some (.vdqnt (w.extractLsb' 23 3) (w.extractLsb' 12 5) (w.extractLsb' 7 5) (w.extractLsb' 2 5) (w.extractLsb' 0 2) (t.extractLsb' 25 4))
  | 4, 0x02 => some (.vlds (w.extractLsb' 23 3) (w.extractLsb' 12 5) (w.extractLsb' 7 5) (w.extractLsb' 0 2) (t.extractLsb' 24 5) (t.extractLsb' 16 8) (t.extractLsb' 0 16))
  | 4, 0x03 => some (.vsts (w.extractLsb' 23 3) (w.extractLsb' 12 5) (w.extractLsb' 7 5) (w.extractLsb' 0 2) (t.extractLsb' 24 5) (t.extractLsb' 0 16))
  | 6, 0x00 => some (.cpy (w.extractLsb' 23 3) (w.extractLsb' 12 5) (w.extractLsb' 7 5) (w.extractLsb' 2 5) (w.extractLsb' 0 2) (t.extractLsb' 24 5) (t.extractLsb' 19 5) (t.extractLsb' 17 2))
  | 6, 0x01 => some (.cpyt (w.extractLsb' 23 3) (w.extractLsb' 12 5) (w.extractLsb' 7 5) (w.extractLsb' 2 5) (w.extractLsb' 0 2) (t.extractLsb' 24 5) (t.extractLsb' 19 5) (t.extractLsb' 17 2))
  | 6, 0x02 => some (.cpyg (w.extractLsb' 23 3) (w.extractLsb' 12 5) (w.extractLsb' 7 5) (w.extractLsb' 2 5) (w.extractLsb' 0 2) (t.extractLsb' 24 5) (t.extractLsb' 19 5) (t.extractLsb' 17 2))
  | 6, 0x03 => some (.cpys (w.extractLsb' 23 3) (w.extractLsb' 12 5) (w.extractLsb' 7 5) (w.extractLsb' 2 5) (w.extractLsb' 0 2) (t.extractLsb' 24 5) (t.extractLsb' 19 5) (t.extractLsb' 17 2))
  | 6, 0x04 => some (.cpym (w.extractLsb' 23 3) (w.extractLsb' 12 5) (w.extractLsb' 7 5) (w.extractLsb' 2 5) (w.extractLsb' 0 2) (t.extractLsb' 24 5) (t.extractLsb' 19 5) (t.extractLsb' 11 8))
  | 6, 0x05 => some (.cpyq (w.extractLsb' 23 3) (w.extractLsb' 12 5) (w.extractLsb' 7 5) (w.extractLsb' 2 5) (w.extractLsb' 0 2) (t.extractLsb' 24 5) (t.extractLsb' 19 5))
  | 6, 0x06 => some (.cpya (w.extractLsb' 23 3) (w.extractLsb' 12 5) (w.extractLsb' 7 5) (w.extractLsb' 2 5) (w.extractLsb' 0 2) (t.extractLsb' 24 5) (t.extractLsb' 19 5) (t.extractLsb' 15 4))
  | 6, 0x07 => some (.cpf (w.extractLsb' 23 3) (w.extractLsb' 12 5) (w.extractLsb' 7 5) (w.extractLsb' 0 2) (t.extractLsb' 24 5) (t.extractLsb' 19 5) (t.extractLsb' 17 2))
  | 6, 0x08 => some (.cph (w.extractLsb' 23 3) (w.extractLsb' 12 5) (w.extractLsb' 7 5) (w.extractLsb' 2 5) (w.extractLsb' 0 2) (t.extractLsb' 24 5) (t.extractLsb' 19 5) (t.extractLsb' 18 1) (t.extractLsb' 17 1) (t.extractLsb' 14 3) (t.extractLsb' 11 3))
  | 6, 0x09 => some (.ccan (w.extractLsb' 23 3) (w.extractLsb' 12 5) (w.extractLsb' 7 5))
  | 6, 0x0A => some (.cpub (w.extractLsb' 23 3) (w.extractLsb' 12 5) (w.extractLsb' 7 5) (w.extractLsb' 0 2) (t.extractLsb' 19 5))
  | 6, 0x0B => some (.cqry (w.extractLsb' 23 3) (w.extractLsb' 12 5) (w.extractLsb' 7 5))
  | 6, 0x0C => some (.bdef (w.extractLsb' 23 3) (w.extractLsb' 12 5) (w.extractLsb' 7 5) (w.extractLsb' 2 5) (t.extractLsb' 24 5))
  | _, _ => none

/-- Single-word ops by class and OP. -/
def decodeSingle (cl op : Nat) (w : W32) : Option Instr :=
  match cl with
  | 0 => decodeSa op w
  | 1 => decodeSm op w
  | 2 => decodeSc op w
  | 3 => decodeVa op w
  | 4 => decodeVm op w
  | 5 => decodeMx op w
  | _ => none

/-- Prefix words by PK (R275 to R277); LNK makes an XFER the linking form. -/
def decodePrefix (pk : Nat) (w : W32) : Option Instr :=
  match pk with
  | 0 => some (.mod (w.extractLsb' 23 3) (w.extractLsb' 21 2) (w.extractLsb' 19 2) (w.extractLsb' 14 4) (w.extractLsb' 13 1))
  | 1 => some (.imm (w.extractLsb' 0 26))
  | 2 => if w.extractLsb' 20 1 = 1#1 then some (.xferLink (w.extractLsb' 21 2))
         else some (.xfer (w.extractLsb' 23 3) (w.extractLsb' 21 2))
  | _ => none

/-- Micro-words by their code in [31:27] (R377). -/
def decodeJigFields (w : W32) : Option Instr :=
  match (w.extractLsb' 27 5).toNat with
  | 0x01 => some (.jLdw (w.extractLsb' 24 3) (w.extractLsb' 20 4))
  | 0x02 => some .jSwapw
  | 0x03 => some (.jSkipmap (w.extractLsb' 24 3))
  | 0x04 => some (.jStrm (w.extractLsb' 24 3) (w.extractLsb' 20 4) (w.extractLsb' 19 1) (w.extractLsb' 11 8) (w.extractLsb' 6 5) (w.extractLsb' 5 1) (w.extractLsb' 2 3))
  | 0x05 => some (.jAccz (w.extractLsb' 26 1) (w.extractLsb' 25 1))
  | 0x06 => if w.extractLsb' 16 1 = 1#1 then some (.jLoopReg (w.extractLsb' 19 8) (w.extractLsb' 17 2) (w.extractLsb' 13 3)) else some (.jLoop (w.extractLsb' 19 8) (w.extractLsb' 17 2) (w.extractLsb' 0 16))
  | 0x07 => if w.extractLsb' 23 1 = 1#1 then some (.jAddpReg (w.extractLsb' 24 3) (w.extractLsb' 20 3)) else some (.jAddp (w.extractLsb' 24 3) (w.extractLsb' 0 23))
  | 0x08 => some (.jWaitq (w.extractLsb' 23 4) (w.extractLsb' 22 1) (w.extractLsb' 12 10))
  | 0x09 => some (.jAdvq (w.extractLsb' 23 4) (w.extractLsb' 22 1) (w.extractLsb' 12 10))
  | 0x0A => some (.jBias (w.extractLsb' 26 1) (w.extractLsb' 23 3))
  | 0x0B => if w.extractLsb' 26 1 = 1#1 then some (.jScaleVec (w.extractLsb' 23 3)) else some (.jScale (w.extractLsb' 18 8))
  | 0x0C => some (.jRetire (w.extractLsb' 24 3) (w.extractLsb' 20 4) (w.extractLsb' 19 1) (w.extractLsb' 16 3) (w.extractLsb' 14 2) (w.extractLsb' 9 5) (w.extractLsb' 1 8))
  | 0x0D => some (.jSig (w.extractLsb' 24 3) (w.extractLsb' 0 24))
  | 0x0E => some .jEnd
  | _ => none

/-- The words of an instruction, from the encoding tables; `b` is its bundle-start bit. A step of the
device has no word. -/
def encode (b : Bool) : Instr → List W32
  | .nop g => [opWord b 0#2 0#3 g 0#6 (0#17)]
  | .add g d a y => [opWord b 0#2 0#3 g 1#6 (d ++ a ++ y ++ 0#2)]
  | .sub g d a y => [opWord b 0#2 0#3 g 2#6 (d ++ a ++ y ++ 0#2)]
  | .addi g d a i => [opWord b 0#2 0#3 g 3#6 (d ++ a ++ i)]
  | .mul g d a y => [opWord b 0#2 0#3 g 4#6 (d ++ a ++ y ++ 0#2)]
  | .mulh g d a y => [opWord b 0#2 0#3 g 5#6 (d ++ a ++ y ++ 0#2)]
  | .mulhn g d a y => [opWord b 0#2 0#3 g 6#6 (d ++ a ++ y ++ 0#2)]
  | .madd g d a y => [opWord b 0#2 0#3 g 7#6 (d ++ a ++ y ++ 0#2)]
  | .div g d a y => [opWord b 0#2 0#3 g 8#6 (d ++ a ++ y ++ 0#2)]
  | .divn g d a y => [opWord b 0#2 0#3 g 9#6 (d ++ a ++ y ++ 0#2)]
  | .rem g d a y => [opWord b 0#2 0#3 g 10#6 (d ++ a ++ y ++ 0#2)]
  | .remn g d a y => [opWord b 0#2 0#3 g 11#6 (d ++ a ++ y ++ 0#2)]
  | .andR g d a y => [opWord b 0#2 0#3 g 12#6 (d ++ a ++ y ++ 0#2)]
  | .orR g d a y => [opWord b 0#2 0#3 g 13#6 (d ++ a ++ y ++ 0#2)]
  | .xorR g d a y => [opWord b 0#2 0#3 g 14#6 (d ++ a ++ y ++ 0#2)]
  | .andi g d a i => [opWord b 0#2 0#3 g 15#6 (d ++ a ++ i)]
  | .ori g d a i => [opWord b 0#2 0#3 g 16#6 (d ++ a ++ i)]
  | .xori g d a i => [opWord b 0#2 0#3 g 17#6 (d ++ a ++ i)]
  | .shl g d a y => [opWord b 0#2 0#3 g 18#6 (d ++ a ++ y ++ 0#2)]
  | .shr g d a y => [opWord b 0#2 0#3 g 19#6 (d ++ a ++ y ++ 0#2)]
  | .sha g d a y => [opWord b 0#2 0#3 g 20#6 (d ++ a ++ y ++ 0#2)]
  | .shli g d a i => [opWord b 0#2 0#3 g 21#6 (d ++ a ++ i)]
  | .shri g d a i => [opWord b 0#2 0#3 g 22#6 (d ++ a ++ i)]
  | .shai g d a i => [opWord b 0#2 0#3 g 23#6 (d ++ a ++ i)]
  | .minS g d a y => [opWord b 0#2 0#3 g 24#6 (d ++ a ++ y ++ 0#2)]
  | .maxS g d a y => [opWord b 0#2 0#3 g 25#6 (d ++ a ++ y ++ 0#2)]
  | .minn g d a y => [opWord b 0#2 0#3 g 26#6 (d ++ a ++ y ++ 0#2)]
  | .maxn g d a y => [opWord b 0#2 0#3 g 27#6 (d ++ a ++ y ++ 0#2)]
  | .clz g d a => [opWord b 0#2 0#3 g 28#6 (d ++ a ++ 0#7)]
  | .popc g d a => [opWord b 0#2 0#3 g 29#6 (d ++ a ++ 0#7)]
  | .mov g d a => [opWord b 0#2 0#3 g 30#6 (d ++ a ++ 0#7)]
  | .movi g d i => [opWord b 0#2 0#3 g 31#6 (d ++ i)]
  | .movl g d hi lo => [opWord b 1#2 0#3 g 32#6 (d ++ hi),
      tailWord (lo)]
  | .bext g d a y => [opWord b 0#2 0#3 g 33#6 (d ++ a ++ y ++ 0#2)]
  | .bins g d a y => [opWord b 0#2 0#3 g 34#6 (d ++ a ++ y ++ 0#2)]
  | .cmpeq g p a y => [opWord b 0#2 0#3 g 35#6 (0#3 ++ p ++ a ++ y ++ 0#2)]
  | .cmpne g p a y => [opWord b 0#2 0#3 g 36#6 (0#3 ++ p ++ a ++ y ++ 0#2)]
  | .cmplt g p a y => [opWord b 0#2 0#3 g 37#6 (0#3 ++ p ++ a ++ y ++ 0#2)]
  | .cmple g p a y => [opWord b 0#2 0#3 g 38#6 (0#3 ++ p ++ a ++ y ++ 0#2)]
  | .cmpltn g p a y => [opWord b 0#2 0#3 g 39#6 (0#3 ++ p ++ a ++ y ++ 0#2)]
  | .cmplen g p a y => [opWord b 0#2 0#3 g 40#6 (0#3 ++ p ++ a ++ y ++ 0#2)]
  | .cmpeqi g p a i => [opWord b 0#2 0#3 g 41#6 (0#3 ++ p ++ a ++ i)]
  | .cmplti g p a i => [opWord b 0#2 0#3 g 42#6 (0#3 ++ p ++ a ++ i)]
  | .cmpgti g p a i => [opWord b 0#2 0#3 g 43#6 (0#3 ++ p ++ a ++ i)]
  | .pand g d a y => [opWord b 0#2 0#3 g 44#6 (0#2 ++ d ++ 0#2 ++ a ++ 0#2 ++ y ++ 0#2)]
  | .por g d a y => [opWord b 0#2 0#3 g 45#6 (0#2 ++ d ++ 0#2 ++ a ++ 0#2 ++ y ++ 0#2)]
  | .pxor g d a y => [opWord b 0#2 0#3 g 46#6 (0#2 ++ d ++ 0#2 ++ a ++ 0#2 ++ y ++ 0#2)]
  | .pandn g d a y => [opWord b 0#2 0#3 g 47#6 (0#2 ++ d ++ 0#2 ++ a ++ 0#2 ++ y ++ 0#2)]
  | .pmovx g d => [opWord b 0#2 0#3 g 48#6 (d ++ 0#12)]
  | .xmovp g a => [opWord b 0#2 0#3 g 49#6 (0#5 ++ a ++ 0#7)]
  | .fadd g d a y => [opWord b 0#2 0#3 g 50#6 (d ++ a ++ y ++ 0#2)]
  | .fsub g d a y => [opWord b 0#2 0#3 g 51#6 (d ++ a ++ y ++ 0#2)]
  | .fmul g d a y => [opWord b 0#2 0#3 g 52#6 (d ++ a ++ y ++ 0#2)]
  | .ffma g d a y => [opWord b 0#2 0#3 g 53#6 (d ++ a ++ y ++ 0#2)]
  | .fmin g d a y => [opWord b 0#2 0#3 g 54#6 (d ++ a ++ y ++ 0#2)]
  | .fmax g d a y => [opWord b 0#2 0#3 g 55#6 (d ++ a ++ y ++ 0#2)]
  | .fcmpeq g p a y => [opWord b 0#2 0#3 g 56#6 (0#3 ++ p ++ a ++ y ++ 0#2)]
  | .fcmplt g p a y => [opWord b 0#2 0#3 g 57#6 (0#3 ++ p ++ a ++ y ++ 0#2)]
  | .fcmple g p a y => [opWord b 0#2 0#3 g 58#6 (0#3 ++ p ++ a ++ y ++ 0#2)]
  | .fcvt g d a sf df r t => [opWord b 1#2 0#3 g 59#6 (d ++ a ++ 0#7),
      tailWord (sf ++ df ++ r ++ t ++ 0#16)]
  | .fclass g d a => [opWord b 0#2 0#3 g 60#6 (d ++ a ++ 0#7)]
  | .ldb g d a i => [opWord b 0#2 1#3 g 0#6 (d ++ a ++ i)]
  | .ldbs g d a i => [opWord b 0#2 1#3 g 1#6 (d ++ a ++ i)]
  | .ldh g d a i => [opWord b 0#2 1#3 g 2#6 (d ++ a ++ i)]
  | .ldhs g d a i => [opWord b 0#2 1#3 g 3#6 (d ++ a ++ i)]
  | .ldw g d a i => [opWord b 0#2 1#3 g 4#6 (d ++ a ++ i)]
  | .ldws g d a i => [opWord b 0#2 1#3 g 5#6 (d ++ a ++ i)]
  | .ldd g d a i => [opWord b 0#2 1#3 g 6#6 (d ++ a ++ i)]
  | .stb g d a i => [opWord b 0#2 1#3 g 7#6 (d ++ a ++ i)]
  | .sth g d a i => [opWord b 0#2 1#3 g 8#6 (d ++ a ++ i)]
  | .stw g d a i => [opWord b 0#2 1#3 g 9#6 (d ++ a ++ i)]
  | .std g d a i => [opWord b 0#2 1#3 g 10#6 (d ++ a ++ i)]
  | .ldl g d a m w h o => [opWord b 1#2 1#3 g 11#6 (d ++ a ++ 0#7),
      tailWord (m ++ w ++ h ++ o)]
  | .amadd g d a y n w => [opWord b 0#2 1#3 g 12#6 (d ++ a ++ y ++ n ++ w)]
  | .ammin g d a y n w => [opWord b 0#2 1#3 g 13#6 (d ++ a ++ y ++ n ++ w)]
  | .amminn g d a y n w => [opWord b 0#2 1#3 g 14#6 (d ++ a ++ y ++ n ++ w)]
  | .ammax g d a y n w => [opWord b 0#2 1#3 g 15#6 (d ++ a ++ y ++ n ++ w)]
  | .ammaxn g d a y n w => [opWord b 0#2 1#3 g 16#6 (d ++ a ++ y ++ n ++ w)]
  | .amand g d a y n w => [opWord b 0#2 1#3 g 17#6 (d ++ a ++ y ++ n ++ w)]
  | .amor g d a y n w => [opWord b 0#2 1#3 g 18#6 (d ++ a ++ y ++ n ++ w)]
  | .amxor g d a y n w => [opWord b 0#2 1#3 g 19#6 (d ++ a ++ y ++ n ++ w)]
  | .amswp g d a y n w => [opWord b 0#2 1#3 g 20#6 (d ++ a ++ y ++ n ++ w)]
  | .amcas g d a y w c => [opWord b 1#2 1#3 g 21#6 (d ++ a ++ y ++ 0#1 ++ w),
      tailWord (c ++ 0#24)]
  | .ginit g a y => [opWord b 0#2 1#3 g 22#6 (0#5 ++ a ++ y ++ 0#2)]
  | .gsig g a y => [opWord b 0#2 1#3 g 23#6 (0#5 ++ a ++ y ++ 0#2)]
  | .gwait g d a y => [opWord b 0#2 1#3 g 24#6 (d ++ a ++ y ++ 0#2)]
  | .gread g d a n => [opWord b 0#2 1#3 g 25#6 (d ++ a ++ 0#5 ++ n)]
  | .tkget g d a => [opWord b 0#2 1#3 g 26#6 (d ++ a ++ 0#7)]
  | .tkwait g a y => [opWord b 0#2 1#3 g 27#6 (0#5 ++ a ++ y ++ 0#2)]
  | .tknext g a => [opWord b 0#2 1#3 g 28#6 (0#5 ++ a ++ 0#7)]
  | .fence g c => [opWord b 0#2 1#3 g 29#6 (0#2 ++ c ++ 0#12)]
  | .await g d a y => [opWord b 0#2 1#3 g 30#6 (d ++ a ++ y ++ 0#2)]
  | .qinit g q a y => [opWord b 0#2 1#3 g 31#6 (0#1 ++ q ++ a ++ y ++ 0#2)]
  | .qwaitf g q y => [opWord b 0#2 1#3 g 32#6 (0#1 ++ q ++ 0#5 ++ y ++ 0#2)]
  | .qwaite g q y => [opWord b 0#2 1#3 g 33#6 (0#1 ++ q ++ 0#5 ++ y ++ 0#2)]
  | .qadvh g q y => [opWord b 0#2 1#3 g 34#6 (0#1 ++ q ++ 0#5 ++ y ++ 0#2)]
  | .qadvt g q y => [opWord b 0#2 1#3 g 35#6 (0#1 ++ q ++ 0#5 ++ y ++ 0#2)]
  | .qstat g d q => [opWord b 0#2 1#3 g 36#6 (d ++ 0#1 ++ q ++ 0#7)]
  | .pfl g a i => [opWord b 0#2 1#3 g 37#6 (0#5 ++ a ++ i)]
  | .tprep g n o => [opWord b 0#2 2#3 g 0#6 (n ++ o)]
  | .tprepx g n o => [opWord b 0#2 2#3 g 1#6 (n ++ o)]
  | .tread g d n => [opWord b 0#2 2#3 g 2#6 (d ++ 0#3 ++ n ++ 0#7)]
  | .csrr g d c => [opWord b 0#2 2#3 g 3#6 (d ++ c)]
  | .csrw g d c => [opWord b 0#2 2#3 g 4#6 (d ++ c)]
  | .csrs g d c => [opWord b 0#2 2#3 g 5#6 (d ++ c)]
  | .csrc g d c => [opWord b 0#2 2#3 g 6#6 (d ++ c)]
  | .peg => [opWord b 0#2 2#3 0#3 7#6 (0#17)]
  | .hwin => [opWord b 0#2 2#3 0#3 8#6 (0#17)]
  | .endOp => [opWord b 0#2 2#3 0#3 9#6 (0#17)]
  | .trap g i => [opWord b 0#2 2#3 g 10#6 (0#10 ++ i)]
  | .brk g i => [opWord b 0#2 2#3 g 11#6 (0#10 ++ i)]
  | .eret => [opWord b 0#2 2#3 0#3 12#6 (0#17)]
  | .spawn g d a => [opWord b 0#2 2#3 g 13#6 (d ++ a ++ 0#7)]
  | .cancelj g d a => [opWord b 0#2 2#3 g 14#6 (d ++ a ++ 0#7)]
  | .phase g d n m => [opWord b 0#2 2#3 g 15#6 (d ++ n ++ m)]
  | .pinw g d a y => [opWord b 0#2 2#3 g 16#6 (d ++ a ++ y ++ 0#2)]
  | .unpinw g d a => [opWord b 0#2 2#3 g 17#6 (d ++ a ++ 0#7)]
  | .tlbinv g d a y f => [opWord b 0#2 2#3 g 18#6 (d ++ a ++ y ++ f)]
  | .dirtyh g d a y => [opWord b 0#2 2#3 g 19#6 (d ++ a ++ y ++ 0#2)]
  | .linkq g d a => [opWord b 0#2 2#3 g 20#6 (d ++ a ++ 0#7)]
  | .linkset g d a => [opWord b 0#2 2#3 g 21#6 (d ++ a ++ 0#7)]
  | .opreq g a => [opWord b 0#2 2#3 g 22#6 (0#5 ++ a ++ 0#7)]
  | .job d => [opWord b 0#2 2#3 0#3 32#6 (d ++ 0#12)]
  | .task a => [opWord b 0#2 2#3 0#3 33#6 (0#5 ++ a ++ 0#7)]
  | .opt a y => [opWord b 0#2 2#3 0#3 34#6 (0#5 ++ a ++ y ++ 0#2)]
  | .depv i a => [opWord b 0#2 2#3 0#3 35#6 (0#3 ++ i ++ a ++ 0#7)]
  | .tset k a => [opWord b 0#2 2#3 0#3 36#6 (k ++ a ++ 0#7)]
  | .launch d a => [opWord b 0#2 2#3 0#3 37#6 (d ++ a ++ 0#7)]
  | .jwait d a => [opWord b 0#2 2#3 0#3 38#6 (d ++ a ++ 0#7)]
  | .notify a y => [opWord b 0#2 2#3 0#3 39#6 (0#5 ++ a ++ y ++ 0#2)]
  | .curveq d a => [opWord b 0#2 2#3 0#3 40#6 (d ++ a ++ 0#7)]
  | .caskout d a y c fl => [opWord b 1#2 2#3 0#3 41#6 (d ++ a ++ y ++ 0#2),
      tailWord (c ++ fl ++ 0#22)]
  | .caskin d a y c fl => [opWord b 1#2 2#3 0#3 42#6 (d ++ a ++ y ++ 0#2),
      tailWord (c ++ fl ++ 0#22)]
  | .vadd g d a y k => [opWord b 0#2 3#3 g 0#6 (d ++ a ++ y ++ k)]
  | .vsub g d a y k => [opWord b 0#2 3#3 g 1#6 (d ++ a ++ y ++ k)]
  | .vmul g d a y k => [opWord b 0#2 3#3 g 2#6 (d ++ a ++ y ++ k)]
  | .vfma g d a y k => [opWord b 0#2 3#3 g 3#6 (d ++ a ++ y ++ k)]
  | .vfms g d a y k => [opWord b 0#2 3#3 g 4#6 (d ++ a ++ y ++ k)]
  | .vmin g d a y k => [opWord b 0#2 3#3 g 5#6 (d ++ a ++ y ++ k)]
  | .vmax g d a y k => [opWord b 0#2 3#3 g 6#6 (d ++ a ++ y ++ k)]
  | .vabs g d a k => [opWord b 0#2 3#3 g 7#6 (d ++ a ++ 0#5 ++ k)]
  | .vneg g d a k => [opWord b 0#2 3#3 g 8#6 (d ++ a ++ 0#5 ++ k)]
  | .vand g d a y k => [opWord b 0#2 3#3 g 9#6 (d ++ a ++ y ++ k)]
  | .vor g d a y k => [opWord b 0#2 3#3 g 10#6 (d ++ a ++ y ++ k)]
  | .vxor g d a y k => [opWord b 0#2 3#3 g 11#6 (d ++ a ++ y ++ k)]
  | .vshl g d a y k => [opWord b 0#2 3#3 g 12#6 (d ++ a ++ y ++ k)]
  | .vshr g d a y k => [opWord b 0#2 3#3 g 13#6 (d ++ a ++ y ++ k)]
  | .vsha g d a y k => [opWord b 0#2 3#3 g 14#6 (d ++ a ++ y ++ k)]
  | .vaddx g d a y k => [opWord b 0#2 3#3 g 15#6 (d ++ a ++ y ++ k)]
  | .vmulx g d a y k => [opWord b 0#2 3#3 g 16#6 (d ++ a ++ y ++ k)]
  | .vfmax g d a y k => [opWord b 0#2 3#3 g 17#6 (d ++ a ++ y ++ k)]
  | .vcmpeq g d a y k => [opWord b 0#2 3#3 g 18#6 (0#2 ++ d ++ a ++ y ++ k)]
  | .vcmplt g d a y k => [opWord b 0#2 3#3 g 19#6 (0#2 ++ d ++ a ++ y ++ k)]
  | .vcmple g d a y k => [opWord b 0#2 3#3 g 20#6 (0#2 ++ d ++ a ++ y ++ k)]
  | .vcmpne g d a y k => [opWord b 0#2 3#3 g 21#6 (0#2 ++ d ++ a ++ y ++ k)]
  | .vsel g d a y k => [opWord b 0#2 3#3 g 22#6 (d ++ a ++ y ++ k)]
  | .vcvt g d a k sf df r t n => [opWord b 1#2 3#3 g 23#6 (d ++ a ++ 0#5 ++ k),
      tailWord (sf ++ df ++ r ++ t ++ n ++ 0#14)]
  | .vqnt g d a k ty au r x => [opWord b 1#2 3#3 g 24#6 (d ++ a ++ 0#5 ++ k),
      tailWord (ty ++ au ++ r ++ x ++ 0#18)]
  | .vdqnt g d a y k df => [opWord b 1#2 3#3 g 25#6 (d ++ a ++ y ++ k),
      tailWord (df ++ 0#25)]
  | .vexp2 g d a k => [opWord b 0#2 3#3 g 26#6 (d ++ a ++ 0#5 ++ k)]
  | .vlog2 g d a k => [opWord b 0#2 3#3 g 27#6 (d ++ a ++ 0#5 ++ k)]
  | .vrcp g d a k => [opWord b 0#2 3#3 g 28#6 (d ++ a ++ 0#5 ++ k)]
  | .vrsqrt g d a k => [opWord b 0#2 3#3 g 29#6 (d ++ a ++ 0#5 ++ k)]
  | .vtanh g d a k => [opWord b 0#2 3#3 g 30#6 (d ++ a ++ 0#5 ++ k)]
  | .vdot4 g d a y k => [opWord b 0#2 3#3 g 31#6 (d ++ a ++ y ++ k)]
  | .vredadd g d a k => [opWord b 0#2 3#3 g 32#6 (d ++ a ++ 0#5 ++ k)]
  | .vredmax g d a k => [opWord b 0#2 3#3 g 33#6 (d ++ a ++ 0#5 ++ k)]
  | .vredmin g d a k => [opWord b 0#2 3#3 g 34#6 (d ++ a ++ 0#5 ++ k)]
  | .vscanadd g d a k => [opWord b 0#2 3#3 g 35#6 (d ++ a ++ 0#5 ++ k)]
  | .vclass g d a k => [opWord b 0#2 3#3 g 36#6 (d ++ a ++ 0#5 ++ k)]
  | .vmulh g d a y k => [opWord b 0#2 3#3 g 37#6 (d ++ a ++ y ++ k)]
  | .vrndi g d a k => [opWord b 0#2 3#3 g 38#6 (d ++ a ++ 0#5 ++ k)]
  | .vld g d a i => [opWord b 0#2 4#3 g 0#6 (d ++ a ++ i)]
  | .vst g d a i => [opWord b 0#2 4#3 g 1#6 (d ++ a ++ i)]
  | .vlds g d a k x m o => [opWord b 1#2 4#3 g 2#6 (d ++ a ++ 0#5 ++ k),
      tailWord (x ++ m ++ o)]
  | .vsts g d a k x o => [opWord b 1#2 4#3 g 3#6 (d ++ a ++ 0#5 ++ k),
      tailWord (x ++ 0#8 ++ o)]
  | .vgath g d a y k => [opWord b 0#2 4#3 g 4#6 (d ++ a ++ y ++ k)]
  | .vscat g d a y k => [opWord b 0#2 4#3 g 5#6 (d ++ a ++ y ++ k)]
  | .vldq g d q y k => [opWord b 0#2 4#3 g 6#6 (d ++ 0#1 ++ q ++ y ++ k)]
  | .vstq g d q y k => [opWord b 0#2 4#3 g 7#6 (d ++ 0#1 ++ q ++ y ++ k)]
  | .vbcx g d a k => [opWord b 0#2 4#3 g 8#6 (d ++ a ++ 0#5 ++ k)]
  | .vextx g d a y => [opWord b 0#2 4#3 g 9#6 (d ++ a ++ y ++ 0#2)]
  | .vinsx g d a y => [opWord b 0#2 4#3 g 10#6 (d ++ a ++ y ++ 0#2)]
  | .vperm g d a y k => [opWord b 0#2 4#3 g 11#6 (d ++ a ++ y ++ k)]
  | .vslide g d a y k => [opWord b 0#2 4#3 g 12#6 (d ++ a ++ y ++ k)]
  | .vzip g d a y k => [opWord b 0#2 4#3 g 13#6 (d ++ a ++ y ++ k)]
  | .vunzip g d a y k => [opWord b 0#2 4#3 g 14#6 (d ++ a ++ y ++ k)]
  | .viota g d k => [opWord b 0#2 4#3 g 15#6 (d ++ 0#10 ++ k)]
  | .vmov g d a k => [opWord b 0#2 4#3 g 16#6 (d ++ a ++ 0#5 ++ k)]
  | .kand g d a y => [opWord b 0#2 4#3 g 17#6 (0#2 ++ d ++ 0#2 ++ a ++ 0#2 ++ y ++ 0#2)]
  | .kor g d a y => [opWord b 0#2 4#3 g 18#6 (0#2 ++ d ++ 0#2 ++ a ++ 0#2 ++ y ++ 0#2)]
  | .kxor g d a y => [opWord b 0#2 4#3 g 19#6 (0#2 ++ d ++ 0#2 ++ a ++ 0#2 ++ y ++ 0#2)]
  | .knot g d a => [opWord b 0#2 4#3 g 20#6 (0#2 ++ d ++ 0#2 ++ a ++ 0#7)]
  | .kpopc g d a => [opWord b 0#2 4#3 g 21#6 (d ++ 0#2 ++ a ++ 0#7)]
  | .kfirst g d a => [opWord b 0#2 4#3 g 22#6 (d ++ 0#2 ++ a ++ 0#7)]
  | .kmovx g d a => [opWord b 0#2 4#3 g 23#6 (d ++ 0#2 ++ a ++ 0#7)]
  | .xmovk g d a => [opWord b 0#2 4#3 g 24#6 (0#2 ++ d ++ a ++ 0#7)]
  | .vamadd g d a y k => [opWord b 0#2 4#3 g 25#6 (d ++ a ++ y ++ k)]
  | .vammin g d a y k => [opWord b 0#2 4#3 g 26#6 (d ++ a ++ y ++ k)]
  | .vcompress g d a k => [opWord b 0#2 4#3 g 27#6 (d ++ a ++ 0#5 ++ k)]
  | .vexpand g d a k => [opWord b 0#2 4#3 g 28#6 (d ++ a ++ 0#5 ++ k)]
  | .vsett g d a y => [opWord b 0#2 4#3 g 29#6 (d ++ a ++ y ++ 0#2)]
  | .mcall g j => [opWord b 0#2 5#3 g 0#6 (0#11 ++ j)]
  | .mparw g n a => [opWord b 0#2 5#3 g 1#6 (0#2 ++ n ++ a ++ 0#7)]
  | .mparr g d n => [opWord b 0#2 5#3 g 2#6 (d ++ 0#2 ++ n ++ 0#7)]
  | .mldj g d a j => [opWord b 0#2 5#3 g 3#6 (d ++ a ++ 0#1 ++ j)]
  | .mretire g d => [opWord b 0#2 5#3 g 4#6 (d ++ 0#12)]
  | .mfence g => [opWord b 0#2 5#3 g 5#6 (0#17)]
  | .mrot g a => [opWord b 0#2 5#3 g 6#6 (0#5 ++ a ++ 0#7)]
  | .mstat g d a => [opWord b 0#2 5#3 g 7#6 (d ++ a ++ 0#7)]
  | .cpy g d a y f l e h => [opWord b 1#2 6#3 g 0#6 (d ++ a ++ y ++ f),
      tailWord (l ++ e ++ h ++ 0#17)]
  | .cpyt g d a y f l e h => [opWord b 1#2 6#3 g 1#6 (d ++ a ++ y ++ f),
      tailWord (l ++ e ++ h ++ 0#17)]
  | .cpyg g d a y f l e h => [opWord b 1#2 6#3 g 2#6 (d ++ a ++ y ++ f),
      tailWord (l ++ e ++ h ++ 0#17)]
  | .cpys g d a y f l e h => [opWord b 1#2 6#3 g 3#6 (d ++ a ++ y ++ f),
      tailWord (l ++ e ++ h ++ 0#17)]
  | .cpym g d a y f l e m => [opWord b 1#2 6#3 g 4#6 (d ++ a ++ y ++ f),
      tailWord (l ++ e ++ m ++ 0#11)]
  | .cpyq g d a y f l e => [opWord b 1#2 6#3 g 5#6 (d ++ a ++ y ++ f),
      tailWord (l ++ e ++ 0#19)]
  | .cpya g d a y f l e t => [opWord b 1#2 6#3 g 6#6 (d ++ a ++ y ++ f),
      tailWord (l ++ e ++ t ++ 0#15)]
  | .cpf g d a f l e q => [opWord b 1#2 6#3 g 7#6 (d ++ a ++ 0#5 ++ f),
      tailWord (l ++ e ++ q ++ 0#17)]
  | .cph g d a y f l e dir tgt port rs => [opWord b 1#2 6#3 g 8#6 (d ++ a ++ y ++ f),
      tailWord (l ++ e ++ dir ++ tgt ++ port ++ rs ++ 0#11)]
  | .ccan g d a => [opWord b 1#2 6#3 g 9#6 (d ++ a ++ 0#7),
      tailWord (0#29)]
  | .cpub g d a f e => [opWord b 1#2 6#3 g 10#6 (d ++ a ++ 0#5 ++ f),
      tailWord (0#5 ++ e ++ 0#19)]
  | .cqry g d a => [opWord b 1#2 6#3 g 11#6 (d ++ a ++ 0#7),
      tailWord (0#29)]
  | .bdef g d a y l => [opWord b 1#2 6#3 g 12#6 (d ++ a ++ y ++ 0#2),
      tailWord (l ++ 0#24)]
  | .mod r t h f m => [prefixWord b 0#3 (r ++ t ++ h ++ 0#1 ++ f ++ m ++ 0#13)]
  | .imm i => [prefixWord b 1#3 (i)]
  | .xfer g t => [prefixWord b 2#3 (g ++ t ++ 0#1 ++ 0#20)]
  | .xferLink t => [prefixWord b 2#3 (0#3 ++ t ++ 1#1 ++ 0#20)]
  | .jLdw p f => [1#5 ++ (p ++ f ++ 0#20 : BitVec 27)]
  | .jSwapw => [2#5 ++ (0#27 : BitVec 27)]
  | .jSkipmap p => [3#5 ++ (p ++ 0#24 : BitVec 27)]
  | .jStrm p f k r o e m => [4#5 ++ (p ++ f ++ k ++ r ++ o ++ e ++ m ++ 0#2 : BitVec 27)]
  | .jAccz k t => [5#5 ++ (k ++ t ++ 0#25 : BitVec 27)]
  | .jLoop t c n => [6#5 ++ (t ++ c ++ 0#1 ++ n : BitVec 27)]
  | .jLoopReg t c r => [6#5 ++ (t ++ c ++ 1#1 ++ r ++ 0#13 : BitVec 27)]
  | .jAddp d i => [7#5 ++ (d ++ 0#1 ++ i : BitVec 27)]
  | .jAddpReg d a => [7#5 ++ (d ++ 1#1 ++ a ++ 0#20 : BitVec 27)]
  | .jWaitq q k n => [8#5 ++ (q ++ k ++ n ++ 0#12 : BitVec 27)]
  | .jAdvq q e n => [9#5 ++ (q ++ e ++ n ++ 0#12 : BitVec 27)]
  | .jBias e p => [10#5 ++ (e ++ p ++ 0#23 : BitVec 27)]
  | .jScale e => [11#5 ++ (0#1 ++ e ++ 0#18 : BitVec 27)]
  | .jScaleVec p => [11#5 ++ (1#1 ++ p ++ 0#23 : BitVec 27)]
  | .jRetire p f k r t o n => [12#5 ++ (p ++ f ++ k ++ r ++ t ++ o ++ n ++ 0#1 : BitVec 27)]
  | .jSig p n => [13#5 ++ (p ++ n : BitVec 27)]
  | .jEnd => [14#5 ++ (0#27 : BitVec 27)]
  | .railsetWrite => []
  | .railRampEnd => []
  | .freqLockDone => []
  | .gateHeldRelease => []
  | .ungateComplete => []
  | .thermalPoll => []
  | .mgmtFirmwareUpdate => []
  | .handover => []
  | .hbmChannelRetire => []
  | .linkctlGo => []
  | .linkTrainComplete => []
  | .routeRelease => []
  | .flitSend => []
  | .flitReceive => []
  | .replayRequest => []
  | .flitAck => []
  | .laneRetire => []
  | .drainMarkerAck => []
  | .drainTimeout => []
  | .permitGrant => []
  | .permitAudit => []
  | .replayWindowEnd => []
  | .peerPortDown => []
  | .peerstatWrite => []
  | .peerTrainComplete => []
  | .hostWriteTlp => []
  | .hostRead => []
  | .ingressStagingMove => []
  | .ingressStall => []
  | .pcieReset => []
  | .pcieLinkUp => []
  | .strmctlGo => []
  | .strmctlHalt => []
  | .streamRegWrite => []
  | .nqbaseWrite => []
  | .nqctlWrite => []
  | .nqheadWrite => []
  | .msixWindowClose => []
  | .msixVectorUnmask => []
  | .deviceStart => []
  | .bootReady => []
  | .auxPowerOn => []
  | .auxPowerOff => []
  | .sealGo => []
  | .sealComplete => []
  | .attestGo => []
  | .attestDone => []
  | .hostGroupApplied => []
  | .dispatch => []
  | .slabIssue => []
  | .heartbeat => []
  | .dieLost => []
  | .pointFire => []
  | .taskComplete => []
  | .defbudgetWrite => []
  | .curveGo => []
  | .curveVerifyDone => []
  | .curveInForce => []
  | .curveExpire => []
  | .fkeyInstall => []
  | .fkeyLock => []
  | .thermtabWrite => []
  | .maltsterLoop => []
  | .curtailmentEnd => []
  | .bandCheck => []
  | .parktask => []
  | .resumetask => []
  | .gatedie => []
  | .ungatedie => []
  | .draindie => []
  | .repairdie => []
  | .repairlink => []
  | .pwrcmdBadCode => []
  | .implicitPeg => []
  | .pegStall => []
  | .watchdogExpire => []
  | .rotationQuantumEnd => []
  | .bayRotateComplete => []
  | .freezeComplete => []
  | .loadDataArrive => []
  | .gaugeWake => []
  | .ticketBroadcast => []
  | .queueWaitComplete => []
  | .shadowLoadDone => []
  | .jigDepthExpire => []
  | .copyComplete => []
  | .cancelAck => []
  | .conflictRollback => []
  | .tsfloorPublish => []
  | .homeRd => []
  | .homeEx => []
  | .homeUp => []
  | .homeNr => []
  | .homeWb => []
  | .homeData => []
  | .ownerFwd => []
  | .bankHoldEnd => []
  | .cacheWriteback => []
  | .registerWrite => []
  | .destinationUnitWritten => []
  | .mgmtCoreReturn => []
  | .mainPowerOff => []
  | .remoteAnswerArrive => []

/-- The bundle-start bit of a word (R268). -/
def wordB (w : W32) : Bool := w.getLsbD 31
/-- The kind of a word (R268). -/
def wordK (w : W32) : Nat := (w.extractLsb' 29 2).toNat
/-- The fill word (R268). -/
def fillWord : W32 := 0xE0000000#32
/-- A word is the tail of a double-word op (R268). -/
def isTail (w : W32) : Bool := !wordB w && wordK w == 3

/-- The ops that take no guard (R274). -/
def Instr.guardless : Instr → Bool
  | .peg | .hwin | .endOp | .eret => true
  | .job .. | .task .. | .opt .. | .depv .. | .tset .. | .launch .. | .jwait .. | .notify ..
  | .curveq .. | .caskout .. | .caskin .. => true
  | _ => false

/-- Judges a single-word op: reserved values, then guard, format, rounding and MBZ (R289). -/
def judgeSingle (b : Bool) (i : Instr) (w : W32) : Except (Nat × Reject) Unit :=
  if i.fieldReserved then .error (0, .reservedOp)
  else if i.guardless && w.extractLsb' 23 3 != 0#3 then .error (0, .guardInvalid)
  else if i.roundingReserved then .error (0, .roundingReserved)
  else if i.mbzNonzero || encode b i != [w] then .error (0, .nonzeroMbz)
  else .ok ()

/-- Judges a double-word op: the head's guard and MBZ at the head, then the tail's fields at the tail
(R288, R289). -/
def judgeDouble (b : Bool) (i : Instr) (w t : W32) : Except (Nat × Reject) Unit :=
  if i.guardless && w.extractLsb' 23 3 != 0#3 then .error (0, .guardInvalid)
  else if (encode b i).head? != some w then .error (0, .nonzeroMbz)
  else if i.fieldReserved then .error (1, .reservedOp)
  else if i.formatReserved then .error (1, .formatReserved)
  else if i.roundingReserved then .error (1, .roundingReserved)
  else if i.mbzNonzero || encode b i != [w, t] then .error (1, .nonzeroMbz)
  else .ok ()

/-- Reads one instruction or prefix from the front of a list of words: its B bit, what it is, and the
words after it; or the refusal, with the index of the word refused (R268 to R289). -/
def decodeWords : List W32 → Except (Nat × Reject) (Bool × Instr × List W32)
  | [] => .error (0, .noWord)
  | w :: rest =>
    let cl := (w.extractLsb' 26 3).toNat
    let op := (w.extractLsb' 17 6).toNat
    match wordK w with
    | 0 =>
      if cl = 7 then .error (0, .reservedClass)
      else match decodeSingle cl op w with
        | none => .error (0, .reservedOp)
        | some i =>
          match judgeSingle (wordB w) i w with
          | .error e => .error e
          | .ok _ => .ok (wordB w, i, rest)
    | 1 =>
      match rest with
      | [] => .error (0, .headWithoutTail)
      | t :: rest' =>
        if !isTail t then .error (0, .headWithoutTail)
        else if cl = 7 then .error (0, .reservedClass)
        else match decodeDouble cl op w t with
          | none => .error (0, .reservedOp)
          | some i =>
            match judgeDouble (wordB w) i w t with
            | .error e => .error e
            | .ok _ => .ok (wordB w, i, rest')
    | 2 =>
      match decodePrefix cl w with
      | none => .error (0, .reservedClass)
      | some i =>
        if cl = 2 && w.extractLsb' 20 1 == 1#1 && w.extractLsb' 23 3 != 0#3 then .error (0, .guardInvalid)
        else match judgeSingle (wordB w) i w with
          | .error e => .error e
          | .ok _ => .ok (wordB w, i, rest)
    | _ =>
      if w = fillWord then .error (0, .fillWord)
      else if wordB w then .error (0, .badFill)
      else .error (0, .tailWithoutHead)

/-- Reads one micro-word of a jig (R377, R389). -/
def decodeJig (w : W32) : Except Reject Instr :=
  match decodeJigFields w with
  | none => .error .jigInvalid
  | some i => if i.jigReserved || encode false i != [w] then .error .jigInvalid else .ok i

/-- An op of a bundle with the prefixes that apply to it (R278), or an XFER. -/
structure Group where
  mods : List Instr
  op : Instr
  deriving DecidableEq, Repr

/-- A prefix of a run against the op that follows it (R275, R276, R278). -/
def Instr.refusesPrefix (i : Instr) : Instr → Option Reject
  | .mod r t h f m => i.modRefused r t h f m
  | .imm _ => if i.takesImm then none else some .orphanPrefix
  | _ => some .orphanPrefix

/-- Two prefixes are of one kind. -/
def samePrefix : Instr → Instr → Bool
  | .mod .., .mod .. => true
  | .imm .., .imm .. => true
  | _, _ => false

/-- The op's slots: 0 for S, 1 for V, 2 for M, 3 for C, 4 for the XFER (R172, R280). -/
def Instr.slotClass (i : Instr) : Nat :=
  match i.cls with
  | 0 | 1 | 2 => 0
  | 3 | 4 => 1
  | 5 => 2
  | 6 => 3
  | _ => 4

/-- How many ops of each kind of slot a bundle may hold (R279). -/
def slotLimit : Nat → Nat
  | 0 => 1 | 1 => 2 | 2 => 1 | 3 => 2 | _ => 1

/-- The bundle that starts a list of words: its first word and the words with B = 0 after it (R269). -/
def bundleWords : List W32 → List W32
  | [] => []
  | w :: rest => w :: rest.takeWhile (fun v => !wordB v)

/-- Reads the ops of one bundle with their prefixes (R269, R278, R279); `fuel` bounds its words. -/
def parseGroups : Nat → List Instr → List W32 → Except Reject (List Group)
  | 0, _, _ => .error .noWord
  | fuel + 1, run, ws =>
    match ws with
    | [] => if run.isEmpty then .ok [] else .error .orphanPrefix
    | _ :: _ =>
      match decodeWords ws with
      | .error e => .error e.2
      | .ok (_, i, rest) =>
        if i.cls = 8 then
          if run.any (samePrefix i) then .error .orphanPrefix
          else parseGroups fuel (run ++ [i]) rest
        else if i.cls = 9 then
          if !run.isEmpty then .error .orphanPrefix
          else if !rest.isEmpty then .error .xferNotLast
          else .ok [⟨[], i⟩]
        else
          match run.findSome? i.refusesPrefix with
          | some r => .error r
          | none =>
            match parseGroups fuel [] rest with
            | .error r => .error r
            | .ok gs => .ok (⟨run, i⟩ :: gs)

/-- The ops of one kind of slot, in word order. -/
def opsOf (gs : List Group) (slot : Nat) : List Group := gs.filter (fun g => g.op.slotClass == slot)

/-- Reads a bundle whose words are the front of `ws`: its ops in the order of the slots S, V0, V1, M,
C0, C1 with an XFER last (R172, R173), and its length in words. -/
def parseBundle (ws : List W32) : Except Reject (List (Nat × Group) × Nat) :=
  let bw := bundleWords ws
  match parseGroups 9 [] bw with
  | .error r => .error r
  | .ok gs =>
    if [0, 1, 2, 3].any (fun k => decide (slotLimit k < (opsOf gs k).length)) then
      .error .slotOversubscribed
    else
      let number := fun (first : Nat) (l : List Group) => (List.range l.length).map (· + first) |>.zip l
      .ok (number 0 (opsOf gs 0) ++ number 1 (opsOf gs 1) ++ number 3 (opsOf gs 2)
        ++ number 4 (opsOf gs 3) ++ number 6 (opsOf gs 4), bw.length)

/-- The words of a number of `nbits` bits, word 0 the least significant, and two words of zeros. -/
def tableWords (nbits w : Nat) : List W32 :=
  (List.range (ceilDiv nbits 32)).map (fun i => BitVec.ofNat 32 (w / 2 ^ (32 * i))) ++ [0#32]

/-- What the decoder reads from the bits of an opcode-table row. Micro-words have their own encoding
(R377) and always have bit 31 zero: a number with bit 31 zero that is a valid micro-word is read as
one, but for program words with guard and low 17 bits zero other than J.SWAPW's; every other number is
read as a program word (log entry 11). -/
def decodeTableWord (nbits w : Nat) : Option Instr :=
  let ws := tableWords nbits w
  let program := match decodeWords ws with
    | .ok (_, i, _) => some i
    | .error _ => none
  match ws.head?.map decodeJig with
  | some (.ok i) =>
    if i ≠ .jSwapw ∧ (nth ws 0 0#32 &&& 0x0381FFFF#32) = 0#32 then some (program.getD i) else some i
  | _ => program

end Sys2Proof
end

