-- ==== Sys2Proof/Machine/State.lean ====
section
/-! DEFINITION. The machine's state as plain data, its stops, and the state after reset. INVENTORY.md
lists every field with its rule and its reset value. -/

namespace Sys2Proof.Machine

/-- Why a run stops with a fault: no step does. An exception of the spec is a next state, and a breach of a "must"
stays with its own context (R2, log entry 27). -/
inductive Fault where
  deriving DecidableEq, Repr

/-- Why an instruction has no meaning. -/
inductive Refusal where
  /-- Raised by the dispatcher for a row of the table that has no meaning yet. Safe. -/
  | notModelled (mnemonic : String)
  deriving DecidableEq, Repr

/-! ### Registers of a sequencer -/

/-- A target-buffer entry (R183). -/
structure Target where
  addr : BitVec 52 := 0#52
  prepared : Bool := false
  /-- cycles that an XFER of the bundle at pc stalls for the target's packet (R183) -/
  fetching : Nat := 0
  deriving DecidableEq, Repr

/-- A queue handle (R185, R186); SIZE 0 is uninitialised. HEAD and TAIL count modulo 2 × SIZE. -/
structure Queue where
  base : Nat := 0
  size : Nat := 0
  head : Nat := 0
  tail : Nat := 0
  prodEngine : Bool := false
  consEngine : Bool := false
  /-- QINIT has set it since the last peg (R136, R186) -/
  fresh : Bool := false
  deriving DecidableEq, Repr

/-- Cause and TRAPINFO of a synchronous trap (R142, R145). -/
structure TrapRec where
  cause : BitVec 8
  info : W64
  deriving DecidableEq, Repr

/-- Where a result goes when it lands (R173, R176), with its value. -/
inductive Dest where
  | x (i : BitVec 5) (v : W64)
  | p (i : BitVec 3) (v : Bool)
  /-- a v result with its byte mask (R158, R342) -/
  | v (i : BitVec 5) (v : VReg) (mask : BitVec 256)
  | k (i : BitVec 3) (v : W64)
  | q (i : BitVec 4) (v : Queue)
  | qHead (i : BitVec 4) (n : Nat)
  | qTail (i : BitVec 4) (n : Nat)
  | mp (i : BitVec 3) (v : W64)
  | mpShadow (i : BitVec 3) (v : W64)
  /-- a control register (R180) -/
  | csr (n : Nat) (v : W64)
  /-- the status of a PHASE, whose landing ends the conversion of raised slices (R207) -/
  | phase (i : BitVec 5) (v : W64)
  /-- flags alone, with no register result (R339, R179) -/
  | flagsOnly
  deriving DecidableEq, Repr

/-- What a result that has not arrived waits for: data, the cancel of a copy's handle (R392, R403), a job
(R335), a freeze (R336). -/
inductive Awaits where
  | data
  | cancel (handle : Nat)
  | job
  /-- the answer to a CASKOUT of a task, by its place among those of the freeze (R336) -/
  | freeze (id place : Nat)
  deriving DecidableEq, Repr

/-- A result issued and not yet landed (R158, R176). -/
structure Pending where
  dest : Dest
  togo : Nat
  flags : BitVec 6 := 0#6
  /-- the data has arrived in the entry (R177) -/
  arrived : Bool := true
  /-- a fault found on the data (R223) -/
  bad : Option TrapRec := none
  awaits : Awaits := .data
  /-- the slot of its op, by which a cask orders entries (R158) -/
  slot : Nat := 0
  /-- the cause of R213 that a freeze for its data is charged to: 0 poison, 1 ECC retry, 2 refresh management,
  3 LPDDR-6 busy, 4 other -/
  why : Nat := 4
  deriving DecidableEq, Repr

/-- The registers that point mode, frame mode and a command sequencer each have of their own (R178,
R144, R299). -/
structure Scalar where
  x : Vector W64 32 := Vector.replicate 32 0#64
  /-- p0 to p7; bit 0 reads 1 and bit 1 reads 0 -/
  p : BitVec 8 := 1#8
  tb : Vector Target 4 := Vector.replicate 4 {}
  pc : BitVec 52 := 0#52
  pend : List Pending := []
  /-- entries of the landing buffer that the results landing at the bundle at pc still hold (R431) -/
  just : Nat := 0
  deriving DecidableEq, Repr

/-- Flags, rounding mode and stochastic rounding (R182, R257). -/
structure Arith where
  fflags : BitVec 6 := 0#6
  frm : BitVec 3 := 0#3
  srseed : W32 := 1#32
  lfsr : W32 := 1#32
  deriving DecidableEq, Repr

/-- What the peg state of a core records (R135). -/
structure Regs where
  sc : Scalar := {}
  ar : Arith := {}
  v : Vector VReg 32 := Vector.replicate 32 0#2048
  k : Vector W64 8 := (Vector.replicate 8 0#64).set 0 (BitVec.allOnes 64)
  q : Vector Queue 16 := Vector.replicate 16 {}
  mp : Vector W64 8 := Vector.replicate 8 0#64
  mpNext : Vector W64 8 := Vector.replicate 8 0#64
  mpFilled : Bool := false
  /-- VTYPE.LANES and VTYPE.FMT (R181) -/
  lanes : BitVec 7 := 0#7
  fmt : BitVec 4 := 6#4
  hwinst : W64 := 0#64
  linksub : W64 := 0#64
  dslices : Nat := 0
  /-- slices being raised, until the PHASE result lands (R207, R208) -/
  raised : List Nat := []
  /-- a PHASE result has not landed (R207) -/
  phaseBusy : Bool := false
  deriving DecidableEq, Repr

/-! ### Memory as cores reach it -/

/-- Stores of one timestamp to a line of the withheld-store buffer, or a call's retirement writes (R136, R227,
R385): the line's number, the timestamp, the new bytes by offset, the leaf whose page a release makes dirty
(R169). -/
structure WLine where
  line : Nat
  wts : Nat
  bytes : List (Nat × Byte)
  leaf : Option Nat := none
  /-- further leaves through which stores of the entry reached the line (R169) -/
  others : List Nat := []
  /-- a retirement write, which occupies no line of the buffer -/
  retire : Bool := false
  /-- a fault found on the ownership fetch (R223) -/
  bad : Option TrapRec := none
  /-- TRAPINFO of the store, for a fault found later (R145, R203) -/
  info : W64 := 0#64
  deriving DecidableEq, Repr

/-- A copy of a line in an L1 cache (R209, R227): its WTS, the end of its lease, its bytes, its retention
(R210), whether it only carries the answer to one access, the error its data met (R221). -/
structure L1Copy where
  line : Nat
  wts : Nat
  rts : Nat
  data : List Byte
  prio : Nat := 1
  once : Bool := false
  bad : Option Nat := none
  /-- the core owns the line, whose data is then the owner's (R230) -/
  own : Bool := false
  deriving DecidableEq, Repr

/-- A line that a memory-side cache holds, with its retention: 0 lowest, 1 normal, 2 highest (R209, R210). -/
structure CacheLine where
  line : Nat
  prio : Nat := 1
  deriving DecidableEq, Repr

/-- A TLB entry (R204): context, first byte and log2 size of the page, the leaf used and its place. -/
structure TlbEntry where
  stream : Nat
  base : Nat
  bits : Nat
  leaf : Nat
  at_ : Nat
  /-- the TLB that holds it: that of a core by its number, the shared one of a die by 640 plus the die's (R204) -/
  unit : Nat := 640
  deriving DecidableEq, Repr

/-- The requests a home takes (R230). -/
inductive ReqKind where
  | rd | ex | up | nr
  deriving DecidableEq, Repr

/-- A request at a home: its core, or 640 plus the stream of a command sequencer, its hint (R210) and the leaf that maps
its page. -/
structure Req where
  kind : ReqKind
  core : Nat
  hint : Nat := 0
  leaf : Option Nat := none
  deriving DecidableEq, Repr

/-- The state of a line's home (R230). -/
inductive Home where
  | idle
  | excl (owner : Nat)
  | fetch (owner : Nat) (req : Req)
  deriving DecidableEq, Repr

/-- Timestamps and home of a line (R227, R230). -/
structure LineRec where
  wts : Nat := 0
  rts : Nat := 0
  home : Home := .idle
  queue : List Req := []
  /-- a FWD has been sent to the owner and not yet answered or dropped -/
  fwd : Option Nat := none
  /-- the error that the owner's exclusive fetch met (R223) -/
  bad : Option Nat := none
  deriving DecidableEq, Repr

/-- The atomic operations (R312, R358, R400). -/
inductive AtomOp where
  | add | smin | umin | smax | umax | and | or | xor | swap | fadd | fmin
  deriving DecidableEq, Repr

/-- A no-return atomic that has left its core and not yet been applied (R234). -/
structure NrAtom where
  op : AtomOp
  pa : Nat
  width : Nat
  operand : Nat
  leaf : Option Nat
  /-- the core's PTS at its issue (R234) -/
  pts : Nat := 0
  deriving DecidableEq, Repr

/-! ### The matrix unit -/

/-- A weight plane (R190, R193): format, the tile's bytes, the skip map. -/
structure Plane where
  fmt : Nat
  data : List Byte
  skip : Nat := 0
  deriving DecidableEq, Repr

/-- An accumulator bank (R191): i32 or fp32, and its rows; a row not listed holds zeros. -/
structure Bank where
  int : Bool := false
  rows : List (Nat × List W32) := []
  deriving DecidableEq, Repr

/-- The scale of a call (R384). -/
inductive Scale where
  | pow2 (e : Int)
  | vec (s : List W32)
  deriving DecidableEq, Repr

/-- One half of a swap buffer, held by a call (R195): stream, half A's address, which half. -/
structure Hold where
  stream : Nat
  bufA : Nat
  halfB : Bool
  deriving DecidableEq, Repr

/-- A matrix call (R374). -/
structure Call where
  jig : Nat
  idx : Nat := 0
  jp : Vector W64 8
  lc : Vector (Option Nat) 4 := Vector.replicate 4 none
  /-- the pointer J.BIAS has set (R384) -/
  bias : Option W64 := none
  scale : Scale := .pow2 0
  cycles : Nat := 0
  passes : Nat := 0
  /-- the captured parameter set (R366) -/
  mp : Vector W64 8
  /-- memory as the call's operand reads see it: as at its issue (R237) -/
  snap : List Host.Cell
  /-- swap-buffer live halves as at its issue (R236, R237) -/
  live : List Hold := []
  holds : List Hold := []
  /-- the line whose withheld store its next micro-word, or its completion, waits for (R232) -/
  stuck : Option Nat := none
  /-- elements that the J.RETIRE in progress has written, under SR (R257, R385) -/
  retired : Nat := 0
  /-- it has ended with this code, and its gauge's line keeps the addition waiting -/
  ending : Option Nat := none
  /-- jig pointers that were queue references and no longer are (R382) -/
  spoilt : List Nat := []
  /-- the rounding mode of the J.RETIRE in progress, as at its issue (R256) -/
  rmode : Option Nat := none
  deriving DecidableEq, Repr

/-- A loaded jig (R373). -/
structure Jig where
  depth : Nat
  words : List W32
  deriving DecidableEq, Repr

/-- The matrix unit of a core (R189 to R195). -/
structure Matrix where
  cur : Option Plane := none
  shadow : Option Plane := none
  /-- a shadow load runs (R190) -/
  loading : Bool := false
  /-- the cycles it still takes (R190, R375) -/
  loadLeft : Nat := 0
  /-- a load has ended and not been swapped in (R378) -/
  loaded : Bool := false
  bank0 : Bank := {}
  bank1 : Bank := {}
  call : Option Call := none
  queued : Option Call := none
  /-- holds kept after CHECK (R195) -/
  kept : List Hold := []
  mrot : Nat := 0
  mstat : BitVec 9 := 0#9
  lastCode : Nat := 0
  deriving DecidableEq, Repr

/-! ### The tile-walk engine -/

/-- A copy command (R196, R391): its slot and handle, the words as executed, the registers a, b, L, G
at issue, how far it has come. -/
structure Copy where
  slot : Nat
  handle : Nat
  head : W32
  tail : W32
  ra : W64
  rb : W64
  rl : W64
  rg : W64
  started : Bool
  /-- issued since the core's last peg (R141) -/
  sincePeg : Bool
  /-- leading destination bytes written and counted (R198) -/
  done : Nat := 0
  /-- bytes written to a swap buffer's shadow half and not yet counted (R394) -/
  shadowBytes : List (Nat × Byte) := []
  stream : Nat
  lbay : Nat := 0
  lcid : Nat := 0
  task : Option Nat := none
  coord : List Nat := []
  ended : Bool := false
  cancelling : Bool := false
  /-- issued in frame mode or by a command sequencer (R202) -/
  frame : Bool := false
  /-- NLBAY of its task at issue (R205) -/
  nlbay : Nat := 0
  /-- the aligned source units it has read, each at one logical time (R235) -/
  units : List (Nat × List Byte) := []
  /-- bytes of those units whose data has an error, with its code (R221) -/
  bads : List (Nat × Nat) := []
  /-- the latest logical time of its reads and writes so far (R235, R238) -/
  top : Nat := 0
  /-- bytes written and not yet counted: a core withholds a store to the gauge's line (R198, R232, R238) -/
  owed : Nat := 0
  /-- the code it fails with, while its gauge's line keeps it waiting (R224) -/
  failing : Option Nat := none
  /-- the smallest scope of R240 that covers something it has written; 5 where it has written nothing -/
  scope : Nat := 5
  /-- the die whose TLB translates for it: that of its core, or of its stream's hub (R204) -/
  die : Nat := 0
  /-- its place in the order of issue of its engine (R197, R404) -/
  ord : Nat := 0
  /-- the line on whose held bank it is counted as waiting (R218) -/
  heldAt : Option Nat := none
  /-- units whose data has reached the consumer as flits, with their permits spent (R44) -/
  landed : Nat := 0
  deriving DecidableEq, Repr

/-- What the last command of a slot left (R405). -/
structure LastCopy where
  handle : Nat
  code : Nat
  done : Nat
  deriving DecidableEq, Repr

/-- A tile-walk engine (R196, R197). -/
structure Engine where
  copies : List Copy := []
  seqNo : Nat := 0
  /-- the commands issued to it -/
  count : Nat := 0
  last : List (Nat × LastCopy) := []
  deriving DecidableEq, Repr

/-! ### Cores and command sequencers -/

/-- The asynchronous traps (R147). -/
inductive AsyncKind where
  | preempt | curtail | cancel | linkEvent
  deriving DecidableEq, Repr

/-- A pending asynchronous trap with its TRAPINFO (R47, R147). -/
structure AsyncTrap where
  kind : AsyncKind
  info : W64 := 0#64
  /-- it has arrived since the core's last step (R146) -/
  fresh : Bool := true
  deriving DecidableEq, Repr

/-- Why a sequencer does not issue (R139, R175, R177). -/
inductive Wait where
  | none
  /-- a line whose home cannot answer at once: the request it makes there (R230 to R232) -/
  | line (n : Nat) (req : Req)
  /-- a no-return atomic not yet applied (R234) -/
  | atomics
  /-- GWAIT or AWAIT on a gauge word: its cell, whether a wake event has come, whether it is AWAIT -/
  | gauge (pa : Nat) (woken yields : Bool)
  /-- AWAIT before its first evaluation: copies into the own queue store (R316) -/
  | copies
  | ticket (pa : Nat) (broadcast : Bool)
  | queue
  /-- an outstanding matrix call (R365, R368 to R370) -/
  | call
  /-- a peg that waits for a matrix call (R137, R140) -/
  | peg
  | landing
  | copySlots
  | fence
  | hwin
  /-- frozen for data that has not arrived (R137, R177) -/
  | late
  /-- the stream is held in WAIT by JOB, LAUNCH, JWAIT or NOTIFY (R335) -/
  | table
  deriving DecidableEq, Repr

/-- A physical core (R11, R178). -/
structure Core where
  /-- the registers of point mode as they stand -/
  pt : Regs := {}
  /-- the peg state; its pc is PEGADDR (R135) -/
  peg : Regs := {}
  /-- frame mode's own registers (R144) -/
  fr : Scalar := {}
  frame : Bool := false
  trapCause : BitVec 8 := 0#8
  trapAddr : BitVec 52 := 0#52
  trapInfo : W64 := 0#64
  wdog : BitVec 16 := 50#16
  frameVec : BitVec 52 := 0#52
  /-- LCID, LBAY, NLCORE, TASKID, PT0 to PT3 (R82, R180) -/
  lcid : Nat := 0
  lbay : Nat := 0
  nlcore : Nat := 0
  taskId : Nat := 0
  coord : Vector W64 4 := Vector.replicate 4 0#64
  /-- the point the core holds: its task and coordinates -/
  point : Option (Nat × List Nat) := none
  /-- the variant that point runs (R82, R120) -/
  variant : Nat := 0
  /-- the context (R57) and job of that point -/
  stream : Nat := 0
  job : Nat := 0
  pts : Nat := 0
  cyc : Nat := 0
  /-- retired bundles modulo 1,024 (R228) -/
  retired : Nat := 0
  withheld : List WLine := []
  nr : List NrAtom := []
  /-- the latest logical time of its applied no-return atomics (R234, R245) -/
  nrTop : Nat := 0
  /-- the latest logical time of the writes of its finished commands, by the smallest scope of R240 that
  covers one of them -/
  wrote : Vector Nat 5 := Vector.replicate 5 0
  async : List AsyncTrap := []
  wait : Wait := .none
  /-- the wait of the bundle at pc has ended by a wake event (R244) -/
  woken : Bool := false
  /-- the gauge word whose condition the bundle at pc has found not met while its peg waits (R244, R315) -/
  polled : Option Nat := none
  /-- the single resume wake-up is owed (R168) -/
  owed : Bool := false
  /-- the core stands at its peg for a freeze or a rotation (R147, R152) -/
  frozen : Bool := false
  /-- its logical bay has been asked to rotate out (R152) -/
  rotate : Bool := false
  /-- END has committed with a call of its own bundle, which still runs (R98, R323, log entry 89) -/
  ending : Bool := false
  wdogTicks : Nat := 0
  stallTicks : Nat := 0
  /-- LATE_POISON, LATE_ECCRETRY, LATE_RFM, LATE_BUSY, LATE_OTHER (R214) -/
  late : Vector Nat 5 := Vector.replicate 5 0
  /-- ticks of the freeze in progress, not yet charged, and the first of its causes so far (R213) -/
  lateTicks : Nat := 0
  lateWhy : Nat := 4
  /-- its point comes from a cask and has not come to a physical core since (R248) -/
  resumed : Bool := false
  /-- slices lowered since the last peg (R207) -/
  lowered : List Nat := []
  mx : Matrix := {}
  jigs : List (Nat × Jig) := []
  eng : Engine := {}
  l1 : List L1Copy := []
  /-- the sealed lines its instruction cache holds, the newest last (R209) -/
  ic : List Nat := []
  deriving DecidableEq, Repr

/-- The command sequencer of a stream (R299, R334). -/
structure Seq where
  sc : Scalar := {}
  ar : Arith := {}
  pts : Nat := 0
  cyc : Nat := 0
  agelim : BitVec 8 := 16#8
  /-- the staging record of 256 bytes (R334), bit 8i its byte i's lowest -/
  staging : BitVec 2048 := 0#2048
  /-- the job a JWAIT holds the stream for, whose code goes to the pending result (R335) -/
  jwait : Option Nat := none
  wait : Wait := .none
  woken : Bool := false
  /-- as for a core (R240) -/
  wrote : Vector Nat 5 := Vector.replicate 5 0
  eng : Engine := {}
  deriving DecidableEq, Repr

/-! ### The bundle being issued -/

/-- The MOD prefix of the op being issued (R275). -/
structure ModField where
  rnd : BitVec 3
  sat : BitVec 2
  hint : BitVec 2
  fmt : BitVec 4
  mh : Bool
  deriving DecidableEq, Repr

/-- What a bundle has met while its ops are taken one after another: prefixes of the next op, the slot
of the op, the transfer it makes, the first trap, the first stall, its address and the next one. -/
structure Bundle where
  mod : Option ModField := none
  imm : Option (BitVec 26) := none
  slot : Nat := 0
  /-- the op's head is the bundle's first word, whose B is 1 (R269) -/
  first : Bool := false
  xfer : Option (BitVec 52) := none
  trap : Option TrapRec := none
  stall : Wait := .none
  /-- the bundle commits a peg (R135, R138) -/
  peg : Bool := false
  /-- an asynchronous trap arrives in its cycle (R146) -/
  meets : Bool := false
  /-- ERET has been issued -/
  eret : Bool := false
  /-- END has been issued -/
  ended : Bool := false
  /-- the hint that the op's own F field gives (R210) -/
  hint : Option Nat := none
  /-- what a trapping DIRTYH has harvested and written stays (R331) -/
  keep : Bool := false
  pc : BitVec 52 := 0#52
  next : BitVec 52 := 0#52
  deriving DecidableEq, Repr

/-! ### Which step is next -/

/-- What a step of the device takes from outside (log entry 1); each meaning says which fields it reads. -/
structure EventIn where
  n1 : Nat := 0
  n2 : Nat := 0
  n3 : Nat := 0
  n4 : Nat := 0
  v : W64 := 0#64
  ok : Bool := false
  ok2 : Bool := false
  ok3 : Bool := false
  nums : List Nat := []
  pairs : List (Nat × Nat) := []
  bytes : List Byte := []
  temps : List (Option Int) := []
  who : Agent := .core 0
  deriving DecidableEq, Repr

/-- One turn of the agenda: a step of the device with its inputs, a step of an agent, or the passing
of reference ticks. -/
inductive Turn where
  | event (i : Instr) (inp : EventIn)
  | agent (a : Agent)
  | pass (ticks : Nat)
  /-- a bay is serviced: a jig block is loaded into the jig stores of its cores (R27, log entry 106) -/
  | reload (bay : Nat) (block : List Byte)
  deriving DecidableEq, Repr
/-! ### Package, fabric, host, tables: the device beside the cores -/

/-- A rail (R17, R18): its ramp runs from `start_` mV at time-base µs `since` towards TARGET. -/
structure Rail where
  target : Nat
  start_ : Nat
  since : Nat := 0
  busy : Bool := false
  err : Bool := false
  deriving DecidableEq, Repr

/-- Rail and step of a physical bay (R19, R20, R125, R132). -/
structure BayPower where
  vl : Bool := false
  step : Nat := 0
  reqVl : Bool := false
  reqStep : Nat := 0
  /-- no faster than this step while a change of entry has not taken effect (R122) -/
  slow : Nat := 0
  rampw : Bool := false
  /-- a frequency lock in progress: the new rail and step (R20) -/
  lock : Option (Bool × Nat) := none
  /-- the bay's calibrated minima by step, where they differ from the nominal (R19) -/
  minima : List (Nat × Nat) := []
  /-- the core map marks a core of the bay disabled (R70) -/
  disabled : Bool := false
  deriving DecidableEq, Repr

/-- Power of a compute die (R22, R23); a die whose drain before gating runs is gating. -/
inductive DiePower where
  | on | gating | gated | ungating
  deriving DecidableEq, Repr

/-- A compute die (R22, R23, R88). -/
structure Die where
  power : DiePower := .on
  lost : Bool := false
  /-- a gate command held for the 250 µs of R22 -/
  held : Bool := false
  /-- heartbeats missing in a row, and whether one has reached a hub since the last was due (R88) -/
  missed : Nat := 0
  beat : Bool := true
  /-- REPAIRDIE is in progress (R133) -/
  repair : Bool := false
  /-- the drain before its gating is over (R22) -/
  drained : Bool := false
  /-- it failed self-test and stays gated: only a host command ungates it (R21, R23) -/
  failed : Bool := false
  /-- when its last heartbeat was due (10 µs periods) and its last permit audit began (µs) (R45, R88) -/
  beatAt : Option Nat := none
  auditAt : Nat := 0
  deriving DecidableEq, Repr

/-- The management cores (R15, R28). -/
structure Mgmt where
  primary : Nat := 0
  out : Option Nat := none
  /-- the primary role is being handed over -/
  moving : Bool := false
  heldCurve : Bool := false
  heldCmds : List (Nat × Nat) := []
  deriving DecidableEq, Repr

/-- A diode (R25, R26): reading in 0.25 °C, invalid polls in a row, which of advise, hold and park stand
crossed. -/
structure Diode where
  reading : Int := 0
  invalid : Nat := 0
  fault : Bool := false
  advise : Bool := false
  hold : Bool := false
  park : Bool := false
  deriving DecidableEq, Repr

/-- The module (01). -/
structure Package where
  vh : Rail := { target := 920, start_ := 920 }
  vl : Rail := { target := 700, start_ := 700 }
  bays : List (Nat × BayPower) := []
  dies : List (Nat × Die) := []
  /-- tick of the last gating (R22) -/
  lastGate : Option Nat := none
  mgmt : Mgmt := {}
  diodes : List (Nat × Diode) := []
  /-- the 100 µs period of the last poll (R25) -/
  pollAt : Option Nat := none
  deriving DecidableEq, Repr

/-- What a flit carries (R35). -/
inductive Body where
  /-- a message the links do not look into: by its channel a request, a response or management traffic -/
  | data (tag : W64)
  /-- engine data of a command of an agent's engine, by its handle, for a queue or a swap buffer by its number, or for
  memory, on channel 2 -/
  | engine (a : Agent) (handle : Nat) (consumer : Option Nat)
  /-- a permit on its way to an on-chip link, by the link's and its consumer's number, on channel 2 -/
  | grant (key : Nat)
  /-- a die's heartbeat, on channel 3 (R88) -/
  | beat
  /-- a drain marker, on the channel it drains (R42) -/
  | marker (drain : Nat)
  /-- its acknowledgement, on channel 3: drain number, source router and channel (R42) -/
  | ack (drain router chan : Nat)
  /-- bytes that a partner's copy writes at an address of a stream's context, on channel 2 (R52, R402) -/
  | peer (stream va : Nat) (bytes : List Byte)
  /-- `n` bytes that a partner's copy asks for there (R402) -/
  | peerRead (stream va n : Nat)
  /-- the answer to either: a code, 0 where nothing is refused, and the bytes asked for (R402) -/
  | answer (code : Nat) (bytes : List Byte)
  deriving DecidableEq, Repr

/-- A flit (R36, R37): sequence number, channel, source and destination (dies 0 to 9, hubs 10 and 11, the partner on
peer port p 12 + p), the routers at which it starts and ends, the link by which it leaves the die that it crosses, the
links it has taken; its place in the order of injection, by which a drain marker knows the messages before it (R42). -/
structure Flit where
  seq : Nat := 0
  stamp : Nat := 0
  chan : Nat
  src : Nat
  dst : Nat
  /-- 64 × place + router of the source; 1,280 + die for its dispatcher -/
  fromR : Nat := 0
  /-- the router of the destination die -/
  toR : Nat := 0
  leaves : Option Nat := none
  via : List Nat := []
  body : Body
  deriving DecidableEq, Repr

/-- One direction of a link (R36, R37, R48, R49). -/
structure LinkDir where
  /-- the next sequence number of the transmitter -/
  next : Nat := 0
  /-- the replay buffer, oldest first -/
  sent : List Flit := []
  /-- flits on the wire, oldest first -/
  wire : List Flit := []
  /-- the sequence number the receiver expects -/
  expect : Nat := 0
  /-- the receiver discards until the failed flit arrives intact -/
  reject : Bool := false
  /-- a replay request is on its way -/
  asked : Bool := false
  /-- received flits that wait in the channels' receive buffers -/
  queued : List Flit := []
  /-- by channel, the credits that the transmitter has spent: slots of the receive buffer for flits sent that have not
  left it (R35) -/
  spent : List Nat := [0, 0, 0, 0]
  crcerr : Nat := 0
  replays : Nat := 0
  flits : Nat := 0
  /-- time-base µs spent UP at each step -/
  ratetime : Vector Nat 5 := Vector.replicate 5 0
  winFlits : Nat := 0
  winReplays : Nat := 0
  /-- µs at which the replay window began (R48) -/
  winSince : Nat := 0
  deriving DecidableEq, Repr

/-- Link states (R40). -/
inductive LinkSt where
  | up | retrain | down | gated
  deriving DecidableEq, Repr

/-- A UCIe link (R31 to R40, R49). -/
structure Link where
  st : LinkSt := .up
  step : Nat := 2
  rate : Nat := 2
  maxStep : Nat := 4
  refused : Bool := false
  evHalf : Bool := false
  evReplay : Bool := false
  evTrain : Bool := false
  half : Bool := false
  spares : Nat := 0
  thr : W32 := 0xFFFFFFFF#32
  laneThr : BitVec 16 := 0xFFFF#16
  retrains : Nat := 0
  /-- step being trained to, and whether the first attempt has failed (R34) -/
  target : Nat := 2
  second : Bool := false
  /-- GO reads 1 for the request held or in retrain -/
  go : Bool := false
  held : Option Nat := none
  /-- logical lanes that have failed beyond the spares (R39) -/
  failed : List Nat := []
  d0 : LinkDir := {}
  d1 : LinkDir := {}
  deriving DecidableEq, Repr

/-- A route change in progress at a place (R41): the old link, the order of injection at which it began, and the flits
held for the new route. -/
structure RouteMove where
  src : Nat
  dst : Nat
  chan : Nat
  old : Nat
  stamp : Nat := 0
  held : List Flit := []
  deriving DecidableEq, Repr

/-- A drain (R42, R43): the markers not yet acknowledged, as router, destination and channel, and of these the ones
whose acknowledgement has come back. -/
structure Drain where
  num : Nat
  start_ : Nat
  /-- the messages injected before it (R42) -/
  stamp : Nat
  routers : List Nat := []
  markers : List (Nat × Nat × Nat)
  arrived : List (Nat × Nat × Nat) := []
  timedOut : Bool := false
  /-- the task whose freeze waits for it, or the die whose gating does -/
  task : Option Nat := none
  gate : Option Nat := none
  deriving DecidableEq, Repr

/-- Permits of an on-chip link for one consumer (R44, R45). -/
structure Permit where
  held : Nat := 0
  inFlight : Nat := 0
  filled : Nat := 0
  slots : Nat := 0
  /-- HEAD of the consuming queue when a slot of it was last found consumed -/
  head : Nat := 0
  deriving DecidableEq, Repr

/-- A peer port (R51, R53). -/
structure Peer where
  st : Nat := 2
  evDown : Bool := false
  id : W64 := 0#64
  crcerr : Nat := 0
  replays : Nat := 0
  flits : Nat := 0
  fecunc : Nat := 0
  /-- the port's transmitter, and that of its partner (R51) -/
  d0 : LinkDir := {}
  d1 : LinkDir := {}
  deriving DecidableEq, Repr

/-- The fabric (02). -/
structure Fabric where
  links : List (Nat × Link) := []
  /-- entries of the route tables that differ from the default routes: by place, destination and channel, the
  outgoing link, none if no route is left (R41) -/
  routes : List (Nat × Option Nat) := []
  moves : List RouteMove := []
  drains : List Drain := []
  nextDrain : Nat := 0
  /-- messages injected so far -/
  stamps : Nat := 0
  /-- routers, the places they have sent to since their last drain, and the stamp of the last message (R42) -/
  traffic : List (Nat × Nat × Nat) := []
  /-- messages on the dies' meshes, the oldest first: by on-chip link (256 × die + 4 × router + port), and by 2,560 plus
  the router's number for those a router has not yet sent on (R44) -/
  mesh : List (Nat × List Flit) := []
  /-- by 2,560 × the consumer's number and the on-chip link (R44) -/
  permits : List (Nat × Permit) := []
  auditMs : Nat := 10
  peers : List (Nat × Peer) := []
  deriving DecidableEq, Repr

/-- A host write accepted whole (R60): its stream, virtual address and bytes. -/
structure Tlp where
  stream : Nat
  va : Nat
  bytes : List Byte
  deriving DecidableEq, Repr

/-- A host write group that has been cut and not yet applied (R63). -/
structure Cut where
  who : Agent
  stream : Nat
  seq : Nat
  tlps : List Tlp
  /-- it has been applied, and the HWIN bundle may retire -/
  applied : Bool := false
  /-- the logical time of its writes (R239) -/
  time : Nat := 0
  deriving DecidableEq, Repr

/-- A notification record asked for (R66): TOKEN, CODE, byte 12, vector. -/
structure Notif where
  token : Nat
  code : Nat
  src : Nat
  vec : Nat
  /-- its place in the order in which records have entered the backlogs -/
  no : Nat := 0
  deriving DecidableEq, Repr

/-- A job (R73, R89): submissions so far, whether it is closed and cancelled, the first code of the order
of R73 received so far, and the records asked for by NOTIFY: token, vector, and the command program's egress that was
outstanding then, by handles (R66). -/
structure Job where
  count : Nat := 0
  closed : Bool := false
  cancelled : Bool := false
  code : Nat := 0
  notes : List (Nat × Nat × List Nat) := []
  deriving DecidableEq, Repr

/-- Stream states (R57). -/
inductive StreamSt where
  | idle | run | wait | fault
  deriving DecidableEq, Repr

/-- A command stream's registers, ingress buffer, jobs and backlog (R57 to R66, R73). -/
structure Stream where
  st : StreamSt := .idle
  entry : W64 := 0#64
  mbx : W64 := 0#64
  ap : W64 := 0#64
  errVec : BitVec 6 := 0#6
  frameEntry : W64 := 0#64
  stallBit : Bool := false
  wrerr : Bool := false
  refused : Bool := false
  lost : Bool := false
  groupSeq : Nat := 0
  ingress : List Tlp := []
  fullSince : Option Nat := none
  /-- INGRESS_LOST is to be posted when the link is up (R68) -/
  tellLost : Bool := false
  jobCtr : Nat := 0
  jobs : List (Nat × Job) := []
  backlog : List Notif := []
  /-- records formed that wait for earlier egress of the command program, by handles (R66) -/
  forming : List (Notif × List Nat) := []
  deriving DecidableEq, Repr

/-- A notification queue (R65). -/
structure NotifQ where
  base : W64 := 0#64
  en : Bool := false
  ovf : Bool := false
  logSize : Nat := 0
  window : Nat := 0
  head : Nat := 0
  tail : Nat := 0
  deriving DecidableEq, Repr

/-- An MSI-X vector (R54, R67): table entry, mask, pending bit, and when its window closes (µs). -/
structure Msix where
  addr : W64 := 0#64
  data : W32 := 0#32
  masked : Bool := false
  pending : Bool := false
  closes : Option Nat := none
  deriving DecidableEq, Repr

/-- The sealer (R71). -/
structure Sealer where
  addr : W64 := 0#64
  len : W32 := 0#32
  ctx : W32 := 0#32
  /-- the request under check: address, length, context -/
  req : Option (W64 × W32 × W32) := none
  done : Bool := false
  off : Nat := 0
  code : Nat := 0
  hash : List Byte := List.replicate 32 0#8
  /-- the image as read for the check, and the refusal found: code and offset (log entry 37) -/
  seen : List Byte := []
  verdict : Option (Nat × Nat) := none
  /-- granules held read-only during the check -/
  hold : List Nat := []
  deriving DecidableEq, Repr

/-- Attestation (R72). -/
structure Attest where
  nonce : BitVec 256 := 0#256
  buf : W64 := 0#64
  /-- the report being built: its nonce and buffer -/
  req : Option (BitVec 256 × W64) := none
  /-- entries of 36 bytes, the newest last, and the chain value -/
  log : List (List Byte) := []
  chain : List Byte := List.replicate 32 0#8
  deriving DecidableEq, Repr

/-- A firmware image of module flash (R69): the vendor public key it carries, its bytes, its signature. -/
structure FwImage where
  key : List Byte := []
  body : List Byte := []
  sig : List Byte := []
  deriving DecidableEq, Repr

/-- Boot (R69, R70). -/
structure Boot where
  phase : Nat := 0
  fail : Nat := 0
  slotB : Bool := false
  h1ok : Bool := false
  /-- main and auxiliary power -/
  main : Bool := true
  aux : Bool := true
  /-- firmware slots A and B and configuration records in module flash -/
  fwA : FwImage := {}
  fwB : FwImage := {}
  records : List (List Byte) := []
  deriving DecidableEq, Repr

/-- The host attachment (03). -/
structure HostSide where
  boot : Boot := {}
  evtVec : BitVec 6 := 0#6
  streams : List (Nat × Stream) := []
  staging : List Tlp := []
  /-- the host write for which staging has no room: those behind it are held (R61) -/
  blocked : Option Tlp := none
  /-- records that have entered a backlog so far (R66) -/
  noted : Nat := 0
  /-- lines on whose held bank a request of the host is counted as waiting (R218) -/
  heldLines : List Nat := []
  cuts : List Cut := []
  linkUp : Bool := true
  nq : List (Nat × NotifQ) := []
  msix : List (Nat × Msix) := []
  /-- vectors of the MSI-X messages sent, newest last -/
  messages : List Nat := []
  sealer : Sealer := {}
  att : Attest := {}
  /-- host memory -/
  mem : List Host.Cell := []
  /-- host bytes whose access a completer aborts (R224) -/
  abort : List Nat := []
  /-- what the last host read returned; none is Completer Abort (R60) -/
  readOut : Option (List Byte) := none
  deriving DecidableEq, Repr

/-- Staging is full, and PCIe posted credits are withheld (R61). -/
def HostSide.full (h : HostSide) : Bool := h.blocked.isSome || decide (2 ^ 20 ≤ (h.staging.map (·.bytes.length)).sum)

/-- An entry of a tile set (R77). -/
structure TileEnt where
  base : Nat
  units : Nat
  swap : Bool
  deriving DecidableEq, Repr

/-- A window entry of a frontier (R102). -/
structure FLine where
  count : Nat := 0
  island : W64 := 0#64
  full : Bool := false
  deriving DecidableEq, Repr

/-- A running or ended point (R98, R102). -/
structure Flight where
  coord : List Nat
  lbay : Nat
  lcid : Nat
  ended : Bool := false
  deriving DecidableEq, Repr

/-- A frontier (R102): PREFIX, window, points in flight in point order. -/
structure Frontier where
  halosat : Bool := false
  lines : Nat := 0
  win : List FLine := []
  flight : List Flight := []
  deriving DecidableEq, Repr

/-- An issued slab (R87): its number, the die its claim names, whether it has completed, and the indexes
of completed points still to be refired (R105). -/
structure Slab where
  k : Nat
  die : Option Nat
  done : Bool := false
  redo : List Nat := []
  deriving DecidableEq, Repr

/-- States of a task (R83); a completed task has no entry. -/
inductive TaskSt where
  | held | ready | placed | parked
  deriving DecidableEq, Repr

/-- A swap buffer of a context (R394, R406). -/
structure SwapBuf where
  a : Nat
  b : Nat
  units : Nat
  /-- LIVE is half B -/
  liveB : Bool := false
  /-- the task that renames it (R81) -/
  renamed : Option Nat := none
  /-- the logical time of its last publish (R236) -/
  since : Nat := 0
  deriving DecidableEq, Repr

/-- A copy intent (R161). -/
structure Intent where
  head : W32
  tail : W32
  ra : W64
  rb : W64
  r1 : W64
  r2 : W64
  done : Nat
  lbay : Nat
  lcid : Nat
  ended : Bool
  handle : Nat
  coord : List Nat
  /-- its place in the order of issue of its core's commands -/
  ord : Nat := 0
  deriving DecidableEq, Repr

/-- What a frozen task's cask holds (R155): per logical core its peg state, whether a running point holds
it, and its queue store; vault bytes by logical bay; swap buffers; intents; ticket holdings as (word,
next, serving, held, lcore); dirty pages as (address, size code); the logical map as (resident, order). -/
structure Cask where
  /-- it lies in the hubs' area of the LPDDR-6 tier (R215) -/
  area : Bool := false
  frozen : Nat := 0
  src : Nat := 0
  taskId : Nat := 0
  entry : Nat := 0
  hint : Option Nat := none
  cores : List (Nat × Bool × Regs × List Byte) := []
  vault : List (List Byte) := []
  swaps : List SwapBuf := []
  intents : List Intent := []
  tickets : List (Nat × Nat × Nat × Nat × Nat) := []
  dirty : List (Nat × Nat) := []
  map : List (Bool × Nat) := []
  /-- the variant on which each logical core's running point started (R122) -/
  variants : List Nat := []
  deriving DecidableEq, Repr

/-- A freeze in progress (R164): its source, the trap it raises, the drain it waits for, the stream and
register of a CASKOUT with destination, capacity and flags. -/
structure Freeze where
  src : Nat
  drain : Option Nat := none
  drained : Bool := false
  /-- the CASKOUTs that wait for it: stream, destination register, address, capacity, flags (R336) -/
  outs : List (Nat × BitVec 5 × Nat × Nat × Nat) := []
  intents : List Intent := []
  /-- bytes counted for the cask (R216) -/
  room : Nat := 0
  /-- a host command waits for it -/
  cmd : Bool := false
  /-- its completion leaves the task resumable under R123 -/
  resume : Bool := false
  deriving DecidableEq, Repr

/-- A task's entry in the dependence table (R74 to R94, R102, R119 to R123). -/
structure Task where
  id : Nat
  stream : Nat
  job : Nat
  rcd : BitVec 2048
  opts : List Nat := []
  rd : List TileEnt := []
  wr : List TileEnt := []
  st : TaskSt := .ready
  /-- tasks it waits on (R80) -/
  waits : List Nat := []
  /-- swap buffers renamed for it, by half A (R81) -/
  renames : List Nat := []
  /-- the code it completes with once its points have ended (R89, R91, R129) -/
  code : Option Nat := none
  /-- firing has stopped (R100) -/
  stop : Bool := false
  readyAt : Nat := 0
  skip : Nat := 0
  age : Nat := 16
  ent : Nat := 0
  /-- the entries it changes from, while the change takes effect (R121, R122, log entry 112) -/
  oldEnts : List Nat := []
  raisedAt : Option Nat := none
  hint : Option Nat := none
  fr : Frontier := {}
  next : Nat := 0
  slabs : List Slab := []
  /-- logical bays in rotation order: the next to be brought in first (R152, R156) -/
  order : List Nat := []
  freeze : Option Freeze := none
  cask : Option Cask := none
  /-- a parked task may resume once its budget condition holds (R123) -/
  resumable : Bool := false
  /-- a curtailment event parked it: its condition must hold for 1 ms, and has held since a µs (R123) -/
  parkedByEvent : Bool := false
  heldSince : Option Nat := none
  /-- ticket words its points have used, each with the tickets held as (logical core, ticket) (R162) -/
  tickets : List (Nat × List (Nat × Nat)) := []
  /-- a cancel arrived during a freeze (R130) -/
  cancelled : Bool := false
  /-- variants of the points that started before the entry changed (R122) -/
  oldPoints : List (List Nat) := []
  /-- the die that a DRAINDIE parked it from: it resumes elsewhere (R133) -/
  away : Option Nat := none
  deriving DecidableEq, Repr

/-- The dependence table (04): entries in the order of submission, the task whose drain rule holds, and
what JWAIT, LAUNCH and NOTIFY of a stream wait for. -/
structure Table where
  tasks : List Task := []
  drainRule : Option Nat := none
  deriving DecidableEq, Repr

/-- A budget curve (R114): points as offset, watts, grade. -/
structure Curve where
  seq : Nat
  vfrom : Nat
  vto : Nat
  points : List (Nat × Nat × Nat)
  deriving DecidableEq, Repr

/-- A curtailment event in progress (R126). -/
structure Curtail where
  /-- the tick at which it began -/
  start_ : Nat
  declared : Nat
  deepest : Nat
  /-- the end of its response interval, in the time that one byte takes at 2.0 TB/s: 20,000 to a tick (R127) -/
  ends : Nat
  /-- the tasks that its park response has taken or tried (R127, R165) -/
  tried : List Nat := []
  /-- bytes of casks written and of pages to be moved (R127) -/
  bytes : Nat := 0
  deriving DecidableEq, Repr

/-- An entry of THERMTAB (R131). -/
structure Therm where
  hyst : Nat := 0
  temp : Int := 0
  param : Nat := 0
  action : Nat := 0
  deriving DecidableEq, Repr

/-- The energy registers and the Maltster (06). -/
structure Power where
  cmdCode : Nat := 0
  cmdArg : Nat := 0
  busy : Bool := false
  refused : Bool := false
  lastCode : Nat := 0
  reason : Nat := 0
  defBudget : Nat := 3300
  budgetNow : Nat := 3300
  pwrAvg : Nat := 0
  curveLen : Nat := 0
  curveBuf : List Host.Cell := []
  /-- the bytes under verification, and whether one runs (R115) -/
  verifying : Option (List Byte) := none
  curveCode : Nat := 0
  inForce : Option Curve := none
  pending : Option Curve := none
  fkeyBuf : BitVec 256 := 0#256
  fkey : Option (BitVec 256) := none
  fkeyLock : Bool := false
  maxSeq : Nat := 0
  therm : Vector Therm 8 := #v[{ temp := 340, hyst := 8, action := 1 }, { temp := 380, hyst := 8, action := 3 },
    { temp := 420, hyst := 8, action := 4 }, { action := 1 }, { temp := 340, hyst := 8, action := 1 },
    { temp := 380, hyst := 8, action := 3 }, { temp := 420, hyst := 8, action := 4 }, { action := 1 }]
  event : Option Curtail := none
  /-- base and budget of the last loop, in W (R121, R123) -/
  base : Rat := 0
  budget : Rat := 3300
  /-- the sum of cnt at the last loop, and that loop's instant (R123) -/
  sum : Rat := 0
  loopNow : Nat := 0
  /-- the segment of the curve in force whose start has been acted on (R126) -/
  segment : Option Nat := none
  /-- the grades of segments that have started and that no loop has acted on yet (R117, R126) -/
  starts : List Nat := []
  /-- a response interval overlapped the band window (R124) -/
  winEvent : Bool := false
  /-- sums over the band window: loops, measured power and budget in W -/
  winLoops : Nat := 0
  winPower : Rat := 0
  winBudget : Rat := 0
  /-- every placed task was on its highest entry and no READY task waited, at every loop -/
  winTop : Bool := true
  /-- the 10 µs period of the last loop and the number of band windows checked (R121, R124) -/
  loopAt : Option Nat := none
  bandAt : Nat := 0
  /-- tasks a DRAINDIE or a PARKTASK still waits for; what the command in progress is about: a die, or 100 plus a
  link -/
  waitTasks : List Nat := []
  drainDie : Option Nat := none
  /-- dies to gate once their casks are written (R128) -/
  gateNext : List Nat := []
  deriving DecidableEq, Repr

/-- A physical bay's binding (R151, R152): task and logical bay, when the binding's quantum began (µs). -/
structure Bay where
  bound : Option (Nat × Nat) := none
  since : Nat := 0
  deriving DecidableEq, Repr

/-- A logical bay in the rotation area (R152, R153). -/
structure RotBay where
  task : Nat
  lbay : Nat
  cores : List (Nat × Core)
  deriving DecidableEq, Repr

/-- Sectors and words in which a read finds an error: poisoned, correctable, uncorrectable, with a tag that
fails; vault words with a double-bit error (R219, R221). -/
structure Health where
  poison : List Nat := []
  eccSoft : List Nat := []
  eccBad : List Nat := []
  tagBad : List Nat := []
  vaultBad : List Nat := []
  /-- sectors whose next read fails once and whose second read passes (R221) -/
  eccRetry : List Nat := []
  /-- the key slot a sector was last encrypted under (R220) -/
  keys : List (Nat × Nat) := []
  /-- cores and the pass of a call at which the check column finds a mismatch (R194) -/
  checkBad : List (Nat × Nat) := []
  deriving DecidableEq, Repr

/-- A stream's context: root, swap buffers, pins (R200, R211, R212, R406). -/
structure Context where
  root : W64 := 0#64
  bufs : List SwapBuf := []
  /-- pinned lines, each with the slice that holds it (8 × physical core + slice) -/
  pins : List (Nat × Nat) := []
  pinLim : W32 := 0#32
  pinUse : W32 := 0#32
  deriving DecidableEq, Repr

/-- The registers and counters of an HBM stack's base die, and its rows (R214, R217, R218). -/
structure Stack where
  rmAlert : Nat := 0
  rmCmd : Nat := 0
  backoff : Nat := 0
  backoffNs : Nat := 0
  eccCorr : Nat := 0
  uncorr : Nat := 0
  integ : Nat := 0
  spares : Nat := 0
  /-- retired pseudo-channels, each with the spare that holds its pages (R27) -/
  retired : List (Nat × Nat) := []
  rmThr : Nat := 1024
  /-- activation counters by bank and row -/
  rows : List (Nat × List (Nat × Nat)) := []
  /-- the open row of each bank -/
  open_ : List (Nat × Nat) := []
  /-- banks held, each with the time its hold ends in ns and the arrivals of the requests waiting -/
  holds : List (Nat × Nat × List Nat) := []
  deriving DecidableEq, Repr

/-- The machine's state. -/
structure State where
  /-- turns to take before the focus agent's (log entry 1) -/
  agenda : List Turn := []
  focus : Agent := .core 0
  /-- inputs of the device step being taken -/
  inp : EventIn := {}
  bundle : Bundle := {}
  /-- reference ticks since device start (R6) -/
  tick : Nat := 0
  /-- free values drawn (log entry 7) -/
  free : Nat := 0
  /-- for each load to come: 0 its data arrives in time, 1 late, 2 it waits on a full LPDDR-6 channel queue, 3 on
  the LPDDR-6 tier's own refresh management (log entry 18) -/
  late : List Nat := []
  /-- for each step of a core with a trap that has just arrived, whether the trap arrives in the cycle of the bundle
  taken and not before it (R146, log entry 87) -/
  meet : List Bool := []
  /-- for each J.RETIRE under SR, how many elements its next step writes, between which the core's own SR ops step
  the LFSR (R257, log entry 90) -/
  retireCuts : List Nat := []
  tsfloor : Nat := 0
  /-- the largest WTS issued so far (R228) -/
  wtsTop : Nat := 0
  /-- the largest WTS issued up to the last publication of TSFLOOR, and that publication's number: it falls due at
  10 µs times its number (R228) -/
  floorNext : Nat := 0
  floorAt : Nat := 0
  cores : List (Nat × Core) := []
  seqs : List (Nat × Seq) := []
  mem : List Host.Cell := []
  lines : List (Nat × LineRec) := []
  /-- what the memory-side cache of each die holds, the oldest first (R209) -/
  msc : List (Nat × List CacheLine) := []
  tlb : List TlbEntry := []
  sealSet : List Nat := []
  health : Health := {}
  ctxs : List (Nat × Context) := []
  bays : List (Nat × Bay) := []
  rotated : List RotBay := []
  hbm : List (Nat × Stack) := []
  /-- BUSY, RFM, ECCRETRY, POISON, ECCCORR, UNCORR, INTEG of each hub's LPDDR-6 channels (R214) -/
  hubCounters : List (Nat × List Nat) := []
  /-- casks that the hubs' area still holds from before main power was lost (R16, R215) -/
  kept : List (List Byte) := []
  /-- frames of the hubs' area that moved pages occupy, with their sizes (R216) -/
  frames : List (Nat × Nat) := []
  pkg : Package := {}
  fab : Fabric := {}
  host : HostSide := {}
  tab : Table := {}
  pow : Power := {}
  deriving DecidableEq, Repr

/-- The machine right after reset. -/
def State.reset : State := {}

end Sys2Proof.Machine
end

