-- ==== Sys2Proof/Machine/Operands.lean ====
section
/-! DEFINITION. How an op reads its operands: the registers of the agent that issues it, immediates,
effective addresses, lanes and lane masks, formats and rounding (spec/08_core.md R178 to R182,
spec/12_encoding.md R271 to R276, spec/13_isa_scalar.md R297, spec/14_isa_vector.md R338 to R341). -/

namespace Sys2Proof.Machine

open Sys2Proof.Bits

/-- The result of an instruction or of a step. -/
abbrev Out := Host.Outcome State Fault Refusal

/-! ### The agents' own parts of the state -/

/-- A physical core; one not listed is idle (R206). -/
def State.core (s : State) (n : Nat) : Core := (find? s.cores n).getD {}
/-- Puts a core back. -/
def State.setCore (s : State) (n : Nat) (c : Core) : State := { s with cores := put s.cores n c }
/-- Changes a core. -/
def State.modCore (s : State) (n : Nat) (f : Core → Core) : State := s.setCore n (f (s.core n))
/-- The command sequencer of a stream. -/
def State.seq (s : State) (n : Nat) : Seq := (find? s.seqs n).getD {}
/-- Puts a command sequencer back. -/
def State.setSeq (s : State) (n : Nat) (q : Seq) : State := { s with seqs := put s.seqs n q }
/-- A stream's context. -/
def State.ctx (s : State) (n : Nat) : Context := (find? s.ctxs n).getD {}
/-- Puts a context back. -/
def State.setCtx (s : State) (n : Nat) (c : Context) : State := { s with ctxs := put s.ctxs n c }
/-- A physical bay. -/
def State.bay (s : State) (n : Nat) : Bay := (find? s.bays n).getD {}
/-- Puts a bay back. -/
def State.setBay (s : State) (n : Nat) (b : Bay) : State := { s with bays := put s.bays n b }
/-- A line's timestamps and home. -/
def State.line (s : State) (n : Nat) : LineRec := (find? s.lines n).getD {}
/-- Puts a line's record back. -/
def State.setLine (s : State) (n : Nat) (l : LineRec) : State := { s with lines := put s.lines n l }

/-- A stack's base die. -/
def State.stack (s : State) (n : Nat) : Stack := (find? s.hbm n).getD {}
/-- Puts a stack's base die back. -/
def State.setStack (s : State) (n : Nat) (k : Stack) : State := { s with hbm := put s.hbm n k }
/-- A hub's LPDDR-6 counters. -/
def State.hubMem (s : State) (n : Nat) : List Nat := (find? s.hubCounters n).getD (List.replicate 7 0)
/-- Puts a hub's counters back. -/
def State.setHubMem (s : State) (n : Nat) (l : List Nat) : State := { s with hubCounters := put s.hubCounters n l }

/-- The number of the core whose op or micro-word is taken. -/
def State.me (s : State) : Nat :=
  match s.focus with
  | .core n => n
  | .jig n => n
  | .seq _ => 0
/-- The core whose op is taken. -/
def State.my (s : State) : Core := s.core s.me
/-- Changes the core whose op is taken. -/
def State.modMy (s : State) (f : Core → Core) : State := s.modCore s.me f

/-- Where an op runs (R287). -/
inductive Where where
  | point | frame | seq
  deriving DecidableEq, Repr

/-- Where the op being taken runs. -/
def State.mode (s : State) : Where :=
  match s.focus with
  | .seq _ => .seq
  | .core n => if (s.core n).frame then .frame else .point
  | .jig _ => .point

/-- The stream in whose context the agent works (R57, R144). -/
def State.stream (s : State) : Nat :=
  match s.focus with
  | .seq n => n
  | .core n => (s.core n).stream
  | .jig n => (s.core n).stream

/-- The x, p, tb registers, pc and pending results of the agent, in its mode (R144, R178, R299). -/
def State.scalar (s : State) : Scalar :=
  match s.focus with
  | .seq n => (s.seq n).sc
  | .core n => let c := s.core n; if c.frame then c.fr else c.pt.sc
  | .jig n => (s.core n).pt.sc

/-- A core with its current x, p, tb, pc and pending results replaced. -/
def Core.setScalar (c : Core) (r : Scalar) : Core :=
  if c.frame then { c with fr := r } else { c with pt := { c.pt with sc := r } }

/-- Puts the agent's x, p, tb, pc and pending results back. -/
def State.setScalar (s : State) (r : Scalar) : State :=
  match s.focus with
  | .seq n => s.setSeq n { s.seq n with sc := r }
  | .core n => s.modCore n (·.setScalar r)
  | .jig n => s.modCore n (fun c => { c with pt := { c.pt with sc := r } })

/-- Flags, rounding mode and LFSR of the agent (R182, R299). -/
def State.arith (s : State) : Arith :=
  match s.focus with
  | .seq n => (s.seq n).ar
  | _ => s.my.pt.ar

/-- Puts flags, rounding mode and LFSR back. -/
def State.setArith (s : State) (a : Arith) : State :=
  match s.focus with
  | .seq n => s.setSeq n { s.seq n with ar := a }
  | _ => s.modMy (fun c => { c with pt := { c.pt with ar := a } })

/-- The point registers of the agent's core (R178). -/
def State.regs (s : State) : Regs := s.my.pt
/-- Changes the point registers of the agent's core. -/
def State.modRegs (s : State) (f : Regs → Regs) : State := s.modMy (fun c => { c with pt := f c.pt })

/-! ### Registers -/

/-- A scalar register of a file; x0 reads 0 (R178). -/
def Scalar.xr (r : Scalar) (i : BitVec 5) : W64 := if i = 0#5 then 0#64 else r.x[i.toNat]'(i.isLt)
/-- A predicate of a file; p0 reads 1 and p1 reads 0 (R178). -/
def Scalar.pr (r : Scalar) (i : BitVec 3) : Bool :=
  if i = 0#3 then true else if i = 1#3 then false else r.p.getLsbD i.toNat
/-- A scalar operand. -/
def State.xr (s : State) (i : BitVec 5) : W64 := s.scalar.xr i
/-- A predicate operand; the guard is read so (R273). -/
def State.pr (s : State) (i : BitVec 3) : Bool := s.scalar.pr i
/-- A vector operand. -/
def State.vr (s : State) (i : BitVec 5) : VReg := s.regs.v[i.toNat]'(i.isLt)
/-- A lane-mask operand; k0 reads all ones (R178). -/
def State.kr (s : State) (i : BitVec 3) : W64 :=
  if i = 0#3 then BitVec.allOnes 64 else s.regs.k[i.toNat]'(i.isLt)
/-- A queue handle. -/
def State.qr (s : State) (i : BitVec 4) : Queue := s.regs.q[i.toNat]'(i.isLt)
/-- The eight predicates as bits, p0 in bit 0 (R305). -/
def Scalar.pbits (r : Scalar) : Nat :=
  (List.range 8).foldl (fun a i => a + boolN (r.pr (BitVec.ofNat 3 i)) * 2 ^ i) 0

/-! ### Immediates and addresses -/

/-- A signed immediate of `w` bits, extended by an IMM prefix if there is one (R276). -/
def State.immediate (s : State) (field w : Nat) : Int :=
  match s.bundle.imm with
  | none => sextN field w
  | some i => sextN (i.toNat * 2 ^ w + field) (26 + w)

/-- ea of R297: wrap(xa + offset, 64). -/
def State.ea (s : State) (a : BitVec 5) (off : Int) : W64 := s.xr a + wrap64 off

/-! ### MOD fields -/

/-- The rounding mode of an op that takes it from a MOD; without one it is DYN (R256, R275). -/
def State.roundMode (s : State) (code : Nat) : Nat :=
  if code = 6 then s.arith.frm.toNat else code
/-- MOD.RND or DYN. -/
def State.modRnd (s : State) : Nat :=
  s.roundMode (match s.bundle.mod with | some m => m.rnd.toNat | none => 6)
/-- MOD.SAT or 00. -/
def State.modSat (s : State) : Nat := match s.bundle.mod with | some m => m.sat.toNat | none => 0
/-- The format of a scalar floating-point op (R306). -/
def State.fpFmt (s : State) : Nat := match s.bundle.mod with | some m => m.fmt.toNat | none => 6
/-- The format of a vector op (R339). -/
def State.vecFmt (s : State) : Nat :=
  match s.bundle.mod with | some m => m.fmt.toNat | none => s.regs.fmt.toNat
/-- The rounding settings of an op; the LFSR half is its state at the op's element (R257). -/
def State.roundCtl (s : State) (mode sat : Nat) : RoundCtl := ⟨mode, sat, s.arith.lfsr.toNat % 2 ^ 16⟩
/-- Steps the LFSR `n` times when the mode is SR (R257). -/
def State.stepLfsr (s : State) (mode n : Nat) : State :=
  if mode = 5 then s.setArith { s.arith with lfsr := lfsrSteps n s.arith.lfsr } else s

/-! ### Lanes -/

/-- The number of lanes that VTYPE.LANES names (R181). -/
def State.nlanes (s : State) : Nat := if s.regs.lanes = 0#7 then 64 else s.regs.lanes.toNat
/-- The mask register an f field names, with MOD.MH (R275, R340). -/
def State.mask (s : State) (k : BitVec 2) : W64 :=
  s.kr (BitVec.ofNat 3 (k.toNat + 4 * boolN (match s.bundle.mod with | some m => m.mh | none => false)))
/-- The active lanes of an op with a mask (R340), as 64 bits. -/
def State.active (s : State) (k : BitVec 2) : Nat := (s.mask k).toNat % 2 ^ s.nlanes
/-- The lanes below VTYPE.LANES, as 64 bits: the active lanes of an op without a mask. -/
def State.allLanes (s : State) : Nat := 2 ^ s.nlanes - 1
/-- Lane i of a v register (R338). -/
def lane (v : VReg) (i : Nat) : Nat := fieldN v.toNat (32 * i) 32
/-- Element i in lane form: the low w bits of the lane (R338). -/
def elem (f : Nat) (v : VReg) (i : Nat) : Nat := lane v i % 2 ^ fmtWidth f
/-- Lane bits of an element of a format: sign-extended for i8 and i16, zero-extended else (R338). -/
def laneForm (f : Nat) (bits : Nat) : Nat :=
  if f = 0 ∨ f = 2 then wrapN (sextN bits (fmtWidth f)) 32 else bits % 2 ^ fmtWidth f

/-- A list of lane values, lane 0 first, as a register. -/
def ofLanes : List Nat → Nat
  | [] => 0
  | l :: ls => l % 2 ^ 32 + 2 ^ 32 * ofLanes ls
/-- The byte mask of the lanes whose bit is set. -/
def laneMask (act : Nat) : BitVec 256 :=
  BitVec.ofNat 256 ((List.range 64).foldl (fun a i => a + boolN (bit act i) * (15 * 2 ^ (4 * i))) 0)
/-- A register whose active lanes are given by a function and whose other lanes are 0, with its byte
mask (R179, R342). -/
def lanesOf (act : Nat) (f : Nat → Nat) : VReg × BitVec 256 :=
  (BitVec.ofNat 2048 (ofLanes ((List.range 64).map (fun i => if bit act i then f i else 0))), laneMask act)

end Sys2Proof.Machine
end

