-- ==== Sys2Proof/Machine/Memory.lean ====
section
/-! DEFINITION. Memory, where bytes live, and translation (spec/09_memory.md R199 to R208). -/

namespace Sys2Proof.Machine

open Sys2Proof.Bits

/-! ### Bytes -/

/-- One byte of memory; an address not listed reads 0 (log entry 4). -/
def Memory.get : List Host.Cell → Nat → Byte
  | [], _ => 0#8
  | (b, v) :: rest, a => if b = a then v else Memory.get rest a

/-- Writes one byte, keeping the canonical form: addresses strictly rising, no entry of 0. -/
def Memory.set : List Host.Cell → Nat → Byte → List Host.Cell
  | [], a, v => if v = 0#8 then [] else [(a, v)]
  | (b, u) :: rest, a, v =>
    if a < b then (if v = 0#8 then (b, u) :: rest else (a, v) :: (b, u) :: rest)
    else if a = b then (if v = 0#8 then rest else (a, v) :: rest)
    else (b, u) :: Memory.set rest a v

/-- The canonical form of memory: addresses strictly rising, and no entry equal to what an unlisted
address reads as. -/
def Memory.wf : List Host.Cell → Bool
  | [] => true
  | [(_, v)] => v != 0#8
  | (a, v) :: (b, u) :: rest => v != 0#8 && decide (a < b) && Memory.wf ((b, u) :: rest)

/-- Writes bytes at consecutive addresses. -/
def Memory.setAll : List Host.Cell → Nat → List Byte → List Host.Cell
  | m, _, [] => m
  | m, a, v :: vs => Memory.setAll (Memory.set m a v) (a + 1) vs

/-- `n` consecutive bytes. -/
def Memory.getAll (m : List Host.Cell) : Nat → Nat → List Byte
  | _, 0 => []
  | a, n + 1 => Memory.get m a :: Memory.getAll m (a + 1) n

/-- A little-endian value of `n` bytes. -/
def Memory.read (m : List Host.Cell) (a n : Nat) : Nat := leNat (Memory.getAll m a n)

/-- Removes every byte of a range: it reads 0 again. -/
def Memory.clear (m : List Host.Cell) (a n : Nat) : List Host.Cell :=
  m.filter (fun c => !(decide (a ≤ c.1) && decide (c.1 < a + n)))

/-- Bytes are zeroed, and their words hold good data (R206, R207, R219). -/
def State.zero (s : State) (a n : Nat) : State :=
  { s with mem := Memory.clear s.mem a n
           health := { s.health with vaultBad := s.health.vaultBad.filter (fun w => !(decide (a ≤ 8 * w) && decide (8 * w < a + n))) } }

/-! ### Where bytes live (log entry 8) -/

/-- The first cell of a tier's stack, or of the LPDDR-6 tier (R201). -/
def tierBase (tier home : Nat) : Nat := if tier = 0 then home * 2 ^ 40 else 16 * 2 ^ 40
/-- The bytes of a stack (96 GB) or of the LPDDR-6 tier (1.5 TiB) (R201). -/
def tierSize (tier : Nat) : Nat := if tier = 0 then 96 * 10 ^ 9 else 3 * 2 ^ 39
/-- The cell of a byte of a core's direct vault (R205). -/
def vaultCell (pcore off : Nat) : Nat := 20 * 2 ^ 40 + pcore * 2 ^ 22 + off
/-- The cell of a byte of a core's queue store (R185). -/
def queueCell (pcore off : Nat) : Nat := 21 * 2 ^ 40 + pcore * 2 ^ 18 + off
/-- The cell of a byte of a non-resident core's vault image in its task's rotation area (R153). -/
def rotCell (task lbay core off : Nat) : Nat :=
  2 ^ 60 + ((task * 2 ^ 16 + lbay) * 8 + core) * 2 ^ 22 + off
/-- A cell lies in a vault. -/
def isVault (pa : Nat) : Bool := decide (20 * 2 ^ 40 ≤ pa) && decide (pa < 21 * 2 ^ 40)
/-- A cell lies in a memory tier. -/
def isTier (pa : Nat) : Bool := decide (pa < 20 * 2 ^ 40)
/-- A cell may hold a gauge or ticket word: a vault, or a vault image in a rotation area (R153). -/
def isGaugeCell (pa : Nat) : Bool := isVault pa || decide (2 ^ 60 ≤ pa)
/-- A slice of a vault: 512 KiB (R205). -/
def sliceBytes : Nat := 2 ^ 19

/-! ### Trap causes (R142) -/

/-- FETCH_NOT_SEALED. -/
def tcFetchNotSealed : Nat := 0x01
/-- BUNDLE_START. -/
def tcBundleStart : Nat := 0x02
/-- TB_EMPTY. -/
def tcTbEmpty : Nat := 0x03
/-- TRANSLATION. -/
def tcTranslation : Nat := 0x10
/-- PERMISSION. -/
def tcPermission : Nat := 0x11
/-- ALIGNMENT. -/
def tcAlignment : Nat := 0x12
/-- PHASE_HAZARD. -/
def tcPhaseHazard : Nat := 0x13
/-- VAULT_WINDOW. -/
def tcVaultWindow : Nat := 0x14
/-- PRIVILEGE. -/
def tcPrivilege : Nat := 0x15
/-- MEM_UNCORR. -/
def tcMemUncorr : Nat := 0x30
/-- INTEGRITY. -/
def tcIntegrity : Nat := 0x31
/-- QUEUE_PROTOCOL. -/
def tcQueueProtocol : Nat := 0x40
/-- PEG_STALL. -/
def tcPegStall : Nat := 0x50

/-- TRAPINFO of causes 0x10 to 0x14, 0x30 and 0x31 (R145). -/
def accessInfo (size slot addr : Nat) : W64 :=
  BitVec.ofNat 64 ((min size 256 - 1) * 2 ^ 56 + slot * 2 ^ 52 + addr % 2 ^ 52)

/-- The trap of an access. -/
def accessTrap (cause size slot addr : Nat) : TrapRec :=
  ⟨BitVec.ofNat 8 cause, accessInfo size slot addr⟩

/-! ### Page tables (R199 to R204) -/

/-- The kinds of access a leaf permits or refuses (R202). -/
inductive Acc where
  | load | store | fetch
  deriving DecidableEq, Repr

/-- A table entry is valid at a level of the walk (R201, R202). `frames` are the frames, with their sizes, that the hubs
have placed in their own area: a leaf whose page lies in one of them is valid (R216). -/
def entryOk (lvl e : Nat) (frames : List (Nat × Nat)) : Bool :=
  let tier := fieldN e 58 2
  let home := fieldN e 54 4
  let off := fieldN e 9 32 * 2 ^ 9
  let base := bit e 0 && decide (tier < 2) && decide (home < 10) && (tier == 0 || home == 0)
    && fieldN e 41 11 == 0 && fieldN e 6 3 == 0
  if bit e 1 then
    let size := 2 ^ nth [0, 31, 25, 19] lvl 0
    base && lvl != 0 && off % size == 0 && decide (off + size ≤ tierSize tier)
      && (tier == 0 || decide (2 ^ 34 ≤ off) || frames.any (fun f => decide (f.1 ≤ off) && decide (off + size ≤ f.1 + f.2)))
  else
    let tsize := nth [2 ^ 13, 2 ^ 9, 2 ^ 9, 1] lvl 1
    base && decide (lvl < 3) && fieldN e 60 4 == 0 && fieldN e 52 2 == 0 && fieldN e 2 4 == 0
      && off % tsize == 0 && decide (off + tsize ≤ tierSize tier)

/-- The bits of the index and its place for a level (R200). -/
def walkIndex (lvl va : Nat) : Nat :=
  match lvl with
  | 0 => fieldN va 41 11
  | 1 => fieldN va 31 10
  | 2 => fieldN va 25 6
  | _ => fieldN va 19 6

/-- The table an entry locates, or the first byte of a leaf's page. -/
def entryBase (e : Nat) : Nat := tierBase (fieldN e 58 2) (fieldN e 54 4) + fieldN e 9 32 * 2 ^ 9

/-- A leaf found by a walk: its place, its value, log2 of its page's size. -/
structure Leaf where
  at_ : Nat
  val : Nat
  bits : Nat
  deriving DecidableEq, Repr

/-- Walks from a table at level `lvl`; `n` levels are left (R200, R202). -/
def walk (m : List Host.Cell) (frames : List (Nat × Nat)) (va : Nat) : Nat → Nat → Nat → Option Leaf
  | 0, _, _ => none
  | n + 1, lvl, table =>
    let a := table + 8 * walkIndex lvl va
    let e := Memory.read m a 8
    if !entryOk lvl e frames then none
    else if bit e 1 then some ⟨a, e, nth [0, 31, 25, 19] lvl 19⟩
    else walk m frames va n (lvl + 1) (entryBase e)

/-- A root entry is valid: V = 1, LEAF = 0, a 16 KiB-aligned table (R330). -/
def rootOk (e : Nat) : Bool :=
  !bit e 1 && entryOk 0 e [] && (fieldN e 9 32 * 2 ^ 9) % 2 ^ 14 == 0

/-- A walk in a stream's context (R200); the entries of the first level above the mapped ranges are never read (R199). -/
def State.walk (s : State) (stream va : Nat) : Option Leaf :=
  let r := (s.ctx stream).root.toNat
  if rootOk r && decide (va < 13 * 2 ^ 48) then Machine.walk s.mem s.frames va 4 0 (entryBase r) else none

/-- An entry of one of the given TLBs that maps an address. -/
def State.tlbHit (s : State) (units : List Nat) (stream va : Nat) : Option TlbEntry :=
  s.tlb.find? (fun e => units.contains e.unit && e.stream == stream && va / 2 ^ e.bits == e.base / 2 ^ e.bits)

/-- The leaf an access uses that the given TLBs translate for: that of a walk, or of a TLB entry that has not been
invalidated, in which case the hardware may use either (R204, log entry 15). -/
def State.leafFor (s : State) (units : List Nat) (stream va : Nat) : Option Leaf :=
  match s.tlbHit units stream va with
  | none => s.walk stream va
  | some e =>
    let w := s.walk stream va
    if w = some ⟨e.at_, e.leaf, e.bits⟩ then w
    else if Config.staleTlb s.free then some ⟨e.at_, e.leaf, e.bits⟩ else w

/-- Every granule a leaf covers is in the seal set and its SEAL bit is 1 (R203). -/
def State.leafSealed (s : State) (l : Leaf) : Bool :=
  bit l.val 53 &&
    (List.range (2 ^ (l.bits - 19))).all (fun i => s.sealSet.contains (entryBase l.val / 2 ^ 19 + i))

/-- Where an access goes: a cell, with the leaf that maps it, or a word of the status window. -/
inductive Place where
  | cell (pa : Nat) (leaf : Option Nat)
  | status (off : Nat)
  deriving DecidableEq, Repr

/-- The sealer holds a granule read-only in the context it checks (R71). -/
def State.sealerHolds (s : State) (stream granule : Nat) : Bool :=
  match s.host.sealer.req with
  | some (_, _, ctx) => ctx.toNat % 8 == stream && s.host.sealer.hold.contains granule
  | none => false

/-- Translates an address of the memory range in a stream's context and checks the leaf in the order of
R202; granules under the sealer's check are held read-only (R71). -/
def State.translate (s : State) (units : List Nat) (stream : Nat) (frame : Bool) (acc : Acc) (va : Nat) : Except Nat Place :=
  match s.leafFor units stream va with
  | none => .error tcTranslation
  | some l =>
    let pa := entryBase l.val + va % 2 ^ l.bits
    let granted := match acc with
      | .load => bit l.val 2
      | .store => bit l.val 3
      | .fetch => bit l.val 4
    if bit l.val 5 && !frame then .error tcPermission
    else if !granted then .error tcPermission
    else if acc = .store ∧ (s.sealSet.contains (pa / 2 ^ 19) || s.sealerHolds stream (pa / 2 ^ 19)) then
      .error tcPermission
    else if acc = .fetch ∧ !s.leafSealed l then .error tcFetchNotSealed
    else .ok (.cell pa (some l.at_))

/-- The places of the entries that a walk reads (R200). -/
def walkCells (m : List Host.Cell) (frames : List (Nat × Nat)) (va : Nat) : Nat → Nat → Nat → List Nat
  | 0, _, _ => []
  | n + 1, lvl, table =>
    let a := table + 8 * walkIndex lvl va
    let e := Memory.read m a 8
    a :: (if !entryOk lvl e frames || bit e 1 then [] else walkCells m frames va n (lvl + 1) (entryBase e))

/-- The lines of the page tables that a walk in a stream's context reads. -/
def State.walkLines (s : State) (stream va : Nat) : List Nat :=
  let r := (s.ctx stream).root.toNat
  if rootOk r && decide (va < 13 * 2 ^ 48) then (walkCells s.mem s.frames va 4 0 (entryBase r)).map (· / 128) else []

/-- The entries a TLB holds: 256 of a core, 4,096 of a die (R204). -/
def tlbCap (unit : Nat) : Nat := if unit < 640 then 256 else 4096

/-- An entry goes into its TLB; a full one gives up an entry that the spec does not name (log entry 15). -/
def State.putTlb (s : State) (e : TlbEntry) : State :=
  let mine := s.tlb.filter (fun x => x.unit == e.unit)
  if mine.contains e then s
  else
    let out := if mine.length < tlbCap e.unit then none else mine[Config.freeNat s.free % mine.length]?
    { s with tlb := s.tlb.filter (fun x => some x != out) ++ [e], free := s.free + 1 }

/-! ### Vault windows and swap buffers (R153, R205, R236, R394) -/

/-- The physical bay bound to a logical bay of a task. -/
def State.bayOf (s : State) (task lbay : Nat) : Option Nat :=
  (s.bays.find? (fun e => e.2.bound == some (task, lbay))).map (·.1)

/-- A logical bay's state in the rotation area. -/
def State.rotOf (s : State) (task lbay : Nat) : Option RotBay :=
  s.rotated.find? (fun r => r.task == task && r.lbay == lbay)

/-- A slice of a core is being converted (R207, R208). -/
def Core.converting (c : Core) (slice : Nat) : Bool :=
  c.pt.raised.contains slice || c.lowered.contains slice

/-- Resolves a byte of a core's window: the named core is resident, or its image is (R153, R205). -/
def State.vaultPlace (s : State) (task lbay core off : Nat) (engine : Bool) : Except Nat Place :=
  match s.bayOf task lbay with
  | some pb =>
    let pc := pb * 8 + core
    let c := s.core pc
    if c.converting (off / sliceBytes) && !engine then .error tcPhaseHazard
    else if off < c.pt.dslices * sliceBytes then .ok (.cell (vaultCell pc off) none)
    else .error tcVaultWindow
  | none =>
    match s.rotOf task lbay with
    | none => .error tcVaultWindow
    | some r =>
      let c := (find? r.cores core).getD {}
      if off < c.peg.dslices * sliceBytes then .ok (.cell (rotCell task lbay core off) none)
      else .error tcVaultWindow

/-- The address that a load, a store or a copy read of a swap buffer reaches: the live half at the same
offset (R236, R394); a renamed task's own accesses reach the shadow half (R81). -/
def State.liveVa (s : State) (stream : Nat) (task : Option Nat) (va : Nat) : Nat :=
  match (s.ctx stream).bufs.find? (fun b =>
    (decide (b.a ≤ va) && decide (va < b.a + 128 * b.units)) ||
    (decide (b.b ≤ va) && decide (va < b.b + 128 * b.units))) with
  | none => va
  | some b =>
    let off := if b.a ≤ va ∧ va < b.a + 128 * b.units then va - b.a else va - b.b
    let toB := if b.renamed.isSome && b.renamed == task then !b.liveB else b.liveB
    if toB then b.b + off else b.a + off

/-- The context in which an agent resolves addresses: a stream, a task with its logical bay, core and
number of logical bays, frame mode, or an engine working for it. -/
structure View where
  stream : Nat
  task : Option Nat := none
  lbay : Nat := 0
  lcid : Nat := 0
  nlbay : Nat := 0
  frame : Bool := false
  engine : Bool := false
  seq : Bool := false
  /-- the TLBs that translate for it (R204) -/
  units : List Nat := []
  deriving DecidableEq, Repr

/-- The TLB of the hub that serves a stream, whose command sequencer, host traffic and table it holds (R204). -/
def hubTlb (stream : Nat) : Nat := 640 + 10 + stream / 4

/-- The view of host traffic of a stream (R63). -/
def hostView (n : Nat) : View := { stream := n, units := [hubTlb n] }

/-- The view of the agent that issues an op. -/
def State.view (s : State) : View :=
  match s.focus with
  | .seq n => { stream := n, seq := true, units := [hubTlb n] }
  | _ =>
    let c := s.my
    { stream := c.stream, task := c.point.map (·.1), lbay := c.lbay, lcid := c.lcid,
      nlbay := c.nlcore / 8, frame := c.frame, units := [s.me, 640 + s.me / 64] }

/-- Resolves one byte of the 52-bit space, a swap buffer's half taken as named (R199, R205, R214). -/
def State.resolveRaw (s : State) (v : View) (acc : Acc) (va : Nat) : Except Nat Place :=
  if 2 ^ 52 ≤ va then .error tcTranslation
  else
    match fieldN va 48 4 with
    | 13 => if acc = .fetch then .error tcFetchNotSealed else .ok (.status (va % 2 ^ 48))
    | 14 =>
      if acc = .fetch then .error tcFetchNotSealed
      else if v.seq then .error tcVaultWindow
      else match v.task with
        | none => .error tcVaultWindow
        | some t => if va % 2 ^ 48 < 2 ^ 22 then s.vaultPlace t v.lbay v.lcid (va % 2 ^ 22) v.engine
                    else .error tcVaultWindow
    | 15 =>
      if acc = .fetch then .error tcFetchNotSealed
      else if v.seq then .error tcVaultWindow
      else match v.task with
        | none => .error tcVaultWindow
        | some t =>
          if fieldN va 32 16 = 0 ∧ fieldN va 25 7 < v.nlbay then
            s.vaultPlace t (fieldN va 25 7) (fieldN va 22 3) (va % 2 ^ 22) v.engine
          else .error tcVaultWindow
    | _ => s.translate v.units v.stream (v.frame || v.seq) acc va

/-- Resolves one byte, a swap buffer's address reaching its live half (R236). -/
def State.resolve (s : State) (v : View) (acc : Acc) (va : Nat) : Except Nat Place :=
  s.resolveRaw v acc (if acc = .fetch then va else s.liveVa v.stream v.task va)

/-- The aligned 128-byte parts of an access: address and length of each. -/
def segments : Nat → Nat → Nat → List (Nat × Nat)
  | 0, _, _ => []
  | fuel + 1, va, n =>
    if n = 0 then []
    else
      let k := min n (128 - va % 128)
      (va, k) :: segments fuel (va + k) (n - k)

/-- Resolves every part of an access of `n` bytes; a fault gives its cause and the first failing byte. -/
def State.resolveAll (s : State) (v : View) (acc : Acc) : List (Nat × Nat) →
    Except (Nat × Nat) (List (Place × Nat))
  | [] => .ok []
  | (va, k) :: rest =>
    match s.resolve v acc va with
    | .error c => .error (c, va)
    | .ok p =>
      match State.resolveAll s v acc rest with
      | .error e => .error e
      | .ok ps => .ok ((p, k) :: ps)

end Sys2Proof.Machine
end

