-- ==== Sys2Proof/Machine/Lines.lean ====
section
/-! DEFINITION. Lines of memory: errors of stored data, rows and banks, caches, logical time, the home
protocol, withheld stores and the writes that join the global order (spec/09_memory.md R203, R209, R210,
R214, R217 to R223; spec/10_consistency.md R225 to R236). -/

namespace Sys2Proof.Machine

open Sys2Proof.Bits

/-! ### Errors of stored data (R219 to R221) -/

/-- The key slot of a leaf (R201, R220). -/
def State.keyOf (s : State) (leaf : Option Nat) : Option Nat :=
  leaf.map (fun a => (Memory.get s.mem (a + 7)).toNat / 16)

/-- What a read of a cell's data through a leaf meets: MEM_UNCORR, INTEGRITY or nothing (R219, R221). The
tag of a sector encrypted under another slot fails (R220). -/
def State.dataFault (s : State) (pa : Nat) (leaf : Option Nat) : Option Nat :=
  if isTier pa then
    let sec := pa / 512
    if s.health.poison.contains sec || s.health.eccBad.contains sec then some tcMemUncorr
    else if s.health.tagBad.contains sec then some tcIntegrity
    else if leaf.isSome && (find? s.health.keys sec).isSome && find? s.health.keys sec != s.keyOf leaf then some tcIntegrity
    else none
  else if isGaugeCell pa && s.health.vaultBad.contains (pa / 8) then some tcMemUncorr
  else none

/-- Of two faults of one access the one that is reported: MEM_UNCORR before INTEGRITY (R221). -/
def worse (a b : Option (Nat × Nat)) : Option (Nat × Nat) :=
  match a, b with
  | some (c, x), some (d, y) => if c ≠ tcMemUncorr ∧ d = tcMemUncorr then some (d, y) else some (c, x)
  | some x, none => some x
  | none, b => b

/-- What a write of less than a sector, or of less than a vault word of 64 bits, meets where it merges its
bytes with those stored (R219 to R221). -/
def State.mergeFault (s : State) (pa n : Nat) (leaf : Option Nat) : Option Nat :=
  if isTier pa then s.dataFault pa leaf
  else if pa % 8 ≠ 0 ∧ (s.dataFault pa leaf).isSome then s.dataFault pa leaf
  else if (pa + n) % 8 ≠ 0 then s.dataFault (pa + n) leaf
  else none

/-- The offset in a write of the first byte of the unit whose merge finds the error (R145). -/
def State.mergeAt (s : State) (pa n : Nat) (leaf : Option Nat) : Nat :=
  if isTier pa ∨ (pa % 8 ≠ 0 ∧ (s.dataFault pa leaf).isSome) then 0 else n - (pa + n) % 8

/-- The stack or hub whose controller holds a cell of a tier counts a read (R214): 0 a correction, 1 an
uncorrectable sector, 2 a failed tag, 3 a second read after an uncorrectable first one. -/
def State.countRead (s : State) (pa kind : Nat) : State :=
  if pa < 16 * 2 ^ 40 then
    let n := pa / 2 ^ 40
    let t := s.stack n
    s.setStack n (match kind with
      | 0 => { t with eccCorr := (t.eccCorr + 1) % 2 ^ 64 }
      | 1 => { t with uncorr := (t.uncorr + 1) % 2 ^ 64 }
      | 2 => { t with integ := (t.integ + 1) % 2 ^ 64 }
      | _ => t)
  else
    let h := boolN (Config.lpddrHub (pa / 512))
    let l := s.hubMem h
    let up (l : List Nat) (i : Nat) : List Nat := setNth l i ((nth l i 0 + 1) % 2 ^ 64)
    s.setHubMem h (match kind with
      | 0 => up l 4
      | 1 => up (up (up l 2) 3) 5
      | 2 => up l 6
      | _ => up l 2)

/-- What a read of a sector at its controller leaves: a corrected error is counted, a sector is read again
after a first uncorrectable read, an uncorrectable sector is poisoned and counted, a failed tag is counted
(R221). -/
def State.checkRead (s : State) (pa : Nat) (leaf : Option Nat) : State :=
  if !isTier pa then s
  else
    let sec := pa / 512
    let s := if s.health.eccRetry.contains sec then
        ({ s with health := { s.health with eccRetry := s.health.eccRetry.filter (· != sec) } }).countRead pa 3
      else s
    let s := if s.health.eccSoft.contains sec then s.countRead pa 0 else s
    if s.health.poison.contains sec then s
    else if s.health.eccBad.contains sec then
      ({ s with health := { s.health with poison := addOnce s.health.poison sec } }).countRead pa 1
    else if s.dataFault pa leaf = some tcIntegrity then s.countRead pa 2
    else s

/-- A write that covers a whole sector: its poison and its errors are gone, and it is encrypted anew under the
slot of its leaf (R220, R221). -/
def State.freshSector (s : State) (sec : Nat) (leaf : Option Nat) : State :=
  let h := s.health
  { s with health := { h with
      poison := h.poison.filter (· != sec), eccBad := h.eccBad.filter (· != sec), tagBad := h.tagBad.filter (· != sec),
      eccSoft := h.eccSoft.filter (· != sec), eccRetry := h.eccRetry.filter (· != sec),
      keys := match s.keyOf leaf with
        | some k => put h.keys sec k
        | none => drop h.keys sec } }

/-! ### Rows and banks (R217, R218) -/

/-- The stack and bank of a line of the HBM tier (log entry 17). -/
def bankOfLine (line : Nat) : Option (Nat × Nat) :=
  let pa := 128 * line
  if pa < tierBase 0 10 then some (pa / 2 ^ 40, Config.bankOf (pa % 2 ^ 40)) else none

/-- The hold of a bank. -/
def Stack.hold? (k : Stack) (bank : Nat) : Option (Nat × Nat × List Nat) := k.holds.find? (fun h => h.1 == bank)

/-- The device's time in ns (R6). -/
def State.ns (s : State) : Nat := 10 * s.tick

/-- A line's bank is held. -/
def State.bankHeld (s : State) (line : Nat) : Bool :=
  match bankOfLine line with
  | some (n, b) => ((s.stack n).hold? b).isSome
  | none => false

/-- The rows within two of a row of a bank (R218). -/
def neighbours (row : Nat) : Nat :=
  ((List.range 5).filter (fun i => i != 2 && decide (2 ≤ row + i) && decide (row + i < Config.rowCount + 2))).length

/-- A row is opened (R217); at the threshold refresh management is issued and the bank is held for 350 ns, with
`waiting` requests already queued for it (R218). -/
def Stack.activate (k : Stack) (bank row now waiting : Nat) : Stack :=
  let rs := (find? k.rows bank).getD []
  let c := (find? rs row).getD 0 + 1
  if k.rmThr ≤ c then
    { k with rows := put k.rows bank (drop rs row), rmAlert := (k.rmAlert + 1) % 2 ^ 64,
             rmCmd := (k.rmCmd + neighbours row) % 2 ^ 64, backoff := (k.backoff + waiting) % 2 ^ 64,
             holds := k.holds ++ [(bank, now + 350, List.replicate waiting now)] }
  else { k with rows := put k.rows bank (put rs row c) }

/-- The requests queued at the homes of a bank's lines (R218). -/
def State.queuedFor (s : State) (stack bank : Nat) : Nat :=
  ((s.lines.filter (fun e => bankOfLine e.1 == some (stack, bank))).map (fun e => e.2.queue.length)).sum

/-- An access to a line's data at its controller: an activation unless the row is open; whether it stays open is
the base die's (R217). -/
def State.accessRow (s : State) (line : Nat) : State :=
  match bankOfLine line with
  | none => s
  | some (n, b) =>
    let row := Config.rowOf (128 * line % 2 ^ 40)
    let k := s.stack n
    let k := if find? k.open_ b = some row then k else k.activate b row s.ns (s.queuedFor n b)
    let k := { k with open_ := if Config.keepsOpen s.free then put k.open_ b row else drop k.open_ b }
    ({ s with free := s.free + 1 }).setStack n k

/-- A request that arrives while its bank is held (R218). -/
def State.noteHeld (s : State) (line : Nat) : State :=
  match bankOfLine line with
  | none => s
  | some (n, b) =>
    let k := s.stack n
    if (k.hold? b).isNone then s
    else s.setStack n { k with
      backoff := (k.backoff + 1) % 2 ^ 64,
      holds := k.holds.map (fun (h : Nat × Nat × List Nat) => if h.1 = b then (h.1, h.2.1, h.2.2 ++ [s.ns]) else h) }

/-! ### Caches (R209, R210) -/

/-- The retention that a hint gives an allocated line (R210). -/
def hintPrio : Nat → Nat
  | 1 => 2
  | 2 => 0
  | _ => 1

/-- The index of the line a full cache gives up: of those of lowest retention one that the replacement chooses
(R210: not given, log entry 83). -/
def victimIndex (prios : List Nat) (draw : Nat) : Nat :=
  let low := prios.foldl min 2
  let idx := (List.range prios.length).filter (fun i => nth prios i 0 == low)
  nth idx (Config.freeNat draw % max 1 idx.length) 0

/-- Takes out the entry at an index. -/
def dropAt {α : Type} : List α → Nat → List α
  | [], _ => []
  | _ :: as, 0 => as
  | a :: as, n + 1 => a :: dropAt as n

/-- Puts an entry into a cache of `cap` lines; `same` marks the entries it replaces. -/
def cachePut {α : Type} (cap draw : Nat) (prio : α → Nat) (same : α → Bool) (l : List α) (a : α) : List α :=
  let l := l.filter (fun x => !same x)
  if cap = 0 then []
  else if l.length < cap then l ++ [a]
  else dropAt l (victimIndex (l.map prio) draw) ++ [a]

/-- The lines of an L1 data cache of 128 KiB (R209). -/
def l1Lines : Nat := 1024
/-- The lines of an instruction cache of 64 KiB (R209). -/
def icLines : Nat := 512

/-- The lines that the cache slices of a die hold beside its pinned lines: 4,096 for each slice that is neither
direct nor being converted (R205, R207, R209, R211). -/
def State.cacheLines (s : State) (die : Nat) : Nat :=
  let slices := ((List.range 64).map (fun i =>
    let c := s.core (64 * die + i)
    8 - min 8 (c.pt.dslices + (c.lowered.filter (fun x => decide (c.pt.dslices ≤ x))).length))).sum
  let pins := ((s.ctxs.map (fun e => (e.2.pins.filter (fun (p : Nat × Nat) => p.2 / 512 == die)).length))).sum
  4096 * slices - pins

/-- What the memory-side cache of a die holds: no more than its slices can (R209). -/
def State.cached (s : State) (die : Nat) : List CacheLine :=
  let l := (find? s.msc die).getD []
  l.drop (l.length - s.cacheLines die)

/-- The stack on which a line is homed; none for the LPDDR-6 tier and the vaults. -/
def homeStack (line : Nat) : Option Nat := (bankOfLine line).map (fun b => b.1)

/-- A line lies in the memory-side cache of its home, as a cached or as a pinned line (R209, R211). -/
def State.cacheHit (s : State) (line : Nat) : Bool :=
  match homeStack line with
  | none => false
  | some n => (s.cached n).any (fun c => c.line == line) || s.ctxs.any (fun e => e.2.pins.any (fun p => p.1 == line))

/-- Allocates a line in the memory-side cache of its home; LPDDR-6 and vault lines never are (R209, R210). -/
def State.allocate (s : State) (line hint : Nat) : State :=
  match homeStack line with
  | none => s
  | some n =>
    if hint = 3 then s
    else { s with
      free := s.free + 1,
      msc := put s.msc n (cachePut (s.cacheLines n) s.free (fun (c : CacheLine) => c.prio) (fun c => c.line == line)
        (s.cached n) ⟨line, hintPrio hint⟩) }

/-- A request for a line would wait for its bank: the bank is held, and no cache holds the line (R218). -/
def State.rowHeld (s : State) (line : Nat) : Bool := s.bankHeld line && !s.cacheHit line

/-- A line reaches its home by a write-back or an update there: in the memory-side cache, or in its row (R209, R217). -/
def State.touchLine (s : State) (line : Nat) : State := if s.cacheHit line then s else s.accessRow line

/-- A line's data is written at its home, where it may be allocated (R209, R217). -/
def State.fetchData (s : State) (line hint : Nat) : State := (s.touchLine line).allocate line hint

/-- A line's data is read at its home: from the memory-side cache, or from its row, whose sector the controller checks;
data with an error is not allocated (R209, R217, R221). -/
def State.readLine (s : State) (line : Nat) (leaf : Option Nat) (hint : Nat) : State :=
  if s.cacheHit line then s.allocate line hint
  else
    let t := (s.checkRead (128 * line) leaf).accessRow line
    if (s.dataFault (128 * line) leaf).isSome then t else t.allocate line hint

/-- The cause of a freeze that a read's check gives it: a sector poisoned, a second read, or none (R213). -/
def causeSince (old new : Health) : Nat := if new.poison != old.poison then 0 else if new.eccRetry != old.eccRetry then 1 else 4

/-- Records the translation of an address in the TLBs that translate for it; on a miss the walk reads the page tables
(R204, R217). -/
def State.noteTlb (s : State) (v : View) (va : Nat) : State :=
  match s.leafFor v.units v.stream va with
  | none => s
  | some l =>
    let t := if (s.tlbHit v.units v.stream va).isSome then s else (s.walkLines v.stream va).foldl (fun s line => s.fetchData line 0) s
    v.units.foldl (fun s u => s.putTlb ⟨v.stream, va / 2 ^ l.bits * 2 ^ l.bits, l.bits, l.val, l.at_, u⟩) t

/-- A plain read of `n` bytes of memory by a unit that is no core: its translations, and the accesses at the lines' homes
(R204, R217, R221). -/
def State.touchRead (s : State) (v : View) (va n : Nat) : State :=
  (segments (n / 128 + 2) va n).foldl (fun s p =>
    let at_ := s.liveVa v.stream v.task p.1
    match s.resolveRaw v .load at_ with
    | .ok (.cell pa leaf) => if isTier pa then (s.noteTlb v at_).readLine (pa / 128) leaf 0 else s
    | _ => s) s

/-! ### Withheld stores and logical time (R136, R227 to R232) -/

/-- The agent's logical program timestamp (R227). -/
def State.pts (s : State) : Nat :=
  match s.focus with
  | .seq n => (s.seq n).pts
  | _ => s.my.pts
/-- Advances the agent's timestamp; it never decreases (R227). -/
def State.setPts (s : State) (t : Nat) : State :=
  match s.focus with
  | .seq n => s.setSeq n { s.seq n with pts := max (s.seq n).pts t }
  | _ => s.modMy (fun c => { c with pts := max c.pts t })

/-- The timestamp of a core's oldest withheld store to a line. -/
def Core.oldestOf (c : Core) (line : Nat) : Option Nat := (c.withheld.find? (fun w => w.line == line)).map (·.wts)

/-- The oldest timestamp of the withheld stores of the cores, but one, to a line (R232). -/
def State.heldBut (s : State) (but : Option Nat) (line : Nat) : Option Nat :=
  (s.cores.filterMap (fun e => if some e.1 = but then none else e.2.oldestOf line)).foldl
    (fun m w => some (match m with | some v => min v w | none => w)) none

/-- Another core's withheld store to a line, seen from the agent: its timestamp (R232). -/
def State.holderOf (s : State) (line : Nat) : Option Nat :=
  match s.focus with
  | .seq _ => s.heldBut none line
  | _ => s.heldBut (some s.me) line

/-- A core owns a line: its home names it, and the core has not given it up (R230). -/
def State.ownedBy (s : State) (n line : Nat) : Bool :=
  match (s.line line).home with
  | .excl o => o == n
  | .fetch o _ => o == n && (s.line line).fwd == some n
  | .idle => false

/-- The agent owns a line or withholds a store to it. -/
def State.owns (s : State) (line : Nat) : Bool :=
  match s.focus with
  | .seq _ => false
  | _ => (s.my.oldestOf line).isSome || s.ownedBy s.me line

/-- What an access of the agent meets: done with a value, a trap with cause and address, a wait. -/
inductive Got (α : Type) where
  | ok (s : State) (a : α)
  | trap (cause addr : Nat)
  | wait (w : Wait)

/-- The data of a line in memory. -/
def State.lineData (s : State) (line : Nat) : List Byte := Memory.getAll s.mem (128 * line) 128

/-- A core's L1 copy of a line that it does not own. -/
def Core.lineCopy (c : Core) (line : Nat) : Option L1Copy := c.l1.find? (fun k => k.line == line && !k.own)

/-- The agent's L1 copy of a line whose lease covers its logical time (R227). -/
def State.copyOf (s : State) (line : Nat) : Option L1Copy :=
  match s.focus with
  | .seq _ => none
  | _ => s.my.l1.find? (fun (k : L1Copy) => k.line == line && !k.own && decide (max s.pts k.wts ≤ k.rts))

/-- The hint of the op being issued: its own field, or that of its MOD (R210). -/
def State.hint (s : State) : Nat :=
  s.bundle.hint.getD (match s.bundle.mod with | some m => m.hint.toNat | none => 0)

/-! ### Writes that join (R226, R244) -/

/-- Bytes with their offsets in a line. -/
def offsets (off : Nat) (bytes : List Byte) : List (Nat × Byte) :=
  (List.range bytes.length).map (· + off) |>.zip bytes

/-- A core waits on the gauge word of a cell, or for a peg after it has found the word's condition not met (R244). -/
def Core.watches (c : Core) (pa : Nat) : Bool :=
  match c.wait with
  | .gauge g _ _ => g / 32 == pa / 32
  | _ => match c.polled with
    | some g => g / 32 == pa / 32
    | none => false

/-- The wake event has come. -/
def Core.wakeHere (c : Core) : Core :=
  match c.wait with
  | .gauge g _ y => { c with wait := .gauge g true y }
  | _ => { c with woken := true }

/-- Wakes the cores that wait on a gauge word of which a byte is written (R244). -/
def State.wake (s : State) (pa : Nat) : State :=
  if isGaugeCell pa && s.cores.any (fun e => e.2.watches pa) then
    { s with cores := s.cores.map (fun e => if e.2.watches pa then (e.1, e.2.wakeHere) else e) }
  else s

/-- Sets DIRTY in a leaf: where it is not set yet, by an update at the entry's home (R169, R204, R217). -/
def State.setDirty (s : State) (leaf : Option Nat) : State :=
  match leaf with
  | none => s
  | some a =>
    if (Memory.get s.mem (a + 6)).getLsbD 4 then s
    else { s.touchLine ((a + 6) / 128) with mem := Memory.set s.mem (a + 6) (Memory.get s.mem (a + 6) ||| 0x10#8) }

/-- Records the key slot a write encrypts its sector under. A store that was accepted under one slot and meets
its sector under another when it is released leaves a sector whose tag fails (R220, log entry 28). -/
def State.noteKey (s : State) (sec : Nat) (leaf : Option Nat) : State :=
  match s.keyOf leaf with
  | none => s
  | some k =>
    match find? s.health.keys sec with
    | none => { s with health := { s.health with keys := put s.health.keys sec k } }
    | some j => if j = k then s else { s with health := { s.health with tagBad := addOnce s.health.tagBad sec } }

/-- Vault words of 64 bits that a write covers hold good data again (R219). -/
def State.coverWords (s : State) (line : Nat) (bytes : List (Nat × Byte)) : State :=
  if s.health.vaultBad.isEmpty then s
  else { s with health := { s.health with vaultBad := s.health.vaultBad.filter (fun w =>
      !(w / 16 == line && (List.range 8).all (fun i => (find? bytes (8 * (w % 16) + i)).isSome))) } }

/-- A write joins the global order: its bytes, by offset in a line, its timestamp, its page's dirty bit,
its wake events (R169, R226, R244). Every write of the device goes through here. -/
def State.join (s : State) (line wts : Nat) (bytes : List (Nat × Byte)) (leaf : Option Nat) : State :=
  let r := s.line line
  let s := s.setDirty leaf
  let s := s.setLine line { r with wts := max r.wts wts, rts := max r.rts wts }
  let s := { s with mem := bytes.foldl (fun m (b : Nat × Byte) => Memory.set m (128 * line + b.1) b.2) s.mem, wtsTop := max s.wtsTop wts }
  let s := (s.noteKey (128 * line / 512) leaf).coverWords line bytes
  bytes.foldl (fun s (b : Nat × Byte) => s.wake (128 * line + b.1)) s

/-- Puts bytes into the withheld-store buffer (R136): stores of one timestamp to a line stand together, and a
later one keeps its own (R227). -/
def Core.withhold (c : Core) (line wts : Nat) (bytes : List (Nat × Byte)) (leaf : Option Nat)
    (retire : Bool) (bad : Option TrapRec) (info : W64) : Core :=
  match c.withheld.reverse.find? (fun w => w.line == line) with
  | some w =>
    if w.wts = wts then
      let v : WLine := { w with bytes := bytes.foldl (fun l b => put l b.1 b.2) w.bytes, retire := w.retire && retire,
                                leaf := if w.leaf.isSome then w.leaf else leaf,
                                others := match leaf with
                                  | some a => if w.leaf.isNone ∨ w.leaf = some a then w.others else addOnce w.others a
                                  | none => w.others,
                                bad := if w.bad.isSome then w.bad else bad }
      { c with withheld := c.withheld.map (fun x => if x = w then v else x) }
    else { c with withheld := c.withheld ++ [{ line := line, wts := wts, bytes := bytes.foldl (fun l b => put l b.1 b.2) [], leaf := leaf, retire := retire, bad := bad, info := info }] }
  | none =>
    { c with withheld := c.withheld ++ [{ line := line, wts := wts, bytes := bytes.foldl (fun l b => put l b.1 b.2) [], leaf := leaf, retire := retire, bad := bad, info := info }] }

/-- The byte of a core's newest withheld store to a cell. -/
def Core.ownByte (c : Core) (pa : Nat) : Option Byte :=
  c.withheld.reverse.findSome? (fun w => if w.line = pa / 128 then find? w.bytes (pa % 128) else none)

/-- A core's L1 gives up a line. -/
def Core.dropLine (c : Core) (line : Nat) : Core := { c with l1 := c.l1.filter (fun k => k.line != line) }

/-- A line that a writer outside the cores, or a command sequencer, may write at its home: an owner without a
withheld store has written it back first (R230). -/
def State.writtenBack (s : State) (line : Nat) : State :=
  let r := s.line line
  match r.home with
  | .excl o => (s.setLine line { r with home := .idle, bad := none }).modCore o (·.dropLine line)
  | _ => s

/-- The logical time at which a write that no core issues joins on a line: above its RTS, not before `top`, and
no later than a withheld store, which follows it (R232, R235). -/
def State.outsideTime (s : State) (line top : Nat) : Nat :=
  let t := max ((s.line line).rts + 1) top
  match s.heldBut none line with
  | some w => min t w
  | none => t

/-- A write that no core issues joins at a logical time (R232, R235, R239). -/
def State.joinOutside (s : State) (pa time : Nat) (bytes : List (Nat × Byte)) (leaf : Option Nat) : State :=
  let line := pa / 128
  (if (s.heldBut none line).isSome then s else s.writtenBack line).join line time bytes leaf

/-! ### The home protocol (R230 to R234) -/

/-- The new value of an atomic of `w` bytes (R312). -/
def AtomOp.apply (op : AtomOp) (w old b : Nat) : Nat :=
  let m := 2 ^ (8 * w)
  let o := old % m
  let x := b % m
  let so := sextN o (8 * w)
  let sx := sextN x (8 * w)
  match op with
  | .add => (o + x) % m
  | .smin => if sx < so then x else o
  | .umin => min o x
  | .smax => if so < sx then x else o
  | .umax => max o x
  | .and => o &&& x
  | .or => o ||| x
  | .xor => o ^^^ x
  | .swap => x
  | .fadd => (fAdd 6 ⟨0, 0, 0⟩ o x).1
  | .fmin => (fMinMax 6 false o x).1

/-- A core's copy of a line has the home's WTS (R230). -/
def State.freshCopy (s : State) (core line : Nat) : Bool :=
  (s.core core).l1.any (fun k => k.line == line && !k.own && k.wts == (s.line line).wts)

/-- Another core's withheld store to a line, seen from a core: its timestamp. -/
def State.heldBy (s : State) (core line : Nat) : Option Nat := s.heldBut (some core) line

/-- A line enters a core's L1 (R209, R210): a copy that only carries the answer to one access takes no place of another.
A full cache gives up a line, which its core writes back if it owns it; one that it withholds a store to stays its own
(R136, R230). -/
def State.putL1 (s : State) (core : Nat) (k : L1Copy) : State :=
  let old := (s.core core).l1.filter (fun x => x.line != k.line)
  let kept := old.filter (fun x => !x.once)
  if k.once ∨ kept.length < l1Lines then s.modCore core (fun c => { c with l1 := old ++ [k] })
  else
    let v := nth kept (victimIndex (kept.map (·.prio)) s.free) k
    let s := s.modCore core (fun c => { c with l1 := old.filter (fun x => x.line != v.line) ++ [k] })
    if v.own ∧ (s.line v.line).home = .excl core ∧ (s.core core).oldestOf v.line = none then
      (s.touchLine v.line).setLine v.line { s.line v.line with home := .idle, bad := none }
    else s

/-- A physical core's L1 is emptied: the lines that it owns are written back (R209, R230). -/
def State.emptyL1 (s : State) (core : Nat) : State :=
  let s := (s.lines.filter (fun e => e.2.home == .excl core)).foldl (fun s e =>
    (s.touchLine e.1).setLine e.1 { s.line e.1 with home := .idle, bad := none }) s
  s.modCore core (fun c => { c with l1 := [] })

/-- A home reads a line's data for a request; what its check meets is a cause of the core's freeze, if it is frozen
(R213, R221). -/
def State.readFor (s : State) (q : Req) (line : Nat) : State :=
  let t := s.readLine line q.leaf q.hint
  let why := causeSince s.health t.health
  if why = 4 then t else t.modCore q.core (fun c => { c with lateWhy := min c.lateWhy why })

/-- A read is answered: data, WTS and a lease, which another core's withheld store of timestamp w bounds (R227,
R232). The copy goes into the core's L1 by its hint (R210). -/
def State.giveRead (s : State) (q : Req) (line : Nat) (bound : Option Nat) : State :=
  let r := s.line line
  let ts := max (s.core q.core).pts r.wts
  let fin := max r.rts (ts + Config.lease s.free)
  let fin := match bound with
    | some w => min fin (w - 1)
    | none => fin
  let bad := s.dataFault (128 * line) q.leaf
  let s := ({ s with free := s.free + 1 }).setLine line { r with rts := max r.rts fin }
  let t := s.putL1 q.core { line := line, wts := r.wts, rts := fin, data := s.lineData line, prio := hintPrio q.hint,
                            once := q.hint == 3 || bad.isSome, bad := bad }
  t.readFor q line

/-- A core becomes the owner of a line: its copy is the owner's data from then on (R230). -/
def State.giveOwner (s : State) (q : Req) (line : Nat) (data : Bool) : State :=
  let bad := if data then s.dataFault (128 * line) q.leaf else none
  let s := if data then s.readFor q line else s
  let s := s.setLine line { s.line line with home := .excl q.core, bad := bad }
  if q.hint = 3 then s.modCore q.core (·.dropLine line)
  else s.putL1 q.core { line := line, wts := 0, rts := 0, data := [], prio := hintPrio q.hint, own := true }

/-- A core's oldest no-return atomic to a line is applied at its home, at a time above the line's RTS and not
before the core's PTS at its issue, which a later store of the core that it withholds still follows; it writes nothing to a granule sealed since, or where its sector's merge finds an error
(R203, R221, R234, log entry 86). -/
def State.applyNr (s : State) (core line : Nat) : State :=
  let c := s.core core
  match c.nr.find? (fun a => a.pa / 128 == line) with
  | none => s
  | some a =>
    let old := Memory.read s.mem a.pa a.width
    let ts := max a.pts ((s.line line).rts + 1)
    let bad := (s.mergeFault a.pa a.width a.leaf).isSome || s.sealSet.contains (a.pa / 2 ^ 19)
    let s := s.readLine line a.leaf 0
    let s := if bad then s
      else s.join line ts (offsets (a.pa % 128) (leBytes a.width (a.op.apply a.width old a.operand))) a.leaf
    s.modCore core (fun c => { c with nr := c.nr.erase a, nrTop := max c.nrTop ts })

/-- A request is served from IDLE (R230); none while another core's withheld store makes it wait (R232). -/
def State.serveIdle (s : State) (line : Nat) (q : Req) : Option State :=
  let w := s.heldBy q.core line
  match q.kind with
  | .rd => match w with
    | some w => if max (s.core q.core).pts (s.line line).wts < w then some (s.giveRead q line (some w)) else none
    | none => some (s.giveRead q line none)
  | .ex => if w.isSome then none else some (s.giveOwner q line true)
  | .up => if w.isSome then none else some (s.giveOwner q line (!s.freshCopy q.core line))
  | .nr => if w.isSome then none else some (s.applyNr q.core line)

/-- A request that its agent carries out itself once its turn has come: that of a core for a vault line, that of a
command sequencer (R229, R231). -/
def selfServed (line : Nat) (q : Req) : Bool := decide (640 ≤ q.core) || (!isTier (128 * line) && q.kind != .nr)

/-- The agent of a request still waits for the line. -/
def State.stillWaits (s : State) (line : Nat) (q : Req) : Bool :=
  match (if q.core < 640 then (s.core q.core).wait else (s.seq (q.core - 640)).wait) with
  | .line l _ => l == line
  | _ => false

/-- A request reads or writes the line's data at its home: not an upgrade of a copy that is not stale (R230). -/
def State.needsRow (s : State) (line : Nat) (q : Req) : Bool := !(q.kind == .up && s.freshCopy q.core line)

/-- The home takes the requests of its queue one after another while it can (R230, R231); one whose data lies in a held
bank waits for it (R218). -/
def State.serveQueue (s : State) (line : Nat) : Nat → State
  | 0 => s
  | n + 1 =>
    let r := s.line line
    match r.queue with
    | [] => s
    | q :: rest =>
      let popped := s.setLine line { r with queue := rest }
      if selfServed line q then (if s.stillWaits line q then s else State.serveQueue popped line n)
      else match r.home with
      | .fetch _ _ => s
      | .excl o =>
        if o = q.core ∧ q.kind ≠ .nr then State.serveQueue popped line n
        else
          let q' : Req := if q.kind = .up then { q with kind := .ex } else q
          s.setLine line { r with queue := rest, home := .fetch o q', fwd := some o }
      | .idle =>
        if s.rowHeld line && s.needsRow line q then s
        else match popped.serveIdle line q with
          | none => s
          | some t => State.serveQueue t line n

/-- Everything a line's queue holds is served as far as it can be. -/
def State.serveAll (s : State) (line : Nat) : State := s.serveQueue line ((s.line line).queue.length + 1)

/-- Requests reach a line's home one after another (R231): each enters its queue, and waits there where the bank
is held (R218). -/
def State.enqueue (s : State) (line : Nat) (qs : List Req) : State :=
  qs.foldl (fun s q =>
    let s := if s.rowHeld line && (s.line line).home == .idle && s.needsRow line q then s.noteHeld line else s
    s.setLine line { s.line line with queue := (s.line line).queue ++ [q] }) s

/-- The core has a request at a line's home that has not been answered. -/
def State.asking (s : State) (core line : Nat) : Bool :=
  let r := s.line line
  r.queue.any (fun q => q.core == core && q.kind != .nr) ||
    (match r.home with | .fetch _ q => q.core == core && q.kind != .nr | _ => false)

/-- A core's access makes its request at the home, once (R230). -/
def State.ask (s : State) (line : Nat) (q : Req) : State :=
  (if s.asking q.core line then s else s.enqueue line [q]).serveAll line

/-- The home of a memory line can serve a request of the agent's core at once: nothing is before it, its bank is
free or not needed, no other core owns the line (R218, R230, R231). -/
def State.homeFree (s : State) (line : Nat) (q : Req) : Bool :=
  (s.line line).queue.isEmpty && !(s.rowHeld line && s.needsRow line q) && (s.line line).home == .idle

/-- The agent's number at a home. -/
def State.asker (s : State) : Nat :=
  match s.focus with
  | .seq n => 640 + n
  | _ => s.me

/-- A request that still waits stands before the agent's at a line's home (R231). -/
def State.behind (s : State) (line : Nat) : Bool :=
  ((s.line line).queue.takeWhile (fun q => q.core != s.asker)).any (fun q => !selfServed line q || s.stillWaits line q)

/-- The agent has carried out its access: its request leaves the queue, and the next may be served. -/
def State.leaveQueue (s : State) (line : Nat) : State :=
  let r := s.line line
  if r.queue.isEmpty then s
  else (s.setLine line { r with queue := r.queue.filter (fun q => !(q.core == s.asker && q.kind != .nr)) }).serveAll line

/-- A command sequencer reads or writes a memory line at its home (R230, R299): nothing is before it there, and the bank
is free. -/
def State.seqFree (s : State) (line : Nat) : Bool :=
  !s.behind line && !s.rowHeld line && (match (s.line line).home with | .fetch _ _ => false | _ => true)

/-! ### Loads and stores in logical time (R227, R229, R230, R232) -/

/-- A load of a line by the agent itself at its logical time, which becomes its PTS: a vault line, or a line that
it owns (R227, R229). -/
def State.readHere (s : State) (line wts : Nat) : State :=
  let r := s.line line
  let ts := max s.pts wts
  (s.setLine line { r with rts := max r.rts ts }).setPts ts

/-- A load's step of logical time for one line (R227, R229, R230, R232): served by the line's owner, by a copy, by
the home at once, or waiting for the home's answer. -/
def State.openRead (s : State) (line : Nat) (leaf : Option Nat) : Got Unit :=
  let r := s.line line
  let q : Req := ⟨.rd, s.asker, s.hint, leaf⟩
  let early := match s.holderOf line with
    | some w => decide (max s.pts r.wts < w)
    | none => true
  if s.owns line then .ok (s.readHere line r.wts) ()
  else if !isTier (128 * line) then
    if s.behind line || !early then .wait (.line line q) else .ok ((s.readHere line r.wts).leaveQueue line) ()
  else match s.focus with
    | .seq _ =>
      -- a command sequencer reads at the home itself
      if !s.seqFree line || !early then .wait (.line line q)
      else
        let t := if (s.holderOf line).isSome then s else s.writtenBack line
        .ok (((t.readLine line leaf s.hint).readHere line r.wts).leaveQueue line) ()
    | _ =>
      match s.copyOf line with
      | some k => .ok (s.setPts k.wts) ()
      | none =>
        if !s.homeFree line q then .wait (.line line q)
        else match s.serveIdle line q with
          | none => .wait (.line line q)
          | some t => .ok (t.setPts r.wts) ()

/-- A store's step of logical time for one line: exclusive ownership and the timestamp (R227, R230). -/
def State.openWrite (s : State) (line : Nat) (leaf : Option Nat) : Got Nat :=
  let q : Req := ⟨if s.asker < 640 && s.freshCopy s.me line then .up else .ex, s.asker, s.hint, leaf⟩
  let at_ (t : State) : Got Nat :=
    let w := max t.pts ((t.line line).rts + 1)
    .ok { t.setPts w with wtsTop := max t.wtsTop w } w
  match s.holderOf line with
  | some _ => .wait (.line line q)
  | none =>
    if !isTier (128 * line) then (if !s.owns line && s.behind line then .wait (.line line q) else at_ (s.leaveQueue line))
    else match s.focus with
      | .seq _ =>
        if !s.seqFree line then .wait (.line line q)
        else at_ (((s.writtenBack line).readLine line leaf s.hint).leaveQueue line)
      | _ =>
        if s.owns line then at_ s
        else if !s.homeFree line q then .wait (.line line q)
        else match s.serveIdle line q with
          | none => .wait (.line line q)
          | some t => at_ t

/-- One byte as the agent reads it after `openRead`: its own withheld store, its line, its L1 copy, memory. -/
def State.peek (s : State) (pa : Nat) : Byte :=
  match s.focus with
  | .seq _ => Memory.get s.mem pa
  | _ =>
    match s.my.ownByte pa with
    | some b => b
    | none =>
      if s.owns (pa / 128) then Memory.get s.mem pa
      else match s.my.lineCopy (pa / 128) with
        | some k => nth k.data (pa % 128) 0#8
        | none => Memory.get s.mem pa

/-- The fault that a line's data has for the agent after `openRead` (R221, R223): that of its copy, that of the
fetch which made it the owner, or that of the data at the home. -/
def State.lineFault (s : State) (pa : Nat) (leaf : Option Nat) : Option Nat :=
  if !isTier pa then s.dataFault pa leaf
  else match s.focus with
    | .seq _ => s.dataFault pa leaf
    | _ =>
      if s.owns (pa / 128) then (s.line (pa / 128)).bad
      else match s.my.lineCopy (pa / 128) with
        | some k => k.bad
        | none => s.dataFault pa leaf

/-- A copy that only carried the answer to one access is gone after it (R210 hint 3). -/
def State.dropOnce (s : State) (line : Nat) : State :=
  match s.focus with
  | .seq _ => s
  | _ => if s.my.l1.any (fun k => k.line == line && k.once) then
      s.modMy (fun c => { c with l1 := c.l1.filter (fun k => !(k.line == line && k.once)) }) else s

/-! ### Loads and stores -/

/-- The ticks of the freeze that has ended are charged to the first of its causes (R213). -/
def Core.chargeLate (c : Core) : Core :=
  if c.lateTicks = 0 then { c with lateWhy := 4 }
  else { c with late := Vector.ofFn (fun i => c.late[i] + (if i.val = c.lateWhy then c.lateTicks else 0)), lateTicks := 0, lateWhy := 4 }

/-- The status window's words (R214): a command sequencer, which is no physical core, reads 0 at the counters of the
reading core (DESIGN CHOICE, log entry 117). -/
def State.statusWord (s : State) (off : Nat) : Nat :=
  let w := off / 8 * 8
  if w ≤ 0x20 then (match s.focus with | .seq _ => 0 | _ => nth s.my.chargeLate.late.toList (w / 8) 0)
  else if 0x1000 ≤ w ∧ w < 0x1000 + 0x100 * 10 then
    let st := s.stack ((w - 0x1000) / 0x100)
    match w % 0x100 with
    | 0x00 => st.rmAlert | 0x08 => st.rmCmd | 0x10 => st.backoff | 0x18 => st.backoffNs
    | 0x20 => st.eccCorr | 0x28 => st.uncorr | 0x30 => st.integ | 0x38 => st.spares
    | 0xF8 => st.rmThr | _ => 0
  else if 0x2000 ≤ w ∧ w < 0x2200 then nth (s.hubMem ((w - 0x2000) / 0x100)) (w % 0x100 / 8) 0
  else 0

/-- Reads the parts of a resolved access that begins at a virtual address, lines opened one after another in ascending
order: the bytes, and the fault of the data with its first failing byte (R145). -/
def State.readParts (s : State) (va : Nat) (parts : List (Place × Nat)) : Got (List Byte × Option (Nat × Nat)) :=
  match parts with
  | [] => .ok s ([], none)
  | (p, k) :: rest =>
    match p with
    | .status off =>
      match State.readParts s (va + k) rest with
      | .ok s' (bs, f) =>
        .ok s' ((leBytes 8 (s.statusWord off % 2 ^ 64)).drop (off % 8) |>.take k |> (· ++ bs), f)
      | e => e
    | .cell pa leaf =>
      match s.openRead (pa / 128) leaf with
      | .trap c a => .trap c a
      | .wait w => .wait w
      | .ok s1 _ =>
        let here := (List.range k).map (fun i => s1.peek (pa + i))
        let bad := (List.range k).findSome? (fun i => (s1.lineFault (pa + i) leaf).map (fun c => (c, va + i)))
        match State.readParts (s1.dropOnce (pa / 128)) (va + k) rest with
        | .ok s' (bs, f) => .ok s' (here ++ bs, worse bad f)
        | e => e

/-- The logical time of the last publish of the buffer that holds an address: accesses to it come after it (R236). -/
def State.publishedAt (s : State) (stream va : Nat) : Nat :=
  match (s.ctx stream).bufs.find? (fun b =>
    (decide (b.a ≤ va) && decide (va < b.a + 128 * b.units)) ||
    (decide (b.b ≤ va) && decide (va < b.b + 128 * b.units))) with
  | some b => b.since
  | none => 0

/-- The latest of these times for `n` bytes. -/
def State.publishedIn (s : State) (stream va n : Nat) : Nat :=
  (segments (n / 128 + 2) va n).foldl (fun m p => max m (s.publishedAt stream p.1)) 0

/-- The state in which an access of `n` bytes to memory begins: its translations are noted (R204), and an access to a
swap buffer comes after its last publish (R236). -/
def State.atAccess (s : State) (v : View) (va n : Nat) : State :=
  let s := if 0 < s.publishedIn v.stream va n then s.setPts (s.publishedIn v.stream va n) else s
  (segments (n / 128 + 2) va n).foldl (fun s p => if fieldN p.1 48 4 < 13 then s.noteTlb v p.1 else s) s

/-- A load of `n` bytes at a virtual address: the bytes, and a fault of the data with its first failing byte (R145,
R221). -/
def State.load (s : State) (v : View) (va n : Nat) : Got (List Byte × Option (Nat × Nat)) :=
  if fieldN va 48 4 = 13 ∧ va < 2 ^ 52 ∧ (n = 0 ∨ va % n ≠ 0) then .trap tcPermission va
  else
    match s.resolveAll v .load (segments 6 va n) with
    | .error (c, a) => .trap c a
    | .ok ps => (s.atAccess v va n).readParts va ps

/-- Writes the parts of a resolved store: withheld in point mode, into the global order else (R136,
R298). A part that meets an error at once is a trap but in point mode, where the next peg takes it (R223). -/
def State.writeParts (s : State) (size slot va : Nat) : List (Place × Nat) → List Byte → Got Unit
  | [], _ => .ok s ()
  | (p, k) :: rest, bytes =>
    match p with
    | .status off =>
      -- only the frame-mode store of RMTHR reaches here; its field is [15:0] (R8, R214, log entry 84)
      let v := leNat bytes % 2 ^ 16
      let n := (off - 0x1000) / 0x100
      let s := if 64 ≤ v then s.setStack n { s.stack n with rmThr := v } else s
      .ok s ()
    | .cell pa leaf =>
      match s.openWrite (pa / 128) leaf with
      | .trap c a => .trap c a
      | .wait w => .wait w
      | .ok s1 w =>
        let bs := offsets (pa % 128) (bytes.take k)
        let fault := if isTier pa ∧ s1.owns (pa / 128) then (s1.line (pa / 128)).bad else s1.mergeFault pa k leaf
        let at_ := va + s1.mergeAt pa k leaf
        match s1.mode with
        | .point =>
          State.writeParts (s1.modMy (fun c => c.withhold (pa / 128) w bs leaf false
            (fault.map (fun c => accessTrap c size slot at_)) (accessInfo size slot va))) size slot (va + k) rest (bytes.drop k)
        | _ =>
          match fault with
          | some c => .trap c at_
          | none => State.writeParts (s1.join (pa / 128) w bs leaf) size slot (va + k) rest (bytes.drop k)

/-- A store of bytes at a virtual address. -/
def State.store (s : State) (v : View) (slot va : Nat) (bytes : List Byte) : Got Unit :=
  let n := bytes.length
  if fieldN va 48 4 = 13 ∧ va < 2 ^ 52 ∧
      ¬ (v.frame ∧ n = 8 ∧ va % 0x100 = 0xF8 ∧ 0x1000 ≤ va % 2 ^ 48 ∧ va % 2 ^ 48 < 0x1A00) then
    .trap tcPermission va
  else
    match s.resolveAll v .store (segments 6 va n) with
    | .error (c, a) => .trap c a
    | .ok ps => (s.atAccess v va n).writeParts n slot va ps bytes

end Sys2Proof.Machine
end

