-- ==== Sys2Proof/Machine/Events.lean ====
section
/-! DEFINITION. The device beside the cores: reading and replacing its parts, host memory, notification
records, MSI-X messages and device events (spec/03_host.md R65 to R68, spec/07_casks.md R150,
spec/06_energy.md R134). -/

namespace Sys2Proof.Machine

open Sys2Proof.Bits

/-- The management time base in µs (R6). -/
def State.now (s : State) : Nat := s.tick / 100

/-! ### Parts of the device -/

/-- A stream's registers. -/
def State.strm (s : State) (n : Nat) : Stream := (find? s.host.streams n).getD {}
/-- Puts a stream's registers back. -/
def State.setStrm (s : State) (n : Nat) (x : Stream) : State :=
  { s with host := { s.host with streams := put s.host.streams n x } }
/-- Changes a stream's registers. -/
def State.modStrm (s : State) (n : Nat) (f : Stream → Stream) : State := s.setStrm n (f (s.strm n))
/-- A compute die. -/
def State.die (s : State) (n : Nat) : Die := (find? s.pkg.dies n).getD {}
/-- Puts a die back. -/
def State.setDie (s : State) (n : Nat) (d : Die) : State := { s with pkg := { s.pkg with dies := put s.pkg.dies n d } }
/-- Rail and step of a bay. -/
def State.bp (s : State) (n : Nat) : BayPower := (find? s.pkg.bays n).getD {}
/-- Puts a bay's rail and step back. -/
def State.setBp (s : State) (n : Nat) (b : BayPower) : State :=
  { s with pkg := { s.pkg with bays := put s.pkg.bays n b } }
/-- A link. -/
def State.link (s : State) (n : Nat) : Link := (find? s.fab.links n).getD {}
/-- Puts a link back. -/
def State.setLink (s : State) (n : Nat) (l : Link) : State :=
  { s with fab := { s.fab with links := put s.fab.links n l } }
/-- A peer port. -/
def State.peer (s : State) (n : Nat) : Peer := (find? s.fab.peers n).getD {}
/-- Puts a peer port back. -/
def State.setPeer (s : State) (n : Nat) (p : Peer) : State :=
  { s with fab := { s.fab with peers := put s.fab.peers n p } }
/-- A notification queue. -/
def State.nq (s : State) (v : Nat) : NotifQ := (find? s.host.nq v).getD {}
/-- Puts a notification queue back. -/
def State.setNq (s : State) (v : Nat) (q : NotifQ) : State := { s with host := { s.host with nq := put s.host.nq v q } }
/-- An MSI-X vector. -/
def State.msix (s : State) (v : Nat) : Msix := (find? s.host.msix v).getD {}
/-- Puts an MSI-X vector back. -/
def State.setMsix (s : State) (v : Nat) (m : Msix) : State :=
  { s with host := { s.host with msix := put s.host.msix v m } }

/-- The die of a physical bay (R11). -/
def dieOfBay (pb : Nat) : Nat := pb / 8
/-- The physical bays of a die (R11). -/
def baysOfDie (d : Nat) : List Nat := (List.range 8).map (· + 8 * d)
/-- The physical cores of a bay (R11). -/
def coresOfBay (pb : Nat) : List Nat := (List.range 8).map (· + 8 * pb)

/-! ### Host writes while posted credits are withheld (R61) -/

/-- A host write of any kind: while posted credits are withheld it is held (R61). -/
def hostAct (s : State) (t : State) : Out := .next (if s.host.full then s else t)

/-- A host read, or a write to a stream's window: behind a write that waits for room in staging it is held (R61). -/
def hostBehind (s : State) (t : State) : Out := .next (if s.host.blocked.isSome then s else t)

/-! ### Host memory and messages -/

/-- The device writes host memory. -/
def State.hostWrite (s : State) (a : Nat) (bs : List Byte) : State :=
  { s with host := { s.host with mem := Memory.setAll s.host.mem a bs } }

/-- An MSI-X message: sent, or pending while the vector is masked (R67). -/
def State.message (s : State) (v : Nat) : State :=
  let m := s.msix v
  if m.masked then s.setMsix v { m with pending := true }
  else
    let s := s.hostWrite m.addr.toNat (leBytes 4 m.data.toNat)
    { s with host := { s.host with messages := s.host.messages ++ [v] } }

/-! ### Notification records (R65 to R67) -/

/-- The number of records a queue holds. -/
def NotifQ.size (q : NotifQ) : Nat := 2 ^ (q.logSize + 4)
/-- The records the host has not consumed. -/
def NotifQ.used (q : NotifQ) : Nat := (q.tail + 2 ^ 32 - q.head) % 2 ^ 32
/-- The queue is enabled and has space. -/
def NotifQ.ready (q : NotifQ) : Bool := q.en && decide (q.used < q.size)

/-- The 32 bytes of a record (R66). The rule does not say where the per-queue sequence of bytes 14 and 15 starts: the
model takes NQTAIL before its increment, so the first record's is 0 (log entry 92, DESIGN CHOICE). -/
def recordBytes (n : Notif) (q : NotifQ) (now : Nat) : List Byte :=
  leBytes 8 n.token ++ leBytes 4 n.code ++ leBytes 1 n.src ++ [0#8] ++ leBytes 2 q.tail
    ++ leBytes 8 now ++ List.replicate 7 0#8 ++ leBytes 1 (boolN (q.tail / q.size % 2 == 0))

/-- Writes a record to its queue, advances NQTAIL, and opens a coalescing window or sends the message
(R66, R67). -/
def State.putRecord (s : State) (n : Notif) : State :=
  let q := s.nq n.vec
  let s := s.hostWrite (q.base.toNat + q.tail % q.size * 32) (recordBytes n q s.now)
  let s := s.setNq n.vec { q with tail := (q.tail + 1) % 2 ^ 32 }
  if q.window = 0 then s.message n.vec
  else
    let m := s.msix n.vec
    if m.closes.isSome then s else s.setMsix n.vec { m with closes := some (s.now + q.window) }

/-- Sets OVF of a queue (R65). -/
def State.overflow (s : State) (v : Nat) : State := s.setNq v { s.nq v with ovf := true }

/-- A device event record, dropped where its queue is full or disabled (R66, R68). -/
def State.event (s : State) (vec code detail stream : Nat) : State :=
  if (s.nq vec).ready then s.putRecord { token := 0, code := code * 2 ^ 16 + detail % 2 ^ 16, src := 128 + stream, vec := vec } else s.overflow vec

/-- A device event sent to EVTVEC. -/
def State.post (s : State) (code detail : Nat) : State := s.event s.host.evtVec.toNat code detail 0
/-- A device event of a stream, sent to its ERRVEC. -/
def State.postStream (s : State) (n code detail : Nat) : State :=
  s.event (s.strm n).errVec.toNat code detail n

/-- A NOTIFY record: written, or put into its stream's backlog behind earlier records of its vector
(R66). A record that a job's completion forms while the backlog holds 256 enters it all the same: the rule holds back
NOTIFY alone (log entry 93, DESIGN CHOICE). -/
def State.notify (s : State) (stream : Nat) (n : Notif) : State :=
  if (s.nq n.vec).ready && !(List.range 8).any (fun i => (s.strm i).backlog.any (fun m => m.vec == n.vec)) then s.putRecord n
  else
    let k := s.host.noted
    let s := (s.overflow n.vec).modStrm stream (fun x => { x with backlog := x.backlog ++ [{ n with no := k }] })
    { s with host := { s.host with noted := k + 1 } }

/-- Engine commands of a stream's sequencer are outstanding under some of the given handles. -/
def State.seqBusy (s : State) (stream : Nat) (hs : List Nat) : Bool :=
  (s.seq stream).eng.copies.any (fun k => hs.contains k.handle)

/-- A NOTIFY record is formed: it is written once the command program's earlier host egress has been delivered (R66). -/
def State.formRecord (s : State) (stream : Nat) (n : Notif) (hs : List Nat) : State :=
  if s.seqBusy stream hs then s.modStrm stream (fun x => { x with forming := x.forming ++ [(n, hs)] })
  else s.notify stream n

/-- The records of a stream whose earlier egress has been delivered are written (R66). -/
def State.releaseForming (s : State) (stream : Nat) : State :=
  let fs := (s.strm stream).forming
  let go := fs.filter (fun e => !s.seqBusy stream e.2)
  if go.isEmpty then s
  else
    go.foldl (fun s e => s.notify stream e.1)
      (s.modStrm stream (fun x => { x with forming := fs.filter (fun e => s.seqBusy stream e.2) }))

/-- Puts a backlogged record among those of all streams, in the order in which they entered. -/
def insertNotif (e : Nat × Notif) : List (Nat × Notif) → List (Nat × Notif)
  | [] => [e]
  | f :: fs => if e.2.no ≤ f.2.no then e :: f :: fs else f :: insertNotif e fs

/-- Lets records leave the backlogs, each once its queue is ready and no earlier record of its vector remains: the state
and those that stay. -/
def leaveBacklog : List (Nat × Notif) → List (Nat × Notif) → State → State × List (Nat × Notif)
  | kept, [], s => (s, kept)
  | kept, e :: rest, s =>
    if (s.nq e.2.vec).ready && !kept.any (fun m => m.2.vec == e.2.vec) then leaveBacklog kept rest (s.putRecord e.2)
    else leaveBacklog (kept ++ [e]) rest s

/-- The backlogs after a queue has changed; a vector's records leave in the order in which they entered, whatever their
streams (R66). -/
def State.releaseBacklogs (s : State) : State :=
  let all := ((List.range 8).flatMap (fun n => (s.strm n).backlog.map (fun r => (n, r)))).foldr insertNotif []
  if all.isEmpty then s
  else
    let r := leaveBacklog [] all s
    (List.range 8).foldl (fun t n => t.modStrm n (fun x => { x with
      backlog := (r.2.filter (fun e => e.1 == n)).map (·.2) })) r.1

end Sys2Proof.Machine
end

