-- ==== Sys2Proof/Machine/Frontier.lean ====
section
/-! DEFINITION. Task records, iteration spaces, the frontier and the firing rule (spec/04_tasks.md R75 to
R77, R82, R87, spec/05_frontier.md R95 to R105). -/

namespace Sys2Proof.Machine

open Sys2Proof.Bits

/-! ### Task records (R75, R76) -/

/-- A field of a record: `n` bytes at byte `off`. -/
def rcdField (r : BitVec 2048) (off n : Nat) : Nat := fieldN r.toNat (8 * off) (8 * n)
/-- A field of TCTL. -/
def tctl (r : BitVec 2048) (lo len : Nat) : Nat := fieldN (rcdField r 0 8) lo len
/-- NDIM. -/
def rNdim (r : BitVec 2048) : Nat := tctl r 29 3
/-- NDEP. -/
def rNdep (r : BitVec 2048) : Nat := tctl r 26 3
/-- COR. -/
def rCor (r : BitVec 2048) : Bool := tctl r 25 1 == 1
/-- IDEM. -/
def rIdem (r : BitVec 2048) : Bool := tctl r 24 1 == 1
/-- HALO. -/
def rHalo (r : BitVec 2048) : Bool := tctl r 23 1 == 1
/-- ECLASS. -/
def rEclass (r : BitVec 2048) : Nat := tctl r 32 3
/-- PRIO. -/
def rPrio (r : BitVec 2048) : Nat := tctl r 35 3
/-- NOPT. -/
def rNopt (r : BitVec 2048) : Nat := tctl r 38 4
/-- SLAB. -/
def rSlab (r : BitVec 2048) : Nat := rcdField r 0x8C 2
/-- NLBAY. -/
def rNlbay (r : BitVec 2048) : Nat := rcdField r 0x8E 1
/-- DEADLINE. -/
def rDeadline (r : BitVec 2048) : Nat := rcdField r 0x20 8
/-- VAULTB. -/
def rVaultb (r : BitVec 2048) : Nat := rcdField r 0x80 4
/-- QUEUEB. -/
def rQueueb (r : BitVec 2048) : Nat := rcdField r 0x84 4
/-- ROTQ in µs; 0 means 2,000. -/
def rRotq (r : BitVec 2048) : Nat := if rcdField r 0x88 4 = 0 then 2000 else rcdField r 0x88 4
/-- The entry address of a variant. -/
def rVimg (r : BitVec 2048) (v : Nat) : Nat := rcdField r (0x30 + 8 * v) 8
/-- The extents in use (R95). -/
def rExtents (r : BitVec 2048) : List Nat := (List.range (rNdim r)).map (fun j => rcdField r (8 + 4 * j) 4 % 2 ^ 24 + 1)
/-- A dependence vector (R76). -/
def rVector (r : BitVec 2048) (i : Nat) : List Int :=
  (List.range (rNdim r)).map (fun j => sextN (fieldN (rcdField r (0x18 + 2 * i) 2) (4 * j) 4) 4)

/-! ### Lines and positions (R95, R96) -/

/-- The product of a list. -/
def prod (l : List Nat) : Nat := l.foldl (· * ·) 1
/-- LINELEN. -/
def lineLen (r : BitVec 2048) : Nat := (rExtents r).getLast?.getD 1
/-- TOTAL, the number of lines. -/
def lineTotal (r : BitVec 2048) : Nat := prod (rExtents r).dropLast
/-- The line number of a point (R96). -/
def lineOf (r : BitVec 2048) (p : List Nat) : Nat :=
  (((rExtents r).zip p).dropLast).foldl (fun a e => a * e.1 + e.2) 0
/-- The position of a point (R96). -/
def posOf (r : BitVec 2048) (p : List Nat) : Nat := nth p (rNdim r - 1) 0
/-- The outer coordinates of a line, from the innermost outwards. -/
def coordsOf : List Nat → Nat → List Nat
  | [], _ => []
  | e :: es, n => n % e :: coordsOf es (n / e)
/-- The point at a position of a line, as four coordinates. -/
def pointAt (r : BitVec 2048) (line pos : Nat) : List Nat :=
  ((coordsOf (rExtents r).dropLast.reverse line).reverse ++ [pos] ++ [0, 0, 0]).take 4
/-- The slab of a point (R87). -/
def slabOf (r : BitVec 2048) (p : List Nat) : Nat := nth p 0 0 / rSlab r
/-- The logical bay of a point (R82). -/
def lbayOf (r : BitVec 2048) (p : List Nat) : Nat := slabOf r p % rNlbay r
/-- The logical core of a point within its bay (R82). -/
def lcidOf (r : BitVec 2048) (p : List Nat) : Nat := nth p (tctl r 21 2) 0 % 8
/-- Point order: lexicographic, d0 first (R95). -/
def pointLt : List Nat → List Nat → Bool
  | [], _ => false
  | _, [] => false
  | a :: as, b :: bs => decide (a < b) || (a == b && pointLt as bs)

/-- The lines of a slab and, in a space of one dimension, its positions: first and one past the last. -/
def slabSpan (r : BitVec 2048) (k : Nat) : Nat × Nat :=
  let e0 := nth (rExtents r) 0 1
  let lo := min (k * rSlab r) e0
  let hi := min ((k + 1) * rSlab r) e0
  if rNdim r = 1 then (lo, hi) else (lo * (lineTotal r / e0), hi * (lineTotal r / e0))
/-- The number of points of a slab. -/
def slabPoints (r : BitVec 2048) (k : Nat) : Nat :=
  let sp := slabSpan r k
  if rNdim r = 1 then sp.2 - sp.1 else (sp.2 - sp.1) * lineLen r
/-- The number of slabs. -/
def slabCount (r : BitVec 2048) : Nat := ceilDiv (nth (rExtents r) 0 1) (rSlab r)
/-- The index of a point in its slab, in point order. -/
def slabIndex (r : BitVec 2048) (p : List Nat) : Nat :=
  let sp := slabSpan r (slabOf r p)
  if rNdim r = 1 then posOf r p - sp.1 else (lineOf r p - sp.1) * lineLen r + posOf r p
/-- The point at an index of a slab. -/
def slabPoint (r : BitVec 2048) (k i : Nat) : List Nat :=
  let sp := slabSpan r k
  if rNdim r = 1 then pointAt r 0 (sp.1 + i) else pointAt r (sp.1 + i / lineLen r) (i % lineLen r)

/-! ### The frontier (R102) -/

/-- The window entry of a line at or above PREFIX. -/
def Frontier.line (f : Frontier) (line : Nat) : FLine := nth f.win (line - f.lines) {}

/-- A position of a line is recorded as completed. -/
def FLine.has (l : FLine) (pos : Nat) : Bool :=
  l.full || decide (pos < l.count)
    || (decide (l.count < pos) && decide (pos ≤ l.count + 64) && l.island.getLsbD (pos - l.count - 1))

/-- A point is completed. -/
def Frontier.has (f : Frontier) (line pos : Nat) : Bool := decide (line < f.lines) || (f.line line).has pos

/-- The number of low bits of a map that are set without a gap. -/
def runLength : Nat → Nat → Nat
  | 0, _ => 0
  | n + 1, v => if v % 2 = 1 then 1 + runLength n (v / 2) else 0

/-- A line entry after one more completion, in canonical form. -/
def FLine.complete (l : FLine) (len pos : Nat) : FLine :=
  if l.has pos then l
  else if pos = l.count then
    let run := runLength 64 l.island.toNat
    let c := l.count + 1 + run
    if c = len then { full := true } else { count := c, island := l.island >>> (run + 1) }
  else { l with island := l.island ||| BitVec.ofNat 64 (2 ^ (pos - l.count - 1)) }

/-- Full entries at the start of the window leave it. -/
def dropFull : List FLine → Nat × List FLine
  | [] => (0, [])
  | l :: ls => if l.full then let r := dropFull ls; (r.1 + 1, r.2) else (0, l :: ls)

/-- The window reaches a line. -/
def Frontier.reach (f : Frontier) (line : Nat) : Frontier :=
  if line < f.lines + f.win.length then f
  else { f with win := f.win ++ List.replicate (line + 1 - f.lines - f.win.length) {} }

/-- A completion is entered (R98, R102). -/
def Frontier.complete (f : Frontier) (len line pos : Nat) : Frontier :=
  if line < f.lines then f
  else
    let f := f.reach line
    let w := setNth f.win (line - f.lines) ((f.line line).complete len pos)
    let r := dropFull w
    { f with lines := f.lines + r.1, win := r.2 }

/-- The completed points among consecutive lines, counted up to the first gap. -/
def leadLines (len : Nat) : Nat → List FLine → Nat
  | 0, _ => 0
  | _ + 1, [] => 0
  | n + 1, l :: ls => if l.full then len + leadLines len n ls else l.count

/-- The completed positions counted up to the first gap. -/
def leadPos (f : Frontier) : Nat → Nat → Nat
  | 0, _ => 0
  | n + 1, pos => if f.has 0 pos then 1 + leadPos f n (pos + 1) else 0

/-- SDONE of a slab (R104). -/
def Frontier.sdone (f : Frontier) (r : BitVec 2048) (k : Nat) : Nat :=
  let sp := slabSpan r k
  if rNdim r = 1 then leadPos f (sp.2 - sp.1) sp.1
  else
    let below := min f.lines sp.2 - sp.1
    let from_ := max f.lines sp.1
    if f.lines < sp.2 then
      below * lineLen r + leadLines (lineLen r) (sp.2 - from_) (f.win.drop (from_ - f.lines))
    else below * lineLen r

/-- A slab is completed in full. -/
def Frontier.slabDone (f : Frontier) (r : BitVec 2048) (k : Nat) : Bool := f.sdone r k == slabPoints r k

/-- A point is in flight. -/
def Frontier.flies (f : Frontier) (p : List Nat) : Bool := f.flight.any (fun x => x.coord == p)

/-- Puts a point in flight, in point order (R109). -/
def insertFlight (x : Flight) : List Flight → List Flight
  | [] => [x]
  | y :: ys => if pointLt x.coord y.coord then x :: y :: ys else y :: insertFlight x ys

/-! ### Firing (R97, R99 to R101) -/

/-- A predecessor of a point, none if it lies outside the space (R97). -/
def predecessor (r : BitVec 2048) (p : List Nat) (v : List Int) : Option (List Nat) :=
  let q := (p.zip (v ++ [0, 0, 0, 0])).map (fun e => (e.1 : Int) - e.2)
  if ((rExtents r).zip q).all (fun e => decide (0 ≤ e.2) && decide (e.2 < (e.1 : Int))) then some (q.map Int.toNat) else none

/-- A point is enabled, as its bay knows it (R99, R101). -/
def enabled (r : BitVec 2048) (f : Frontier) (p : List Nat) : Bool :=
  (List.range (rNdep r)).all (fun i =>
    match predecessor r p (rVector r i) with
    | none => !rHalo r || f.halosat
    | some q =>
      if slabOf r q = slabOf r p then f.has (lineOf r q) (posOf r q)
      else decide (slabIndex r q < f.sdone r (slabOf r q)))

/-- A point may be fired for the first time on a logical core: window, reach, core, not yet fired, enabled
(R99, R100). -/
def fireable (r : BitVec 2048) (f : Frontier) (lcid : Nat) (p : List Nat) : Bool :=
  let line := lineOf r p
  let pos := posOf r p
  lcidOf r p == lcid && decide (f.lines ≤ line) && decide (line < f.lines + 65536)
    && decide (pos ≤ (f.line line).count + 64) && !f.has line pos && !f.flies p && enabled r f p

/-- The lowest point of a line, between two positions, that may be fired. -/
def lowestIn (r : BitVec 2048) (f : Frontier) (lcid line : Nat) : Nat → Nat → Option (List Nat)
  | 0, _ => none
  | n + 1, pos =>
    if fireable r f lcid (pointAt r line pos) then some (pointAt r line pos) else lowestIn r f lcid line n (pos + 1)

/-- The lowest point of consecutive lines that may be fired. -/
def lowestFrom (r : BitVec 2048) (f : Frontier) (lcid : Nat) : Nat → Nat → Option (List Nat)
  | 0, _ => none
  | n + 1, line =>
    let c := (f.line line).count
    match lowestIn r f lcid line (min (lineLen r - c) 65) c with
    | some p => some p
    | none => lowestFrom r f lcid n (line + 1)

/-- The lowest point of a slab that may be fired on a logical core. -/
def lowestOf (r : BitVec 2048) (f : Frontier) (lcid k : Nat) : Option (List Nat) :=
  let sp := slabSpan r k
  if rNdim r = 1 then
    let lo := max sp.1 (f.line 0).count
    if f.lines = 0 then lowestIn r f lcid 0 (min (sp.2 - lo) 65) lo else none
  else
    let lo := max sp.1 f.lines
    lowestFrom r f lcid (min sp.2 (f.lines + 65536) - lo) lo

/-- A completed point of a slab to be refired on a logical core (R105). -/
def Slab.again (sl : Slab) (r : BitVec 2048) (f : Frontier) (lcid : Nat) : Option (List Nat) :=
  sl.redo.findSome? (fun i =>
    let p := slabPoint r sl.k i
    if lcidOf r p = lcid ∧ !f.flies p then some p else none)

/-- The lower of two points, where there are two. -/
def lower (a b : Option (List Nat)) : Option (List Nat) :=
  match a, b with
  | some p, some q => if pointLt q p then some q else some p
  | some p, none => some p
  | none, q => q

/-- The point a logical core fires next: the lowest in point order of those its bay knows to be enabled
in its issued slabs (R100). -/
def nextPoint (r : BitVec 2048) (f : Frontier) (slabs : List Slab) (lbay lcid : Nat) : Option (List Nat) :=
  (slabs.filter (fun sl => sl.k % rNlbay r == lbay)).foldl (fun best sl =>
    lower best (lower (sl.again r f lcid) (if sl.done then none else lowestOf r f lcid sl.k))) none

end Sys2Proof.Machine
end

