-- ==== Sys2Proof/Machine/Table.lean ====
section
/-! DEFINITION. The dependence table: jobs, submission, waits, renaming, priorities, cancel, the end of
points and completion (spec/04_tasks.md R73 to R92, spec/05_frontier.md R98 to R104). -/

namespace Sys2Proof.Machine

open Sys2Proof.Bits

/-! ### Access to entries -/

/-- A task's entry. -/
def State.task (s : State) (id : Nat) : Option Task := s.tab.tasks.find? (fun t => t.id == id)
/-- Changes a task's entry. -/
def State.modTask (s : State) (id : Nat) (f : Task → Task) : State :=
  { s with tab := { s.tab with tasks := s.tab.tasks.map (fun t => if t.id = id then f t else t) } }
/-- An incomplete job. -/
def State.job (s : State) (stream j : Nat) : Option Job := find? (s.strm stream).jobs j
/-- Changes an incomplete job. -/
def State.modJob (s : State) (stream j : Nat) (f : Job → Job) : State :=
  match s.job stream j with
  | none => s
  | some b => s.modStrm stream (fun x => { x with jobs := put x.jobs j (f b) })

/-! ### Engines' commands of a task or a point -/

/-- Changes every core, resident or in the rotation area. -/
def State.mapCores (s : State) (f : Core → Core) : State :=
  { s with cores := s.cores.map (fun e => (e.1, f e.2)),
           rotated := s.rotated.map (fun r => { r with cores := r.cores.map (fun e => (e.1, f e.2)) }) }

/-- Every outstanding copy of the cores. -/
def State.allCopies (s : State) : List Copy :=
  s.cores.flatMap (fun e => e.2.eng.copies) ++ s.rotated.flatMap (fun r => r.cores.flatMap (fun e => e.2.eng.copies))

/-- A task has an outstanding engine command. -/
def State.copying (s : State) (id : Nat) : Bool := s.allCopies.any (fun k => k.task == some id)
/-- A point has an outstanding engine command, or one that a freeze has turned into an intent (R106). -/
def State.pointCopying (s : State) (id : Nat) (p : List Nat) : Bool :=
  s.allCopies.any (fun k => k.task == some id && k.coord == p)
    || (match (s.task id).bind (·.freeze) with
      | some f => f.intents.any (fun i => i.coord == p)
      | none => false)

/-- The last command of a slot, recorded as a copy ends (R405). -/
def Engine.finish (e : Engine) (slot code done : Nat) : Engine :=
  match e.copies.find? (fun k => k.slot == slot) with
  | none => e
  | some k =>
    { e with copies := e.copies.filter (fun k => k.slot != slot), last := put e.last slot ⟨k.handle, code, done⟩ }

/-- Cancels every copy that a condition selects (R141, R403). -/
def Engine.cancelWhere (e : Engine) (p : Copy → Bool) : Engine :=
  (e.copies.filter p).foldl (fun e k => e.finish k.slot 0x8000 k.done) e

/-- The matrix unit with every outstanding call cancelled, no plane latched and both banks 0 (R141). -/
def Matrix.clear (m : Matrix) : Matrix :=
  { m with cur := none, shadow := none, loading := false, loaded := false, bank0 := {}, bank1 := {},
           call := none, queued := none }

/-- Cancels copies of the cores. -/
def State.cancelCopies (s : State) (p : Copy → Bool) : State :=
  s.mapCores (fun c => { c with eng := c.eng.cancelWhere p })

/-! ### Points (R98, R102) -/

/-- A point's completion is entered in its task's frontier, and its slab completes with its last point
(R87, R98, R102). -/
def Task.enter (t : Task) (p : List Nat) : Task :=
  let f := t.fr.complete (lineLen t.rcd) (lineOf t.rcd p) (posOf t.rcd p)
  let f := { f with flight := f.flight.filter (fun x => x.coord != p) }
  { t with fr := f, oldPoints := t.oldPoints.filter (· != p),
           slabs := t.slabs.map (fun sl =>
             if f.slabDone t.rcd sl.k ∧ sl.redo = [] ∧ !f.flight.any (fun x => slabOf t.rcd x.coord == sl.k) then { sl with done := true }
             else sl) }

/-- A point leaves its core or its rotated bay without completing. -/
def Task.discard (t : Task) (p : List Nat) : Task :=
  { t with fr := { t.fr with flight := t.fr.flight.filter (fun x => x.coord != p) },
           oldPoints := t.oldPoints.filter (· != p) }

/-- Registers whose results that have not landed are discarded; a conversion that the landing of a PHASE would have ended
is over (R207, R323, log entry 114). -/
def Regs.dropResults (r : Regs) : Regs := { r with sc := { r.sc with pend := [], just := 0 }, raised := [], phaseBusy := false }

/-- A core holds no point any more (R98, R147, R323). -/
def Core.leave (c : Core) : Core :=
  { c with
    point := none, frame := false, frozen := false, ending := false, wait := .none, woken := false, polled := none, owed := false,
    withheld := [], lowered := [], wdogTicks := 0, stallTicks := 0, mx := c.mx,
    async := c.async.filter (fun a => a.kind == AsyncKind.linkEvent),
    pt := c.pt.dropResults, peg := c.peg.dropResults }.chargeLate

/-- The point of a core ends (R98, R323): it is completed, or ended until its commands are done. -/
def State.endPoint (s : State) (n : Nat) : State :=
  match (s.core n).point with
  | none => s
  | some (id, p) =>
    let s := s.modCore n Core.leave
    if s.pointCopying id p then
      s.modTask id (fun t => { t with fr := { t.fr with
        flight := t.fr.flight.map (fun x => if x.coord = p then { x with ended := true } else x) } })
    else s.modTask id (fun t => t.enter p)

/-- Ended points whose commands are done are completed (R98). -/
def State.settlePoints (s : State) (id : Nat) : State :=
  match s.task id with
  | none => s
  | some t =>
    (t.fr.flight.filter (fun x => x.ended && !s.pointCopying id x.coord)).foldl
      (fun s x => s.modTask id (fun t => t.enter x.coord)) s

/-- The points of a task in logical bays that are rotated out are discarded there (R89, R91). -/
def State.discardRotated (s : State) (id : Nat) : State :=
  match s.task id with
  | none => s
  | some t =>
    let out := t.fr.flight.filter (fun x => (s.bayOf id x.lbay).isNone)
    let s := s.cancelCopies (fun k => k.task == some id && out.any (fun x => x.coord == k.coord))
    let s := { s with rotated := s.rotated.map (fun r =>
      if r.task = id then { r with cores := r.cores.map (fun e => (e.1, e.2.leave)) } else r) }
    out.foldl (fun s x => s.modTask id (fun t => t.discard x.coord)) s

/-- A task stops firing and will complete with a code (R89, R91, R129). -/
def State.stopTask (s : State) (id code : Nat) : State :=
  (s.modTask id (fun t => { t with stop := true, code := if t.code.isSome then t.code else some code })).discardRotated id

/-- The point of a core is abandoned (R144): its commands are cancelled, its pending asynchronous traps
discarded, the core freed, and the task completes with POINT_FAULT (R91). -/
def State.abandonPoint (s : State) (n : Nat) : State :=
  match (s.core n).point with
  | none => s.modCore n (fun c => { c with frame := false, async := [] })
  | some (id, p) =>
    let s := s.cancelCopies (fun k => k.task == some id && k.coord == p)
    let s := s.modCore n (fun c => { ({ c with mx := c.mx.clear, pt := c.peg }).leave with async := [] })
    (s.modTask id (fun t => t.discard p)).stopTask id 4

/-! ### Priorities and the ready order (R83 to R85) -/

/-- Effective priorities, the latest submission first: a task's waiters come after it (R84). -/
def effective : List Task → List (Nat × Nat × Bool × List Nat)
  | [] => []
  | t :: ts =>
    let later := effective ts
    let e := (later.filter (fun x => x.2.2.1 && x.2.2.2.contains t.id)).foldl (fun m x => max m x.2.1) (rPrio t.rcd)
    (t.id, e, t.st == .held, t.waits) :: later

/-- A task's effective priority. -/
def State.eprio (s : State) (id : Nat) : Nat :=
  match (effective s.tab.tasks).find? (fun x => x.1 == id) with
  | some x => x.2.1
  | none => 0

/-- A comes before b in the ready order: higher effective priority, then a resuming task, then the earlier
to become READY (R83, R85). -/
def State.before (s : State) (a b : Task) : Bool :=
  let ea := s.eprio a.id
  let eb := s.eprio b.id
  decide (eb < ea) || (ea == eb &&
    ((a.cask.isSome && !b.cask.isSome) || (a.cask.isSome == b.cask.isSome && decide (a.readyAt < b.readyAt))))

/-- Puts a task into an ordered list, behind its equals. -/
def insertBy (lt : Task → Task → Bool) (t : Task) : List Task → List Task
  | [] => [t]
  | u :: us => if lt t u then t :: u :: us else u :: insertBy lt t us

/-- Tasks in a given order. -/
def sortBy (lt : Task → Task → Bool) (ts : List Task) : List Task := ts.foldl (fun l t => insertBy lt t l) []

/-- The ready order (R85); a task that will complete with a code is no longer placed. -/
def State.readyOrder (s : State) : List Task :=
  sortBy s.before (s.tab.tasks.filter (fun t => t.st == .ready && t.code.isNone))

/-! ### Waits and renaming (R77, R80, R81) -/

/-- Two entries share a byte. -/
def TileEnt.meets (a b : TileEnt) : Bool :=
  decide (a.base < b.base + 128 * b.units) && decide (b.base < a.base + 128 * a.units)
/-- Some entries of two sets overlap. -/
def setsMeet (a b : List TileEnt) : Bool := a.any (fun x => b.any x.meets)

/-- A new task waits for an earlier one of its stream (R80). -/
def waitsFor (t u : Task) : Bool :=
  setsMeet t.rd u.wr || setsMeet t.wr u.wr || setsMeet (t.wr.filter (fun e => !e.swap)) u.rd

/-- The swap buffers a new task renames because of an earlier one, by the address its entry gives. -/
def renamesFor (t u : Task) : List Nat := (t.wr.filter (fun e => e.swap && u.rd.any e.meets)).map (·.base)

/-- A swap buffer of a context by the address of either half. -/
def Context.bufAt (c : Context) (a : Nat) : Option SwapBuf := c.bufs.find? (fun b => b.a == a || b.b == a)

/-- Changes the swap buffer of which an address is a half. -/
def State.modBuf (s : State) (stream a : Nat) (f : SwapBuf → SwapBuf) : State :=
  let c := s.ctx stream
  s.setCtx stream { c with bufs := c.bufs.map (fun b => if b.a = a ∨ b.b = a then f b else b) }

/-- A logical time after every access made so far (R227). -/
def State.afterAll (s : State) : Nat :=
  1 + (s.lines.map (fun e => e.2.rts) ++ s.cores.flatMap (fun e => e.2.withheld.map (·.wts))).foldl max 0

/-- A publish flips LIVE at one logical time, which comes after every access made to the halves; what is accessed
through the buffer from then on comes after it (R236). -/
def State.flip (s : State) (stream bufA : Nat) : State :=
  s.modBuf stream bufA (fun b => { b with liveB := !b.liveB, since := s.afterAll })

/-- The buffers that a ready task renames reach their shadow halves for it (R81). -/
def State.markRenames (s : State) (t : Task) : State :=
  if t.st = .ready then t.renames.foldl (fun s a => s.modBuf t.stream a (fun b => { b with renamed := some t.id })) s else s

/-- A task enters the table, ordered against every incomplete task of its stream (R80). -/
def State.enterTask (s : State) (t : Task) : State :=
  let earlier := s.tab.tasks.filter (fun u => u.stream == t.stream)
  let w := (earlier.filter (waitsFor t)).map (·.id)
  let rn := (earlier.flatMap (renamesFor t)).eraseDups
  let st := if t.st = .parked then TaskSt.parked else if w.isEmpty then .ready else .held
  let t := { t with waits := w, renames := rn, st := st, readyAt := s.now }
  ({ s with tab := { s.tab with tasks := s.tab.tasks ++ [t] } }).markRenames t

/-! ### The check of a record (R78) -/

/-- The context in which the hub of a stream reads the tables of a record. -/
def tableView (stream : Nat) : View := { stream := stream, frame := true, units := [hubTlb stream] }

/-- Bytes of memory in a stream's context; none where one cannot be read, or reads with an error (R219 to R221, log
entry 124). -/
def State.readVa (s : State) (stream va n : Nat) : Option (List Byte) :=
  (List.range n).foldr (fun i acc =>
    match acc, s.resolve (tableView stream) .load (va + i) with
    | some bs, .ok (.cell pa leaf) =>
      if va + i < 13 * 2 ^ 48 ∧ (s.dataFault pa leaf).isNone then some (Memory.get s.mem pa :: bs) else none
    | _, _ => none) (some [])

/-- An address lies on a sealed page of a context (R78, R203). -/
def State.sealedVa (s : State) (stream va : Nat) : Bool :=
  match s.walk stream va with
  | some l => decide (va < 13 * 2 ^ 48) && s.leafSealed l
  | none => false

/-- First row of R78, with R95's limit. -/
def spaceOk (r : BitVec 2048) : Bool :=
  let n := rNdim r
  decide (1 ≤ n) && decide (n ≤ 4)
    && (List.range 4).all (fun j => if j < n then rcdField r (8 + 4 * j) 4 < 2 ^ 24 else rcdField r (8 + 4 * j) 4 == 0)
    && tctl r 0 21 == 0 && rcdField r 0x8F 1 == 0 && rcdField r 0x92 6 == 0 && rcdField r 0xA0 96 == 0
    && decide (prod (rExtents r) ≤ 2 ^ 48)

/-- The first nonzero component of a vector is positive. -/
def lexPositive : List Int → Bool
  | [] => false
  | c :: cs => if c = 0 then lexPositive cs else decide (0 < c)

/-- Second row of R78 (R76). -/
def vectorsOk (r : BitVec 2048) : Bool :=
  decide (rNdep r ≤ 4) && (List.range 4).all (fun i =>
    let w := rcdField r (0x18 + 2 * i) 2
    if i < rNdep r then
      decide (w < 2 ^ (4 * rNdim r)) && (rVector r i).all (fun c => c != -8) && lexPositive (rVector r i)
    else w == 0)

/-- Geometry row of R78 (R75). -/
def geometryOk (r : BitVec 2048) : Bool :=
  let q := rcdField r 0x88 4
  decide (1 ≤ rNlbay r) && decide (rNlbay r ≤ 80) && decide (1 ≤ rSlab r) && decide (rSlab r ≤ 4096)
    && (q == 0 || (decide (100 ≤ q) && decide (q ≤ 1000000))) && decide (rVaultb r ≤ 2 ^ 25)
    && decide (rQueueb r ≤ 2 ^ 18) && decide (tctl r 21 2 < rNdim r)

/-- Fields of an operating-point entry (R119). -/
def oRail (e : Nat) : Bool := bit e 15
/-- STEP. -/
def oStep (e : Nat) : Nat := fieldN e 12 3
/-- VARIANT. -/
def oVariant (e : Nat) : Nat := fieldN e 9 3
/-- BAYS. -/
def oBays (e : Nat) : Nat := fieldN e 0 7
/-- PWR in W. -/
def oPwr (e : Nat) : Nat := fieldN e 16 16
/-- TPT in ns. -/
def oTpt (e : Nat) : Nat := fieldN e 32 32

/-- An operating-point entry keeps the limits of R119. -/
def optEntryOk (r : BitVec 2048) (e : Nat) : Bool :=
  fieldN e 7 2 == 0 && decide (1 ≤ oBays e) && decide (oBays e ≤ rNlbay r) && (!rCor r || oBays e == rNlbay r)
    && (!oRail e || decide (3 ≤ oStep e)) && decide (1 ≤ oPwr e) && decide (oPwr e ≤ 3300) && oTpt e != 0
    && fieldN e 64 64 == 0

/-- The 16-byte entries of a list of bytes. -/
def entries16 : Nat → List Byte → List Nat
  | 0, _ => []
  | n + 1, bs => leNat (bs.take 16) :: entries16 n (bs.drop 16)

/-- A tile-set entry within its limits (R77). -/
def tileOf (swapOk : Nat → Nat → Bool) (e : Nat) : Option TileEnt :=
  let base := fieldN e 0 64
  let units := fieldN e 64 32
  let fl := fieldN e 96 32
  if base % 128 = 0 ∧ units ≠ 0 ∧ fl < 2 ∧ (fl = 0 ∨ swapOk base units) then some ⟨base, units, fl == 1⟩ else none

/-- Every element, or none. -/
def allSome {α : Type} : List (Option α) → Option (List α)
  | [] => some []
  | none :: _ => none
  | some a :: l => (allSome l).map (a :: ·)

/-- What the check of a record takes its tables from: memory, or the sections of a cask (R166). -/
structure Tables where
  opts : Option (List Nat)
  rd : Option (List Nat)
  wr : Option (List Nat)

/-- The tables a record names in memory. One that cannot be read, or that is not aligned, fails the check of what it
holds; the alignment of a tile set with no entry is not checked (DESIGN CHOICE, log entry 124). -/
def State.tablesOf (s : State) (stream : Nat) (r : BitVec 2048) : Tables :=
  let rdTab (a n al : Nat) : Option (List Nat) :=
    if n = 0 then some [] else if a % al ≠ 0 then none else (s.readVa stream a (16 * n)).map (entries16 n)
  { opts := if rNopt r < 1 ∨ 8 < rNopt r then none else rdTab (rcdField r 0x28 8) (rNopt r) 64
    rd := if 64 < tctl r 49 7 then none else rdTab (rcdField r 0x70 8) (tctl r 49 7) 16
    wr := if 64 < tctl r 42 7 then none else rdTab (rcdField r 0x78 8) (tctl r 42 7) 16 }

/-- The checks of R78 in their order: the status of the first that fails, or the operating points and the
tile sets. -/
def State.checkRecord (s : State) (stream count : Nat) (r : BitVec 2048) (tb : Tables) (swapOk : Nat → Nat → Bool) :
    Except Nat (List Nat × List TileEnt × List TileEnt) :=
  if !spaceOk r then .error 0x10
  else if !vectorsOk r then .error 0x11
  else if rVimg r 0 = 0 ∨ !(List.range 8).all (fun v => rVimg r v == 0 || s.sealedVa stream (rVimg r v))
      ∨ !(tb.opts.getD []).all (fun e => rVimg r (oVariant e) != 0) then .error 0x12
  else
    match (tb.rd.map (·.map (tileOf swapOk))).bind allSome, (tb.wr.map (·.map (tileOf swapOk))).bind allSome with
    | some rd, some wr =>
      if rHalo r ∧ count ≤ rcdField r 0x90 2 then .error 0x14
      else if !geometryOk r then .error 0x15
      else match tb.opts with
        | none => .error 0x16
        | some os => if os.all (optEntryOk r) then .ok (os, rd, wr) else .error 0x16
    | _, _ => .error 0x13

/-! ### Submission (R79) -/

/-- An entry is free for a stream: 256 each, 2,048 shared (R79). -/
def State.entryFree (s : State) (stream : Nat) : Bool :=
  let used (n : Nat) : Nat := (s.tab.tasks.filter (fun t => t.stream == n)).length
  decide (used stream < 256) || decide ((List.range 8).foldl (fun a n => a + (used n - 256)) 0 < 2048)

/-- The job's answer to a submission: 0 when it accepts one (R73, R79, R89). -/
def State.jobStatus (s : State) (stream j : Nat) (spawn : Bool) : Nat :=
  match s.job stream j with
  | none => 3
  | some b => if b.cancelled then 1 else if b.closed && !spawn then 3 else if 65536 ≤ b.count then 4 else 0

/-- TASKID (R74). -/
def taskIdOf (stream j index : Nat) : Nat := stream * 2 ^ 29 + j * 2 ^ 16 + index

/-- A checked record becomes an entry of its job; the halo predecessor may have completed already (R74,
R80, R99). -/
def State.addTask (s : State) (stream j : Nat) (r : BitVec 2048) (x : List Nat × List TileEnt × List TileEnt)
    (f : Task → Task) : State × Nat :=
  let count := ((s.job stream j).getD {}).count
  let id := taskIdOf stream j count
  let halo := taskIdOf stream j (rcdField r 0x90 2)
  let t : Task := { id := id, stream := stream, job := j, rcd := r, opts := x.1, rd := x.2.1, wr := x.2.2
                    age := if tctl r 56 8 = 0 then (s.seq stream).agelim.toNat else tctl r 56 8
                    fr := { halosat := rHalo r && (s.task halo).isNone } }
  let s := s.modJob stream j (fun b => { b with count := b.count + 1 })
  (s.enterTask (f t), id)

/-- The reads of a record's tables (R217, R221). -/
def State.touchTables (s : State) (stream : Nat) (r : BitVec 2048) : State :=
  [(rcdField r 0x28 8, if 8 < rNopt r then 0 else rNopt r), (rcdField r 0x70 8, if 64 < tctl r 49 7 then 0 else tctl r 49 7),
   (rcdField r 0x78 8, if 64 < tctl r 42 7 then 0 else tctl r 42 7)].foldl
    (fun s t => s.touchRead (tableView stream) t.1 (16 * t.2)) s

/-- LAUNCH and SPAWN of a record (R78, R79): status and TASKID; none where no entry is free. The record is checked before
an entry is looked for (DESIGN CHOICE, log entry 125). -/
def State.submit (s : State) (stream j : Nat) (r : BitVec 2048) (spawn : Bool) : Option (State × Nat × Nat) :=
  let st := s.jobStatus stream j spawn
  if st ≠ 0 then some (s, st, 0)
  else
    let ctx := s.ctx stream
    let swapOk (base units : Nat) : Bool := match ctx.bufAt base with
      | some b => b.units == units
      | none => false
    let verdict := s.checkRecord stream ((s.job stream j).getD {}).count r (s.tablesOf stream r) swapOk
    let s := s.touchTables stream r
    match verdict with
    | .error e => some (s, e, 0)
    | .ok x => if s.entryFree stream then let a := s.addTask stream j r x id; some (a.1, 0, a.2) else none

/-! ### Completion (R73, R91, R92) -/

/-- The place of a code in the order of R73. -/
def codeRank (c : Nat) : Nat := nth [0, 2, 3, 5, 4, 1] c 0
/-- The first code in that order. -/
def worseCode (a b : Nat) : Nat := if codeRank a < codeRank b then b else a

/-- The results that wait as given arrive with a value. -/
def answerAll (w : Awaits) (v : Nat) (ps : List Pending) : List Pending :=
  ps.map (fun p => if p.awaits = w then { p with arrived := true, awaits := .data, dest := match p.dest with
    | .x d _ => .x d (BitVec.ofNat 64 v)
    | d => d } else p)

/-- A stream held by JWAIT goes on with the job's code (R335). -/
def State.answerJwait (s : State) (stream j code : Nat) : State :=
  let q := s.seq stream
  if q.jwait = some j then
    (s.setSeq stream { q with jwait := none, sc := { q.sc with pend := answerAll .job code q.sc.pend } }).modStrm stream (fun x =>
      { x with st := if x.st = .wait then .run else x.st })
  else s

/-- A closed job whose tasks have all completed completes: its records are formed and JWAIT goes on (R73,
R92). -/
def State.finishJob (s : State) (stream j : Nat) : State :=
  match s.job stream j with
  | none => s
  | some b =>
    if b.closed && !s.tab.tasks.any (fun t => t.stream == stream && t.job == j) then
      let s := s.modStrm stream (fun x => { x with jobs := drop x.jobs j })
      let s := b.notes.foldl (fun s n => s.formRecord stream { token := n.1, code := b.code, src := stream, vec := n.2.1 } n.2.2) s
      s.answerJwait stream j b.code
    else s

/-- A job is closed (R73). -/
def State.closeJob (s : State) (stream j : Nat) : State :=
  (s.modJob stream j (fun b => { b with closed := true })).finishJob stream j

/-- Every point of a task has completed, those to be fired again too (R91, R105). -/
def Task.allDone (t : Task) : Bool := t.fr.lines == lineTotal t.rcd && t.slabs.all (fun sl => sl.redo.isEmpty)

/-- Every point of a placed task has completed: a park or a shed that comes later changes nothing (R130). -/
def Task.finished (t : Task) : Bool := t.st == .placed && t.allDone && t.fr.flight.isEmpty && t.code.isNone

/-- A task's points and commands are over (R83, R91). -/
def State.taskOver (s : State) (t : Task) : Bool :=
  ((t.allDone && t.st == .placed) || t.code.isSome) && t.fr.flight.isEmpty && !s.copying t.id && t.freeze.isNone

/-- The tasks submitted before one, of its stream. -/
def State.earlier (s : State) (t : Task) : List Task :=
  (s.tab.tasks.takeWhile (fun u => u.id != t.id)).filter (fun u => u.stream == t.stream)

/-- The buffers renamed for a task may be published: every earlier task that reads or writes one has
completed (R81). A task that completes with a code it was stopped with publishes nothing and waits for none. -/
def State.mayPublish (s : State) (t : Task) : Bool :=
  t.code.isSome || (t.wr.filter (fun e => t.renames.contains e.base)).all (fun e =>
    (s.earlier t).all (fun u => !u.rd.any e.meets && !u.wr.any e.meets))

/-- The code of a task that completes now: the one it was stopped with, else OK or LATE (R91). -/
def State.taskCode (s : State) (t : Task) : Nat :=
  match t.code with
  | some c => c
  | none => if rDeadline t.rcd ≠ 0 ∧ rDeadline t.rcd < s.now then 5 else 0

/-- A waiter's entry after a task has completed: its wait is met, and it becomes READY with its last (R80,
R83); the completion of a halo predecessor is noted (R99). -/
def Task.release (u : Task) (t : Task) (now : Nat) : Task :=
  let w := u.waits.filter (· != t.id)
  let u := { u with waits := w }
  let u := if u.st = .held ∧ w = [] then { u with st := .ready, readyAt := now } else u
  if rHalo u.rcd ∧ taskIdOf u.stream u.job (rcdField u.rcd 0x90 2) = t.id then { u with fr := { u.fr with halosat := true } }
  else u

/-- The bays of a task are free (R85, R206); halves that its cores keep after CHECK are released (DESIGN CHOICE: R195 does
not name this end, log entry 126). -/
def State.freeBays (s : State) (id : Nat) : State :=
  let s := { s with cores := s.cores.map (fun (e : Nat × Core) =>
      if (s.bay (e.1 / 8)).bound.map Prod.fst = some id then
        (e.1, { e.2.leave with pt := { e.2.pt with dslices := 0 }, peg := { e.2.peg with dslices := 0 }, mx := { e.2.mx.clear with kept := [] },
                               rotate := false, frozen := false })
      else e) }
  { s with bays := s.bays.map (fun (e : Nat × Bay) => if e.2.bound.map Prod.fst = some id then (e.1, { e.2 with bound := none }) else e),
           rotated := s.rotated.filter (fun r => r.task != id) }

/-- A task completes (R81, R91, R92): its renamed buffers publish, its code goes to its job, its waiters
are released and its entry is freed. -/
def State.completeTask (s : State) (t : Task) : State :=
  let code := s.taskCode t
  let s := t.renames.foldl (fun s a =>
    match (s.ctx t.stream).bufAt a with
    | none => s
    | some b =>
      if b.renamed ≠ some t.id then s
      else
        let s := if code = 0 ∨ code = 5 then s.flip t.stream b.a else s
        s.modBuf t.stream a (fun b => { b with renamed := none })) s
  let s := s.freeBays t.id
  let s := { s with tab := { s.tab with
      tasks := (s.tab.tasks.filter (fun (u : Task) => u.id != t.id)).map (fun (u : Task) => u.release t s.now),
      drainRule := if s.tab.drainRule = some t.id then none else s.tab.drainRule } }
  let s := s.tab.tasks.foldl State.markRenames s
  let s := s.modJob t.stream t.job (fun b => { b with code := worseCode b.code code })
  s.finishJob t.stream t.job

/-! ### Cancel (R89) -/

/-- An asynchronous trap becomes pending on a core; LINK_EVENT is held once, with MORE (R47, R147). -/
def Core.pendAsync (c : Core) (k : AsyncKind) (info : W64) : Core :=
  if c.async.any (fun a => a.kind == k) then
    { c with async := c.async.map (fun a =>
      if a.kind = k ∧ k = .linkEvent then { a with info := a.info ||| 0x100#64 } else a) }
  else if k = .linkEvent ∨ c.point.isSome then { c with async := c.async ++ [{ kind := k, info := info }] }
  else c

/-- An asynchronous trap becomes pending on every core that runs a point of a task (R147, R164). -/
def State.pendOnTask (s : State) (id : Nat) (k : AsyncKind) : State :=
  { s with cores := s.cores.map (fun e => if e.2.point.map (·.1) = some id then (e.1, e.2.pendAsync k 0#64) else e) }

/-- A point of a core leaves it as if abandoned, without a code of its own (R147 CANCEL). -/
def State.dropPoint (s : State) (n : Nat) : State :=
  match (s.core n).point with
  | none => s
  | some (id, p) =>
    let s := s.cancelCopies (fun k => k.task == some id && k.coord == p)
    (s.modCore n (fun c => { ({ c with mx := c.mx.clear, pt := c.peg }).leave with async := [] })).modTask id
      (fun t => t.discard p)

/-- The cause of an asynchronous trap (R142). -/
def AsyncKind.cause : AsyncKind → BitVec 8
  | .preempt => 0x60#8
  | .curtail => 0x61#8
  | .cancel => 0x62#8
  | .linkEvent => 0x63#8

/-- The trap registers that an asynchronous trap writes: the address of the peg's resume bundle, TRAPINFO zero but for
LINK_EVENT (R145). -/
def Core.noteAsync (c : Core) (a : AsyncTrap) : Core :=
  { c with trapCause := a.kind.cause, trapAddr := c.peg.sc.pc, trapInfo := if a.kind = .linkEvent then a.info else 0#64 }

/-- The cores of a task that stand at a peg for a rotation take CANCEL there at once (R147, R152). -/
def State.cancelFrozen (s : State) (id : Nat) : State :=
  (List.range 640).foldl (fun s n =>
    let c := s.core n
    if c.point.map (·.1) = some id ∧ c.frozen ∧ !c.frame then (s.modCore n (·.noteAsync { kind := .cancel })).dropPoint n else s) s

/-- CANCEL reaches the running points of a stopped task (R89, R147). -/
def State.cancelPoints (s : State) (id : Nat) : State := (s.pendOnTask id .cancel).cancelFrozen id

/-- A task stops with a code, and its engine commands are cancelled; its ended points have then completed (R89, R98,
R129). -/
def State.haltTask (s : State) (id code : Nat) : State :=
  ((s.stopTask id code).cancelCopies (fun k => k.task == some id)).settlePoints id

/-- A cancel reaches a task (R89, R130): it keeps a completion that came first, and a freeze ends first. -/
def State.cancelTask (s : State) (t : Task) : State :=
  if t.finished then s
  else if t.freeze.isSome then s.modTask t.id (fun t => { t with cancelled := true })
  else match t.st with
    | .placed => (s.haltTask t.id 1).cancelPoints t.id
    | _ => s.modTask t.id (fun t => { t with cask := none, stop := true, code := some 1, fr := { t.fr with flight := [] } })

/-- CANCELJ at the table (R89, R326). -/
def State.cancelJob (s : State) (stream j : Nat) : State × Nat :=
  match s.job stream j with
  | none => (s, 1)
  | some b =>
    if b.cancelled then (s, 0)
    else
      let s := s.modJob stream j (fun b => { b with cancelled := true })
      ((s.tab.tasks.filter (fun t => t.stream == stream && t.job == j)).foldl State.cancelTask s, 0)

end Sys2Proof.Machine
end

