-- ==== Sys2Proof/Machine/Ops.lean ====
section
/-! DEFINITION. The operations that the meanings share: issuing an op under its guard and place, results
and their landing, loads and stores of registers, pegs, rollback, taking a trap and returning from one
(spec/07_casks.md R135 to R147, spec/08_core.md R172 to R179, spec/12_encoding.md R273, R287). -/

namespace Sys2Proof.Machine

open Sys2Proof.Bits

/-! ### Traps and stalls of the bundle being issued -/

/-- The op traps; the trap of the lowest slot is the bundle's (R143). -/
def State.trap (s : State) (t : TrapRec) : State :=
  if s.bundle.trap.isSome then s else { s with bundle := { s.bundle with trap := some t } }
/-- The op traps for an access (R145). -/
def State.trapAt (s : State) (cause size addr : Nat) : State :=
  s.trap (accessTrap cause size s.bundle.slot addr)
/-- The op traps with PRIVILEGE (R145, R287). -/
def State.privilege (s : State) (op : Nat) : State :=
  s.trap ⟨BitVec.ofNat 8 tcPrivilege, BitVec.ofNat 64 (s.bundle.slot * 2 ^ 52 + op)⟩
/-- The op raises QUEUE_PROTOCOL for a handle (R145, R187). -/
def State.queueTrap (s : State) (q : BitVec 4) : State :=
  s.trap ⟨BitVec.ofNat 8 tcQueueProtocol, BitVec.ofNat 64 (s.bundle.slot * 2 ^ 52 + q.toNat)⟩
/-- The bundle does not issue (R175). -/
def State.stall (s : State) (w : Wait) : State :=
  if s.bundle.stall = .none then { s with bundle := { s.bundle with stall := w } } else s

/-! ### Issuing an op (R273, R287, R299) -/

/-- An op that issues everywhere: under its guard it has its effect, else none. -/
def anyOp (g : BitVec 3) (s : State) (k : State → State) : Out := .next (if s.pr g then k s else s)
/-- An op that issues on a core in point mode only; elsewhere it raises PRIVILEGE. -/
def pointOp (op : Nat) (g : BitVec 3) (s : State) (k : State → State) : Out :=
  anyOp g s (fun s => if s.mode = .point then k s else s.privilege op)
/-- An op that issues on a core in frame mode only. -/
def frameOp (op : Nat) (g : BitVec 3) (s : State) (k : State → State) : Out :=
  anyOp g s (fun s => if s.mode = .frame then k s else s.privilege op)
/-- An op that issues on a core in either mode, and not on a command sequencer. -/
def coreOp (op : Nat) (g : BitVec 3) (s : State) (k : State → State) : Out :=
  anyOp g s (fun s => if s.mode = .seq then s.privilege op else k s)
/-- An op that issues in frame mode and on a command sequencer (R331). -/
def systemOp (op : Nat) (g : BitVec 3) (s : State) (k : State → State) : Out :=
  anyOp g s (fun s => if s.mode = .point then s.privilege op else k s)
/-- An op of a command sequencer alone; it has no guard (R274, R287). -/
def streamOp (op : Nat) (s : State) (k : State → State) : Out :=
  .next (if s.mode = .seq then k s else s.privilege op)

/-! ### Results (R173, R176, R179) -/

/-- Issues results: they wait in the landing buffer until their bundle. -/
def State.issue (s : State) (ps : List Pending) : State :=
  s.setScalar { s.scalar with pend := s.scalar.pend ++ ps.map (fun p => { p with slot := s.bundle.slot }) }

/-- Flags that land without a register result. -/
def State.flagsAt (s : State) (lat : Nat) (fl : BitVec 6) : State :=
  if fl = 0#6 then s else s.issue [{ dest := .flagsOnly, togo := lat, flags := fl }]

/-- A result for xd; a write to x0 is ignored (R179). -/
def State.putX (s : State) (d : BitVec 5) (lat : Nat) (v : W64) (fl : BitVec 6 := 0#6) : State :=
  if d = 0#5 then s.flagsAt lat fl else s.issue [{ dest := .x d v, togo := lat, flags := fl }]

/-- A compare's predicate pair (R304): p(2i) := c, p(2i + 1) := not c; pair 0 is discarded. -/
def State.putPair (s : State) (i : BitVec 2) (lat : Nat) (c : Bool) (fl : BitVec 6 := 0#6) : State :=
  if i = 0#2 then s.flagsAt lat fl
  else s.issue [{ dest := .p (i ++ 0#1) c, togo := lat, flags := fl },
                { dest := .p (i ++ 1#1) (!c), togo := lat }]

/-- A result for one predicate; p0 and p1 ignore it (R179). -/
def State.putP (s : State) (i : BitVec 3) (lat : Nat) (c : Bool) : State :=
  if i = 0#3 ∨ i = 1#3 then s else s.issue [{ dest := .p i c, togo := lat }]

/-- A v result with its byte mask (R342). -/
def State.putV (s : State) (d : BitVec 5) (lat : Nat) (v : VReg × BitVec 256) (fl : BitVec 6 := 0#6) :
    State :=
  s.issue [{ dest := .v d v.1 v.2, togo := lat, flags := fl }]

/-- A lane-mask result; k0 ignores it (R179). -/
def State.putK (s : State) (d : BitVec 3) (lat : Nat) (v : W64) (fl : BitVec 6 := 0#6) : State :=
  if d = 0#3 then s.flagsAt lat fl else s.issue [{ dest := .k d v, togo := lat, flags := fl }]

/-- The result holds an entry of the landing buffer (R176). -/
def Dest.holdsEntry : Dest → Bool
  | .x .. => true | .p .. => true | .v .. => true | .k .. => true | .phase .. => true
  | _ => false

/-- A returning atomic's or TKGET's old value has a fault: its bundle, which would commit a peg, takes it (R137, R223);
in frame mode and on a command sequencer, which commit none, the landing bundle does. -/
def State.oldFault (s : State) (d : BitVec 5) (t : TrapRec) : State :=
  if s.mode = .point then s.trap t else s.issue [{ dest := .x d 0#64, togo := 6, bad := some t }]

/-- Writes a control register (R180, R181, R182, R145). -/
def State.setCsr (s : State) (n : Nat) (v : W64) : State :=
  match n with
  | 0x020 => s.modRegs (fun r => { r with lanes := v.extractLsb' 4 7, fmt := v.extractLsb' 0 4 })
  | 0x021 => s.setArith { s.arith with fflags := v.extractLsb' 0 6 }
  | 0x022 => s.setArith { s.arith with frm := v.extractLsb' 0 3 }
  | 0x023 => s.setArith { s.arith with srseed := v.extractLsb' 0 32, lfsr := v.extractLsb' 0 32 }
  | 0x100 => s.modMy (fun c => { c with trapCause := v.extractLsb' 0 8 })
  | 0x101 => s.modMy (fun c => { c with trapAddr := v.extractLsb' 0 52 })
  | 0x102 => s.modMy (fun c => { c with trapInfo := v })
  | 0x103 => s.modMy (fun c =>
      { c with peg := { c.peg with sc := { c.peg.sc with pc := v.extractLsb' 0 52 &&& ~~~3#52 } },
               pt := { c.pt with sc := { c.pt.sc with pc := v.extractLsb' 0 52 &&& ~~~3#52 } } })
  | 0x104 => s.modMy (fun c => { c with wdog := v.extractLsb' 8 16 })
  | 0x105 => s.modMy (fun c => { c with frameVec := v.extractLsb' 0 52 &&& ~~~31#52 })
  | 0x110 => s.setCtx s.stream { s.ctx s.stream with pinLim := v.extractLsb' 0 32 }
  | 0x111 => s.setCtx s.stream { s.ctx s.stream with pinUse := v.extractLsb' 0 32 }
  | 0x120 => s.modRegs (fun r => { r with linksub := v &&& 0xFFFFFFFF#64 })
  | 0x131 => match s.focus with
    | .seq q => s.setSeq q { s.seq q with agelim := v.extractLsb' 0 8 }
    | _ => s
  | _ => s

/-- Merges the bytes a mask marks (R158, R342). -/
def mergeV (old new : VReg) (mask : BitVec 256) : VReg :=
  BitVec.ofNat 2048 ((List.range 256).foldl (fun a i =>
    a + fieldN (if mask.getLsbD i then new.toNat else old.toNat) (8 * i) 8 * 2 ^ (8 * i)) 0)

/-- A matrix call is outstanding (R137, R365). -/
def Core.calling (c : Core) : Bool := c.mx.call.isSome || c.mx.queued.isSome

/-- A result lands: its register takes its value (R173). -/
def State.landOne (s : State) : Dest → State
  | .x i v => if i = 0#5 then s else s.setScalar { s.scalar with x := s.scalar.x.set i.toNat v i.isLt }
  | .p i b =>
    if i = 0#3 ∨ i = 1#3 then s
    else
      let m := 1#8 <<< i.toNat
      s.setScalar { s.scalar with p := if b then s.scalar.p ||| m else s.scalar.p &&& ~~~m }
  | .v i v mask => s.modRegs (fun r =>
      { r with v := r.v.set i.toNat (mergeV (r.v[i.toNat]'(i.isLt)) v mask) i.isLt })
  | .k i v => if i = 0#3 then s else s.modRegs (fun r => { r with k := r.k.set i.toNat v i.isLt })
  | .q i h => s.modRegs (fun r => { r with q := r.q.set i.toNat h i.isLt })
  | .qHead i n => s.modRegs (fun r =>
      { r with q := r.q.set i.toNat { r.q[i.toNat]'(i.isLt) with head := n } i.isLt })
  | .qTail i n => s.modRegs (fun r =>
      { r with q := r.q.set i.toNat { r.q[i.toNat]'(i.isLt) with tail := n } i.isLt })
  | .mp i v => s.modRegs (fun r => { r with mp := r.mp.set i.toNat v i.isLt })
  | .mpShadow i v =>
    -- the call may have ended meanwhile, and the shadow set become live with it (R366)
    if !s.my.calling then s.modRegs (fun r => { r with mp := r.mp.set i.toNat v i.isLt })
    else s.modRegs (fun r =>
      { r with mpNext := (if r.mpFilled then r.mpNext else r.mp).set i.toNat v i.isLt, mpFilled := true })
  | .csr n v => s.setCsr n v
  | .phase i v =>
    let s := if i = 0#5 then s else s.setScalar { s.scalar with x := s.scalar.x.set i.toNat v i.isLt }
    s.modRegs (fun r => { r with raised := [], phaseBusy := false })
  | .flagsOnly => s

/-- Results land in the order of their list; then their flags are ORed into FFLAGS (R158, R322). -/
def State.landAll (s : State) (ps : List Pending) : State :=
  let s := ps.foldl (fun s p => s.landOne p.dest) s
  let fl := ps.foldl (fun f p => f ||| p.flags) 0#6
  s.setArith { s.arith with fflags := s.arith.fflags ||| fl }

/-- The results due at the bundle about to issue. -/
def dueOf (ps : List Pending) : List Pending := ps.filter (fun p => p.togo == 0)

/-- Lands the due results of the agent if every one of them has its data; else nothing lands, and the
core is frozen at its bundle (R173, R177). The entries they held are free from the next bundle on (R431). -/
def State.settle (s : State) : State :=
  let due := dueOf s.scalar.pend
  if due.all (fun p => p.arrived && p.bad.isNone) then
    (s.setScalar { s.scalar with
      pend := s.scalar.pend.filter (fun p => p.togo != 0),
      just := s.scalar.just + (due.filter (fun p => p.dest.holdsEntry)).length }).landAll due
  else s

/-- An action on frame mode's own results while the core is in point mode: bundles are counted for the core (R144,
R173). -/
def State.onFrame (s : State) (f : State → State) : State :=
  let g := fun (b : Bool) (c : Core) => { c with frame := b }
  (f (s.modMy (g true))).modMy (g false)

/-- Lands what is due of both modes of a core. -/
def State.settleBoth (s : State) : State :=
  if s.mode = .point ∧ s.my.fr.pend ≠ [] then s.settle.onFrame State.settle else s.settle

/-- Every result in the agent's landing buffer is one bundle nearer, and those due land. -/
def State.tickPend (s : State) : State :=
  let next := fun (p : Pending) => { p with togo := if s.mode = .seq then 0 else p.togo - 1 }
  (s.setScalar { s.scalar with pend := s.scalar.pend.map next, just := 0 }).settle

/-- A bundle retires: results come one bundle nearer (R173), a target's packet one cycle (R183); on a
command sequencer every result is seen by the next bundle (R299). A point-mode bundle brings frame mode's
own results nearer too, since bundles are counted for the core. -/
def State.advance (s : State) : State :=
  let s0 := s.setScalar { s.scalar with tb := s.scalar.tb.map (fun t => { t with fetching := t.fetching - 1 }) }
  let s1 := s0.tickPend
  if s1.mode = .point ∧ (s1.my.fr.pend ≠ [] ∨ s1.my.fr.just ≠ 0) then
    s1.onFrame State.tickPend
  else s1

/-! ### Loads and stores of the scalar and vector registers -/

/-- The hint of an op that has it in its own fields (R210). -/
def State.withHint (s : State) (h : Nat) : State := { s with bundle := { s.bundle with hint := some h } }

/-- What the environment decides of the next load's data: 0 in time, else why it is late (log entry 18). -/
def State.lateCode (s : State) : Nat × State :=
  match s.late with
  | [] => (0, s)
  | b :: bs => (b, { s with late := bs })

/-- Whether the next result that another unit determines arrives late. -/
def State.lateNext (s : State) : Bool × State := (s.lateCode.1 != 0, s.lateCode.2)

/-- Counts BUSY or RFM of the hub whose LPDDR-6 channel a load waits at (R214). -/
def State.countHub (s : State) (pa i : Nat) : State :=
  let h := boolN (Config.lpddrHub (pa / 512))
  let l := s.hubMem h
  s.setHubMem h (setNth l i ((nth l i 0 + 1) % 2 ^ 64))

/-- Whether a load's data comes in time, and the cause that a freeze for it is charged to, in the order of R213: the
controller has marked a sector poisoned, has read it again, waits on a full LPDDR-6 queue, other. `s0` is the state
before the load reached the controller, `pa` its first cell. -/
def State.lateLoad (s s0 : State) (pa : Nat) : Bool × Nat × State :=
  let (code, s) := s.lateCode
  let lp := decide (16 * 2 ^ 40 ≤ pa) && isTier pa
  let why := if s.health.poison != s0.health.poison then 0
    else if s.health.eccRetry != s0.health.eccRetry then 1
    else if code = 2 ∧ lp then 3 else 4
  (code != 0, why, if code = 2 ∧ lp then s.countHub pa 0 else if code = 3 ∧ lp then s.countHub pa 1 else s)

/-- The first cell of an access, 0 where it has none. -/
def State.firstCell (s : State) (va : Nat) : Nat :=
  match s.resolve s.view .load va with
  | .ok (.cell pa _) => pa
  | _ => 0

/-- The fault of loaded data with its first failing byte, for the landing (R145, R223). -/
def State.badOf (s : State) (size : Nat) (f : Option (Nat × Nat)) : Option TrapRec :=
  f.map (fun c => accessTrap c.1 size s.bundle.slot c.2)

/-- A fault of an earlier store's ownership fetch that a load of the line takes (R223). -/
def State.storeFault (s : State) (va n : Nat) : Option TrapRec :=
  match s.focus with
  | .seq _ => none
  | _ => if s.my.withheld.all (fun w => w.bad.isNone) then none
    else (segments 6 va n).findSome? (fun p => match s.resolve s.view .load p.1 with
      | .ok (.cell pa _) => s.my.withheld.findSome? (fun w => if w.line = pa / 128 then w.bad else none)
      | _ => none)

/-- Runs an access: its trap or its wait goes into the bundle. -/
def State.onGot {α : Type} (s : State) (size : Nat) (g : Got α) (k : State → α → State) : State :=
  match g with
  | .ok s' a => k s' a
  | .trap c a => s.trapAt c size a
  | .wait w => s.stall w

/-- An address whose bits [63:52] are not zero traps (R297). -/
def State.withEa (s : State) (ea : W64) (size : Nat) (k : State → Nat → State) : State :=
  if ea.toNat < 2 ^ 52 then k s ea.toNat else s.trapAt tcTranslation size (ea.toNat % 2 ^ 52)

/-- Runs a load of `n` bytes: a fault of an earlier store to the line is taken here (R223); `k` gets the state before
the access and that after it. -/
def State.onLoad (s : State) (va n : Nat) (k : State → State → List Byte × Option (Nat × Nat) → State) : State :=
  match s.storeFault va n with
  | some t => s.trap t
  | none => s.onGot n (s.load s.view va n) (k s)

/-- A scalar load of `n` bytes, zero- or sign-extended, landing at bundle `arr` (R309, R310). -/
def State.loadX (s : State) (d : BitVec 5) (ea : W64) (n : Nat) (signed : Bool) (arr : Nat) : State :=
  s.withEa ea n (fun s va =>
    s.onLoad va n (fun s0 s r =>
      let v := leNat r.1
      let x := if signed then wrap64 (sextN v (8 * n)) else BitVec.ofNat 64 v
      let (late, why, s) := s.lateLoad s0 (s0.firstCell va)
      if d = 0#5 ∧ r.2.isNone then s
      else s.issue [{ dest := if d = 0#5 then .flagsOnly else .x d x, togo := arr, arrived := !late, why := why, bad := s.badOf n r.2 }]))

/-- A scalar store of the low `n` bytes (R309). -/
def State.storeX (s : State) (v : W64) (ea : W64) (n : Nat) : State :=
  s.withEa ea n (fun s va =>
    s.onGot n (s.store s.view s.bundle.slot va (leBytes n v.toNat)) (fun s _ => s))

/-! ### Pegs and rollback (R135 to R141) -/

/-- Every load the core has issued has delivered its data (R137). -/
def Core.loadsDone (c : Core) : Bool := c.pt.sc.pend.all (fun p => p.arrived) && c.fr.pend.all (fun p => p.arrived)
/-- A fault that waits for the landing bundle or the next peg (R223); a granule sealed since a store was accepted
refuses it there (R203). -/
def State.badData (s : State) (n : Nat) : Option TrapRec :=
  let c := s.core n
  (((c.pt.sc.pend ++ c.fr.pend).findSome? (·.bad)).or (c.withheld.findSome? (·.bad))).or
    (c.withheld.findSome? (fun w => if isTier (128 * w.line) ∧ s.sealSet.contains (128 * w.line / 2 ^ 19) then
      some ⟨BitVec.ofNat 8 tcPermission, w.info⟩ else none))

/-- The withheld stores of a core join the global order, in line order of their issue (R136, R226). -/
def State.release (s : State) (n : Nat) : State :=
  let ws := (s.core n).withheld
  let s := s.modCore n (fun c => { c with withheld := [] })
  ws.foldl (fun s w => (w.others.foldl (fun s a => s.setDirty (some a)) s).join w.line w.wts w.bytes w.leaf) s

/-- A peg commits: withheld stores are released, copies issued since the last peg start, lowered slices
give up their contents, and the state as it stands becomes the peg state, to be resumed at its pc
(R135, R136, R207, R235). -/
def State.commitPeg (s : State) (n : Nat) : State :=
  let s := s.release n
  let low := (s.core n).lowered
  let s := low.foldl (fun s i => s.zero (vaultCell n (i * sliceBytes)) sliceBytes) s
  s.modCore n (fun c =>
    let q := c.pt.q.map (fun (h : Queue) => { h with fresh := false })
    { c with
      pt := { c.pt with q := q }, peg := { c.pt with q := q }, lowered := [], stallTicks := 0,
      eng := { c.eng with copies := c.eng.copies.map (fun k => { k with started := true, sincePeg := false }) } })

/-- The rollback of R141: the peg state is restored, withheld stores are discarded, copies and calls
issued since the peg are cancelled, the planes and banks are cleared. -/
def Core.rollback (c : Core) : Core :=
  { c with
    pt := { c.peg with sc := { c.peg.sc with just := 0 } }, withheld := [], lowered := [], eng := c.eng.cancelWhere (·.sincePeg),
    mx := c.mx.clear, wait := .none, woken := false, polled := none, stallTicks := 0 }.chargeLate

/-! ### Taking a trap and returning from one (R141 to R147, R299) -/

/-- A core enters the frame-mode handler (R143): rollback, trap registers, FRAME := 1, fetch at FRAMEVEC.
PEGADDR keeps the resume address. -/
def Core.enterHandler (c : Core) (t : TrapRec) (addr : BitVec 52) : Core :=
  let c := c.rollback
  { c with trapCause := t.cause, trapInfo := t.info, trapAddr := addr, frame := true,
           fr := { c.fr with pc := c.frameVec, just := 0 } }

/-- The asynchronous trap that is taken first (R147). -/
def Core.firstAsync (c : Core) : Option AsyncTrap :=
  let of (k : AsyncKind) : Option AsyncTrap := c.async.find? (fun a => a.kind == k)
  (of .cancel).or ((of .curtail).or ((of .preempt).or (of .linkEvent)))

/-- An asynchronous trap is taken by a core that stands at its peg (R145, R147): CANCEL removes the point,
CURTAIL and PREEMPT leave the core frozen at its peg, LINK_EVENT enters the handler. Only its own pending
state is cleared; CANCEL discards the others. -/
def State.takeAsync (s : State) (n : Nat) (a : AsyncTrap) : State :=
  let rest := (s.core n).async.filter (fun b => b.kind != a.kind)
  match a.kind with
  | .cancel => (s.modCore n (·.noteAsync a)).dropPoint n
  | .linkEvent => s.modCore n (fun c => { (c.enterHandler ⟨0x63#8, a.info⟩ c.peg.sc.pc) with async := rest })
  | _ => s.modCore n (fun c => { c.rollback.noteAsync a with frozen := true, async := rest })

/-- A core's synchronous trap in point mode (R143). An asynchronous trap that arrives in the same cycle is taken at
entry to the handler, which does not run (R146). -/
def State.trapPoint (s : State) (n : Nat) (t : TrapRec) (addr : BitVec 52) : State :=
  match (if s.bundle.meets then (s.core n).firstAsync else none) with
  | some a => s.takeAsync n a
  | none => s.modCore n (fun c => c.enterHandler t addr)

/-- An agent takes a synchronous trap at a bundle: in point mode it enters the handler (R143); in frame
mode the point is abandoned and FRAME_FAULT posted (R144, R150); on a command sequencer STATE becomes
FAULT and STREAM_FAULT is posted (R59, R299). -/
def State.takeTrap (s : State) (t : TrapRec) (addr : BitVec 52) : State :=
  match s.focus with
  | .seq n => (s.modStrm n (fun x => { x with st := .fault })).postStream n 0x0303 t.cause.toNat
  | .core n | .jig n =>
    if (s.core n).frame then (s.abandonPoint n).post 0x0703 t.cause.toNat
    else s.trapPoint n t addr

/-- A core whose bundle has committed as a peg takes a CANCEL that the bundle has brought on its own job (R326). -/
def State.takeCancel (s : State) (n : Nat) : State :=
  match (s.core n).firstAsync with
  | some a => if a.kind = .cancel then s.takeAsync n a else s
  | none => s

/-- ERET: point mode resumes at PEGADDR with the peg state (R144, R324). -/
def Core.eret (c : Core) : Core := { c with frame := false, wait := .none, woken := false, polled := none }

/-- A core that stands at its peg takes what is pending, and leaves for a rotation (R139,
R147, R152). -/
def State.atPeg (s : State) (n : Nat) : State :=
  match (s.core n).firstAsync with
  | some a => s.takeAsync n a
  | none => if (s.core n).rotate then s.modCore n (fun c => { c.rollback with frozen := true }) else s

end Sys2Proof.Machine
end

