-- ==== Sys2Proof/Machine/Links.lean ====
section
/-! DEFINITION. Links, routes, link events and the registers of links and peer ports (spec/02_links.md R29
to R41, R47 to R53). -/

namespace Sys2Proof.Machine

open Sys2Proof.Bits

/-! ### Topology (R29) -/

/-- The two ends of a link: dies 0 to 9, hubs 10 and 11; link 24 + p is peer port p, to the partner 12 + p (R51). -/
def linkEnds (n : Nat) : Nat × Nat :=
  if n < 4 then (n, n + 1)
  else if n < 8 then (n + 1, n + 2)
  else if n < 13 then (n - 8, n - 3)
  else if n < 18 then (n - 13, 10)
  else if n < 23 then (n - 13, 11)
  else if n < 24 then (10, 11)
  else (11, n - 12)

/-- The link between two neighbours. -/
def linkBetween (a b : Nat) : Option Nat :=
  (List.range 24).find? (fun n => linkEnds n == (a, b) || linkEnds n == (b, a))

/-- The other end of a link. -/
def farEnd (n x : Nat) : Nat := if (linkEnds n).1 = x then (linkEnds n).2 else (linkEnds n).1

/-- The links of a die or hub. -/
def linksOf (x : Nat) : List Nat := (List.range 24).filter (fun n => (linkEnds n).1 == x || (linkEnds n).2 == x)

/-- The default outgoing link from a place towards another (R41). The rule gives no route from a hub to a compute die:
the model takes the die's own hub link, or link 23 first where that is the other hub's (log entry 98). A partner is
reached through its port at H1. -/
def defaultRoute (src dst : Nat) : Option Nat :=
  if src = dst then none
  else if 12 ≤ src then some (src + 12)
  else if 12 ≤ dst then
    (if src = 11 then some (dst + 12) else if src < 10 then some (13 + src) else some 23)
  else if src < 10 ∧ dst < 10 then
    if src % 5 = dst % 5 then some (8 + src % 5)
    else linkBetween src (if src % 5 < dst % 5 then src + 1 else src - 1)
  else if src < 10 then some (13 + src)
  else if dst < 10 then (if src = 10 + dst / 5 then some (13 + dst) else some 23)
  else some 23

/-- A link carries traffic, or will once it is trained. -/
def State.live (s : State) (n : Nat) : Bool := (s.link n).st == .up || (s.link n).st == .retrain

/-- The dies and hubs within `n` live hops of a set. -/
def State.within (s : State) : Nat → List Nat → List Nat
  | 0, xs => xs
  | n + 1, xs =>
    State.within s n (xs ++ (List.range 12).filter (fun y => !xs.contains y
      && (linksOf y).any (fun l => s.live l && xs.contains (farEnd l y))))

/-- The number of live hops between two places, 99 if there is no way. -/
def State.hops (s : State) (a b : Nat) : Nat := ((List.range 12).find? (fun k => (s.within k [a]).contains b)).getD 99

/-- Every link of the default route is live. -/
def State.defaultLive (s : State) (dst : Nat) : Nat → Nat → Bool
  | 0, _ => false
  | n + 1, src =>
    if src = dst then true
    else match defaultRoute src dst with
      | none => false
      | some l => s.live l && State.defaultLive s dst n (farEnd l src)

/-- Where a place's route towards a destination leads to inside the package: H1 for a partner. -/
def inside (dst : Nat) : Nat := if 12 ≤ dst then 11 else dst

/-- The outgoing link that a place's route table gives for a destination and channel (R41). -/
def State.route (s : State) (src dst chan : Nat) : Option Nat :=
  if 12 ≤ src ∨ (src = 11 ∧ 12 ≤ dst) then defaultRoute src dst
  else match find? s.fab.routes (48 * src + 4 * inside dst + chan) with
    | some r => r
    | none => defaultRoute src (inside dst)

/-- The routes as the management core writes them: the default route while it is live, else the
lowest-numbered link on a shortest live way (R41, log entry 29). -/
def State.bestRoute (s : State) (src dst : Nat) : Option Nat :=
  if s.defaultLive dst 12 src then defaultRoute src dst
  else (linksOf src).find? (fun l => s.live l && decide (s.hops (farEnd l src) dst < s.hops src dst))

/-- A direction of a link. -/
def Link.dir (l : Link) (d : Nat) : LinkDir := if d = 0 then l.d0 else l.d1
/-- Puts a direction back. -/
def Link.setDir (l : Link) (d : Nat) (x : LinkDir) : Link := if d = 0 then { l with d0 := x } else { l with d1 := x }

/-- A direction of a link or a peer port, by the link's number. -/
def State.ldir (s : State) (n d : Nat) : LinkDir :=
  if n < 24 then (s.link n).dir d else if d = 0 then (s.peer (n - 24)).d0 else (s.peer (n - 24)).d1
/-- Puts a direction back. -/
def State.setLdir (s : State) (n d : Nat) (x : LinkDir) : State :=
  if n < 24 then s.setLink n ((s.link n).setDir d x)
  else s.setPeer (n - 24) (if d = 0 then { s.peer (n - 24) with d0 := x } else { s.peer (n - 24) with d1 := x })
/-- A link or a peer port is UP. -/
def State.linkUp (s : State) (n : Nat) : Bool :=
  if n < 24 then (s.link n).st == .up else (s.peer (n - 24)).st == 0
/-- A link carries nothing and will not until a host command: DOWN or GATED (R40). -/
def State.linkDead (s : State) (n : Nat) : Bool :=
  if n < 24 then (s.link n).st == .down || (s.link n).st == .gated else (s.peer (n - 24)).st != 0
/-- The direction of a link that a place transmits on. -/
def dirFrom (l x : Nat) : Nat := if (linkEnds l).1 = x then 0 else 1
/-- The place at which a link's direction ends. -/
def endOf (l d : Nat) : Nat := if d = 0 then (linkEnds l).2 else (linkEnds l).1
/-- A flit of a transmitter has not yet been accepted by its receiver. -/
def LinkDir.unaccepted (d : LinkDir) (f : Flit) : Bool := decide ((f.seq + 4096 - d.expect) % 4096 < 2048)

/-- Pairs of places with different ends. -/
def allPairs : List (Nat × Nat) :=
  (List.range 12).flatMap (fun a => ((List.range 12).filter (· != a)).map (fun b => (a, b)))

/-- Every flit that its destination has not taken: on links, in receive buffers, on the meshes, held for a route
change. -/
def State.flitsLeft (s : State) : List Flit :=
  (List.range 32).flatMap (fun l => [0, 1].flatMap (fun d =>
    let k := s.ldir l d
    k.sent.filter k.unaccepted ++ k.queued)) ++ s.fab.mesh.flatMap (·.2) ++ s.fab.moves.flatMap (·.held)

/-- The flits for a destination and channel that a place has sent towards it over a link and that have not been
delivered, or that have yet to leave the place's mesh (R37, R41). -/
def State.onRoute (s : State) (x dst chan l : Nat) : List Flit :=
  s.flitsLeft.filter (fun f => f.dst == dst && f.chan == chan && f.via.contains l)
    ++ (s.fab.mesh.filter (fun e => decide (e.1 / 256 = x) || (decide (2560 ≤ e.1) && decide ((e.1 - 2560) / 64 = x)))).flatMap
      (fun e => e.2.filter (fun f => f.dst == dst && f.chan == chan))

/-- The management core rewrites the route tables (R41): where a route changes while flits of it are under way, new
flits are held until those are delivered or resent. -/
def State.rewriteRoutes (s : State) : State :=
  allPairs.foldl (fun s p =>
    (List.range 4).foldl (fun (s : State) ch =>
      let old := s.route p.1 p.2 ch
      let new := s.bestRoute p.1 p.2
      if old = new then s
      else
        let key := 48 * p.1 + 4 * p.2 + ch
        let routes := if new = defaultRoute p.1 p.2 then drop s.fab.routes key else put s.fab.routes key new
        let dsts := if p.2 = 11 then 11 :: (List.range 8).map (· + 12) else [p.2]
        let moves := match old with
          | none => []
          | some l => dsts.filterMap (fun dst =>
              if !(s.onRoute p.1 dst ch l).isEmpty
                  && !s.fab.moves.any (fun m => m.src == p.1 && m.dst == dst && m.chan == ch) then
                some { src := p.1, dst := dst, chan := ch, old := l, stamp := s.fab.stamps : RouteMove }
              else none)
        { s with fab := { s.fab with routes := routes, moves := s.fab.moves ++ moves } }) s) s

/-! ### Link events (R47) -/

/-- A LINK_EVENT latches its bit and becomes pending on every subscribed core (R47, R147). -/
def State.linkEvent (s : State) (kind source : Nat) : State :=
  let s :=
    if source < 24 then
      let l := s.link source
      s.setLink source (match kind with
        | 0 => { l with evHalf := true }
        | 1 => { l with evReplay := true }
        | _ => { l with evTrain := true })
    else s.setPeer (source - 24) { s.peer (source - 24) with evDown := true }
  s.mapCores (fun c =>
    if c.pt.linksub.getLsbD source then c.pendAsync .linkEvent (BitVec.ofNat 64 (kind * 32 + source)) else c)

/-! ### Rate steps and training (R31 to R34, R40) -/

/-- A link enters RETRAIN towards a step (R33). Every training counts in RETRAINS, also that of an ungating or of a
repair; the second attempt of R34 does not (log entry 99). -/
def Link.train (l : Link) (step : Nat) : Link :=
  { l with st := .retrain, target := step, second := false, retrains := (l.retrains + 1) % 2 ^ 64 }

/-- A request for a step (R32): 0 begun or held, 1 refused, 2 completed at once. -/
def State.requestRate (s : State) (n step : Nat) : State × Nat :=
  let l := s.link n
  if 5 ≤ step ∨ l.maxStep < step then (s.setLink n { l with refused := true }, 1)
  else match l.st with
    | .down | .gated => (s.setLink n { l with refused := true, step := step }, 1)
    | .up =>
      if step = l.rate then (s.setLink n { l with step := step, go := false }, 2)
      else (s.setLink n { ({ l with step := step, go := true }).train step with go := true }, 0)
    | .retrain => (s.setLink n { l with step := step, go := true, held := some step }, 0)

/-- A die that no route reaches. -/
def State.unreached (s : State) : List Nat :=
  let seen := s.within 12 [10, 11]
  (List.range 10).filter (fun d => !seen.contains d && (s.die d).power == .on && !(s.die d).lost)

/-- Numbers flits in sequence. -/
def numbered (n : Nat) : List Flit → List Flit
  | [] => []
  | f :: fs => { f with seq := n % 4096 } :: numbered (n + 1) fs

/-- After a training: the flits not yet accepted are sent again in sequence order (R33). Where a route change has
taken some of them away from a link that was DOWN, the rest follow on without a gap. -/
def LinkDir.resendAll (d : LinkDir) : LinkDir :=
  let left := numbered d.expect (d.sent.filter d.unaccepted)
  { d with sent := left, wire := left, next := (d.expect + left.length) % 4096, reject := false, asked := false }

/-- The request held during a training is handled as if it had just arrived (R32). -/
def State.takeHeld (s : State) (n : Nat) : State :=
  let l := s.link n
  match l.held with
  | none => s
  | some step => ((s.setLink n { l with held := none, go := false }).requestRate n step).1

/-- A link goes DOWN (R40): a LINK_EVENT of kind 3, and new routes. A request held during its training is then handled
as if it had just arrived, which is refused (R32). -/
def State.linkDown (s : State) (n : Nat) : State :=
  let l := s.link n
  let s := s.setLink n { l with st := .down, go := false }
  ((s.linkEvent 3 n).takeHeld n).rewriteRoutes

/-- The end of a training attempt (R34). The rule speaks of a training that a request started: one that no request
started is tried once more too, at the step the link has, and then raises kind 2 (log entry 100). -/
def State.trainEnds (s : State) (n : Nat) (ok : Bool) : State :=
  let l := s.link n
  if l.st ≠ .retrain then s
  else if ok then
    let up := { l with st := .up, rate := if l.second then l.rate else l.target, go := l.held.isSome,
                       d0 := l.d0.resendAll, d1 := l.d1.resendAll, second := false }
    let s := s.setLink n up
    let s := if l.second then s.linkEvent 2 n else s
    (s.takeHeld n).rewriteRoutes
  else if l.second then s.linkDown n
  else s.setLink n { l with second := true }

/-! ### Lanes (R38, R39) -/

/-- A lane fails (R38, R39): retired into a spare, or the width halves, or the link goes DOWN. -/
def State.laneFails (s : State) (n lane : Nat) : State :=
  let l := s.link n
  if l.spares < 4 then s.setLink n (({ l with spares := l.spares + 1 }).train l.rate)
  else
    let failed := addOnce l.failed lane
    let low := failed.any (fun x => decide (x < 32))
    let high := failed.any (fun x => decide (32 ≤ x))
    if l.half ∨ (low ∧ high) then (s.setLink n { l with failed := failed }).linkDown n
    else (s.setLink n (({ l with failed := failed, half := true }).train l.rate)).linkEvent 0 n

/-- A repaired link is back at width 64 with its spares released (R39, R133). -/
def Link.renewed (l : Link) : Link := { l with spares := 0, failed := [], half := false }

/-- It trains afresh; a request held during the training that this replaces stays held (R32). -/
def Link.afresh (l : Link) : Link := l.renewed.train (min l.step l.maxStep)

/-! ### Transmission (R35, R36, R41) -/

/-- A transmitter may send a flit of a channel: its link is UP, its replay buffer has room and it has a credit. -/
def State.canSend (s : State) (l d chan : Nat) : Bool :=
  let k := s.ldir l d
  s.linkUp l && decide (k.sent.length < 512) &&
    (nth k.spent chan 0 == 0 || decide (nth k.spent chan 0 ≤ Config.linkCredits chan))

/-- Numbers a flit, spends a credit, sends the flit and keeps it (R35, R36). FLITS counts first transmissions only
(R49), and so does the replay window, whose rule says no more than flits sent (R48, log entry 101). -/
def LinkDir.transmit (d : LinkDir) (f : Flit) : LinkDir :=
  let f := { f with seq := d.next }
  { d with next := (d.next + 1) % 4096, sent := d.sent ++ [f], wire := d.wire ++ [f],
           spent := setNth d.spent f.chan (nth d.spent f.chan 0 + 1),
           flits := (d.flits + 1) % 2 ^ 64, winFlits := d.winFlits + 1 }

/-- A flit has left the receive buffer of its channel: the credit returns. -/
def LinkDir.credit (d : LinkDir) (chan : Nat) : LinkDir :=
  { d with spent := setNth d.spent chan (nth d.spent chan 0 - 1) }

/-- Transmits a flit on a link's direction. A peer port's FLITS counts what it sends (R53). -/
def State.transmit (s : State) (l d : Nat) (f : Flit) : State :=
  let s := s.setLdir l d ((s.ldir l d).transmit { f with via := f.via ++ [l], leaves := none })
  if l < 24 ∨ d ≠ 0 then s
  else s.setPeer (l - 24) { s.peer (l - 24) with flits := ((s.peer (l - 24)).flits + 1) % 2 ^ 64 }

/-- Puts a flit behind those injected before it. -/
def insertFlit (f : Flit) : List Flit → List Flit
  | [] => [f]
  | g :: gs => if f.stamp < g.stamp then f :: g :: gs else g :: insertFlit f gs

/-- The place from which a message from `x` reaches its destination, by the routes as they stand. -/
def State.lastBefore (s : State) (dst chan : Nat) : Nat → Nat → Nat
  | 0, x => x
  | n + 1, x =>
    match s.route x dst chan with
    | none => x
    | some l => if farEnd l x = dst then x else State.lastBefore s dst chan n (farEnd l x)

/-- A place sends a flit towards its destination: onto the route's link, or among the flits held for a route change,
which those of before the change take by the old link while it lives (R41); none while it cannot. -/
def State.sendFrom (s : State) (x : Nat) (f : Flit) : Option State :=
  let on (l : Nat) : Option State :=
    if s.canSend l (dirFrom l x) f.chan then some (s.transmit l (dirFrom l x) f) else none
  match s.fab.moves.find? (fun m => m.src == x && m.dst == f.dst && m.chan == f.chan) with
  | some m =>
    if f.stamp < m.stamp ∧ !s.linkDead m.old then on m.old
    else some { s with fab := { s.fab with moves := s.fab.moves.map (fun (m : RouteMove) =>
      if m.src = x ∧ m.dst = f.dst ∧ m.chan = f.chan then { m with held := insertFlit f m.held } else m) } }
  | none => (s.route x f.dst f.chan).bind on

/-! ### The on-die mesh (R44, log entry 91) -/

/-- The on-chip links from one router of a die to another, column first and then row, as places: 256 × die + 4 ×
router + output port, 0 north, 1 east, 2 south, 3 west (R68). -/
def meshPath (die r1 r2 : Nat) : List Nat :=
  let at_ (row col port : Nat) : Nat := 256 * die + 4 * (8 * row + col) + port
  let row := r1 / 8
  let col := r1 % 8
  let row' := r2 / 8
  let col' := r2 % 8
  (List.range (col' - col)).map (fun i => at_ row (col + i) 1) ++ (List.range (col - col')).map (fun i => at_ row (col - i) 3)
    ++ (List.range (row' - row)).map (fun i => at_ (row + i) col' 2) ++ (List.range (row - row')).map (fun i => at_ (row - i) col' 0)

/-- The router at the far end of an on-chip link. -/
def routerAfter (place : Nat) : Nat :=
  let r := place % 256 / 4
  match place % 4 with
  | 0 => r - 8
  | 1 => r + 1
  | 2 => r + 8
  | _ => r - 1

/-- The edge router of a die at which its link to another place attaches (R44). -/
def edgeOf (die other : Nat) : Nat := Config.edgeRouter die other % 64

/-- The messages on an on-chip link, or still at their router. -/
def State.meshAt (s : State) (key : Nat) : List Flit := (find? s.fab.mesh key).getD []
/-- Puts them back. -/
def State.setMesh (s : State) (key : Nat) (fs : List Flit) : State :=
  { s with fab := { s.fab with mesh := if fs.isEmpty then drop s.fab.mesh key else put s.fab.mesh key fs } }

/-- A message enters the mesh at a router (64 × die + router), which keeps it until it goes on. -/
def State.inject (s : State) (router : Nat) (f : Flit) : State :=
  s.setMesh (2560 + router) (s.meshAt (2560 + router) ++ [f])

/-- The router of a die that a message makes for: its destination, or the edge router of the link by which it leaves. -/
def Flit.target (f : Flit) (x : Nat) : Option Nat :=
  if f.dst = x then some f.toR else f.leaves.map (fun l => edgeOf x (farEnd l x))

/-! ### Registers (R49, R53) -/

/-- LINKCTL. -/
def Link.ctl (l : Link) : Nat := boolN l.go * 2 ^ 31 + l.step
/-- The code of a link state (R40). -/
def LinkSt.code : LinkSt → Nat
  | .up => 0 | .retrain => 1 | .down => 2 | .gated => 3
/-- LINKSTAT. -/
def Link.stat (l : Link) : Nat :=
  l.st.code * 2 ^ 29 + boolN l.refused * 2 ^ 28 + boolN l.evHalf * 2 ^ 27 + boolN l.evReplay * 2 ^ 26
    + boolN l.evTrain * 2 ^ 25 + l.maxStep * 2 ^ 22 + l.rate * 2 ^ 19 + (if l.half then 32 else 64) * 2 ^ 8 + l.spares

/-- A register of a link's block at its own offset; other offsets read 0 (R49, R332). -/
def Link.reg (l : Link) (off : Nat) : Nat :=
  match off with
  | 0x00 => l.ctl
  | 0x04 => l.stat
  | 0x08 => l.thr.toNat
  | 0x0C => l.laneThr.toNat
  | 0x10 => l.retrains
  | _ =>
    if 0x40 ≤ off ∧ off < 0xC0 ∧ off % 8 = 0 then
      let d := l.dir ((off - 0x40) / 0x40)
      match (off - 0x40) % 0x40 / 8 with
      | 0 => d.crcerr
      | 1 => d.replays
      | 2 => d.flits
      | k => nth d.ratetime.toList (k - 3) 0
    else 0

/-- PEERSTAT. -/
def Peer.stat (p : Peer) : Nat := p.st * 2 ^ 29 + boolN p.evDown * 2 ^ 28

/-- A register of a peer port's block (R53). -/
def Peer.reg (p : Peer) (off : Nat) : Nat :=
  match off with
  | 0x00 => p.stat
  | 0x08 => p.id.toNat
  | 0x10 => p.crcerr
  | 0x18 => p.replays
  | 0x20 => p.flits
  | 0x28 => p.fecunc
  | _ => 0

/-- LINKQ's read (R332). -/
def State.linkRead (s : State) (xa : Nat) : Nat :=
  let src := fieldN xa 16 5
  if src < 24 then (s.link src).reg (xa % 256) else (s.peer (src - 24)).reg (xa % 256)

/-- LINKSET (R333): clears latched bits, then submits a request; its answer. -/
def State.linkSet (s : State) (xa : Nat) : State × Nat :=
  let n := fieldN xa 0 5
  if 24 ≤ n then (s, 3)
  else
    let l := s.link n
    let s := s.setLink n { l with
      refused := l.refused && !bit xa 16, evHalf := l.evHalf && !bit xa 17,
      evReplay := l.evReplay && !bit xa 18, evTrain := l.evTrain && !bit xa 19 }
    if bit xa 20 then s.requestRate n (fieldN xa 8 3) else (s, 0)

end Sys2Proof.Machine
end

