-- ==== Sys2Proof/Machine/Queues.lean ====
section
/-! DEFINITION. The queue operations (spec/08_core.md R185 to R187, spec/13_isa_scalar.md R319, R320). -/

namespace Sys2Proof.Machine

open Sys2Proof.Bits

/-- The filled slots (R185). -/
def Queue.filled (q : Queue) : Nat := (q.tail + 2 * q.size - q.head) % (2 * q.size)
/-- The free slots (R185). -/
def Queue.free (q : Queue) : Nat := q.size - q.filled
/-- The slot at HEAD + i, as a queue-store offset (R185). -/
def Queue.headSlot (q : Queue) (i : Nat) : Nat := q.base + 256 * ((q.head + i) % q.size)
/-- The slot at TAIL + i. -/
def Queue.tailSlot (q : Queue) (i : Nat) : Nat := q.base + 256 * ((q.tail + i) % q.size)

/-- A queue as its core sees it: slots that a jig has freed pass to the core's producer end only with the next peg
(R136, R383). -/
def State.qview (s : State) (q : BitVec 4) : Queue :=
  let h := s.qr q
  if h.consEngine then { h with head := if h.fresh then 0 else (s.my.peg.q[q.toNat]'(q.isLt)).head } else h

/-- A copy command that names the handle is outstanding (R319): a CPYQ of any core of the bay into this
core's queue, by the queue target in its b register (R399). -/
def State.copyNames (s : State) (q : BitVec 4) : Bool :=
  let c := s.my
  s.cores.any (fun e => e.2.eng.copies.any (fun k =>
    (k.head.extractLsb' 17 6).toNat == 5 && fieldN k.rb.toNat 0 4 == q.toNat
      && fieldN k.rb.toNat 4 3 == c.lcid && k.task == c.point.map (·.1) && k.lbay == c.lbay))

/-- The handle that QINIT's operands describe, if they break no limit (R319). -/
def qinitHandle (xa xb : W64) : Option Queue :=
  let size := fieldN xb.toNat 0 11
  let pe := bit xb.toNat 16
  let ce := bit xb.toNat 17
  if xa.toNat % 256 = 0 ∧ 1 ≤ size ∧ size ≤ 1024 ∧ xa.toNat + 256 * size ≤ 2 ^ 18
      ∧ xb.toNat < 2 ^ 18 ∧ fieldN xb.toNat 11 5 = 0 ∧ ¬ (pe ∧ ce) then
    some ⟨xa.toNat, size, 0, 0, pe, ce, true⟩
  else none

/-- QINIT (R319): the handle becomes empty; the change is seen by the next bundle. -/
def execQinit (g : BitVec 3) (q : BitVec 4) (a b : BitVec 5) (s : State) : Out :=
  coreOp 0x1F g s (fun s =>
    match qinitHandle (s.xr a) (s.xr b) with
    | some h => if s.copyNames q then s.queueTrap q else s.issue [{ dest := .q q h, togo := 1 }]
    | none => s.queueTrap q)

/-- A wait of R320: QUEUE_PROTOCOL for 0 or more than SIZE, else it waits until the count is met. -/
def queueWait (op : Nat) (count : Queue → Nat) (g : BitVec 3) (q : BitVec 4) (b : BitVec 5) (s : State) :
    Out :=
  coreOp op g s (fun s =>
    let h := s.qview q
    let n := (s.xr b).toNat
    if h.size = 0 ∨ n = 0 ∨ h.size < n then s.queueTrap q
    else if n ≤ count h then s
    else s.stall .queue)

/-- QWAITF (R320). -/
def execQwaitf (g : BitVec 3) (q : BitVec 4) (b : BitVec 5) (s : State) : Out :=
  queueWait 0x20 Queue.filled g q b s
/-- QWAITE (R320): slots that the core freed are free for its own wait at once; those a jig frees
with the next peg. -/
def execQwaite (g : BitVec 3) (q : BitVec 4) (b : BitVec 5) (s : State) : Out :=
  queueWait 0x21 Queue.free g q b s

/-- QADVH (R320). -/
def execQadvh (g : BitVec 3) (q : BitVec 4) (b : BitVec 5) (s : State) : Out :=
  coreOp 0x22 g s (fun s =>
    let h := s.qr q
    let n := (s.xr b).toNat
    if h.size = 0 ∨ h.consEngine ∨ h.filled < n then s.queueTrap q
    else s.issue [{ dest := .qHead q ((h.head + n) % (2 * h.size)), togo := 1 }])

/-- QADVT (R320). -/
def execQadvt (g : BitVec 3) (q : BitVec 4) (b : BitVec 5) (s : State) : Out :=
  coreOp 0x23 g s (fun s =>
    let h := s.qview q
    let n := (s.xr b).toNat
    if h.size = 0 ∨ h.prodEngine ∨ h.free < n then s.queueTrap q
    else s.issue [{ dest := .qTail q ((h.tail + n) % (2 * h.size)), togo := 1 }])

/-- QSTAT's word (R320). -/
def qstatWord (h : Queue) : Nat :=
  2 ^ 63 + boolN h.consEngine * 2 ^ 49 + boolN h.prodEngine * 2 ^ 48 + h.size * 2 ^ 32
    + h.free * 2 ^ 16 + h.filled

/-- QSTAT (R187, R320): any queue op but QINIT traps on an uninitialised handle. -/
def execQstat (g : BitVec 3) (d : BitVec 5) (q : BitVec 4) (s : State) : Out :=
  coreOp 0x24 g s (fun s =>
    let h := s.qview q
    if h.size = 0 then s.queueTrap q else s.putX d 2 (BitVec.ofNat 64 (qstatWord h)))

end Sys2Proof.Machine
end

