-- ==== Sys2Proof/Machine/Special.lean ====
section
/-! DEFINITION. The transcendental functions (spec/14_isa_vector.md R347), correctly rounded by integer
intervals that are refined until both ends round alike, and the q4 block family
(spec/11_formats.md R254, R264). -/

namespace Sys2Proof.Machine

open Sys2Proof.Bits

/-- The integer square root, by `n` binary digits from the top. -/
def isqrtAux : Nat → Nat → Nat → Nat
  | 0, _, r => r
  | n + 1, v, r =>
    let r' := r + 2 ^ n
    isqrtAux n v (if r' * r' ≤ v then r' else r)

/-- floor(√v). -/
def isqrt (v : Nat) : Nat := isqrtAux (log2 v / 2 + 1) v 0

/-- An interval at scale 2^-p: the value lies strictly between lo × 2^-p and hi × 2^-p, or at both. -/
structure Ival where
  lo : Nat
  hi : Nat
  deriving DecidableEq, Repr

/-- Rounds a value that an interval encloses strictly: the rounding of every point of it, if they
agree and the interval has bits to spare below every format's precision. -/
def roundIval (f : FloatFmt) (c : RoundCtl) (neg : Bool) (p : Nat) (v : Ival) : Option (Nat × BitVec 6) :=
  if v.lo < 2 ^ 64 ∨ v.hi ≤ v.lo then none
  else
    let a := packFloat f c neg v.lo (-(p : Int)) true
    let b := packFloat f c neg (v.hi - 1) (-(p : Int)) true
    if a = b then some a else none

/-- The interval of √v at scale 2^-p. -/
def sqrtIval (p : Nat) (v : Ival) : Ival := ⟨isqrt (v.lo * 2 ^ p), isqrt (v.hi * 2 ^ p) + 1⟩

/-- The interval of a product at scale 2^-p. -/
def mulIval (p : Nat) (a b : Ival) : Ival := ⟨a.lo * b.lo / 2 ^ p, a.hi * b.hi / 2 ^ p + 1⟩

/-- 2^f for f = fr × 2^-n in [0, 1), by its binary digits from the top: `n` digits are left, `r` is
2^(2^-i) of the digit before, `acc` the product so far. -/
def exp2Frac (p : Nat) : Nat → Nat → Ival → Ival → Ival
  | 0, _, _, acc => acc
  | n + 1, fr, r, acc =>
    let r' := sqrtIval p r
    exp2Frac p n fr r' (if bit fr n then mulIval p acc r' else acc)

/-- The interval of 2^x for a finite x = ±m × 2^e that is no integer, at scale 2^-p, with a power of
two taken out. -/
def exp2Ival (p : Nat) (neg : Bool) (m n : Nat) : Int × Ival :=
  let q := m / 2 ^ n
  let r := m % 2 ^ n
  let one : Ival := ⟨2 ^ p, 2 ^ p⟩
  let two : Ival := ⟨2 * 2 ^ p, 2 * 2 ^ p⟩
  if neg then (-(q : Int) - 1, exp2Frac p n (2 ^ n - r) two one)
  else ((q : Int), exp2Frac p n r two one)

/-- Binary digits of log2 g for g in (1, 2) at scale 2^-w: `n` more digits, `acc` those found. -/
def log2Digits (w : Nat) : Nat → Ival → Nat → Ival
  | 0, _, acc => ⟨acc, acc + 1⟩
  | n + 1, g, acc =>
    let s := mulIval w g g
    if 2 * 2 ^ w ≤ s.lo then log2Digits w n ⟨s.lo / 2, s.hi / 2 + 1⟩ (2 * acc + 1)
    else if s.hi ≤ 2 * 2 ^ w then log2Digits w n s (2 * acc)
    else ⟨acc * 2 ^ (n + 1), (acc + 1) * 2 ^ (n + 1)⟩

/-- The terms of e^z at scale 2^-w: `n` more, from term `t` of index `i`. -/
def expTerms (w : Nat) (z : Nat) : Nat → Nat → Nat → Nat
  | 0, _, _ => 0
  | n + 1, t, i => t + expTerms w z n (t * z / 2 ^ w / i) (i + 1)

/-- Squares an interval `n` times. -/
def squares (p : Nat) : Nat → Ival → Ival
  | 0, v => v
  | n + 1, v => squares p n (mulIval p v v)

/-- The interval of e^y for y = m × 2^e > 0, at scale 2^-w. -/
def expIval (w : Nat) (m : Nat) (e : Int) : Ival :=
  let k := ((log2 m : Int) + e + 9).toNat
  let sh := e - k + w
  let z := if sh ≥ 0 then m * 2 ^ sh.toNat else m / 2 ^ (-sh).toNat
  let n := w / 8 + 4
  let lo := expTerms w z n (2 ^ w) 1
  -- each term and the end of the series lose less than one unit each; z itself less than one
  squares w k ⟨lo, lo + 4 * n + 8⟩

/-- The five functions of R347. -/
inductive Fn where
  | exp2 | log2 | rcp | rsqrt | tanh
  deriving DecidableEq, Repr

/-- The function's number in Config.transcendental. -/
def Fn.num : Fn → Nat
  | .exp2 => 0 | .log2 => 1 | .rcp => 2 | .rsqrt => 3 | .tanh => 4

/-- One attempt at working precision `p` for a finite nonzero operand whose result is irrational. -/
def transTry (f : FloatFmt) (c : RoundCtl) (fn : Fn) (neg : Bool) (m : Nat) (e : Int) (p : Nat) :
    Option (Nat × BitVec 6) :=
  match fn with
  | .exp2 =>
    let (k, v) := exp2Ival p neg m (-e).toNat
    if v.lo = 0 ∨ v.hi ≤ v.lo then none
    else
      let a := packFloat f c false v.lo (k - p) true
      let b := packFloat f c false (v.hi - 1) (k - p) true
      if a = b then some a else none
  | .log2 =>
    let t := Bits.log2 m
    let w := 2 * p + 80
    let g := m * 2 ^ w / 2 ^ t
    let d := log2Digits w p ⟨g, g⟩ 0
    let k : Int := t + e
    if 0 ≤ k then
      roundIval f c false p ⟨k.toNat * 2 ^ p + d.lo, k.toNat * 2 ^ p + d.hi⟩
    else
      let u := (-k).toNat * 2 ^ p
      roundIval f c true p ⟨u - d.hi, u - d.lo⟩
  | .tanh =>
    let big := decide ((log2 m : Int) + e ≥ 8)
    let v := if big then expIval p 1 9 else expIval p m (e + 1)
    let q (x : Nat) : Nat := (x - 2 ^ p) * 2 ^ p / (x + 2 ^ p)
    let hi := if big then 2 ^ p else min (q v.hi + 1) (2 ^ p)
    roundIval f c neg p ⟨q v.lo, hi⟩
  | .rcp => none
  | .rsqrt => none

/-- The first attempt that decides. -/
def transRefine (f : FloatFmt) (c : RoundCtl) (fn : Fn) (neg : Bool) (m : Nat) (e : Int) :
    List Nat → Option (Nat × BitVec 6)
  | [] => none
  | p :: ps =>
    match transTry f c fn neg m e p with
    | some r => some r
    | none => transRefine f c fn neg m e ps

/-- Takes factors of two out of a magnitude, at most `n`. -/
def oddPart : Nat → Nat → Int → Nat × Int
  | 0, m, e => (m, e)
  | n + 1, m, e => if m % 2 = 0 then oddPart n (m / 2) (e + 1) else (m, e)

/-- A function of R347 on one element: bits and flags. -/
def transcend (fn : Fn) (fmt : Nat) (c : RoundCtl) (bits : Nat) : Nat × BitVec 6 :=
  match floatFmt fmt with
  | none => (0, 0#6)
  | some f =>
    let one := packFloat f ⟨0, 0, 0⟩ false 1 0 false
    match readFloat f bits with
    | .nan s => nanResult fmt s
    | .inf n =>
      match fn with
      | .exp2 => if n then (0, 0#6) else packInf f c.sat false
      | .log2 => if n then nanResult fmt true else packInf f c.sat false
      | .rcp => (boolN n * 2 ^ (f.w - 1), 0#6)
      | .rsqrt => if n then nanResult fmt true else (0, 0#6)
      | .tanh => if n && c.sat == 2 then (0, flSAT ||| flNX) else (one.1 + boolN n * 2 ^ (f.w - 1), 0#6)
    | .fin n m0 e0 =>
      if m0 = 0 then
        match fn with
        | .exp2 => (one.1, 0#6)
        | .log2 => let r := packInf f c.sat true; (r.1, r.2 ||| flDZ)
        | .rcp => let r := packInf f c.sat n; (r.1, r.2 ||| flDZ)
        | .rsqrt => let r := packInf f c.sat n; (r.1, r.2 ||| flDZ)
        | .tanh => (boolN n * 2 ^ (f.w - 1), 0#6)
      else
        let (m, e) := oddPart 32 m0 e0
        let undecided : Nat × BitVec 6 :=
          (Config.transcendental fn.num fmt c.mode c.sat c.sr bits % 2 ^ f.w, flNX)
        match fn with
        | .exp2 =>
          if 0 ≤ e then
            -- an integral operand: exact, with the exponent bounded beyond every range
            let x : Int := min (m * 2 ^ (min e 12).toNat : Nat) 4096
            packFloat f c false 1 (if n then -x else x) false
          else if (log2 m : Int) + e ≥ 12 then
            -- beyond every range: the integer part is cut to 4,096, the fraction that SR needs stays (R257)
            if n then packFloat f c false 1 (-4096) true
            else (transRefine f c fn false (2 ^ (12 + (-e).toNat) + m % 2 ^ (-e).toNat) e [96, 224, 480]).getD undecided
          else (transRefine f c fn n m e [96, 224, 480]).getD undecided
        | .log2 =>
          if n then nanResult fmt true
          else if m = 1 then packFloat f c (decide (e < 0)) e.natAbs 0 false
          else (transRefine f c fn false m e [96, 224, 480]).getD undecided
        | .rcp =>
          let k := 96 + log2 m
          packFloat f c n (2 ^ k / m) (-(k : Int) - e) (2 ^ k % m != 0)
        | .rsqrt =>
          if n then nanResult fmt true
          else
            let (m, e) := if e % 2 = 0 then (m, e) else (2 * m, e - 1)
            let k := 96 + log2 m
            let v := 2 ^ (2 * k) / m
            let r := isqrt v
            packFloat f c false r (-(k : Int) - e / 2) (r * r * m != 2 ^ (2 * k))
        | .tanh => (transRefine f c fn n m e [128, 640, 1536]).getD undecided

/-- VRNDI of one element (R345). -/
def roundIntegral (fmt : Nat) (c : RoundCtl) (bits : Nat) : Nat × BitVec 6 :=
  match floatFmt fmt with
  | none => (0, 0#6)
  | some f =>
    match readFloat f bits with
    | .nan s => nanResult fmt s
    | .inf _ => (bits % 2 ^ f.w, 0#6)
    | .fin n m e =>
      if m = 0 then (bits % 2 ^ f.w, 0#6)
      else
        let (a, inexact, _) := roundAt c.mode c.sr n m e 0 false
        ((packFloat f ⟨0, 0, 0⟩ n a 0 false).1, flagIf inexact flNX)

/-- The value of a q4 code under a scale byte (R254). -/
def q4Value (scale code : Nat) : FVal :=
  let e : Int := (fieldN scale 0 6 : Int) - 32
  let k := code % 8
  let s := bit code 3
  match fieldN scale 6 2 with
  | 0 => let v := sextN code 4; .fin (decide (v < 0)) v.natAbs e
  | 1 => .fin s (nth [0, 1, 2, 3, 4, 6, 8, 12] k 0) (e - 1)
  | 2 => if k = 0 then .fin s 0 e else .fin s 1 (e + k - 4)
  | _ => if k < 4 then .fin s k e else .fin s 1 (e + (k % 4 : Nat) + 2)

/-- The magnitude of a code's field [2:0] in units of 2^-3, by type (R254). -/
def q4Mag (ty k : Nat) : Nat :=
  match ty with
  | 0 => 8 * k
  | 1 => nth [0, 4, 8, 12, 16, 24, 32, 48] k 0
  | 2 => if k = 0 then 0 else 2 ^ (k - 1)
  | _ => if k < 4 then 8 * k else 2 ^ (k % 4 + 5)

/-- The largest magnitude M of a type in units of 2^-3 (R254). -/
def q4Max (ty : Nat) : Nat := q4Mag ty 7

/-- The last magnitude field at or below a magnitude of x = n / 2^j units of 2^-3. -/
def q4Below (ty n j : Nat) : Nat → Nat
  | 0 => 0
  | k + 1 => if q4Mag ty (k + 1) * 2 ^ j ≤ n then k + 1 else q4Below ty n j k

/-- Quantises one element against a type and exponent (R264): the code and the flags. -/
def q4Code (ty : Nat) (ex : Int) (mode sr : Nat) (v : FVal) : Nat × BitVec 6 :=
  let signed (n : Bool) (k : Nat) : Nat :=
    if ty = 0 then (if n then (16 - k) % 16 else k) else boolN n * 8 + k
  match v with
  | .nan _ => (0, flNV)
  | .inf n => (signed n 7, flSAT ||| flNX)
  | .fin n m e =>
    -- |x| ÷ 2^ex in units of 2^-3, as num / 2^j
    let sh := e - ex + 3
    let num := if 0 ≤ sh then m * 2 ^ sh.toNat else m
    let j := if 0 ≤ sh then 0 else (-sh).toNat
    if q4Max ty * 2 ^ j < num then (signed n 7, flSAT ||| flNX)
    else
      let k := q4Below ty num j 7
      let lo := q4Mag ty k * 2 ^ j
      if lo = num then (signed n k, 0#6)
      else
        let gap := q4Mag ty (k + 1) * 2 ^ j - lo
        let r := num - lo
        let up : Bool := match mode with
          | 0 => decide (gap < 2 * r) || (2 * r == gap && k % 2 == 1)
          | 1 => false
          | 2 => n
          | 3 => !n
          | 4 => decide (gap ≤ 2 * r)
          | _ => decide (2 ^ 16 ≤ r * 2 ^ 16 / gap + sr)
        (signed n (k + boolN up), flNX)

/-- The smallest exponent field from `e` up that holds a magnitude m × 2^x (R264 step 1); `n` more are
left. -/
def q4Exp (ty m : Nat) (x : Int) : Nat → Nat → Nat
  | 0, e => e
  | n + 1, e =>
    -- m × 2^x ≤ M × 2^(e - 32), in units of 2^-3
    let sh := x + 3 - ((e : Int) - 32)
    let fits : Bool := if 0 ≤ sh then decide (m * 2 ^ sh.toNat ≤ q4Max ty)
      else decide (m ≤ q4Max ty * 2 ^ (-sh).toNat)
    if fits then e else q4Exp ty m x n (e + 1)

/-- The larger of two magnitudes. -/
def maxMag (a b : Nat × Int) : Nat × Int :=
  if ltVal (.fin false a.1 a.2) (.fin false b.1 b.2) then b else a

/-- The largest finite magnitude of a block (R264). -/
def blockMax : List FVal → Nat × Int
  | [] => (0, 0)
  | .fin _ m e :: vs => maxMag (m, e) (blockMax vs)
  | _ :: vs => blockMax vs

/-- Codes and flags of a block, the LFSR stepping once an element under SR. -/
def q4Codes (ty : Nat) (ex : Int) (mode : Nat) : List FVal → W32 → List Nat × BitVec 6
  | [], _ => ([], 0#6)
  | v :: vs, s =>
    let (k, fl) := q4Code ty ex mode (s.toNat % 2 ^ 16) v
    let (ks, fls) := q4Codes ty ex mode vs (if mode = 5 then lfsrStep s else s)
    (k :: ks, fl ||| fls)

/-- The exact error of a block's codes over its finite elements, at scale 2^-400 (R264). -/
def q4Error (scale : Nat) : List FVal → List Nat → Nat
  | .fin n m e :: vs, k :: ks =>
    (match q4Value scale k with
     | .fin n2 m2 e2 =>
       let (_, d, x) := addFin n m e (!n2) m2 e2
       d * 2 ^ (x + 400).toNat
     | _ => 0) + q4Error scale vs ks
  | _ :: vs, _ :: ks => q4Error scale vs ks
  | _, _ => 0

/-- One candidate type of a block: scale byte, codes, flags. -/
def q4Try (ty mode : Nat) (vs : List FVal) (s : W32) : Nat × List Nat × BitVec 6 :=
  let (m, x) := blockMax vs
  let e := if m = 0 then 0 else q4Exp ty m x 63 0
  let (ks, fl) := q4Codes ty ((e : Int) - 32) mode vs s
  (ty * 64 + e, ks, fl)

/-- The candidate with the least error, the earlier type on equal errors (R264). -/
def q4Best (mode : Nat) (vs : List FVal) (s : W32) : List Nat → Nat × List Nat × BitVec 6
  | [] => q4Try 0 mode vs s
  | [t] => q4Try t mode vs s
  | t :: ts =>
    let a := q4Try t mode vs s
    let b := q4Best mode vs s ts
    if q4Error b.1 vs b.2.1 < q4Error a.1 vs a.2.1 then b else a

/-- VQNT of one block (R264): scale byte, codes, flags. -/
def quantBlock (auto : Bool) (ty mode : Nat) (vs : List FVal) (s : W32) : Nat × List Nat × BitVec 6 :=
  if auto then q4Best mode vs s [0, 1, 2, 3] else q4Try ty mode vs s

end Sys2Proof.Machine
end

