-- ==== Sys2Proof/Machine/ScalarMem.lean ====
section
/-! DEFINITION. Scalar loads, stores, prefetch and atomics (spec/13_isa_scalar.md R309 to R313,
spec/10_consistency.md R233, R234). -/

namespace Sys2Proof.Machine

open Sys2Proof.Bits

/-- A load of R309: imm7 is scaled by the size, arrival 6. -/
def loadOp (n : Nat) (signed : Bool) (g : BitVec 3) (d a : BitVec 5) (i : BitVec 7) (s : State) : Out :=
  anyOp g s (fun s => s.loadX d (s.ea a (s.immediate i.toNat 7 * n)) n signed 6)

/-- A store of R309. -/
def storeOp (n : Nat) (g : BitVec 3) (d a : BitVec 5) (i : BitVec 7) (s : State) : Out :=
  anyOp g s (fun s => s.storeX (s.xr d) (s.ea a (s.immediate i.toNat 7 * n)) n)

/-- LDB (R309). -/
def execLdb (g : BitVec 3) (d a : BitVec 5) (i : BitVec 7) (s : State) : Out :=
  loadOp 1 false g d a i s
/-- LDBS (R309). -/
def execLdbs (g : BitVec 3) (d a : BitVec 5) (i : BitVec 7) (s : State) : Out :=
  loadOp 1 true g d a i s
/-- LDH (R309). -/
def execLdh (g : BitVec 3) (d a : BitVec 5) (i : BitVec 7) (s : State) : Out :=
  loadOp 2 false g d a i s
/-- LDHS (R309). -/
def execLdhs (g : BitVec 3) (d a : BitVec 5) (i : BitVec 7) (s : State) : Out :=
  loadOp 2 true g d a i s
/-- LDW (R309). -/
def execLdw (g : BitVec 3) (d a : BitVec 5) (i : BitVec 7) (s : State) : Out :=
  loadOp 4 false g d a i s
/-- LDWS (R309). -/
def execLdws (g : BitVec 3) (d a : BitVec 5) (i : BitVec 7) (s : State) : Out :=
  loadOp 4 true g d a i s
/-- LDD (R309). -/
def execLdd (g : BitVec 3) (d a : BitVec 5) (i : BitVec 7) (s : State) : Out :=
  loadOp 8 false g d a i s
/-- STB (R309). -/
def execStb (g : BitVec 3) (d a : BitVec 5) (i : BitVec 7) (s : State) : Out :=
  storeOp 1 g d a i s
/-- STH (R309). -/
def execSth (g : BitVec 3) (d a : BitVec 5) (i : BitVec 7) (s : State) : Out :=
  storeOp 2 g d a i s
/-- STW (R309). -/
def execStw (g : BitVec 3) (d a : BitVec 5) (i : BitVec 7) (s : State) : Out :=
  storeOp 4 g d a i s
/-- STD (R309). -/
def execStd (g : BitVec 3) (d a : BitVec 5) (i : BitVec 7) (s : State) : Out :=
  storeOp 8 g d a i s

/-- Size and signedness by LDL's width code (R310). -/
def ldlWidth : Nat → Nat × Bool
  | 0 => (1, false) | 1 => (1, true) | 2 => (2, false) | 3 => (2, true)
  | 4 => (4, false) | 5 => (4, true) | _ => (8, false)

/-- LDL (R310): an unscaled offset and a declared arrival, 0 meaning 6. -/
def execLdl (g : BitVec 3) (d a : BitVec 5) (m : BitVec 8) (w : BitVec 3) (h : BitVec 2) (o : BitVec 16)
    (s : State) : Out :=
  anyOp g s (fun s =>
    let k := ldlWidth w.toNat
    (s.withHint h.toNat).loadX d (s.ea a (s.immediate o.toNat 16)) k.1 k.2 (if m = 0#8 then 6 else m.toNat))

/-- A line that a prefetch asks for: into the core's L1 copy where the home can answer at once, else by a request
that nothing waits for; a line that is there already takes the hint's retention (R230, R311). -/
def State.prefetchLine (s : State) (line : Nat) (leaf : Option Nat) : State :=
  match s.focus with
  | .seq _ => s.readLine line leaf s.hint
  | _ =>
    if s.owns line || (s.copyOf line).isSome then
      (s.readLine line leaf s.hint).modMy (fun c => { c with
        l1 := c.l1.map (fun k => if k.line = line then { k with prio := hintPrio s.hint } else k) })
    else s.ask line ⟨.rd, s.me, s.hint, leaf⟩

/-- PFL (R311) brings the line that holds ea into the core's L1 cache and the memory-side cache, at the retention of
its hint; it makes no access in the global order, has no result and never faults. -/
def execPfl (g : BitVec 3) (a : BitVec 5) (i : BitVec 7) (s : State) : Out :=
  anyOp g s (fun s =>
    let ea := (s.ea a (s.immediate i.toNat 7 * 128)).toNat
    if s.hint = 3 ∨ 13 * 2 ^ 48 ≤ ea then s
    else match s.resolve s.view .load ea with
      | .ok (.cell pa leaf) => s.prefetchLine (pa / 128) leaf
      | _ => s)

/-! ### Atomics -/

/-- The cell of an atomic: aligned, readable and writable (R202, R312). -/
def State.atomicCell (s : State) (v : View) (va w : Nat) : Except Nat (Nat × Option Nat) :=
  if va % w ≠ 0 then .error tcAlignment
  else match s.resolve v .load va with
    | .error c => .error c
    | .ok (.status _) => .error tcPermission
    | .ok (.cell _ _) =>
      match s.resolve v .store va with
      | .error c => .error c
      | .ok (.status _) => .error tcPermission
      | .ok (.cell pa leaf) => .ok (pa, leaf)

/-- An atomic update of `w` bytes at a cell by the agent itself, which owns the line: the old value, and the write
where there is a new one, else the timestamp alone (R227); a fault of the data, which leaves memory as it was (R223,
R229, R233). -/
def State.rmw (s : State) (pa w : Nat) (leaf : Option Nat) (f : Nat → Option Nat) : Got (Nat × Option Nat) :=
  match s.openWrite (pa / 128) leaf with
  | .trap c a => .trap c a
  | .wait x => .wait x
  | .ok s ts =>
    let old := leNat ((List.range w).map (fun i => s.peek (pa + i)))
    match s.lineFault pa leaf with
    | some c => .ok s (old, some c)
    | none => match f old with
      | none => .ok (s.setLine (pa / 128) { s.line (pa / 128) with wts := max (s.line (pa / 128)).wts ts, rts := max (s.line (pa / 128)).rts ts }) (old, none)
      | some new => .ok (s.join (pa / 128) ts (offsets (pa % 128) (leBytes w new)) leaf) (old, none)

/-- A no-return atomic of point mode leaves the core for its home; one of a command sequencer or of frame mode executes at
once (R229, R234, R298, R299). -/
def State.sendNr (s : State) (op : AtomOp) (pa w operand : Nat) (leaf : Option Nat) : Got (Option Nat) :=
  match s.mode with
  | .point => .ok (s.modMy (fun c => { c with nr := c.nr ++ [{ op := op, pa := pa, width := w, operand := operand, leaf := leaf, pts := c.pts }] })) none
  | _ =>
    match s.rmw pa w leaf (fun old => some (op.apply w old operand)) with
    | .ok s r => .ok s r.2
    | .trap c a => .trap c a
    | .wait x => .wait x

/-- The old value of an atomic in xd: zero-extended for the unsigned forms, sign-extended else (R312). -/
def oldToX (unsigned : Bool) (w old : Nat) : W64 :=
  if unsigned then BitVec.ofNat 64 old else wrap64 (sextN old (8 * w))

/-- A returning atomic (R312, R313): `f` gives the new value, or none for a failed compare. A fault of the data keeps the
bundle from its commit (R137, R223). -/
def State.atomicX (s : State) (d : BitVec 5) (ea : W64) (w : Nat) (unsigned : Bool)
    (f : Nat → Option Nat) : State :=
  if ea.toNat % w ≠ 0 then s.trapAt tcAlignment w (ea.toNat % 2 ^ 52)
  else s.withEa ea w (fun s va =>
    match s.atomicCell s.view va w with
    | .error c => s.trapAt c w va
    | .ok (pa, leaf) =>
      s.onGot w ((s.atAccess s.view va w).rmw pa w leaf f) (fun s r =>
        match r.2 with
        | some c => s.oldFault d (accessTrap c w s.bundle.slot va)
        | none => if d = 0#5 then s else s.issue [{ dest := .x d (oldToX unsigned w r.1), togo := 6 }]))

/-- A no-return atomic (R312, R234). -/
def State.atomicNr (s : State) (ea : W64) (w : Nat) (op : AtomOp) (operand : Nat) : State :=
  if ea.toNat % w ≠ 0 then s.trapAt tcAlignment w (ea.toNat % 2 ^ 52)
  else s.withEa ea w (fun s va =>
    match s.atomicCell s.view va w with
    | .error c => s.trapAt c w va
    | .ok (pa, leaf) =>
      s.onGot w ((s.atAccess s.view va w).sendNr op pa w operand leaf) (fun s bad =>
        match bad with
        | some c => s.trapAt c w va
        | none => s))

/-- The width in bytes that f[0] gives (R312). -/
def atomicWidth (w : BitVec 1) : Nat := if w = 1#1 then 8 else 4

/-- The atomics of R312. -/
def atomicOp (op : AtomOp) (g : BitVec 3) (d a b : BitVec 5) (n w : BitVec 1) (s : State) : Out :=
  anyOp g s (fun s =>
    let k := atomicWidth w
    let x := (s.xr b).toNat
    if n = 1#1 then s.atomicNr (s.xr a) k op x
    else s.atomicX d (s.xr a) k (op == .umin || op == .umax) (fun old => some (op.apply k old x)))

/-- AMADD (R312). -/
def execAmadd (g : BitVec 3) (d a b : BitVec 5) (n w : BitVec 1) (s : State) : Out :=
  atomicOp .add g d a b n w s
/-- AMMIN (R312). -/
def execAmmin (g : BitVec 3) (d a b : BitVec 5) (n w : BitVec 1) (s : State) : Out :=
  atomicOp .smin g d a b n w s
/-- AMMINN (R312). -/
def execAmminn (g : BitVec 3) (d a b : BitVec 5) (n w : BitVec 1) (s : State) : Out :=
  atomicOp .umin g d a b n w s
/-- AMMAX (R312). -/
def execAmmax (g : BitVec 3) (d a b : BitVec 5) (n w : BitVec 1) (s : State) : Out :=
  atomicOp .smax g d a b n w s
/-- AMMAXN (R312). -/
def execAmmaxn (g : BitVec 3) (d a b : BitVec 5) (n w : BitVec 1) (s : State) : Out :=
  atomicOp .umax g d a b n w s
/-- AMAND (R312). -/
def execAmand (g : BitVec 3) (d a b : BitVec 5) (n w : BitVec 1) (s : State) : Out :=
  atomicOp .and g d a b n w s
/-- AMOR (R312). -/
def execAmor (g : BitVec 3) (d a b : BitVec 5) (n w : BitVec 1) (s : State) : Out :=
  atomicOp .or g d a b n w s
/-- AMXOR (R312). -/
def execAmxor (g : BitVec 3) (d a b : BitVec 5) (n w : BitVec 1) (s : State) : Out :=
  atomicOp .xor g d a b n w s
/-- AMSWP (R312). -/
def execAmswp (g : BitVec 3) (d a b : BitVec 5) (n w : BitVec 1) (s : State) : Out :=
  atomicOp .swap g d a b n w s
/-- AMCAS (R313): a failed comparison writes nothing, and still owns the line. -/
def execAmcas (g : BitVec 3) (d a b : BitVec 5) (w : BitVec 1) (c : BitVec 5) (s : State) : Out :=
  anyOp g s (fun s =>
    let k := atomicWidth w
    let m := 2 ^ (8 * k)
    let x := (s.xr b).toNat % m
    let y := (s.xr c).toNat % m
    s.atomicX d (s.xr a) k false (fun old => if old = x then some y else none))

end Sys2Proof.Machine
end

