-- ==== Sys2Proof/Machine/Sync.lean ====
section
/-! DEFINITION. Gauge words and tickets (spec/10_consistency.md R241 to R247, spec/13_isa_scalar.md R314
to R317). -/

namespace Sys2Proof.Machine

open Sys2Proof.Bits

/-- The cell of a gauge word (32 bytes) or a ticket word (16): aligned, in direct vault memory (R241,
R246). -/
def State.wordCell (s : State) (v : View) (ea : W64) (size : Nat) : Except Nat Nat :=
  if ea.toNat % size ≠ 0 then .error tcAlignment
  else if ea.toNat < 14 * 2 ^ 48 ∨ 2 ^ 52 ≤ ea.toNat then .error tcVaultWindow
  else match s.resolve v .store ea.toNat with
    | .error c => .error c
    | .ok (.cell pa _) => .ok pa
    | .ok (.status _) => .error tcVaultWindow

/-- An aligned word of memory as the agent reads it. -/
def State.peekN (s : State) (pa n : Nat) : Nat := leNat ((List.range n).map (fun i => s.peek (pa + i)))

/-- A gauge or ticket word's access by the agent: it reads or owns the line, and a double-bit error of the word's
first `n` bytes is a trap at the bundle (R219, R223). -/
def State.onWord {α : Type} (s : State) (pa n size : Nat) (va : W64) (g : Got α) (k : State → α → State) : State :=
  s.onGot size g (fun t a =>
    match (List.range n).findSome? (fun i => t.dataFault (pa + i) none) with
    | some c => s.trapAt c size (va.toNat % 2 ^ 52)
    | none => k t a)

/-- COUNT, TARGET and GEN after an addition (R242). -/
def gaugeAdd (count target gen n : Nat) : Nat × Nat :=
  let c := (count + n) % 2 ^ 64
  if target = 0 then (c, gen) else (c % target, (gen + c / target) % 2 ^ 16)

/-- The bytes 0 to 15 of a gauge word. -/
def gaugeBytes (count target gen : Nat) : List Byte := leBytes 8 count ++ leBytes 6 target ++ leBytes 2 gen

/-- An addition that no core issues waits while a core withholds a store to the word's line, but for the core `but`
whose call adds (R232, R238). -/
def State.gaugeBusy (s : State) (but : Option Nat) (pa : Nat) : Bool := (s.heldBut but (pa / 128)).isSome

/-- Writes the status word of a gauge, while its CODE is 0 (R224); one that reads with a double-bit error stays as it is
(log entry 116). -/
def State.gaugeStatus (s : State) (pa srck handle code : Nat) : State :=
  if Memory.read s.mem (pa + 16) 2 ≠ 0 ∨ (s.dataFault (pa + 16) none).isSome then s
  else s.joinOutside pa (s.outsideTime (pa / 128) 0)
    (offsets (pa % 128 + 16) (leBytes 8 (code + handle * 2 ^ 16 + srck * 2 ^ 32))) none

/-- One atomic addition to a gauge word at its slice by an engine or a call, at a logical time that is not before
those of the writes it counts (R238, R242): the whole of COUNT, TARGET and GEN is written. A word that reads with a
double-bit error takes no addition: it stays, and its status is MEM_UNCORR (R219, log entry 116). -/
def State.addToGauge (s : State) (srck handle pa n time : Nat) : State :=
  if (s.dataFault pa none).isSome || (s.dataFault (pa + 8) none).isSome then s.gaugeStatus pa srck handle 0x0005 else
  let count := Memory.read s.mem pa 8
  let target := Memory.read s.mem (pa + 8) 6
  let gen := Memory.read s.mem (pa + 14) 2
  let r := gaugeAdd count target gen n
  s.joinOutside pa time (offsets (pa % 128) (gaugeBytes r.1 target r.2)) none

/-- A gauge or ticket operation: under its guard, on a core, at an aligned word, once the core's earlier
no-return atomics have been applied, which then precede it (R234, R241, R245, R246, R299). -/
def wordOp (size : Nat) (g : BitVec 3) (a : BitVec 5) (s : State) (k : State → Nat → State) : Out :=
  anyOp g s (fun s =>
    if s.mode = .seq then s.trapAt tcVaultWindow size ((s.xr a).toNat % 2 ^ 52)
    else match s.wordCell s.view (s.xr a) size with
      | .error c => s.trapAt c size ((s.xr a).toNat % 2 ^ 52)
      | .ok pa => if s.my.nr.isEmpty then k (s.setPts s.my.nrTop) pa else s.stall .atomics)

/-- GINIT (R314): one atomic write of the whole word. -/
def execGinit (g : BitVec 3) (a b : BitVec 5) (s : State) : Out :=
  wordOp 32 g a s (fun s pa =>
    let v := (s.xr b).toNat
    s.onGot 32 (s.openWrite (pa / 128) none) (fun s ts =>
      s.join (pa / 128) ts (offsets (pa % 128)
        (gaugeBytes 0 (fieldN v 0 48) (fieldN v 48 16) ++ List.replicate 16 0#8)) none))

/-- GSIG (R314): adds xb under R242. -/
def execGsig (g : BitVec 3) (a b : BitVec 5) (s : State) : Out :=
  wordOp 32 g a s (fun s pa =>
    let n := (s.xr b).toNat
    s.onWord pa 16 32 (s.xr a) (s.openWrite (pa / 128) none) (fun s ts =>
      let r := gaugeAdd (s.peekN pa 8) (s.peekN (pa + 8) 6) (s.peekN (pa + 14) 2) n
      s.join (pa / 128) ts (offsets (pa % 128) (gaugeBytes r.1 (s.peekN (pa + 8) 6) r.2)) none))

/-- A gauge poll advances PTS by 1 (R228). -/
def State.poll (s : State) : State := s.setPts (s.pts + 1)

/-- GREAD (R314): a gauge poll, latency 2. -/
def execGread (g : BitVec 3) (d a : BitVec 5) (n : BitVec 2) (s : State) : Out :=
  wordOp 32 g a s (fun s pa =>
    s.onGot 32 (s.openRead (pa / 128) none) (fun s _ =>
      let s := s.poll
      let v := s.peekN (pa + 8 * n.toNat) 8
      let bad := (s.dataFault (pa + 8 * n.toNat) none).map (fun c =>
        accessTrap c 32 s.bundle.slot (((s.xr a).toNat + 8 * n.toNat) % 2 ^ 52))
      let (late, s) := s.lateNext
      if d = 0#5 ∧ bad.isNone then s
      else s.issue [{ dest := .x d (BitVec.ofNat 64 v), togo := 2, arrived := !late, bad := bad }]))

/-- The wait of R315: evaluates GEN ≠ xb[15:0] at issue; completes at once, or by the wake event or the
resume wake-up that has come, which is owed to the point's own bundle (R168); else the core waits at its gauge. A wake event that
comes before the wait's peg has committed completes it after that peg. -/
def State.gaugeWait (s : State) (d a b : BitVec 5) (pa : Nat) (yields : Bool) : State :=
  s.onWord pa 16 32 (s.xr a) (s.openRead (pa / 128) none) (fun s _ =>
    let s := s.poll
    let gen := s.peekN (pa + 14) 2
    let owed := s.my.owed && !s.my.frame
    let woken := s.my.woken && s.my.polled.isNone
    if gen ≠ (s.xr b).toNat % 2 ^ 16 ∨ woken ∨ owed then
      (s.modMy (fun c => { c with woken := false, owed := c.owed && c.frame })).putX d 1 (BitVec.ofNat 64 gen)
    else s.stall (.gauge pa s.my.woken yields))

/-- GWAIT (R315). -/
def execGwait (g : BitVec 3) (d a b : BitVec 5) (s : State) : Out :=
  wordOp 32 g a s (fun s pa => s.gaugeWait d a b pa false)

/-- Notes a task's use of the ticket word at an address, and changes the tickets that its point's logical core
holds there (R162). -/
def State.noteTicket (s : State) (ea : W64) (f : Nat → List (Nat × Nat) → List (Nat × Nat)) : State :=
  let c := s.my
  let va := if ea.toNat / 2 ^ 48 = 14 then 15 * 2 ^ 48 + c.lbay * 2 ^ 25 + c.lcid * 2 ^ 22 + ea.toNat % 2 ^ 22 else ea.toNat
  match c.point with
  | none => s
  | some (id, _) => s.modTask id (fun t =>
      { t with tickets := put t.tickets va (f (c.lbay * 8 + c.lcid) ((find? t.tickets va).getD [])) })

/-- The tickets left once a logical core gives up the one it took first. -/
def passTicket (core : Nat) : List (Nat × Nat) → List (Nat × Nat)
  | [] => []
  | h :: hs => if h.1 = core then hs else h :: passTicket core hs

/-- TKGET (R246, R317): NEXT is returned and incremented in one update. -/
def execTkget (g : BitVec 3) (d a : BitVec 5) (s : State) : Out :=
  wordOp 16 g a s (fun s pa =>
    s.onGot 16 (s.openWrite (pa / 128) none) (fun s ts =>
      match s.dataFault pa none with
      | some c => s.oldFault d (accessTrap c 16 s.bundle.slot ((s.xr a).toNat % 2 ^ 52))
      | none =>
        let n := s.peekN pa 4
        let s := s.join (pa / 128) ts (offsets (pa % 128) (leBytes 4 (n + 1))) none
        let s := s.noteTicket (s.xr a) (fun core hs => hs ++ [(core, n)])
        if d = 0#5 then s else s.issue [{ dest := .x d (BitVec.ofNat 64 n), togo := 6 }]))

/-- A ticket is satisfied: wrap(SERVING - t, 32) < 2^31 (R246). -/
def ticketServed (serving t : Nat) : Bool := decide ((serving % 2 ^ 32 + 2 ^ 32 - t % 2 ^ 32) % 2 ^ 32 < 2 ^ 31)

/-- TKWAIT (R246, R317). -/
def execTkwait (g : BitVec 3) (a b : BitVec 5) (s : State) : Out :=
  wordOp 16 g a s (fun s pa =>
    s.onWord pa 8 16 (s.xr a) (s.openRead (pa / 128) none) (fun s _ =>
      if ticketServed (s.peekN (pa + 4) 4) (s.xr b).toNat then s.noteTicket (s.xr a) (fun _ hs => hs)
      else s.stall (.ticket pa false)))

/-- Broadcasts a ticket word's new SERVING value to the cores that sleep on it (R246). -/
def State.broadcast (s : State) (pa : Nat) : State :=
  { s with cores := s.cores.map (fun e =>
      match e.2.wait with
      | .ticket t _ => if t = pa then (e.1, { e.2 with wait := .ticket t true }) else e
      | _ => e) }

/-- TKNEXT (R246, R317). -/
def execTknext (g : BitVec 3) (a : BitVec 5) (s : State) : Out :=
  wordOp 16 g a s (fun s pa =>
    s.onWord pa 8 16 (s.xr a) (s.openWrite (pa / 128) none) (fun s ts =>
      let v := s.peekN (pa + 4) 4 + 1
      ((s.join (pa / 128) ts (offsets ((pa + 4) % 128) (leBytes 4 v)) none).noteTicket (s.xr a)
        passTicket).broadcast pa))

end Sys2Proof.Machine
end

