-- ==== Sys2Proof/Machine/MatrixUnit.lean ====
section
/-! DEFINITION. The matrix unit: gauges of engines and calls, operands of a call, sums of products,
retired values, the start and the end of a call (spec/08_core.md R189 to R195, spec/09_memory.md R224,
spec/11_formats.md R265, R266, spec/15_isa_matrix_copy.md R365 to R388). -/

namespace Sys2Proof.Machine

open Sys2Proof.Bits

/-! ### Codes and gauges of engine commands and calls (R224, R388) -/

/-- The engine code of a fault's trap cause (R224, R387). -/
def engineCode (cause : Nat) : Nat :=
  if cause = tcTranslation then 1 else if cause = tcPermission then 2 else if cause = tcAlignment then 3
  else if cause = tcMemUncorr then 5 else if cause = tcIntegrity then 6 else 4
/-- ALIGNMENT. -/
def ecAlignment : Nat := 0x0003
/-- VAULT_WINDOW. -/
def ecVaultWindow : Nat := 0x0004
/-- PERMIT. -/
def ecPermit : Nat := 0x0007
/-- PEER_DOWN. -/
def ecPeerDown : Nat := 0x0008
/-- CHECK. -/
def ecCheck : Nat := 0x0009
/-- HOST_ABORT. -/
def ecHostAbort : Nat := 0x000A
/-- JIG_EMPTY. -/
def ecJigEmpty : Nat := 0x000B
/-- DEPTH. -/
def ecDepth : Nat := 0x000C
/-- ACC_TYPE. -/
def ecAccType : Nat := 0x000D
/-- QUEUE. -/
def ecQueue : Nat := 0x000E
/-- BUF_STATE. -/
def ecBufState : Nat := 0x000F
/-- DESC. -/
def ecDesc : Nat := 0x0010

/-! ### Queues with an engine end (R186) -/

/-- A queue as an engine sees it: what the core has passed or freed since its last peg is not offered or
granted; since a QINIT, nothing is. -/
def offered (now peg : Queue) : Queue :=
  { now with
    tail := if now.prodEngine then now.tail else if now.fresh then 0 else peg.tail,
    head := if now.consEngine then now.head else if now.fresh then 0 else peg.head }

/-- A core's queue as an engine sees it. -/
def Core.offeredQueue (c : Core) (q : BitVec 4) : Queue :=
  offered (c.pt.q[q.toNat]'(q.isLt)) (c.peg.q[q.toNat]'(q.isLt))

/-- Changes a queue handle of a core. -/
def Core.setQueue (c : Core) (q : BitVec 4) (f : Queue → Queue) : Core :=
  { c with pt := { c.pt with q := c.pt.q.set q.toNat (f (c.pt.q[q.toNat]'(q.isLt))) q.isLt } }

/-! ### A call's operands (R237, R376) -/

/-- The buffer of a list that holds an address, with the half's side and the offset. -/
def bufHit (bufs : List SwapBuf) (va : Nat) : Option (SwapBuf × Bool × Nat) :=
  (bufs.find? (fun b =>
    (decide (b.a ≤ va) && decide (va < b.a + 128 * b.units)) ||
    (decide (b.b ≤ va) && decide (va < b.b + 128 * b.units)))).map (fun b =>
      if b.a ≤ va ∧ va < b.a + 128 * b.units then (b, false, va - b.a) else (b, true, va - b.b))

/-- The half of each buffer that reads at this moment reach, the halves kept after CHECK in front (R195,
R236). -/
def State.liveHalves (s : State) (stream : Nat) (task : Option Nat) (kept : List Hold) : List Hold :=
  kept ++ ((s.ctx stream).bufs.map (fun b =>
    ⟨stream, b.a, if b.renamed.isSome && b.renamed == task then !b.liveB else b.liveB⟩))

/-- The address a call's read reaches: the half that was live at its issue. -/
def State.callVa (s : State) (c : Call) (va : Nat) : Nat :=
  let stream := s.my.stream
  match bufHit (s.ctx stream).bufs va with
  | none => va
  | some (b, _, off) =>
    match c.live.find? (fun h => h.stream == stream && h.bufA == b.a) with
    | some h => if h.halfB then b.b + off else b.a + off
    | none => va

/-- The halves that a call's read of `n` bytes holds: those of every buffer it runs into (R195). -/
def State.callHold (s : State) (c : Call) (va n : Nat) : List Hold :=
  let stream := s.my.stream
  (s.ctx stream).bufs.flatMap (fun b =>
    if (segments (n / 128 + 2) va n).any (fun p => (bufHit [b] p.1).isSome || (bufHit [b] (p.1 + p.2 - 1)).isSome) then
      c.live.filter (fun h => h.stream == stream && h.bufA == b.a)
    else [])

/-- An address lies in a window of the core's own bay (R376). -/
def State.inOwnBay (s : State) (va : Nat) : Bool :=
  decide (va < 2 ^ 52) && (fieldN va 48 4 == 14 || (fieldN va 48 4 == 15 && fieldN va 25 7 == s.my.lbay))

/-- The cells of an operand in the direct vault of the core's own bay; an engine code if it cannot be
reached (R376, R387). -/
def State.ownCells (s : State) (acc : Acc) (map : Nat → Nat) : List (Nat × Nat) → Except Nat (List (Nat × Nat))
  | [] => .ok []
  | (va, k) :: rest =>
    if !s.inOwnBay (map va) then .error ecVaultWindow
    else match s.resolveRaw s.view acc (map va) with
      | .error c => .error (engineCode c)
      | .ok (.status _) => .error ecVaultWindow
      | .ok (.cell pa _) =>
        match State.ownCells s acc map rest with
        | .error e => .error e
        | .ok ps => .ok ((pa, k) :: ps)

/-- Reads an operand of `n` bytes as at the call's issue. -/
def State.callRead (s : State) (c : Call) (va : W64) (n align : Nat) : Except Nat (List Byte) :=
  if va.toNat % align ≠ 0 then .error ecAlignment
  else if !s.inOwnBay va.toNat then .error ecVaultWindow
  else match s.ownCells .load (s.callVa c) (segments (n / 128 + 2) va.toNat n) with
    | .error e => .error e
    | .ok ps =>
      if ps.any (fun p => (List.range p.2).any (fun i => (s.dataFault (p.1 + i) none).isSome)) then .error 5
      else .ok (ps.flatMap (fun p => Memory.getAll c.snap p.1 p.2))

/-- The bytes that a cycle moves between the array and cells of the vault: the core's own slices, or others of the bay
(R190, R375). -/
def State.sliceRate (s : State) (cells : List (Nat × Nat)) : Nat :=
  if cells.all (fun p => decide (vaultCell s.me 0 ≤ p.1) && decide (p.1 < vaultCell s.me (2 ^ 22))) then 512 else 256

/-- The cycles that a shadow load of `n` bytes takes (R190). -/
def State.loadCycles (s : State) (c : Call) (va n : Nat) : Nat :=
  ceilDiv n (match s.ownCells .load (s.callVa c) (segments (n / 128 + 2) va n) with
    | .ok ps => s.sliceRate ps
    | .error _ => 256)

/-- The lines that a call's operand of `n` bytes lies in; none where the word that reads it fails. -/
def State.callLines (s : State) (c : Call) (va n : Nat) : List Nat :=
  match s.ownCells .load (s.callVa c) (segments (n / 128 + 2) va n) with
  | .error _ => []
  | .ok ps => ps.map (fun p => p.1 / 128)

/-- Loads of whole lines, one after another (R237). -/
def State.openLines (s : State) : List Nat → Got Unit
  | [] => .ok s ()
  | l :: ls =>
    match s.openRead l none with
    | .ok t _ => State.openLines t ls
    | e => e

/-- A pointer that is a queue reference: handle and slot offset, or QUEUE where its zero bits are not 0
(R376, R382). -/
def queueRef (p : W64) : Option (Except Nat (BitVec 4 × Nat)) :=
  if !p.getLsbD 63 then none
  else if fieldN p.toNat 36 27 = 0 ∧ fieldN p.toNat 10 22 = 0 then
    some (.ok (p.extractLsb' 32 4, fieldN p.toNat 0 10))
  else some (.error ecQueue)

/-- The cells of `n` bytes of a queue from slot `first` on. -/
def queueCells (core : Nat) (h : Queue) (first n : Nat) : List (Nat × Nat) :=
  (List.range (ceilDiv n 256)).map (fun j =>
    (queueCell core (h.base + 256 * ((first + j) % h.size)), min 256 (n - 256 * j)))

/-- Reads an activation stream: the direct vault, or filled slots of a queue whose consumer is an engine
(R376, R383). -/
def State.streamRead (s : State) (c : Call) (p : W64) (n : Nat) : Except Nat (List Byte) :=
  match queueRef p with
  | none => s.callRead c p n 64
  | some (.error e) => .error e
  | some (.ok (q, i)) =>
    let h := s.my.offeredQueue q
    if h.size = 0 ∨ !h.consEngine ∨ h.filled < i + ceilDiv n 256 then .error ecQueue
    else .ok ((queueCells s.me h (h.head + i) n).flatMap (fun p => Memory.getAll s.mem p.1 p.2))

/-! ### Sums of products (R265, R266) -/

/-- The bytes of a weight tile (R376). -/
def tileSize (f : Nat) : Nat := if f = 11 then 8704 else 64 * 128 * fmtWidth f / 8
/-- The k extent of a plane (R376). -/
def planeK (f : Nat) : Nat := if f = 11 then 128 else 64
/-- The bytes of a stream of R rows of K elements. -/
def streamSize (f k r : Nat) : Nat := if f = 11 then r * k / 2 + r * k / 32 else r * k * fmtWidth f / 8

/-- Element `i` of a row-major operand; q4 scales lie at `scales` (R255). -/
def operandElem (f : Nat) (data : List Byte) (scales i : Nat) : FVal :=
  if f = 11 then
    q4Value (nth data (scales + i / 32) 0#8).toNat (fieldN (nth data (i / 2) 0#8).toNat (4 * (i % 2)) 4)
  else
    let b := fmtWidth f / 8
    readElem f (leNat ((List.range b).map (fun j => nth data (i * b + j) 0#8)))

/-- Element (k, n) of a plane (R376). -/
def planeElem (p : Plane) (k n : Nat) : FVal := operandElem p.fmt p.data 8192 (n * planeK p.fmt + k)

/-- A k group of a plane's skip map has all its 16 bits set (R193). -/
def groupSkipped (skip g : Nat) : Bool := fieldN skip (16 * g) 16 == 0xFFFF

/-- The exact sum of a group's products; none for an invalid operation (R265 steps 1 and 2). -/
def exactSum : List FVal → Option FVal
  | [] => some (.fin false 0 0)
  | v :: vs => vs.foldl (fun a x => a.bind (fun y => addVal 0 y x)) (some v)

/-- A group result in fp32 with the flags OF and NV of MSTAT (R265). -/
def groupSum (terms : List (FVal × FVal)) : Nat × BitVec 6 :=
  let nan := terms.any (fun t => t.1.isNaN || t.2.isNaN)
  let bad := terms.any (fun t => t.1.isSNaN || t.2.isSNaN ||
    (!t.1.isNaN && !t.2.isNaN && (mulVal t.1 t.2).isNone))
  if nan || bad then nanResult 6 bad
  else
    let r := packOpt 6 ⟨0, 0, 0⟩ (exactSum (terms.filterMap (fun t => mulVal t.1 t.2)))
    (r.1, r.2 &&& (flOF ||| flNV))

/-- One fp32 accumulator element: group results added in ascending k order (R265 step 5); an overflow of such an
addition sets no OF (R371). -/
def accFloat (row col : Nat → FVal) : List Nat → Nat → Nat × BitVec 6
  | [], a => (a, 0#6)
  | g :: gs, a =>
    let p := groupSum ((List.range 8).map (fun j => (col (8 * g + j), row (8 * g + j))))
    let t := fAdd 6 ⟨0, 0, 0⟩ a p.1
    let rest := accFloat row col gs t.1
    (rest.1, p.2 ||| (t.2 &&& flNV) ||| rest.2)

/-- The integer an element of an integer format holds. -/
def FVal.toInt : FVal → Int
  | .fin n m _ => if n then -(m : Int) else m
  | _ => 0

/-- One i32 accumulator element: exact products added in ascending k, wrapping; true where a sum leaves
the i32 range (R266). -/
def accInt (row col : Nat → FVal) : List Nat → Int → Int × Bool
  | [], a => (a, false)
  | k :: ks, a =>
    let t := a + (row k).toInt * (col k).toInt
    let w := sextN (wrapN t 32) 32
    let rest := accInt row col ks w
    (rest.1, decide (w ≠ t) || rest.2)

/-- An accumulator row of a bank; one not listed holds zeros (R191). -/
def Bank.row (b : Bank) (r : Nat) : List W32 := (find? b.rows r).getD (List.replicate 128 0#32)

/-- One activation row through a plane: the accumulator row and the MSTAT flags. -/
def passRow (int : Bool) (p : Plane) (row : Nat → FVal) (active : List Nat) (acc : List W32) :
    List W32 × BitVec 9 :=
  let els := (List.range 128).map (fun n =>
    let a := nth acc n 0#32
    if int then
      let r := accInt row (fun k => planeElem p k n) (active.flatMap (fun g => (List.range 8).map (· + 8 * g))) a.toInt
      (BitVec.ofInt 32 r.1, if r.2 then 0x100#9 else 0#9)
    else
      let r := accFloat row (fun k => planeElem p k n) active a.toNat
      (BitVec.ofNat 32 r.1, r.2.setWidth 9))
  (els.map Prod.fst, els.foldl (fun f e => f ||| e.2) 0#9)

/-- Both operands are among i8, n8, i16 and n16: the accumulation is integer (R189). -/
def accumulatesInt (pf sf : Nat) : Bool := decide (pf < 4) && decide (sf < 4)

/-- The active k groups of row block b (R193). -/
def activeGroups (skip amap groups b : Nat) : List Nat :=
  (List.range groups).filter (fun g => !groupSkipped skip g && !bit amap (groups * b + g))

/-- The cycles of a row block of h rows (R193, R375). -/
def blockCycles (h active groups : Nat) (wide : Bool) : Nat :=
  max 1 (ceilDiv (h * active) groups) * (if wide then 2 else 1)

/-! ### Retired values (R385) -/

/-- A retired element before its rounding: bias and scale exact, none where the result is a NaN, with
whether that is an invalid operation. -/
def retiredExact (mode : Nat) (a : FVal) (bias : Option FVal) (scale : FVal) : Option FVal × Bool :=
  let ops := [a, scale] ++ bias.toList
  if ops.any FVal.isNaN then (none, ops.any FVal.isSNaN)
  else match (match bias with | none => some a | some b => addVal mode a b) with
    | none => (none, true)
    | some v => match mulVal v scale with
      | none => (none, true)
      | some x => (some x, false)

/-- The value is an integer. -/
def FVal.integral : FVal → Bool
  | .fin _ m e => decide (0 ≤ e) || m % 2 ^ (-e).toNat == 0
  | _ => false

/-- A retired element: bits and flags; an integer value of an i32 bank counts as an integer source
(R260, R263). -/
def retireElem (fmt : Nat) (c : RoundCtl) (int : Bool) (a : W32) (bias : Option W32) (scale : FVal) :
    Nat × BitVec 6 :=
  let bf := if int then 4 else 6
  match retiredExact c.mode (readElem bf a.toNat) (bias.map (fun b => readElem bf b.toNat)) scale with
  | (none, bad) => convertVal fmt c false (.nan bad)
  | (some v, _) => convertVal fmt c (int && v.integral) v

/-- The scale of column n. -/
def Scale.at : Scale → Nat → FVal
  | .pow2 e, _ => .fin false 1 e
  | .vec v, n => readElem 6 (nth v n 0#32).toNat

/-- Retires `n` elements from element `i` on, the LFSR stepping once each under SR (R257). -/
def retireRun (fmt mode sat : Nat) (b : Bank) (bias : Option (List W32)) (scale : Scale) (org : Nat) :
    Nat → Nat → W32 → List Byte × BitVec 6 × W32
  | 0, _, l => ([], 0#6, l)
  | n + 1, i, l =>
    let col := i % 128
    let r := retireElem fmt ⟨mode, sat, l.toNat % 2 ^ 16⟩ b.int (nth (b.row (org + i / 128)) col 0#32)
      (bias.map (fun v => nth v col 0#32)) (scale.at col)
    let rest := retireRun fmt mode sat b bias scale org n (i + 1) (if mode = 5 then lfsrStep l else l)
    (leBytes (fmtWidth fmt / 8) r.1 ++ rest.1, r.2 ||| rest.2.1, rest.2.2)

/-! ### The start and the end of a call (R365 to R367, R387) -/

/-- Memory as the loads of a core see it (R237). -/
def State.seenBy (s : State) (n : Nat) : List Host.Cell :=
  (s.core n).withheld.foldl (fun m w => w.bytes.foldl (fun m (b : Nat × Byte) => Memory.set m (128 * w.line + b.1) b.2) m) s.mem

/-- The logical time of an addition by the core's call: after its retirement writes (R238). -/
def State.callTime (s : State) (pa : Nat) : Nat := max s.pts ((s.line (pa / 128)).rts + 1)

/-- The running call of the core ends with a code, in the order of R387. While another core withholds a store to its
gauge's line the call stays, to end later (R232, R238). The addition to a word whose slice has been lowered meanwhile
is lost: the spec does not say what becomes of it (DESIGN CHOICE, log entry 118). -/
def State.endOne (s : State) (code : Nat) : State :=
  match s.my.mx.call with
  | none => s
  | some c =>
    let ended := s.modMy (fun k =>
      { k with
        pt := if k.pt.mpFilled then { k.pt with mp := k.pt.mpNext, mpFilled := false } else k.pt,
        mx := { k.mx with bank0 := {}, bank1 := {}, call := none, lastCode := code,
                          kept := if code = ecCheck then k.mx.kept ++ c.holds else k.mx.kept } })
    match s.wordCell { s.view with engine := true } (c.mp.get 7) 32 with
    | .error _ => ended
    | .ok pa =>
      if s.gaugeBusy (some s.me) pa then
        s.modMy (fun k => { k with mx := { k.mx with call := some { c with ending := some code, stuck := some (pa / 128) } } })
      else (if code = 0 then ended else ended.gaugeStatus pa 1 0xFFFF code).addToGauge 1 0xFFFF pa 1 (s.callTime pa)

/-- A call that is about to run ends at once if its jig is empty (R367). -/
def State.startCall (s : State) : State :=
  match s.my.mx.call with
  | none => s
  | some c => if (find? s.my.jigs c.jig).isNone then s.endOne ecJigEmpty else s

/-- The point of a core whose END has committed with a call in its bundle ends with its last call, whose retirement
writes are released first (R98, R323, log entry 89). -/
def State.endHeld (s : State) : State :=
  if s.my.ending ∧ !s.my.calling then (s.release s.me).endPoint s.me else s

/-- The running call ends, and the queued one starts (R365). -/
def State.endCall (s : State) (code : Nat) : State :=
  let s := s.endOne code
  if s.my.mx.call.isSome then s
  else ((s.modMy (fun k => { k with mx := { k.mx with call := k.mx.queued, queued := none } })).startCall).endHeld

/-- The cycle bound of a call (R375). -/
def Core.depthOf (k : Core) (c : Call) : Nat := match find? k.jigs c.jig with | some j => j.depth | none => 0

/-- Runs a function with another agent in focus. -/
def State.asAgent (s : State) (a : Agent) (f : State → State) : State :=
  { f { s with focus := a } with focus := s.focus }

end Sys2Proof.Machine
end

