-- ==== Sys2Proof/Machine/Engine.lean ====
section
/-! DEFINITION. The tile-walk engine: the walks of copies, their destination units, completion, failure
and cancel, the intents of a cask and their reissue (spec/08_core.md R196 to R198, spec/09_memory.md R224, spec/10_consistency.md R235 to R238,
spec/15_isa_matrix_copy.md R391 to R406). -/

namespace Sys2Proof.Machine

open Sys2Proof.Bits

/-! ### A copy's fields (R391) -/

/-- The OP of a copy. -/
def Copy.op (k : Copy) : Nat := (k.head.extractLsb' 17 6).toNat
/-- The copy names a gauge: its G register is not x0 (R392). -/
def Copy.hasGauge (k : Copy) : Bool := k.tail.extractLsb' 19 5 != 0#5
/-- The priority of a copy's new flits (R197). -/
def Copy.prio (k : Copy) : Nat := (k.head.extractLsb' 0 2).toNat
/-- CPYM's MASK. -/
def Copy.mask (k : Copy) : Nat := (k.tail.extractLsb' 11 8).toNat
/-- CPYA's FMT. -/
def Copy.fmt (k : Copy) : Nat := (k.tail.extractLsb' 15 4).toNat
/-- CPH's DIR. -/
def Copy.dirIn (k : Copy) : Bool := k.tail.getLsbD 18
/-- CPH's TGT. -/
def Copy.toPeer (k : Copy) : Bool := k.tail.getLsbD 17
/-- CPH's PORT. -/
def Copy.port (k : Copy) : Nat := (k.tail.extractLsb' 14 3).toNat

/-- The context in which a copy's addresses resolve. -/
def Copy.view (k : Copy) : View :=
  { stream := k.stream, task := k.task, lbay := k.lbay, lcid := k.lcid, nlbay := k.nlbay,
    frame := k.frame, engine := true, seq := k.task.isNone, units := [640 + k.die] }

/-! ### Engine accesses -/

/-- An engine access waits for the conversion of a raised slice (R208). -/
def State.engineWaits (s : State) (v : View) (va : Nat) : Bool :=
  match v.task with
  | none => false
  | some t =>
    let lb := if fieldN va 48 4 = 14 then v.lbay else fieldN va 25 7
    let core := if fieldN va 48 4 = 14 then v.lcid else fieldN va 22 3
    decide (14 ≤ va / 2 ^ 48) && (match s.bayOf t lb with
      | some pb => (s.core (pb * 8 + core)).pt.raised.contains (va % 2 ^ 22 / sliceBytes)
      | none => false)

/-- One byte that an engine reads, a swap buffer's live half reached; or its failure code (R235, R394). -/
def State.engineByte (s : State) (v : View) (va : Nat) : Except Nat Byte :=
  match s.resolve v .load va with
  | .error c => .error (engineCode c)
  | .ok (.status _) => .error 2
  | .ok (.cell pa leaf) =>
    match s.dataFault pa leaf with
    | some c => .error (engineCode c)
    | none => .ok (Memory.get s.mem pa)

/-- Bytes that an engine reads at given addresses. -/
def State.engineBytes (s : State) (v : View) : List Nat → Except Nat (List Byte)
  | [] => .ok []
  | a :: as =>
    match s.engineByte v a with
    | .error e => .error e
    | .ok b => match State.engineBytes s v as with
      | .error e => .error e
      | .ok bs => .ok (b :: bs)

/-- A little-endian value that an engine reads. -/
def State.engineNat (s : State) (v : View) (va n : Nat) : Except Nat Nat :=
  (s.engineBytes v ((List.range n).map (fun i => (va + i) % 2 ^ 64))).map leNat

/-- The smallest scope of R240 that covers a cell for a core: 0 its own vault and queue store, 1 its bay, 2 its die, 3
the device. -/
def scopeOf (core pa : Nat) : Nat :=
  let vaultOf (n : Nat) : Bool := decide (vaultCell n 0 ≤ pa) && decide (pa < vaultCell n (2 ^ 22))
  if vaultOf core || (decide (queueCell core 0 ≤ pa) && decide (pa < queueCell core (2 ^ 18))) then 0
  else if (List.range 8).any (fun c => vaultOf (core / 8 * 8 + c)) then 1
  else if (List.range 64).any (fun c => vaultOf (core / 64 * 64 + c))
      || (decide (tierBase 0 (core / 64) ≤ pa) && decide (pa < tierBase 0 (core / 64) + tierSize 0)) then 2
  else 3

/-! ### Walks (R395 to R402) -/

/-- A copy's walk: how many bytes, and for each its source and its destination address. -/
structure Walk where
  total : Nat
  src : Nat → Nat
  dst : Nat → Nat

/-- A signed 64-bit field of a descriptor. -/
def signed64 (v : Nat) : Int := sextN v 64

/-- An address plus a signed offset, wrapped to 64 bits. -/
def addr64 (a : W64) (off : Int) : Nat := (a + wrap64 off).toNat

/-- The walk of CPYT under its descriptor of 64 bytes (R396). -/
def tileWalk (k : Copy) (d : List Byte) : Except Nat Walk :=
  let at_ (o n : Nat) : Nat := leNat ((d.drop o).take n)
  let row := at_ 0 4
  let n1 := at_ 4 4
  let n2 := at_ 8 4
  let ok (n : Nat) : Bool := decide (1 ≤ n) && decide (n ≤ 2 ^ 24)
  if !(ok row && ok n1 && ok n2) || at_ 12 4 != 0 || at_ 48 16 != 0 || decide (2 ^ 40 < row * n1 * n2) then
    .error ecDesc
  else
    let off (s1 s2 i : Nat) : Int :=
      signed64 (at_ s2 8) * (i / (row * n1) : Nat) + signed64 (at_ s1 8) * (i / row % n1 : Nat) + (i % row : Nat)
    .ok ⟨row * n1 * n2, fun i => addr64 k.ra (off 16 24 i), fun i => addr64 k.rb (off 32 40 i)⟩

/-- The walk of CPYG or CPYS under its index block of N rows of ROW bytes (R397). -/
def indexWalk (k : Copy) (gather : Bool) (n row : Nat) (offs : List Byte) : Except Nat Walk :=
  if n < 1 ∨ 65536 < n ∨ row < 1 ∨ 2 ^ 20 < row then .error ecDesc
  else
    let off (i : Nat) : Int := signed64 (leNat ((offs.drop (8 * (i / row))).take 8)) + (i % row : Nat)
    let flat (i : Nat) : Int := (i : Int)
    .ok ⟨n * row, fun i => addr64 k.ra (if gather then off i else flat i),
      fun i => addr64 k.rb (if gather then flat i else off i)⟩

/-- The walk of a copy, or the code it fails with before its first unit. A publish has none. -/
def State.walkOf (s : State) (k : Copy) : Except Nat Walk :=
  let v := k.view
  let flat (n : Nat) : Walk := ⟨n, fun i => addr64 k.ra i, fun i => addr64 k.rb i⟩
  match k.op with
  | 0x00 => if 2 ^ 40 < k.rl.toNat then .error ecDesc else .ok (flat k.rl.toNat)
  | 0x01 =>
    if k.rl.toNat % 64 ≠ 0 then .error ecAlignment
    else match s.engineBytes v ((List.range 64).map (k.rl.toNat + ·)) with
      | .error e => .error e
      | .ok d => tileWalk k d
  | 0x02 | 0x03 =>
    if k.rl.toNat % 8 ≠ 0 then .error ecAlignment
    else match s.engineNat v k.rl.toNat 4, s.engineNat v (k.rl.toNat + 4) 4 with
      | .error e, _ => .error e
      | _, .error e => .error e
      | .ok n, .ok row =>
        if n < 1 ∨ 65536 < n then .error ecDesc
        else match s.engineBytes v ((List.range (8 * n)).map (k.rl.toNat + 8 + ·)) with
          | .error e => .error e
          | .ok offs => indexWalk k (k.op == 2) n row offs
  | 0x05 => .ok (flat (256 * k.rl.toNat))
  | 0x06 =>
    let b := fmtWidth k.fmt / 8
    if k.ra.toNat % b ≠ 0 ∨ k.rb.toNat % b ≠ 0 ∨ k.rl.toNat % b ≠ 0 then .error ecAlignment
    else .ok (flat k.rl.toNat)
  | _ => .ok (flat k.rl.toNat)

/-- The bytes of a copy already moved: counted, written and to be counted, or waiting in a shadow half (R394). -/
def Copy.moved (k : Copy) : Nat := k.done + k.owed + k.shadowBytes.length

/-- How many bytes from byte `i` on fall into the aligned 128-byte unit of byte `i`, at most `n`. -/
def unitRun (dst : Nat → Nat) (unit : Nat) : Nat → Nat → Nat
  | 0, _ => 0
  | n + 1, i => if dst i / 128 = unit then 1 + unitRun dst unit n (i + 1) else 0

/-! ### Swap-buffer destinations (R394) -/

/-- A call of some core holds a half, or a core keeps it after CHECK (R195). -/
def State.heldHalf (s : State) (stream bufA : Nat) (half : Bool) : Bool :=
  let hits (hs : List Hold) : Bool := hs.any (fun h => h.stream == stream && h.bufA == bufA && h.halfB == half)
  s.rotated.any (fun r => r.cores.any (fun e => hits e.2.mx.kept)) || s.cores.any (fun e => hits e.2.mx.kept ||
    (match e.2.mx.call with | some c => hits c.holds | none => false) ||
    (match e.2.mx.queued with | some c => hits c.holds | none => false))

/-- A contiguous range crosses the boundary of a defined half. -/
def crossesHalf (bufs : List SwapBuf) (lo n : Nat) : Bool :=
  bufs.any (fun b =>
    let cross (h : Nat) : Bool :=
      decide (h < lo + n) && decide (lo < h + 128 * b.units) &&
        !(decide (h ≤ lo) && decide (lo + n ≤ h + 128 * b.units))
    cross b.a || cross b.b)

/-- The addresses of a copy's destination are one range. -/
def Copy.contiguous (k : Copy) : Bool := k.op != 0x01 && k.op != 0x03

/-- The copy writes device memory through its b address. -/
def Copy.writesDevice (k : Copy) : Bool := !(k.op == 0x08 && !k.dirIn) && k.op != 0x05 && k.op != 0x07 && k.op != 0x0A

/-! ### Mesh links and permits (R44 to R46, R196) -/

/-- Die and router of the core or the home that holds a cell; none for a hub's memory. -/
def consumerOf (pa : Nat) : Option (Nat × Nat) :=
  if isVault pa then some ((pa - vaultCell 0 0) / 2 ^ 22 / 64, (pa - vaultCell 0 0) / 2 ^ 22 % 64)
  else (bankOfLine (pa / 128)).map (fun b => (b.1, Config.homeRouter (pa / 128) % 64))

/-- The on-chip links that engine data of an agent takes to a consumer: from its own router, or from the edge router
of the consumer's die that receives it (R44). A core in the rotation area has no router of its own: its data comes from
the die's hub. -/
def State.permitPath (s : State) (a : Agent) (rot : List Nat) (dest : Option (Nat × Nat)) : List Nat :=
  match dest with
  | none => []
  | some (die, r) =>
    let from_ (x : Nat) : List Nat := meshPath die (edgeOf die (s.lastBefore die 2 12 x)) r
    match rot, a with
    | [], .core n | [], .jig n => if n / 64 = die then meshPath die (n % 64) r else from_ (n / 64)
    | [], .seq n => from_ (10 + n / 4)
    | _, _ => from_ (10 + die / 5)

/-- The number of a consuming queue: queue `q` of physical core `n`. -/
def queueConsumer (n q : Nat) : Nat := 16 * n + q
/-- The number of a consuming swap buffer: that of a stream with half A at an address. -/
def swapConsumer (stream a : Nat) : Nat := 10240 + 8 * a + stream
/-- Permits are counted separately on each on-chip link and for each consumer (R44). -/
def permitKey (consumer place : Nat) : Nat := 2560 * consumer + place

/-- The permits of an on-chip link for a consumer. -/
def State.permit (s : State) (consumer place : Nat) : Permit := (find? s.fab.permits (permitKey consumer place)).getD {}

/-- A permit is held on every on-chip link of a path (R44). -/
def State.permitted (s : State) (consumer : Nat) (path : List Nat) : Bool :=
  path.all (fun p => decide (0 < (s.permit consumer p).held))

/-- Some link of a path has more permits than the consumer's slots: one has been duplicated (R45, R46). -/
def State.duplicated (s : State) (consumer : Nat) (path : List Nat) : Bool :=
  path.any (fun p => let q := s.permit consumer p; decide (q.slots < q.held + q.inFlight + q.filled))

/-- Engine data for a consumer takes a permit of each on-chip link of its path and fills the slot. -/
def State.spendPermits (s : State) (consumer : Nat) (path : List Nat) : State :=
  { s with fab := { s.fab with permits := path.foldl (fun l p =>
      let q := (find? l (permitKey consumer p)).getD {}
      put l (permitKey consumer p) { q with held := q.held - 1, filled := q.filled + 1 }) s.fab.permits } }

/-- No slot of a consumer is free for the data that is about to take one: a permit has been duplicated (R46). -/
def State.noSlot (s : State) (consumer : Nat) (path : List Nat) : Bool :=
  s.duplicated consumer path && path.getLast?.any (fun p => let q := s.permit consumer p; decide (q.slots ≤ q.filled))

/-- The data of a unit reaches its consumer: its flits already have, or it moves now under a permit of each on-chip
link of the path (R44). Data that finds no free slot is dropped (R46). The state, or nothing while it waits, or the code
with which the command fails. -/
def State.reachConsumer (s : State) (k : Copy) (consumer : Nat) (path : List Nat) : Except Nat (Option (State × Copy)) :=
  if 0 < k.landed then .ok (some (s, { k with landed := k.landed - 1 }))
  else if !s.permitted consumer path then .ok none
  else if s.noSlot consumer path then .error ecPermit
  else .ok (some (s.spendPermits consumer path, k))

/-! ### One unit -/

/-- What the engine can do next for a copy. -/
inductive CopyStep where
  /-- every byte has been written -/
  | finished
  /-- the copy ends with a code (R224) -/
  | fails (code : Nat)
  /-- nothing for now -/
  | waits
  /-- a request of it waits for the held bank of a line (R218) -/
  | held (line : Nat)
  /-- `n` bytes are written by the state, with the command as it then stands; those for a shadow half wait in it -/
  | unit (n : Nat) (s : State) (k : Copy) (shadow : List (Nat × Byte))

/-- The translation that an engine's access makes is noted in its die's TLB (R204). -/
def State.noteWalk (s : State) (k : Copy) (va : Nat) : State := if fieldN va 48 4 < 13 then s.noteTlb k.view va else s

/-- Reads the aligned source unit of an address, if the copy has not read it yet: at one logical time, which is that
of its line's last write or of its buffer's last publish (R235, R236). -/
def State.fetchUnit (s : State) (k : Copy) (va : Nat) : Except CopyStep (State × Copy) :=
  if k.units.any (fun u => u.1 == va / 128) then .ok (s, k)
  else if s.engineWaits k.view (s.liveVa k.stream k.task va) then .error .waits
  else match s.resolve k.view .load va with
    | .error c => .error (.fails (engineCode c))
    | .ok (.status _) => .error (.fails 2)
    | .ok (.cell pa leaf) =>
      let line := pa / 128
      let t := max (s.line line).wts (s.publishedAt k.stream va)
      if s.rowHeld line then .error (.held line)
      else if (match s.heldBut none line with | some w => decide (w ≤ t) | none => false) then .error .waits
      else
        let start := 128 * (va / 128)
        let bads := (List.range 128).filterMap (fun i => (s.dataFault (128 * line + i) leaf).map (fun c => (start + i, engineCode c)))
        let s := if (s.heldBut none line).isSome then s else s.writtenBack line
        let s := s.setLine line { s.line line with rts := max (s.line line).rts t }
        let s := (s.noteWalk k (s.liveVa k.stream k.task va)).readLine line leaf 0
        .ok (s, { k with units := (va / 128, s.lineData line) :: k.units, bads := bads ++ k.bads, top := max k.top t })

/-- Reads the source units of given addresses. -/
def State.fetchUnits (s : State) (k : Copy) : List Nat → Except CopyStep (State × Copy)
  | [] => .ok (s, k)
  | a :: as =>
    match s.fetchUnit k a with
    | .error e => .error e
    | .ok (s', k') => State.fetchUnits s' k' as

/-- A byte of a source unit that the copy has read. -/
def Copy.byteAt (k : Copy) (va : Nat) : Byte :=
  match k.units.find? (fun u => u.1 == va / 128) with
  | some u => nth u.2 (va % 128) 0#8
  | none => 0#8

/-- The bytes of CPYA's destination after the addition: elements of `b` bytes (R400). -/
def addElems (fmt b : Nat) : Nat → List Byte → List Byte → List Byte
  | 0, _, _ => []
  | n + 1, old, new =>
    let x := leNat (old.take b)
    let y := leNat (new.take b)
    let r := if isFloat fmt then (fAdd fmt ⟨0, 0, 0⟩ x y).1 else (x + y) % 2 ^ (8 * b)
    leBytes b r ++ addElems fmt b n (old.drop b) (new.drop b)

/-- The hint of a copy for the memory-side allocation of its destination (R210, R395). -/
def Copy.hint (k : Copy) : Nat := if k.op < 4 then (k.tail.extractLsb' 17 2).toNat else 0

/-- The copy has written a cell of its core `core` at a logical time. -/
def Copy.wroteAt (k : Copy) (core : Option Nat) (pa time : Nat) : Copy :=
  { k with top := max k.top time, scope := min k.scope (match core with | some n => scopeOf n pa | none => 3) }

/-- The physical core of an agent; none for a sequencer or a core in the rotation area. -/
def coreOfAgent (a : Agent) (rot : List Nat) : Option Nat :=
  match rot, a with
  | [], .core n | [], .jig n => some n
  | _, _ => none

/-- The error that a write to a line of a vault meets in a word of 64 bits that it covers in part (R219). -/
def State.wordsFault (s : State) (pa : Nat) (pairs : List (Nat × Byte)) : Option Nat :=
  if s.health.vaultBad.isEmpty then none
  else
    let offs := pairs.map (fun p => p.1 % 128)
    offs.findSome? (fun o => if (List.range 8).all (fun i => offs.contains (o / 8 * 8 + i)) then none
      else s.dataFault (pa / 128 * 128 + o) none)

/-- Writes a unit's bytes, all of one line, at resolved places, whole and at once (R226, R232, R235): waits, fails or
the new state. -/
def State.writeUnit (s : State) (core : Option Nat) (k : Copy) (v : View) (pairs : List (Nat × Byte)) : CopyStep :=
  match pairs with
  | [] => .waits
  | (va, _) :: _ =>
    if s.engineWaits v va then .waits
    else match s.resolveRaw v .store va with
      | .error c => .fails (engineCode c)
      | .ok (.status _) => .fails 2
      | .ok (.cell pa leaf) =>
        let line := pa / 128
        if s.rowHeld line then .held line
        else match (if isTier pa then none else s.wordsFault pa pairs) with
          | some c => .fails (engineCode c)
          | none =>
            let t := s.outsideTime line k.top
            let s := s.noteWalk k va
            let s := if isTier pa then s.fetchData line k.hint else s
            .unit pairs.length (s.joinOutside pa t (pairs.map (fun p => (p.1 % 128, p.2))) leaf) (k.wroteAt core pa t) []

/-- The old bytes of CPYA's destination unit (R400). -/
def State.oldBytes (s : State) (k : Copy) (vas : List Nat) : Except Nat (List Byte) :=
  vas.foldl (fun acc va =>
    match acc with
    | .error e => .error e
    | .ok bs =>
      match s.resolveRaw k.view .load va with
      | .error c => .error (engineCode c)
      | .ok (.status _) => .error 2
      | .ok (.cell pa leaf) =>
        match s.dataFault pa leaf with
        | some c => .error (engineCode c)
        | none => .ok (bs ++ [Memory.get s.mem pa])) (.ok [])

/-- Reads the source bytes of a unit: device memory, host memory, or what a partner sends (R402). -/
def State.sourceBytes (s : State) (k : Copy) (srcs : List Nat) : Except CopyStep (State × Copy × List Byte) :=
  if k.op = 0x08 ∧ k.dirIn then
    if k.toPeer then
      if s.inp.bytes.length = srcs.length then .ok (s, k, s.inp.bytes) else .error .waits
    else if srcs.any (fun a => s.host.abort.contains a) then .error (.fails ecHostAbort)
    else .ok (s, k, srcs.map (Memory.get s.host.mem))
  else match s.fetchUnits k srcs with
    | .error e => .error e
    | .ok (s, k) =>
      match srcs.findSome? (fun a => find? k.bads a) with
      | some e => .error (.fails e)
      | none => .ok (s, k, srcs.map k.byteAt)

/-- A walk writes the whole sector of its byte `i`, in ascending order. -/
def Walk.wholeSector (w : Walk) (i : Nat) : Bool :=
  let o := w.dst i % 512
  decide (o ≤ i) && decide (i + 512 ≤ w.total + o) && (List.range 512).all (fun t => w.dst (i - o + t) == w.dst i - o + t)

/-- The sector of a copy's destination unit at byte `i` of the walk: a copy that covers the whole of a bad sector clears
its error, and encrypts it under the slot of its leaf; a partial write of it fails (R220, R221). -/
def State.destSector (s : State) (k : Copy) (w : Walk) (i : Nat) : State × Option Nat :=
  match s.resolveRaw k.view .store (w.dst i) with
  | .ok (.cell pa leaf) =>
    match (if isTier pa then s.dataFault pa leaf else none) with
    | none => (s, none)
    | some c =>
      if k.op != 0x06 && w.wholeSector i then (s.freshSector (pa / 512) leaf, none)
      else (s.checkRead pa leaf, some (engineCode c))
  | _ => (s, none)

/-- The bytes of a unit of CPYA after the addition, and those of any other copy (R400). -/
def State.destBytes (s : State) (k : Copy) (vas : List Nat) (bs : List Byte) : Except Nat (List Byte) :=
  if k.op = 0x06 then
    let b := fmtWidth k.fmt / 8
    (s.oldBytes k vas).map (fun old => addElems k.fmt b (vas.length / b) old bs)
  else .ok bs

/-- Die and router of the consumer of a virtual address. -/
def State.consumerVa (s : State) (k : Copy) (va : Nat) : Option (Nat × Nat) :=
  match s.resolveRaw k.view .store va with
  | .ok (.cell pa _) => consumerOf pa
  | _ => none

/-- The next unit of a copy of agent `a` into device memory, host memory or a partner. Engine data for a swap buffer
moves under permits (R44). -/
def State.plainUnit (s : State) (a : Agent) (rot : List Nat) (k : Copy) (w : Walk) : CopyStep :=
  let i := k.moved
  let core := coreOfAgent a rot
  let bufs := (s.ctx k.stream).bufs
  let n := unitRun w.dst (w.dst i / 128) (min (w.total - i) 4096) i
  let dsts := (List.range n).map (fun j => w.dst (i + j))
  let srcs := (List.range n).map (fun j => w.src (i + j))
  if k.op = 0x08 ∧ k.toPeer ∧ (s.peer k.port).st ≠ 0 then .fails ecPeerDown
  else match s.sourceBytes k srcs with
    | .error e => e
    | .ok (s, k, bs) =>
      if !k.writesDevice then
        let k := { k with scope := min k.scope 4 }
        if k.toPeer then (if s.inp.ok then .unit n s k [] else .waits)
        else if dsts.any (fun a => s.host.abort.contains a) then .fails ecHostAbort
        else .unit n ((dsts.zip bs).foldl (fun s p => s.hostWrite p.1 [p.2]) s) k []
      else if k.contiguous && crossesHalf bufs (w.dst 0) w.total then .fails ecBufState
      else match bufHit bufs (w.dst i) with
        | none =>
          if (bufHit bufs (w.dst 0)).isSome then .fails ecBufState
          else
            match s.destBytes k dsts bs, s.destSector k w i with
            | .error e, _ => .fails e
            | _, (_, some e) => .fails e
            | .ok bs, (s, none) => s.writeUnit core k k.view (dsts.zip bs)
        | some (b, side, _) =>
          if (bufHit bufs (w.dst 0)).map (fun h => (h.1.a, h.2.1)) ≠ some (b.a, side) then .fails ecBufState
          else if b.renamed.isSome ∧ b.renamed ≠ k.task then .fails ecBufState
          else if s.heldHalf k.stream b.a (!b.liveB) then .waits
          else
            let half := if b.liveB then b.a else b.b
            let vas := dsts.map (fun a => match bufHit [b] a with
              | some (_, _, off) => half + off
              | none => a)
            if vas.any (fun a => s.engineWaits k.view a) then .waits
            else match s.resolveRaw k.view .store (vas.headD 0) with
              | .error c => .fails (engineCode c)
              | .ok (.status _) => .fails 2
              | .ok (.cell pa _) =>
                match s.reachConsumer k (swapConsumer k.stream b.a) (s.permitPath a rot (consumerOf pa)) with
                | .error e => .fails e
                | .ok none => .waits
                | .ok (some (s, k)) => .unit n s k (vas.zip bs)

/-- The next unit of CPYM: every selected core of the bay, or none (R398). -/
def State.multicastUnit (s : State) (core : Option Nat) (k : Copy) (w : Walk) : CopyStep :=
  let i := k.moved
  let n := unitRun w.dst (w.dst i / 128) (min (w.total - i) 4096) i
  match s.sourceBytes k ((List.range n).map (fun j => w.src (i + j))) with
  | .error e => e
  | .ok (s, k, bs) =>
    let pairs := ((List.range n).map (fun j => w.dst (i + j))).zip bs
    ((List.range 8).filter (bit k.mask)).foldl (fun st c =>
      match st with
      | .unit _ s1 k1 sh =>
        match s1.writeUnit core k1 { k.view with lcid := c } pairs with
        | .unit m s2 k2 _ => .unit m s2 k2 sh
        | e => e
      | e => e) (.unit n s k [])

/-- The target core of CPYQ and its queue (R399); none while its bay is not resident. -/
def State.queueTarget (s : State) (k : Copy) : Except Nat (Option (Nat × BitVec 4)) :=
  if 2 ^ 7 ≤ k.rb.toNat then .error ecQueue
  else match k.task with
    | none => .error ecQueue
    | some t => .ok ((s.bayOf t k.lbay).map (fun pb => (pb * 8 + fieldN k.rb.toNat 4 3, k.rb.extractLsb' 0 4)))

/-- A slot that an engine has filled counts in the queue as it stands and in the peg state, so that a rollback keeps
it (R136, R186). -/
def Core.landSlot (c : Core) (q : BitVec 4) : Core :=
  let up (h : Queue) : Queue := { h with tail := (h.tail + 1) % (2 * h.size) }
  { c.setQueue q up with peg := { c.peg with q := c.peg.q.set q.toNat (up (c.peg.q[q.toNat]'(q.isLt))) q.isLt } }

/-- The next slot of CPYQ: written at TAIL once there is a permit for a free slot, then TAIL advances
(R46, R399). With a duplicated permit the data reaches a full queue and is dropped. The free slots of a queue that
QINIT has set since the last peg are granted at that peg (log entry 88). -/
def State.queueUnit (s : State) (a : Agent) (rot : List Nat) (k : Copy) (w : Walk) : CopyStep :=
  match s.queueTarget k with
  | .error e => .fails e
  | .ok none => .waits
  | .ok (some (n, q)) =>
    let h := (s.core n).offeredQueue q
    let path := s.permitPath a rot (some (n / 64, n % 64))
    let c := queueConsumer n q.toNat
    if h.size = 0 ∨ !h.prodEngine ∨ h.size < k.rl.toNat then .fails ecQueue
    else if h.fresh then .waits
    else match s.reachConsumer k c path with
    | .error e => .fails e
    | .ok none => .waits
    | .ok (some (s', k)) =>
    if h.free = 0 then (if s.duplicated c path then .fails ecPermit else .waits)
    else match s'.sourceBytes k ((List.range 256).map (fun j => w.src (k.moved + j))) with
      | .error e => e
      | .ok (s, k, bs) =>
        let s := s.modCore n (fun c => c.landSlot q)
        .unit 256 { s with mem := Memory.setAll s.mem (queueCell n (h.tailSlot 0)) bs } (k.wroteAt (coreOfAgent a rot) (queueCell n 0) 0) []

/-- CPF: the lines are placed or passed over; a fault of the translation ends it (R401), and a held bank keeps it waiting
(R218). -/
def State.prefetchStep (s : State) (k : Copy) : CopyStep :=
  match (segments (k.rl.toNat / 128 + 2) k.ra.toNat k.rl.toNat).findSome? (fun p =>
    match s.resolve k.view .load p.1 with
    | .error c => some (engineCode c)
    | .ok (.status _) => some 2
    | .ok _ => none) with
  | some e => .fails e
  | none => match (segments (k.rl.toNat / 128 + 2) k.ra.toNat k.rl.toNat).findSome? (fun p =>
      match s.resolve k.view .load p.1 with
      | .ok (.cell pa _) => if s.rowHeld (pa / 128) then some (pa / 128) else none
      | _ => none) with
    | some line => .held line
    | none => .finished

/-- The buffer a CPUB publishes. -/
def State.publishBuf (s : State) (k : Copy) : Option SwapBuf := (s.ctx k.stream).bufs.find? (fun b => b.a == k.ra.toNat)

/-- Addresses of a buffer's halves, one for each granule of 512 KiB that they lie in. -/
def SwapBuf.places (b : SwapBuf) : List Nat :=
  [b.a, b.b].flatMap (fun h => (List.range (128 * b.units / 2 ^ 19 + 2)).map (fun i =>
    min (max h (h / 2 ^ 19 * 2 ^ 19 + i * 2 ^ 19)) (h + 128 * b.units - 1)))

/-- A copy's destination lies in a buffer: that of its first byte, or where its walk cannot be read its register b. -/
def State.intoBuf (s : State) (k : Copy) (b : SwapBuf) : Bool :=
  k.op != 0x0A && k.writesDevice && k.op != 0x04 && (match s.walkOf k with
    | .ok w => decide (0 < w.total) && (bufHit [b] (w.dst 0)).isSome
    | .error _ => (bufHit [b] k.rb.toNat).isSome)

/-- The command that an intent stands for: after its DONE bytes, under its handle (R161, R167). -/
def Intent.reissue (i : Intent) (t : Task) : Copy :=
  { slot := i.handle % 32, handle := i.handle, head := i.head, tail := i.tail, ra := i.ra, rb := i.rb,
    rl := i.r1, rg := i.r2, started := true, sincePeg := false, done := i.done, stream := t.stream,
    lbay := i.lbay, lcid := i.lcid, task := some t.id, coord := i.coord, ended := i.ended, nlbay := rNlbay t.rcd, ord := i.ord }

/-- The intents that a freeze of a copy's task has recorded for copies of its core issued before it. -/
def State.intentsBefore (s : State) (k : Copy) : List Copy :=
  match k.task.bind s.task with
  | none => []
  | some t => match t.freeze with
    | none => []
    | some f => (f.intents.filter (fun i => i.lbay == k.lbay && i.lcid == k.lcid && decide (i.ord < k.ord))).map (·.reissue t)

/-- CPUB (R404): waits for the copies of its core into the buffer that were issued before it; `earlier`
are the engine's commands before it. One that a freeze has cancelled has not completed. -/
def State.publishStep (s : State) (k : Copy) (earlier : List Copy) : CopyStep :=
  match s.publishBuf k with
  | none => .fails ecBufState
  | some b =>
    if b.renamed.isSome then .fails ecBufState
    else if (earlier ++ s.intentsBefore k).any (fun j => s.intoBuf j b) then .waits
    else .finished

/-- The addresses of a copy's descriptor or index block, one for each unit (R396, R397). -/
def State.blockUnits (s : State) (k : Copy) : List Nat :=
  let from_ := k.rl.toNat
  match k.op with
  | 0x01 => [from_]
  | 0x02 | 0x03 =>
    match s.engineNat k.view from_ 4 with
    | .ok n => if n < 1 ∨ 65536 < n then [from_] else (List.range (8 * n / 128 + 2)).map (fun i => min (from_ + 128 * i) (from_ + 8 * n))
    | .error _ => []
  | _ => []

/-- Reads a copy's descriptor or index block as it starts: at logical times, and not in a slice whose conversion it
waits for (R208, R226). -/
def State.readBlock (s : State) (k : Copy) : Except CopyStep (State × Copy) :=
  match k.op with
  | 0x01 | 0x02 | 0x03 =>
    if s.engineWaits k.view (s.liveVa k.stream k.task k.rl.toNat) then .error .waits
    else match s.fetchUnits k (s.blockUnits k) with
      | .error (.fails _) => .ok (s, k)
      | r => r
  | _ => .ok (s, k)

/-- Consecutive bytes of one aligned unit. -/
def groupUnits : List (Nat × Byte) → List (List (Nat × Byte))
  | [] => []
  | b :: rest =>
    match groupUnits rest with
    | [] => [[b]]
    | g :: gs => if (g.map Prod.fst).headD 0 / 128 = b.1 / 128 then (b :: g) :: gs else [b] :: g :: gs

/-- The bytes of a copy in a shadow half, as a walk. -/
def Copy.shadowWalk (k : Copy) : Walk :=
  ⟨k.shadowBytes.length, fun _ => 0, fun j => (nth k.shadowBytes j (0, 0#8)).1⟩

/-- A unit of a shadow half, from byte `i` of the copy's bytes there, can land: it waits for a slice or a bank, or it meets
what ends the copy (R208, R218 to R221). -/
def State.landing (s : State) (k : Copy) (i : Nat) (g : List (Nat × Byte)) : CopyStep :=
  let va := (g.map Prod.fst).headD 0
  if s.engineWaits k.view va then .waits
  else match s.resolveRaw k.view .store va with
    | .error c => .fails (engineCode c)
    | .ok (.status _) => .fails 2
    | .ok (.cell pa _) =>
      if s.rowHeld (pa / 128) then .held (pa / 128)
      else
        let bad := if isTier pa then (s.destSector k k.shadowWalk i).2
          else if k.op = 0x06 then
            (match s.oldBytes k (g.map Prod.fst) with | .error e => some e | .ok _ => none)
          else (s.wordsFault pa g).map engineCode
        match bad with
        | some e => .fails e
        | none => .finished

/-- All units of a shadow half can land. -/
def State.landings (s : State) (k : Copy) : List (List (Nat × Byte)) → Nat → CopyStep
  | [], _ => .finished
  | g :: gs, i => match s.landing k i g with
    | .finished => State.landings s k gs (i + g.length)
    | e => e

/-- A unit of a shadow half lands whole; of a CPYA it is read, added and written at once (R235, R394, R400). -/
def State.landUnit (s : State) (core : Option Nat) (k : Copy) (i : Nat) (g : List (Nat × Byte)) : State × Copy :=
  let va := (g.map Prod.fst).headD 0
  match s.resolveRaw k.view .store va with
  | .ok (.cell pa leaf) =>
    match s.destBytes k (g.map Prod.fst) (g.map Prod.snd) with
    | .error _ => (s, k)
    | .ok bs =>
      let t := s.outsideTime (pa / 128) k.top
      let s := ((if isTier pa then (s.destSector k k.shadowWalk i).1.fetchData (pa / 128) k.hint else s)).noteWalk k va
      (s.joinOutside pa t ((g.map (fun b => b.1 % 128)).zip bs) leaf, k.wroteAt core pa t)
  | _ => (s, k)

/-- The units of a shadow half land one after another, up to one that cannot: with the number of bytes that landed. -/
def State.landFrom (s : State) (core : Option Nat) (k : Copy) : List (List (Nat × Byte)) → Nat → State × Copy × Nat
  | [], i => (s, k, i)
  | g :: gs, i => match s.landing k i g with
    | .finished =>
      let r := s.landUnit core k i g
      State.landFrom r.1 core r.2 gs (i + g.length)
    | _ => (s, k, i)

/-- The bytes in a shadow half land (R394). -/
def State.landShadow (s : State) (core : Option Nat) (k : Copy) : State × Copy × Nat :=
  s.landFrom core k (groupUnits k.shadowBytes) 0

/-- What the engine of an agent can do next for a copy, `earlier` being the commands issued before it. -/
def State.copyStep (s : State) (a : Agent) (rot : List Nat) (k : Copy) (earlier : List Copy) : CopyStep :=
  if k.failing.isSome then .fails (k.failing.getD 0)
  else if k.op = 0x0A then s.publishStep k earlier
  else if k.op = 0x07 then s.prefetchStep k
  else match s.readBlock k with
    | .error e => e
    | .ok (s, k) =>
      match s.walkOf k with
      | .error e => .fails e
      | .ok w =>
        if w.total ≤ k.moved then
          -- the shadow half's bytes land only while no call holds it (R195)
          (match bufHit (s.ctx k.stream).bufs (w.dst 0) with
           | some (b, _, _) =>
             if !k.shadowBytes.isEmpty && s.heldHalf k.stream b.a (!b.liveB) then .waits
             else s.landings k (groupUnits k.shadowBytes) 0
           | none => s.landings k (groupUnits k.shadowBytes) 0)
        else if k.op = 0x04 then s.multicastUnit (coreOfAgent a rot) k w
        else if k.op = 0x05 then s.queueUnit a rot k w
        else s.plainUnit a rot k w

/-! ### Gauges, completion and cancel -/

/-- The gauge words a copy adds to: CPYM's of every selected core (R398). One that its address no longer reaches when
the copy ends, its slice lowered meanwhile, takes no addition: the spec does not say where it goes (DESIGN CHOICE,
log entry 119). -/
def State.copyGauges (s : State) (k : Copy) : List Nat :=
  if !k.hasGauge then []
  else
    let cell (v : View) (va : W64) : List Nat := match s.wordCell v va 32 with
      | .ok pa => [pa]
      | .error _ => []
    if k.op = 0x04 then
      ((List.range 8).filter (bit k.mask)).flatMap (fun c =>
        cell { k.view with lcid := c } (BitVec.ofNat 64 (14 * 2 ^ 48 + k.rg.toNat % 2 ^ 22)))
    else cell k.view k.rg

/-- No gauge of a copy keeps its addition waiting: no core withholds a store to its line, and its slice is not being
raised (R208, R232). -/
def State.gaugesFree (s : State) (k : Copy) : Bool :=
  (s.copyGauges k).all (fun pa => !s.gaugeBusy none pa) &&
    !(k.hasGauge && (if k.op = 0x04 then
        ((List.range 8).filter (bit k.mask)).any (fun c => s.engineWaits { k.view with lcid := c } (14 * 2 ^ 48 + k.rg.toNat % 2 ^ 22))
      else s.engineWaits k.view k.rg.toNat))

/-- Adds to a copy's gauges, not before the logical times of what it has written (R238). -/
def State.copyAdd (s : State) (k : Copy) (n : Nat) : State :=
  (s.copyGauges k).foldl (fun s pa => s.addToGauge 0 k.handle pa n (s.outsideTime (pa / 128) k.top)) s

/-- The bytes a copy counts in all: 1 for a publish, a free value where its descriptor gives none. -/
def State.copyTotal (s : State) (k : Copy) : Nat × State :=
  if k.op = 0x0A then (1, s)
  else if k.op = 0x07 then (k.rl.toNat, s)
  else match s.walkOf k with
    | .ok w => (w.total, s)
    | .error _ =>
      if k.op = 0x01 ∨ k.op = 0x02 ∨ k.op = 0x03 then (Config.freeNat s.free % 2 ^ 64, { s with free := s.free + 1 })
      else (k.rl.toNat, s)

/-- The engine of an agent, or of a core in the rotation area (task, logical bay, core). -/
def State.getEng (s : State) (a : Agent) (rot : List Nat) : Engine :=
  match rot with
  | [t, l, c] => match s.rotOf t l with
    | some r => ((find? r.cores c).getD {}).eng
    | none => {}
  | _ => match a with
    | .seq n => (s.seq n).eng
    | .core n | .jig n => (s.core n).eng

/-- Changes an engine. -/
def State.modEng (s : State) (a : Agent) (rot : List Nat) (f : Engine → Engine) : State :=
  match rot with
  | [t, l, c] => { s with rotated := s.rotated.map (fun r =>
      if r.task = t ∧ r.lbay = l then
        { r with cores := r.cores.map (fun (e : Nat × Core) => if e.1 = c then (e.1, { e.2 with eng := f e.2.eng }) else e) }
      else r) }
  | _ => match a with
    | .seq n => s.setSeq n { s.seq n with eng := f (s.seq n).eng }
    | .core n | .jig n => s.modCore n (fun c => { c with eng := f c.eng })

/-- Changes a command of an engine. -/
def Engine.modCopy (e : Engine) (slot : Nat) (f : Copy → Copy) : Engine :=
  { e with copies := e.copies.map (fun k => if k.slot = slot then f k else k) }

/-- What a finished command has written is what a FENCE of its agent comes after (R240). -/
def State.noteWrote (s : State) (a : Agent) (rot : List Nat) (k : Copy) : State :=
  let up (w : Vector Nat 5) : Vector Nat 5 := Vector.ofFn (fun i => if i.val = k.scope then max w[i] k.top else w[i])
  match rot with
  | [t, l, c] => { s with rotated := s.rotated.map (fun r =>
      if r.task = t ∧ r.lbay = l then
        { r with cores := r.cores.map (fun (e : Nat × Core) => if e.1 = c then (e.1, { e.2 with wrote := up e.2.wrote }) else e) }
      else r) }
  | _ => match a with
    | .seq n => s.setSeq n { s.seq n with wrote := up (s.seq n).wrote }
    | .core n | .jig n => s.modCore n (fun c => { c with wrote := up c.wrote })

/-- What a command's end sets going: points that it completes (R98), records of its command program (R66). -/
def State.settleCopy (s : State) (k : Copy) : State :=
  match k.task with
  | none => s.releaseForming k.stream
  | some t => s.settlePoints t

/-- The lines of a CPF are placed in the memory-side caches of their homes, with its retention; those of the LPDDR-6
tier are passed over (R401). -/
def State.placeLines (s : State) (k : Copy) : State :=
  (segments (k.rl.toNat / 128 + 2) k.ra.toNat k.rl.toNat).foldl (fun s p =>
    match s.resolve k.view .load p.1 with
    | .ok (.cell pa leaf) => (s.noteWalk k (s.liveVa k.stream k.task p.1)).readLine (pa / 128) leaf (k.tail.extractLsb' 17 2).toNat
    | _ => s) s

/-- The smallest scope of R240 that covers something a publish moves: a cell of either half. -/
def State.flipScope (s : State) (a : Agent) (rot : List Nat) (k : Copy) : Nat :=
  match s.publishBuf k, coreOfAgent a rot with
  | some b, some n => (b.places.map (fun va =>
      match s.resolveRaw k.view .store va with
      | .ok (.cell pa _) => scopeOf n pa
      | _ => 3)).foldl min 3
  | _, _ => 3

/-- A copy ends with code 0 (R394, R401, R404). -/
def State.finishCopy (s : State) (a : Agent) (rot : List Nat) (k : Copy) : State :=
  let (total, s) := s.copyTotal k
  let (s, k, _) := s.landShadow (coreOfAgent a rot) k
  let s := if k.op = 0x07 then s.placeLines k else s
  let flips := k.op = 0x0A
  let k := if flips then { k with top := max k.top s.afterAll, scope := min k.scope (s.flipScope a rot k) } else k
  let s := if flips then s.flip k.stream k.ra.toNat else s
  let rest := total - k.done
  let s := if 0 < rest ∨ total = 0 then s.copyAdd k rest else s
  -- CPF and CPUB write no destination byte (R401, R404, R405)
  ((s.modEng a rot (fun e => e.finish k.slot 0 (if k.op = 0x07 ∨ k.op = 0x0A then 0 else total))).noteWrote a rot k).settleCopy k

/-- A copy fails: its leading part stays, the status word is set, the remaining bytes are added (R224). While a
gauge of it keeps the addition waiting it stays, to end later. -/
def State.failCopy (s : State) (a : Agent) (rot : List Nat) (k : Copy) (code : Nat) : State :=
  if !s.gaugesFree k then s.modEng a rot (fun e => e.modCopy k.slot (fun j => { j with failing := some code }))
  else
    let (s, k, landed) := s.landShadow (coreOfAgent a rot) k
    let s := (s.copyGauges k).foldl (fun s pa => s.gaugeStatus pa 0 k.handle code) s
    let (total, s) := s.copyTotal k
    let s := s.copyAdd k (total - k.done)
    ((s.modEng a rot (fun e => e.finish k.slot code (k.done + k.owed + landed))).noteWrote a rot k).settleCopy k

/-- The commands of an engine issued before a slot's. -/
def Engine.before (e : Engine) (slot : Nat) : List Copy := e.copies.takeWhile (fun k => k.slot != slot)

/-! ### The engine's steps of the device -/

/-- The command an engine step is about: the agent and slot of the inputs, if it has started. -/
def State.inpCopy (s : State) : Option (Engine × Copy) :=
  let e := s.getEng s.inp.who s.inp.nums
  (e.copies.find? (fun k => k.slot == s.inp.n1 && k.started)).map (fun k => (e, k))

/-- The controller's record of the error that a copy's next source bytes meet (R221). -/
def State.noteCopyRead (s : State) (k : Copy) : State :=
  let addrs := match s.walkOf k with
    | .ok w => (List.range (min (w.total - k.moved) 128)).map (fun j => w.src (k.moved + j))
    | .error _ => []
  match addrs.findSome? (fun va => match s.resolve k.view .load va with
    | .ok (.cell pa leaf) => if (s.dataFault pa leaf).isSome then some (pa, leaf) else none
    | _ => none) with
  | some (pa, leaf) => s.checkRead pa leaf
  | none => s

/-- The lines that a copy's next source bytes lie in. -/
def State.copySources (s : State) (k : Copy) : List Nat :=
  match s.walkOf k with
  | .error _ => []
  | .ok w => ((List.range (min (w.total - k.moved) 128)).filterMap (fun j => match s.resolve k.view .load (w.src (k.moved + j)) with
      | .ok (.cell pa _) => some (pa / 128)
      | _ => none)).eraseDups

/-- The freeze of a task (R164). -/
def State.freezing (s : State) (id : Nat) : Option Freeze := (s.task id).bind (·.freeze)

/-- The intent that a copy cancelled by a freeze leaves (R161). -/
def Copy.intent (k : Copy) : Intent :=
  { head := k.head, tail := k.tail, ra := k.ra, rb := k.rb, r1 := k.rl, r2 := k.rg, done := k.done, lbay := k.lbay,
    lcid := k.lcid, ended := k.ended, handle := k.handle, coord := k.coord, ord := k.ord }

/-- Puts an intent among those of its core in the order of issue (R404, log entry 120). -/
def insertIntent (i : Intent) : List Intent → List Intent
  | [] => [i]
  | j :: js => if j.lbay = i.lbay ∧ j.lcid = i.lcid ∧ i.ord < j.ord then i :: j :: js else j :: insertIntent i js

/-- Records the intent of a copy that a freeze of its task has cancelled; one that a CCAN had cancelled leaves none
(R106, R161, R403). -/
def State.noteIntent (s : State) (k : Copy) : State :=
  match (if k.cancelling then none else k.task) with
  | none => s
  | some t => s.modTask t (fun t =>
      let ended := t.fr.flight.any (fun x => x.coord == k.coord && x.ended)
      { t with freeze := t.freeze.map (fun f => { f with intents := insertIntent { k.intent with ended := ended } f.intents }) })

/-- The command is counted once among the requests that wait for a held bank (R218). -/
def State.noteCopyHeld (s : State) (k : Copy) (line : Nat) : State :=
  if k.heldAt = some line then s
  else (s.noteHeld line).modEng s.inp.who s.inp.nums (fun e => e.modCopy k.slot (fun j => { j with heldAt := some line }))

/-- DESTINATION_UNIT_WRITTEN (R198, R235, R238): the next unit of a running copy joins, and its bytes are counted, at
once or as soon as its gauge lets it. The units of different commands join in any order (R235). Inputs: the agent (or
nums for a core in the rotation area), n1 the slot, bytes from a partner, ok its acknowledgement. -/
def execDestinationUnitWritten (s : State) : Out :=
  .next (match s.inpCopy with
    | none => s
    | some (e, k) =>
      match s.copyStep s.inp.who s.inp.nums k (e.before k.slot) with
      | .unit n s1 k1 [] =>
        let k1 := { k1 with owed := k1.owed + n, heldAt := none }
        if s1.gaugesFree k1 then
          (s1.modEng s.inp.who s.inp.nums (fun e => e.modCopy k.slot (fun _ =>
            { k1 with done := k1.done + k1.owed, owed := 0 }))).copyAdd k1 k1.owed
        else s1.modEng s.inp.who s.inp.nums (fun e => e.modCopy k.slot (fun _ => k1))
      | .unit _ s1 k1 sh =>
        s1.modEng s.inp.who s.inp.nums (fun e => e.modCopy k.slot (fun _ =>
          { k1 with shadowBytes := k1.shadowBytes ++ sh, heldAt := none }))
      | .held line => s.noteCopyHeld k line
      | _ => s)

/-- COPY_COMPLETE (R198, R224): a copy finishes or fails, and its slot is free. Inputs as above; n2 the
code with which a partner refuses. -/
def execCopyComplete (s : State) : Out :=
  .next (match s.inpCopy with
    | none => s
    | some (e, k) =>
      if k.cancelling && (k.task.bind s.freezing).isNone then s
      else match s.copyStep s.inp.who s.inp.nums k (e.before k.slot) with
        | .finished => if s.gaugesFree k then s.finishCopy s.inp.who s.inp.nums k else s
        | .fails c => (if k.failing.isSome then s else s.noteCopyRead k).failCopy s.inp.who s.inp.nums k c
        | .held line => s.noteCopyHeld k line
        | _ =>
          if k.op = 0x08 ∧ k.toPeer ∧ (s.inp.n2 = 1 ∨ s.inp.n2 = 2) then
            s.failCopy s.inp.who s.inp.nums k s.inp.n2
          else s)

/-- The result of a CCAN whose cancel has been acknowledged is determined (R392, R403). -/
def arriveCancel (handle : Nat) (ps : List Pending) : List Pending :=
  ps.map (fun p => if p.awaits = .cancel handle then { p with arrived := true, awaits := .data } else p)

/-- CANCEL_ACK (R164, R196, R403): a command cancelled by CCAN, or started and of a task that is being frozen,
ends without a further write or addition; the bytes of a shadow half are discarded. -/
def execCancelAck (s : State) : Out :=
  let e := s.getEng s.inp.who s.inp.nums
  .next (match e.copies.find? (fun k =>
      k.slot == s.inp.n1 && (decide (k.owed = 0) || s.gaugesFree k) && (k.failing.isNone || k.cancelling) && (k.cancelling || (k.started && (k.task.bind s.freezing).isSome))) with
    | none => s
    | some k =>
      -- what it has written is counted before it ends
      let s := if 0 < k.owed then s.copyAdd k k.owed else s
      let k := { k with done := k.done + k.owed, owed := 0 }
      let s := ((s.noteIntent k).modEng s.inp.who s.inp.nums (fun e => e.finish k.slot 0x8000 k.done)).noteWrote
        s.inp.who s.inp.nums k
      let s := match s.inp.nums, s.inp.who with
        | [t, l, c], _ => { s with rotated := s.rotated.map (fun (r : RotBay) =>
            if r.task = t ∧ r.lbay = l then
              { r with cores := r.cores.map (fun (x : Nat × Core) =>
                  if x.1 = c then (x.1, { x.2 with peg := { x.2.peg with sc := { x.2.peg.sc with pend := arriveCancel k.handle x.2.peg.sc.pend } } }) else x) }
            else r) }
        | _, .seq n => s.setSeq n { s.seq n with sc := { (s.seq n).sc with pend := arriveCancel k.handle (s.seq n).sc.pend } }
        | _, .core n | _, .jig n => s.modCore n (fun c =>
            { c with
              pt := { c.pt with sc := { c.pt.sc with pend := arriveCancel k.handle c.pt.sc.pend } },
              peg := { c.peg with sc := { c.peg.sc with pend := arriveCancel k.handle c.peg.sc.pend } },
              fr := { c.fr with pend := arriveCancel k.handle c.fr.pend } })
      s.settleCopy k)

/-- SHADOW_LOAD_DONE (R190): the shadow plane's load of core n1, which its call has left running, ends; beside a call it
ends with its last cycle (R375), and a freeze stops it (R175). -/
def execShadowLoadDone (s : State) : Out :=
  .next (if (s.core s.inp.n1).mx.loading ∧ (s.core s.inp.n1).mx.call.isNone ∧ (s.core s.inp.n1).wait ≠ .late then
      s.modCore s.inp.n1 (fun c => { c with mx := { c.mx with loading := false, loaded := true, loadLeft := 0 } })
    else s)

/-- JIG_DEPTH_EXPIRE (R375): the cycle count of core n1's call has reached its jig's DEPTH; freeze cycles do not count. -/
def execJigDepthExpire (s : State) : Out :=
  .next (if (s.core s.inp.n1).mx.call.any (fun c => c.ending.isNone && decide ((s.core s.inp.n1).depthOf c ≤ c.cycles)) ∧
      (s.core s.inp.n1).wait ≠ .late then s.asAgent (.jig s.inp.n1) (fun s => s.endCall ecDepth) else s)

end Sys2Proof.Machine
end

