-- ==== Sys2Proof/Machine/Rails.lean ====
section
/-! DEFINITION. Rails, steps, thermal actions in force and step requests (spec/01_package.md R17 to R20,
R25, spec/06_energy.md R120, R125, R131, R132). -/

namespace Sys2Proof.Machine

open Sys2Proof.Bits

/-- PRESENT of a rail at a time-base instant: its ramp at 1 mV/µs (R18). -/
def Rail.present (r : Rail) (now : Nat) : Nat :=
  if r.start_ ≤ r.target then min r.target (r.start_ + (now - r.since)) else max r.target (r.start_ - (now - r.since))

/-- The rail a bay may draw from. -/
def State.rail (s : State) (vl : Bool) : Rail := if vl then s.pkg.vl else s.pkg.vh

/-- The nominal minimum of a step, in mV (R19). -/
def nominalMin (step : Nat) : Nat := nth [900, 850, 800, 700, 650, 600, 570, 550] step 900

/-- A bay's minimum for a step: the nominal, or the calibrated one where it is higher (R19). -/
def BayPower.minOf (b : BayPower) (step : Nat) : Nat := max (nominalMin step) ((find? b.minima step).getD 0)

/-- A step is permitted on a bay at a rail voltage; codes 0 to 2 never on VL (R19). -/
def BayPower.permits (b : BayPower) (vl : Bool) (mv step : Nat) : Bool :=
  (!vl || decide (3 ≤ step)) && decide (b.minOf step ≤ mv)

/-- The voltage that a step must be permitted at: a rail's present voltage, and where it falls its TARGET, so that the ramp
undercuts no minimum (R19, R125). -/
def Rail.floor (r : Rail) (now : Nat) : Nat := min (r.present now) r.target

/-- The fastest step that is permitted and no faster than a request; the slowest if none is. -/
def BayPower.fastest (b : BayPower) (vl : Bool) (mv req : Nat) : Nat :=
  ((List.range 8).find? (fun c => decide (req ≤ c) && b.permits vl mv c)).getD 7

/-- The actions of a diode's entries that are in force (R131, R132): action and PARAM. -/
def Diode.actions (d : Diode) (t : Vector Therm 8) (hbm : Bool) : List (Nat × Nat) :=
  let e (i : Fin 4) : Therm := if hbm then t[i.val + 4]'(by omega) else t[i.val]'(by omega)
  let act (on : Bool) (i : Fin 4) : List (Nat × Nat) := if on then [((e i).action, (e i).param)] else []
  act d.advise 0 ++ act d.hold 1 ++ act d.park 2 ++ act d.fault 3

/-- A diode. -/
def State.diode (s : State) (i : Nat) : Diode := (find? s.pkg.diodes i).getD {}

/-- The thermal actions in force on a bay: of its own diode, and of the four of its die's stack (R132). -/
def State.thermal (s : State) (pb : Nat) : List (Nat × Nat) :=
  (s.diode pb).actions s.pow.therm false
    ++ (List.range 4).flatMap (fun q => (s.diode (80 + 4 * (pb / 8) + q)).actions s.pow.therm true)

/-- The fastest step that thermal caps allow a bay (R132). -/
def State.capOf (s : State) (pb : Nat) : Nat :=
  (s.thermal pb).foldl (fun m a => if a.1 = 2 then max m a.2 else m) 0
/-- FORCEVL is in force on a bay (R132). -/
def State.forcedVl (s : State) (pb : Nat) : Bool := (s.thermal pb).any (fun a => a.1 == 3)
/-- PARKDIE is in force on a die (R132). -/
def State.parkDie (s : State) (d : Nat) : Bool := (baysOfDie d).any (fun pb => (s.thermal pb).any (fun a => a.1 == 4))

/-- A bay begins a change of rail and step (R20): a slower step's frequency first and the rail after it; a
faster step's rail first, its frequency last, when the lock completes. -/
def BayPower.change (b : BayPower) (vl : Bool) (step : Nat) : BayPower :=
  if step = b.step then { b with vl := vl, lock := none }
  else if b.step < step then { b with lock := some (vl, step) }
  else { b with vl := vl, lock := some (vl, step) }

/-- A bay's lock completes: it runs at its new step (R20). -/
def BayPower.locked (b : BayPower) : BayPower :=
  match b.lock with
  | none => b
  | some (vl, step) => { b with vl := vl, step := step, lock := none }

/-- The step that a bay's request comes to on a rail: no faster than the step it is held at while an entry changes, than its
thermal cap, and than VL allows (R19, R122, R132). -/
def State.wanted (s : State) (b : BayPower) (pb : Nat) (vl : Bool) : Nat :=
  max (max (max b.reqStep b.slow) (s.capOf pb)) (if vl then 3 else 0)

/-- A step request of a bay, on a rail, under the thermal actions in force (R125, R132): it applies at
once, or the bay moves to the fastest permitted step and the request waits. While an entry changes, the bay
runs no faster than slow (R122). -/
def State.requestStep (s : State) (pb : Nat) (vl : Bool) (req slow : Nat) : State :=
  let b := { s.bp pb with reqVl := vl, reqStep := req, slow := slow }
  let vl := vl || s.forcedVl pb
  let want := s.wanted b pb vl
  let mv := (s.rail vl).floor s.now
  if b.permits vl mv want ∨ (vl = b.vl ∧ b.step ≤ want) then s.setBp pb { b.change vl want with rampw := false }
  else s.setBp pb { b.change vl (b.fastest vl mv want) with rampw := true }

/-- The power entry of a bay is evaluated again, when its request or a thermal action changes (R125, R132). -/
def State.resettle (s : State) (pb : Nat) : State := s.requestStep pb (s.bp pb).reqVl (s.bp pb).reqStep (s.bp pb).slow

/-- A waiting request at a sample: it applies once the rail reaches its step's minimum, and the bay stays at its step until
then (R125). -/
def State.retry (s : State) (pb : Nat) : State :=
  let b := s.bp pb
  let vl := b.reqVl || s.forcedVl pb
  if b.permits vl ((s.rail vl).floor s.now) (s.wanted b pb vl) then s.resettle pb else s

/-- The rail that a bay draws from, or onto which a change in progress moves it. -/
def BayPower.onRail (b : BayPower) (vl : Bool) : Bool := b.vl == vl || (match b.lock with | some l => l.1 == vl | none => false)

/-- The number of physical bays bound to a task. -/
def State.baysOf (s : State) (id : Nat) : List Nat :=
  (s.bays.filter (fun e => e.2.bound.map Prod.fst == some id)).map (·.1)

/-- OPSTATE of a core (R120). -/
def State.opstate (s : State) (n : Nat) : Nat :=
  let b := s.bp (n / 8)
  let c := s.core n
  let id := c.point.map (·.1)
  let t := id.bind s.task
  (s.pow.event.map (·.deepest)).getD 0 * 2 ^ 29
    + boolN ((s.thermal (n / 8)).any (fun a => decide (2 ≤ a.1))) * 2 ^ 28
    + boolN b.rampw * 2 ^ 27 + b.reqStep * 2 ^ 24 + b.step * 2 ^ 21 + boolN b.vl * 2 ^ 20
    + c.variant * 2 ^ 17 + (t.map (·.ent)).getD 0 * 2 ^ 14
    + (id.map (fun i => (s.baysOf i).length)).getD 0 * 2 ^ 7

end Sys2Proof.Machine
end

