-- ==== Sys2Proof/Machine/Rotate.lean ====
section
/-! DEFINITION. Logical maps, the binding of logical bays and their rotation (spec/07_casks.md R151 to
R153, R157 to R159, spec/09_memory.md R206). -/

namespace Sys2Proof.Machine

open Sys2Proof.Bits

/-! ### Images in the rotation area (R153, R159) -/

/-- The cell of a byte of a non-resident core's queue store in its task's rotation area. -/
def rotQueueCell (task lbay core off : Nat) : Nat := 2 ^ 80 + ((task * 2 ^ 16 + lbay) * 8 + core) * 2 ^ 18 + off

/-- VC, the bytes of a core's direct window that images keep (R159). -/
def vaultKeep (r : BitVec 2048) : Nat := ceilDiv (rVaultb r) 1024 * 128

/-- DSLICES with which each core of a bay starts (R206). -/
def startSlices (r : BitVec 2048) : Nat := ceilDiv (rVaultb r) (2 ^ 22)

/-- Moves bytes with the timestamps of their lines; the source reads 0 afterwards. -/
def State.moveCells (s : State) (src dst n : Nat) : State :=
  let cells := s.mem.filter (fun c => decide (src ≤ c.1) && decide (c.1 < src + n))
  let m := Memory.clear (Memory.clear s.mem dst n) src n
  let lines := s.lines.filter (fun e => decide (src / 128 ≤ e.1) && decide (e.1 < (src + n) / 128))
  { s with
    mem := cells.foldl (fun (m : List Host.Cell) c => Memory.set m (dst + (c.1 - src)) c.2) m
    lines := lines.foldl (fun (l : List (Nat × LineRec)) e => put l (dst / 128 + (e.1 - src / 128)) e.2) s.lines }

/-- A number of a unit in a moved range. -/
def shifted (lo n new k : Nat) : Nat := if lo ≤ k ∧ k < lo + n then new + (k - lo) else k

/-- A call's memory as at its issue, with a range of cells moved (R237). -/
def Call.moved (k : Call) (src dst n : Nat) : Call :=
  let cells := k.snap.filter (fun c => decide (src ≤ c.1) && decide (c.1 < src + n))
  if cells.isEmpty then k
  else
    let rest := Memory.clear (Memory.clear k.snap dst n) src n
    { k with snap := cells.foldl (fun (m : List Host.Cell) (c : Nat × Byte) => Memory.set m (dst + (c.1 - src)) c.2) rest }

/-- A core's wait for a line, a gauge word or a ticket word, with the cells and lines renumbered. -/
def Wait.relined (w : Wait) (cell line : Nat → Nat) : Wait :=
  match w with
  | .line n q => .line (line n) q
  | .gauge pa woken yields => .gauge (cell pa) woken yields
  | .ticket pa b => .ticket (cell pa) b
  | w => w

/-- What cores keep of a range of cells by its place follows it as its bytes move: withheld stores, no-return atomics,
waits, the memory of calls; vault words with an error (R153, R216, R219). -/
def State.relocate (s : State) (src dst n : Nat) : State :=
  let line := shifted (src / 128) (n / 128) (dst / 128)
  let call (k : Call) : Call := { k.moved src dst n with stuck := k.stuck.map line }
  let s := s.mapCores (fun c => { c with
    withheld := c.withheld.map (fun (w : WLine) => { w with line := line w.line }),
    nr := c.nr.map (fun (a : NrAtom) => { a with pa := shifted src n dst a.pa }),
    wait := c.wait.relined (shifted src n dst) line,
    polled := c.polled.map (shifted src n dst),
    mx := { c.mx with call := c.mx.call.map call, queued := c.mx.queued.map call } })
  { s with health := { s.health with vaultBad := s.health.vaultBad.map (shifted (src / 8) (n / 8) (dst / 8)) } }

/-- Moves the images of a logical bay's cores between a physical bay and the rotation area; what waits for their words
or is to reach them follows (R153). -/
def State.moveImages (s : State) (t : Task) (pb lbay : Nat) (out : Bool) : State :=
  (List.range 8).foldl (fun s c =>
    let n := pb * 8 + c
    let move (s : State) (a b len : Nat) : State :=
      if out then (s.moveCells a b len).relocate a b len else (s.moveCells b a len).relocate b a len
    move (move s (vaultCell n 0) (rotCell t.id lbay c 0) (vaultKeep t.rcd))
      (queueCell n 0) (rotQueueCell t.id lbay c 0) (rQueueb t.rcd)) s

/-! ### Cores in and out -/

/-- What a physical core keeps when its logical core leaves: its counts, its freeze counters, its logical
time, its instruction cache and the origin of its matrix rows (R209, R370). -/
def Core.vacate (c : Core) : Core :=
  let c := c.chargeLate
  { cyc := c.cyc, retired := c.retired, late := c.late, pts := c.pts, wdog := c.wdog, ic := c.ic,
    mx := { mrot := c.mx.mrot } }

/-- A logical core comes to a physical core (R152): it resumes at its peg, with no wait met; the jig store
and the L1 cache are empty (R373). One that resumes from a cask has the PTS of its resume (R248). -/
def Core.seat (phys log : Core) : Core :=
  { log.rollback with
    cyc := phys.cyc, retired := phys.retired, late := phys.late, lateTicks := 0, lateWhy := 4, pts := if log.resumed then log.pts else max phys.pts log.pts, resumed := false, rotate := false,
    frozen := false, jigs := [], l1 := [], ic := phys.ic, wdogTicks := 0, stallTicks := 0,
    mx := { log.rollback.mx with mrot := phys.mx.mrot } }

/-- A logical core of a task that has not run yet (R206). -/
def freshCore (t : Task) (lbay lcid : Nat) : Core :=
  let r : Regs := { dslices := startSlices t.rcd }
  { pt := r, peg := r, lbay := lbay, lcid := lcid, nlcore := 8 * rNlbay t.rcd, taskId := t.id, stream := t.stream, job := t.job }

/-- Every logical bay of a task stands in a new rotation area (R152). -/
def State.newArea (s : State) (t : Task) : State :=
  let bay (l : Nat) : RotBay := ⟨t.id, l, (List.range 8).map (fun c => (c, freshCore t l c))⟩
  let s := { s with rotated := s.rotated.filter (fun (r : RotBay) => r.task != t.id) ++ (List.range (rNlbay t.rcd)).map bay }
  (List.range (rNlbay t.rcd)).foldl (fun s l => (List.range 8).foldl (fun (s : State) c =>
    (s.zero (rotCell t.id l c 0) (vaultKeep t.rcd)).zero (rotQueueCell t.id l c 0) (rQueueb t.rcd)) s) s

/-- The logical bays of a task in cyclic order from the one after the last brought in. -/
def orderAfter (n l : Nat) : List Nat := (List.range n).map (fun i => (l + 1 + i) % n)

/-- The claim records of a logical bay's issued slabs name a die, or none (R87). -/
def Task.claim (t : Task) (lbay : Nat) (die : Option Nat) : Task :=
  { t with slabs := t.slabs.map (fun sl => if sl.k % rNlbay t.rcd = lbay ∧ !sl.done then { sl with die := die } else sl) }

/-- A logical bay of a task is brought into a physical bay: vaults start at zero, its images and its cores
are read in, its slabs' claims name the die (R87, R152, R206). -/
def State.bringIn (s : State) (t : Task) (pb lbay : Nat) : State :=
  match s.rotOf t.id lbay with
  | none => s
  | some r =>
    let s := (coresOfBay pb).foldl (fun (s : State) n => s.zero (vaultCell n 0) (2 ^ 22)) s
    let s := s.moveImages t pb lbay false
    let s := (coresOfBay pb).foldl (fun s n =>
      (s.emptyL1 n).modCore n (fun c => c.seat ((find? r.cores (n % 8)).getD (freshCore t lbay (n % 8))))) s
    let s := s.setBay pb { bound := some (t.id, lbay), since := s.now }
    let s := { s with rotated := s.rotated.filter (fun (x : RotBay) => !(x.task == t.id && x.lbay == lbay)) }
    s.modTask t.id (fun t => { t.claim lbay (some (dieOfBay pb)) with order := orderAfter (rNlbay t.rcd) lbay })

/-- A logical bay of a task is written to the rotation area and leaves its physical bay (R152). -/
def State.takeOut (s : State) (t : Task) (pb lbay : Nat) : State :=
  let r : RotBay := ⟨t.id, lbay, (coresOfBay pb).map (fun n => (n % 8, s.core n))⟩
  let s := s.moveImages t pb lbay true
  let s := (coresOfBay pb).foldl (fun s n => (s.emptyL1 n).modCore n Core.vacate) s
  let s := s.setBay pb { bound := none, since := s.now }
  let s := { s with rotated := s.rotated ++ [r] }
  s.modTask t.id (fun t => t.claim lbay none)

/-! ### Work and need for bays (R152) -/

/-- A logical bay has work: a running or ended point, or an issued slab that has not completed. -/
def Task.hasWork (t : Task) (lbay : Nat) : Bool :=
  t.fr.flight.any (fun x => x.lbay == lbay) || t.slabs.any (fun sl => sl.k % rNlbay t.rcd == lbay && !sl.done)

/-- The physical bays of a task with their logical bays, in ascending order. -/
def State.mapOf (s : State) (id : Nat) : List (Nat × Nat) :=
  s.bays.filterMap (fun e => match e.2.bound with
    | some (t, l) => if t = id then some (e.1, l) else none
    | none => none)

/-- A bay counts as without work: every core of it that holds a running point stands in AWAIT (R316). -/
def State.bayAwaits (s : State) (pb : Nat) : Bool :=
  let run := ((coresOfBay pb).map s.core).filter (fun c => c.point.isSome)
  !run.isEmpty && run.all (fun c => match c.wait with
    | .gauge _ _ yields => yields
    | .copies => true
    | _ => false)

/-- The next logical bay with work that is not resident (R152): one of a stopped task is not brought in (R89, R91). -/
def State.nextIn (s : State) (t : Task) : Option Nat :=
  if t.stop then none else t.order.find? (fun l => t.hasWork l && (s.bayOf t.id l).isNone)

/-- BAYS of the entry in force (R119). -/
def Task.wantBays (t : Task) : Nat := oBays (nth t.opts t.ent 0)

/-- The physical bays above the count of the task's entry (R122): those of the highest numbers (DESIGN CHOICE, log
entry 131). -/
def State.surplus (s : State) (t : Task) : List Nat := ((s.mapOf t.id).map (·.1)).drop t.wantBays

/-- A copy into a queue store has a slot that can land: one that waits, as for a slot of a full queue, has none. -/
def CopyStep.lands : CopyStep → Bool
  | .unit .. => true
  | _ => false

/-- Copies into the queue store of a core of a physical bay have slots to land (R152). -/
def State.queueCopiesInto (s : State) (pb : Nat) : Bool :=
  (coresOfBay pb).any (fun n => (s.core n).eng.copies.any (fun k =>
    k.op == 0x05 && k.started && (s.copyStep (.core n) [] k ((s.core n).eng.before k.slot)).lands))

/-- A bay's logical bay may leave: each core stands at its peg or holds no point, its no-return atomics are
applied, and what copies can put into its queue stores has landed (R152). -/
def State.mayLeave (s : State) (pb : Nat) : Bool :=
  (coresOfBay pb).all (fun n => ((s.core n).point.isNone || (s.core n).frozen) && (s.core n).nr.isEmpty)
    && !s.queueCopiesInto pb

end Sys2Proof.Machine
end

