-- ==== Sys2Proof/Machine/Sha.lean ====
section
/-! DEFINITION. SHA-256 (FIPS 180-4), by which the spec hashes images, casks, records and log entries
(spec/03_host.md R70 to R72, spec/07_casks.md R154). -/

namespace Sys2Proof.Sha

open Sys2Proof.Bits

/-- Round constants 0 to 15. -/
def k0 : List W32 :=
  [0x428A2F98#32, 0x71374491#32, 0xB5C0FBCF#32, 0xE9B5DBA5#32,
   0x3956C25B#32, 0x59F111F1#32, 0x923F82A4#32, 0xAB1C5ED5#32,
   0xD807AA98#32, 0x12835B01#32, 0x243185BE#32, 0x550C7DC3#32,
   0x72BE5D74#32, 0x80DEB1FE#32, 0x9BDC06A7#32, 0xC19BF174#32]
/-- Round constants 16 to 31. -/
def k1 : List W32 :=
  [0xE49B69C1#32, 0xEFBE4786#32, 0x0FC19DC6#32, 0x240CA1CC#32,
   0x2DE92C6F#32, 0x4A7484AA#32, 0x5CB0A9DC#32, 0x76F988DA#32,
   0x983E5152#32, 0xA831C66D#32, 0xB00327C8#32, 0xBF597FC7#32,
   0xC6E00BF3#32, 0xD5A79147#32, 0x06CA6351#32, 0x14292967#32]
/-- Round constants 32 to 47. -/
def k2 : List W32 :=
  [0x27B70A85#32, 0x2E1B2138#32, 0x4D2C6DFC#32, 0x53380D13#32,
   0x650A7354#32, 0x766A0ABB#32, 0x81C2C92E#32, 0x92722C85#32,
   0xA2BFE8A1#32, 0xA81A664B#32, 0xC24B8B70#32, 0xC76C51A3#32,
   0xD192E819#32, 0xD6990624#32, 0xF40E3585#32, 0x106AA070#32]
/-- Round constants 48 to 63. -/
def k3 : List W32 :=
  [0x19A4C116#32, 0x1E376C08#32, 0x2748774C#32, 0x34B0BCB5#32,
   0x391C0CB3#32, 0x4ED8AA4A#32, 0x5B9CCA4F#32, 0x682E6FF3#32,
   0x748F82EE#32, 0x78A5636F#32, 0x84C87814#32, 0x8CC70208#32,
   0x90BEFFFA#32, 0xA4506CEB#32, 0xBEF9A3F7#32, 0xC67178F2#32]
/-- The 64 round constants. -/
def consts : List W32 := k0 ++ k1 ++ k2 ++ k3

/-- The initial hash value. -/
def init : List W32 :=
  [0x6A09E667#32, 0xBB67AE85#32, 0x3C6EF372#32, 0xA54FF53A#32,
   0x510E527F#32, 0x9B05688C#32, 0x1F83D9AB#32, 0x5BE0CD19#32]

/-- The words of a block, big-endian. -/
def wordsOf : Nat → List Byte → List W32
  | 0, _ => []
  | n + 1, b => ((nth b 0 0#8) ++ (nth b 1 0#8) ++ (nth b 2 0#8) ++ (nth b 3 0#8) : W32) :: wordsOf n (b.drop 4)

/-- The small sigma functions. -/
def sig0 (x : W32) : W32 := x.rotateRight 7 ^^^ x.rotateRight 18 ^^^ (x >>> 3)
/-- The second small sigma. -/
def sig1 (x : W32) : W32 := x.rotateRight 17 ^^^ x.rotateRight 19 ^^^ (x >>> 10)

/-- The message schedule, newest word first. -/
def schedule : Nat → List W32 → List W32
  | 0, ws => ws
  | n + 1, ws =>
    schedule n ((sig1 (nth ws 1 0#32) + nth ws 6 0#32 + sig0 (nth ws 14 0#32) + nth ws 15 0#32) :: ws)

/-- The eight working variables. -/
structure Work where
  a : W32
  b : W32
  c : W32
  d : W32
  e : W32
  f : W32
  g : W32
  h : W32
  deriving DecidableEq, Repr

/-- One round. -/
def round (s : Work) (kw : W32 × W32) : Work :=
  let t1 := s.h + (s.e.rotateRight 6 ^^^ s.e.rotateRight 11 ^^^ s.e.rotateRight 25)
    + ((s.e &&& s.f) ^^^ (~~~s.e &&& s.g)) + kw.1 + kw.2
  let t2 := (s.a.rotateRight 2 ^^^ s.a.rotateRight 13 ^^^ s.a.rotateRight 22)
    + ((s.a &&& s.b) ^^^ (s.a &&& s.c) ^^^ (s.b &&& s.c))
  ⟨t1 + t2, s.a, s.b, s.c, s.d + t1, s.e, s.f, s.g⟩

/-- The hash value after a block. -/
def block (h : List W32) (b : List Byte) : List W32 :=
  let ws := (schedule 48 (wordsOf 16 b).reverse).reverse
  let n (i : Nat) : W32 := nth h i 0#32
  let s := (consts.zip ws).foldl round ⟨n 0, n 1, n 2, n 3, n 4, n 5, n 6, n 7⟩
  [n 0 + s.a, n 1 + s.b, n 2 + s.c, n 3 + s.d, n 4 + s.e, n 5 + s.f, n 6 + s.g, n 7 + s.h]

/-- The hash value after consecutive blocks of 64 bytes. -/
def blocks : Nat → List W32 → List Byte → List W32
  | 0, h, _ => h
  | n + 1, h, bs => blocks n (block h (bs.take 64)) (bs.drop 64)

/-- The padded message. -/
def pad (m : List Byte) : List Byte :=
  m ++ [0x80#8] ++ List.replicate ((119 - m.length % 64) % 64) 0#8 ++ (leBytes 8 (8 * m.length)).reverse

/-- SHA-256 of bytes. -/
def sha256 (m : List Byte) : List Byte :=
  let p := pad m
  (blocks (p.length / 64) init p).flatMap (fun w => (leBytes 4 w.toNat).reverse)

end Sys2Proof.Sha
end

