-- ==== Sys2Proof/Machine/Cask.lean ====
section
/-! DEFINITION. The bytes of a cask and of a saved frontier, written and read, and the checks of a cask
(spec/05_frontier.md R106 to R110, spec/07_casks.md R154 to R166). -/

namespace Sys2Proof.Machine

open Sys2Proof.Bits

/-- IDMEAS: the SHA-256 of the identity public key (R56). -/
def idMeasBytes : List Byte := Sha.sha256 Config.identityKey

/-- Zero bytes. -/
def zeros (n : Nat) : List Byte := List.replicate n 0#8
/-- Bytes padded with zeros to a multiple of `n`. -/
def padTo (n : Nat) (bs : List Byte) : List Byte := bs ++ zeros ((n - bs.length % n) % n)

/-! ### Writing (R107 to R109, R154 to R163) -/

/-- The frontier with its window reaching every line that holds a point in flight. -/
def Frontier.saved (f : Frontier) (r : BitVec 2048) : Frontier := f.flight.foldl (fun f x => f.reach (lineOf r x.coord)) f

/-- Four coordinates. -/
def coordBytes (p : List Nat) : List Byte := (List.range 4).flatMap (fun i => leBytes 4 (nth p i 0))

/-- The frontier section (R107 to R109). -/
def frontierBytes (f : Frontier) (r : BitVec 2048) : List Byte :=
  let f := f.saved r
  leBytes 2 1 ++ leBytes 1 (rNdim r) ++ leBytes 1 (boolN f.halosat) ++ leBytes 4 f.win.length ++ leBytes 8 f.lines
    ++ leBytes 4 (lineLen r) ++ leBytes 4 f.flight.length ++ leBytes 8 (lineTotal r) ++ zeros 32
    ++ f.win.flatMap (fun l => leBytes 8 l.island.toNat ++ leBytes 4 (boolN l.full * 2 ^ 31 + l.count) ++ zeros 4)
    ++ f.flight.flatMap (fun x => coordBytes x.coord ++ leBytes 2 x.lbay ++ leBytes 1 x.lcid ++ leBytes 1 (boolN x.ended) ++ zeros 4)

/-- A tile-set entry (R77). -/
def TileEnt.bytes (e : TileEnt) : List Byte := leBytes 8 e.base ++ leBytes 4 e.units ++ leBytes 4 (boolN e.swap)

/-- Section 1 (R156). -/
def taskBytes (t : Task) (c : Cask) : List Byte :=
  leBytes 256 t.rcd.toNat ++ (List.range 8).flatMap (fun i => leBytes 16 (nth t.opts i 0))
    ++ leBytes 4 c.taskId ++ leBytes 1 c.entry ++ leBytes 1 (match c.hint with | some h => 128 + h | none => 0)
    ++ leBytes 1 c.src ++ zeros 57 ++ t.rd.flatMap TileEnt.bytes ++ t.wr.flatMap TileEnt.bytes

/-- An entry of a pending result: kind, index, bundles to go, flags, value (R158). -/
def pendEntry (kind idx togo flags value : Nat) : List Byte :=
  leBytes 1 kind ++ leBytes 1 idx ++ leBytes 1 togo ++ leBytes 1 flags ++ zeros 12 ++ leBytes 256 value

/-- The bytes of a register that a mask marks, zero elsewhere. -/
def maskV (v : VReg) (mask : BitVec 256) : VReg := mergeV 0#2048 v mask

/-- The entries of a pending result (R158). -/
def Pending.entries (p : Pending) : List (List Byte) :=
  let fl := p.flags.toNat
  match p.dest with
  | .x i v | .phase i v => [pendEntry 0 i.toNat p.togo fl v.toNat]
  | .flagsOnly => [pendEntry 0 0 p.togo fl 0]
  | .p i v => [pendEntry 1 i.toNat p.togo fl (boolN v)]
  | .v i v mask =>
    if mask = BitVec.allOnes 256 then [pendEntry 2 i.toNat p.togo fl v.toNat]
    else [pendEntry 4 i.toNat p.togo 0 mask.toNat, pendEntry 2 i.toNat p.togo fl (maskV v mask).toNat]
  | .k i v => [pendEntry 3 i.toNat p.togo fl v.toNat]
  | _ => []

/-- Puts a pending result into a list sorted by bundles to go and slot, behind its equals. -/
def insertPend (p : Pending) : List Pending → List Pending
  | [] => [p]
  | q :: qs => if p.togo < q.togo ∨ (p.togo = q.togo ∧ p.slot < q.slot) then p :: q :: qs else q :: insertPend p qs

/-- Pending results sorted by bundles to go, then by slot (R158); those of one slot in the order of issue. A result that
came with a cask, which does not name its slot, stands before those issued since (log entry 31). -/
def sortPend (ps : List Pending) : List Pending := ps.foldl (fun l p => insertPend p l) []

/-- A record of a logical core (R157). -/
def regsBytes (lcore : Nat) (running : Bool) (g : Regs) : List Byte :=
  let es := (sortPend g.sc.pend).flatMap Pending.entries
  padTo 64 (leBytes 2 lcore ++ leBytes 1 (boolN running + 2 * boolN g.mpFilled) ++ leBytes 1 es.length ++ leBytes 1 g.dslices
    ++ zeros 3 ++ leBytes 8 g.sc.pc.toNat ++ leBytes 8 (g.lanes.toNat * 16 + g.fmt.toNat)
    ++ leBytes 1 g.ar.fflags.toNat ++ leBytes 1 g.ar.frm.toNat ++ zeros 2 ++ leBytes 4 g.ar.lfsr.toNat
    ++ leBytes 8 g.hwinst.toNat ++ leBytes 8 g.linksub.toNat ++ leBytes 1 g.sc.p.toNat ++ zeros 15
    ++ g.sc.x.toList.flatMap (fun v => leBytes 8 v.toNat) ++ g.k.toList.flatMap (fun v => leBytes 8 v.toNat)
    ++ g.mp.toList.flatMap (fun v => leBytes 8 v.toNat) ++ g.mpNext.toList.flatMap (fun v => leBytes 8 v.toNat)
    ++ g.sc.tb.toList.flatMap (fun e => leBytes 8 (e.addr.toNat + boolN e.prepared))
    ++ g.q.toList.flatMap (fun h => leBytes 4 h.base ++ leBytes 4 (256 * h.size) ++ leBytes 4 (256 * h.head) ++ leBytes 4 (256 * h.tail))
    ++ zeros 224 ++ g.v.toList.flatMap (fun v => leBytes 256 v.toNat) ++ es.flatten)

/-- Section 4 (R157). -/
def coresBytes (c : Cask) : List Byte := c.cores.flatMap (fun e => regsBytes e.1 e.2.1 e.2.2.1 ++ e.2.2.2)
/-- Section 3 (R156). -/
def mapBytes (c : Cask) : List Byte := c.map.flatMap (fun e => leBytes 4 (boolN e.1 * 2 ^ 16 + e.2))
/-- Section 6 (R160). -/
def swapsBytes (c : Cask) : List Byte :=
  c.swaps.flatMap (fun b => leBytes 8 b.a ++ leBytes 8 b.b ++ leBytes 4 b.units
    ++ leBytes 1 (boolN b.liveB + 2 * boolN b.renamed.isSome) ++ zeros 11)
/-- Section 7 (R161). -/
def intentsBytes (c : Cask) : List Byte :=
  c.intents.flatMap (fun i => leBytes 4 i.head.toNat ++ leBytes 4 i.tail.toNat ++ leBytes 8 i.ra.toNat ++ leBytes 8 i.rb.toNat
    ++ leBytes 8 i.r1.toNat ++ leBytes 8 i.r2.toNat ++ leBytes 8 i.done ++ leBytes 2 i.lbay ++ leBytes 1 i.lcid
    ++ leBytes 1 (boolN i.ended) ++ leBytes 2 i.handle ++ zeros 10 ++ coordBytes i.coord)
/-- Section 8 (R162). -/
def ticketsBytes (c : Cask) : List Byte :=
  c.tickets.flatMap (fun e => leBytes 8 e.1 ++ leBytes 4 e.2.1 ++ leBytes 4 e.2.2.1 ++ leBytes 4 e.2.2.2.1 ++ leBytes 2 e.2.2.2.2 ++ zeros 2)
/-- Section 9 (R163). -/
def dirtyBytes (c : Cask) : List Byte := c.dirty.flatMap (fun e => leBytes 8 (e.1 + e.2))

/-- The nine sections (R155). -/
def sectionsOf (t : Task) (c : Cask) : List (List Byte) :=
  [taskBytes t c, frontierBytes t.fr t.rcd, mapBytes c, coresBytes c, c.vault.flatten, swapsBytes c, intentsBytes c,
   ticketsBytes c, dirtyBytes c]

/-- Places sections one after another at 64-byte offsets: the directory and the padded sections. -/
def layOut : Nat → List (List Byte) → List Byte × List Byte
  | _, [] => ([], [])
  | at_, x :: xs =>
    let p := padTo 64 x
    let r := layOut (at_ + p.length) xs
    (leBytes 8 at_ ++ leBytes 8 x.length ++ r.1, p ++ r.2)

/-- The body of a cask (R155). -/
def bodyBytes (t : Task) (c : Cask) : List Byte := let r := layOut 192 (sectionsOf t c); padTo 64 r.1 ++ r.2

/-- A cask's bytes, signed if asked for (R154). -/
def caskBytes (t : Task) (c : Cask) (sign : Bool) : List Byte :=
  let body := bodyBytes t c
  let bs := leBytes 4 0x4341534B ++ leBytes 2 1 ++ leBytes 2 (boolN sign) ++ leBytes 8 body.length ++ Sha.sha256 body
    ++ idMeasBytes ++ leBytes 8 c.frozen ++ zeros 40 ++ body
  if sign then bs ++ Config.identityKey ++ Config.sign bs else bs

/-- The length of a cask written without a signature. -/
def caskLen (t : Task) (c : Cask) : Nat := 128 + (bodyBytes t c).length

/-! ### Bounds on the length (R216) -/

/-- The buffers that a task's tile sets name with SWAP set. -/
def Task.swapNames (t : Task) : List Nat := ((t.rd ++ t.wr).filter (·.swap)).map (·.base) |>.eraseDups

/-- The largest cask that a task record allows, section 8 at its present length and one more entry for each
logical core (R216). -/
def Task.largestCask (t : Task) : Nat :=
  let up (n : Nat) : Nat := ceilDiv n 64 * 64
  let cores := rNlbay t.rcd * 8
  let points := lineTotal t.rcd * lineLen t.rcd
  let pages := (t.wr.map (fun e => (e.base + 128 * e.units - 1) / 2 ^ 19 - e.base / 2 ^ 19 + 1)).sum
  let tickets := t.tickets.length + (t.tickets.map (fun e => e.2.length)).sum
  128 + 192 + up (0x1C0 + 16 * (t.rd.length + t.wr.length))
    + up (64 + 16 * min 65536 (lineTotal t.rcd) + 24 * min (33 * cores) points) + up (4 * rNlbay t.rcd)
    + up (cores * (up (9216 + 272 * 128) + rQueueb t.rcd)) + up (cores * vaultKeep t.rcd) + up (32 * t.swapNames.length)
    + up (80 * 32 * cores) + up (24 * (tickets + cores)) + up (8 * pages)

/-! ### Reading (R110, R166) -/

/-- A little-endian field of bytes. -/
def fieldAt (bs : List Byte) (o n : Nat) : Nat := leNat ((bs.drop o).take n)
/-- Bytes that are all zero. -/
def zeroAt (bs : List Byte) (o n : Nat) : Bool := ((bs.drop o).take n).all (· == 0#8)
/-- Pieces of `n` bytes. -/
def chunks (n : Nat) : Nat → List Byte → List (List Byte)
  | 0, _ => []
  | k + 1, bs => bs.take n :: chunks n k (bs.drop n)

/-- A section of a body. -/
def sectionAt (body : List Byte) (i : Nat) : List Byte := (body.drop (fieldAt body (16 * i) 8)).take (fieldAt body (16 * i + 8) 8)

/-- The directory lists its sections in order, without overlap, at 64-byte offsets, within the body; the bytes after it, up
to the first offset at which a section may start, are zero (R155, R166). -/
def directoryOk (body : List Byte) : Bool :=
  let off (i : Nat) : Nat := fieldAt body (16 * i) 8
  let len (i : Nat) : Nat := fieldAt body (16 * i + 8) 8
  zeroAt body 144 48 && (List.range 9).all (fun i => off i % 64 == 0 && decide (144 ≤ off i) && decide (off i + len i ≤ body.length)
    && (i == 0 || decide (off (i - 1) + len (i - 1) ≤ off i)))

/-- A window entry read from its bytes (R108). -/
def readLine (bs : List Byte) : FLine :=
  { count := fieldAt bs 8 4 % 2 ^ 24, island := BitVec.ofNat 64 (fieldAt bs 0 8), full := bit (fieldAt bs 8 4) 31 }

/-- An in-flight entry read from its bytes (R109). -/
def readFlight (bs : List Byte) : Flight :=
  { coord := (List.range 4).map (fun i => fieldAt bs (4 * i) 4), lbay := fieldAt bs 16 2, lcid := fieldAt bs 18 1,
    ended := fieldAt bs 19 1 == 1 }

/-- The window entries and in-flight entries of a frontier section. -/
def frontierWin (bs : List Byte) : List (List Byte) := chunks 16 (fieldAt bs 4 4) (bs.drop 64)
/-- The in-flight entries of a frontier section. -/
def frontierFlight (bs : List Byte) : List (List Byte) := chunks 24 (fieldAt bs 20 4) (bs.drop (64 + 16 * fieldAt bs 4 4))

/-- The frontier of a section, its points in flight in point order (R109). -/
def readFrontier (bs : List Byte) : Frontier :=
  { halosat := bit (fieldAt bs 3 1) 0, lines := fieldAt bs 8 6, win := (frontierWin bs).map readLine,
    flight := ((frontierFlight bs).map readFlight).foldl (fun l x => insertFlight x l) [] }

/-- A window entry is in order (R108, R110). -/
def lineOk (len : Nat) (bs : List Byte) : Bool :=
  let l := readLine bs
  zeroAt bs 12 4 && fieldN (fieldAt bs 8 4) 24 7 == 0
    && (if l.full then l.count == 0 && l.island == 0#64
        else decide (l.count < len) && (List.range 64).all (fun i => !l.island.getLsbD i || decide (l.count + 1 + i < len)))

/-- An in-flight entry is in order (R109, R110). -/
def flightOk (r : BitVec 2048) (f : Frontier) (bs : List Byte) : Bool :=
  let x := readFlight bs
  let line := lineOf r x.coord
  let pos := posOf r x.coord
  let l := f.line line
  zeroAt bs 20 4 && decide (fieldAt bs 19 1 ≤ 1)
    && ((rExtents r).zip x.coord).all (fun e => decide (e.2 < e.1)) && (x.coord.drop (rNdim r)).all (· == 0)
    && decide (f.lines ≤ line) && decide (line < f.lines + f.win.length) && !l.has pos && decide (pos ≤ l.count + 64)
    && x.lbay == lbayOf r x.coord && x.lcid == lcidOf r x.coord

/-- The checks of R110 on a frontier section. One whose length is not that of its header is refused with them (DESIGN
CHOICE: neither R110 nor R166 names its status, log entry 127). -/
def frontierOk (r : BitVec 2048) (bs : List Byte) : Bool :=
  let f := readFrontier bs
  let run := f.flight.filter (fun x => !x.ended)
  fieldAt bs 0 2 == 1 && fieldAt bs 3 1 / 2 == 0 && zeroAt bs 14 2 && zeroAt bs 32 32
    && fieldAt bs 2 1 == rNdim r && fieldAt bs 16 4 == lineLen r && fieldAt bs 24 8 == lineTotal r
    && decide (fieldAt bs 4 4 ≤ 65536) && decide (fieldAt bs 20 4 ≤ 21120)
    && decide (f.lines + f.win.length ≤ lineTotal r)
    && bs.length == 64 + 16 * fieldAt bs 4 4 + 24 * fieldAt bs 20 4
    && !(f.win.head?.map (·.full)).getD false
    && (frontierWin bs).all (lineOk (lineLen r)) && (frontierFlight bs).all (flightOk r f)
    && (run.map (fun x => (x.lbay, x.lcid))).Nodup && (f.flight.map (·.coord)).Nodup

/-- A pending result read from an entry, with the mask of the entry before it. -/
def readPend (mask : BitVec 256) (bs : List Byte) : Pending :=
  let i := fieldAt bs 1 1
  let v := fieldAt bs 16 256
  { togo := fieldAt bs 2 1, flags := BitVec.ofNat 6 (fieldAt bs 3 1), dest := match fieldAt bs 0 1 with
    | 0 => .x (BitVec.ofNat 5 i) (BitVec.ofNat 64 v)
    | 1 => .p (BitVec.ofNat 3 i) (bit v 0)
    | 2 => .v (BitVec.ofNat 5 i) (BitVec.ofNat 2048 v) mask
    | _ => .k (BitVec.ofNat 3 i) (BitVec.ofNat 64 v) }

/-- Pending results of a record. -/
def readPends : Option (BitVec 256) → List (List Byte) → List Pending
  | _, [] => []
  | m, e :: es =>
    if fieldAt e 0 1 = 4 then readPends (some (BitVec.ofNat 256 (fieldAt e 16 32))) es
    else readPend (m.getD (BitVec.allOnes 256)) e :: readPends none es

/-- The entries of a record's pending results are in order: kinds, indexes, bundles to go, zeros, and each mask
before the v entry it belongs to (R158, R166). -/
def pendsOk : List (List Byte) → Bool
  | [] => true
  | e :: es =>
    let k := fieldAt e 0 1
    let room := nth [8, 1, 256, 8, 32] k 0
    let idx := nth [32, 8, 32, 8, 32] k 0
    decide (k ≤ 4) && decide (fieldAt e 1 1 < idx) && decide (1 ≤ fieldAt e 2 1) && decide (fieldAt e 3 1 < 64)
      && (k != 4 || fieldAt e 3 1 == 0) && zeroAt e 4 12 && zeroAt e (16 + room) (256 - room)
      && (k != 1 || decide (fieldAt e 16 1 ≤ 1))
      && (k != 4 || (match es with
        | [] => false
        | f :: _ => fieldAt f 0 1 == 2 && fieldAt f 1 1 == fieldAt e 1 1 && fieldAt f 2 1 == fieldAt e 2 1))
      && pendsOk es

/-- A vector of 64-bit words from bytes. -/
def wordsAt (n : Nat) (bs : List Byte) (o : Nat) : Vector W64 n := Vector.ofFn (fun i => BitVec.ofNat 64 (fieldAt bs (o + 8 * i.val) 8))

/-- The registers of a record (R157); which end of a queue belongs to an engine is not recorded (log entry 31). -/
def readRegs (draw : Nat) (bs : List Byte) : Regs :=
  let es := chunks 272 (fieldAt bs 3 1) (bs.drop 0x2400)
  { sc := { x := wordsAt 32 bs 0x40, p := BitVec.ofNat 8 (fieldAt bs 0x30 1), pc := BitVec.ofNat 52 (fieldAt bs 8 8),
            tb := Vector.ofFn (fun i => { addr := BitVec.ofNat 52 (fieldAt bs (0x200 + 8 * i.val) 8 / 2 * 2),
                                          prepared := bit (fieldAt bs (0x200 + 8 * i.val) 8) 0 }),
            pend := readPends none es }
    ar := { fflags := BitVec.ofNat 6 (fieldAt bs 0x18 1), frm := BitVec.ofNat 3 (fieldAt bs 0x19 1),
            lfsr := BitVec.ofNat 32 (fieldAt bs 0x1C 4), srseed := BitVec.ofNat 32 (fieldAt bs 0x1C 4) }
    v := Vector.ofFn (fun i => BitVec.ofNat 2048 (fieldAt bs (0x400 + 256 * i.val) 256))
    k := wordsAt 8 bs 0x140
    q := Vector.ofFn (fun i =>
      let o := 0x220 + 16 * i.val
      { base := fieldAt bs o 4, size := fieldAt bs (o + 4) 4 / 256, head := fieldAt bs (o + 8) 4 / 256,
        tail := fieldAt bs (o + 12) 4 / 256, prodEngine := Config.freeBool (draw + 2 * i.val),
        consEngine := !Config.freeBool (draw + 2 * i.val) && Config.freeBool (draw + 2 * i.val + 1) })
    mp := wordsAt 8 bs 0x180, mpNext := wordsAt 8 bs 0x1C0, mpFilled := bit (fieldAt bs 2 1) 1
    lanes := BitVec.ofNat 7 (fieldAt bs 0x10 8 / 16), fmt := BitVec.ofNat 4 (fieldAt bs 0x10 8)
    hwinst := BitVec.ofNat 64 (fieldAt bs 0x20 8), linksub := BitVec.ofNat 64 (fieldAt bs 0x28 8)
    dslices := fieldAt bs 4 1 }

/-- A record's length without its queue store (R157). -/
def recordLen (bs : List Byte) : Nat := ceilDiv (9216 + 272 * fieldAt bs 3 1) 64 * 64

/-- A queue handle of a record is one that QINIT can leave, or uninitialised (R185). -/
def queueFieldOk (bs : List Byte) (o : Nat) : Bool :=
  let base := fieldAt bs o 4
  let size := fieldAt bs (o + 4) 4
  let at_ (k : Nat) : Nat := fieldAt bs (o + k) 4
  size == 0 || (base % 256 == 0 && size % 256 == 0 && decide (size ≤ 2 ^ 18) && decide (base + size ≤ 2 ^ 18)
    && at_ 8 % 256 == 0 && at_ 12 % 256 == 0 && decide (at_ 8 < 2 * size) && decide (at_ 12 < 2 * size))

/-- The point-mode control registers of a record hold no reserved value (R64, R180 to R182): the LFSR's state 0, the
reserved bits of HWINST and LINKSUB. -/
def controlOk (bs : List Byte) : Bool :=
  fieldAt bs 0x1C 4 != 0 && fieldAt bs 0x20 8 / 2 ^ 35 % 2 ^ 13 == 0 && fieldAt bs 0x28 8 / 2 ^ 32 == 0

/-- A record of section 4 is in order (R157, R158, R166). -/
def recordOk (lcore : Nat) (bs : List Byte) : Bool :=
  let n := fieldAt bs 3 1
  let es := chunks 272 n (bs.drop 0x2400)
  let vt := fieldAt bs 0x10 8
  fieldAt bs 0 2 == lcore && decide (fieldAt bs 2 1 < 4) && decide (n ≤ 128) && decide (fieldAt bs 4 1 ≤ 8) && zeroAt bs 5 3
    && fieldAt bs 8 8 % 4 == 0 && decide (fieldAt bs 8 8 < 2 ^ 52)
    && decide (vt < 2 ^ 11) && decide (vt / 16 ≤ 64) && decide (vt % 16 < 12) && decide (fieldAt bs 0x18 1 < 64)
    && decide (fieldAt bs 0x19 1 ≤ 5) && zeroAt bs 0x1A 2 && zeroAt bs 0x2C 4 && fieldAt bs 0x30 1 % 4 == 1 && zeroAt bs 0x31 15
    && zeroAt bs 0x40 8 && fieldAt bs 0x140 8 == 2 ^ 64 - 1
    && (List.range 4).all (fun i => decide (fieldAt bs (0x200 + 8 * i) 8 < 2 ^ 52))
    && (List.range 16).all (fun i => queueFieldOk bs (0x220 + 16 * i)) && zeroAt bs 0x320 224
    && controlOk bs && pendsOk es && zeroAt bs (0x2400 + 272 * n) (recordLen bs - (0x2400 + 272 * n))

/-- The records of section 4 with their queue stores; none where one is cut short or out of order. -/
def readRecords (queueb : Nat) : Nat → Nat → List Byte → Option (List (List Byte × List Byte))
  | 0, _, bs => if bs.isEmpty then some [] else none
  | n + 1, lcore, bs =>
    let len := recordLen bs
    if bs.length < len + queueb ∨ !recordOk lcore bs then none
    else (readRecords queueb n (lcore + 1) (bs.drop (len + queueb))).map ((bs.take len, (bs.drop len).take queueb) :: ·)

/-- A swap-buffer entry (R160). -/
def readSwap (bs : List Byte) : SwapBuf :=
  { a := fieldAt bs 0 8, b := fieldAt bs 8 8, units := fieldAt bs 16 4, liveB := bit (fieldAt bs 20 1) 0,
    renamed := if bit (fieldAt bs 20 1) 1 then some 0 else none }

/-- A copy intent (R161). -/
def readIntent (bs : List Byte) : Intent :=
  { head := BitVec.ofNat 32 (fieldAt bs 0 4), tail := BitVec.ofNat 32 (fieldAt bs 4 4), ra := BitVec.ofNat 64 (fieldAt bs 8 8),
    rb := BitVec.ofNat 64 (fieldAt bs 16 8), r1 := BitVec.ofNat 64 (fieldAt bs 24 8), r2 := BitVec.ofNat 64 (fieldAt bs 32 8),
    done := fieldAt bs 40 8, lbay := fieldAt bs 48 2, lcid := fieldAt bs 50 1, ended := fieldAt bs 51 1 == 1,
    handle := fieldAt bs 52 2, coord := (List.range 4).map (fun i => fieldAt bs (64 + 4 * i) 4) }

/-- An intent is in order (R161, R166). -/
def intentOk (nlbay : Nat) (bs : List Byte) : Bool :=
  decide (fieldAt bs 48 2 < nlbay) && decide (fieldAt bs 50 1 < 8) && decide (fieldAt bs 51 1 ≤ 1) && zeroAt bs 54 10
    && (List.range 4).all (fun i => decide (fieldAt bs (64 + 4 * i) 4 < 2 ^ 24))

/-- The pieces of `n` bytes of a section; none where its length is no multiple. -/
def evenChunks (n : Nat) (bs : List Byte) : Option (List (List Byte)) :=
  if bs.length % n = 0 then some (chunks n (bs.length / n) bs) else none

/-- What the state check of a cask reads from sections 1 and 3 to 9, if they are in order (CASK_STATE of R166):
the cask and the frontier's records. A cask that comes from outside does not say on which variant its running points
started: the model takes that of the entry in force at the freeze (log entry 103). -/
def readState (draw : Nat) (r : BitVec 2048) (rd wr : List TileEnt) (f : Frontier) (body : List Byte) : Option Cask :=
  let sec := sectionAt body
  let s1 := sec 0
  let nl := rNlbay r
  let swaps := ((rd ++ wr).filter (·.swap)).map (·.base) |>.eraseDups
  let s1ok := s1.length == 0x1C0 + 16 * (rd.length + wr.length)
    && (List.range 8).all (fun i => decide (i < rNopt r) || zeroAt s1 (0x100 + 16 * i) 16)
    && decide (fieldAt s1 0x184 1 < rNopt r) && decide (fieldAt s1 0x186 1 ≤ 3) && zeroAt s1 0x187 57
  let s3ok := (sec 2).length == 4 * nl && (List.range nl).all (fun l => decide (fieldAt (sec 2) (4 * l) 4 < 2 ^ 17))
  match readRecords (rQueueb r) (8 * nl) 0 (sec 3), evenChunks 32 (sec 5), evenChunks 80 (sec 6), evenChunks 24 (sec 7),
      evenChunks 8 (sec 8) with
  | some recs, some sw, some its, some tks, some dps =>
    let running (x : Flight) : Bool := x.ended || bit (fieldAt ((nth recs (x.lbay * 8 + x.lcid) ([], [])).1) 2 1) 0
    if s1ok && s3ok && (sec 4).length == nl * 8 * vaultKeep r && sw.length == swaps.length
        && sw.all (fun b => decide (fieldAt b 20 1 < 4) && zeroAt b 21 11) && its.all (intentOk nl)
        && tks.all (fun e => decide (fieldAt e 20 2 < 8 * nl) && zeroAt e 22 2
          && (fieldAt e 16 4 != 2 ^ 32 - 1 || fieldAt e 20 2 == 0))
        && dps.all (fun e => decide (fieldAt e 0 8 < 2 ^ 52) && decide (fieldAt e 0 8 % 2 ^ 19 < 3))
        && f.flight.all running then
      some {
        src := fieldAt s1 0x186 1, taskId := fieldAt s1 0x180 4, entry := fieldAt s1 0x184 1,
        hint := if bit (fieldAt s1 0x185 1) 7 then some (fieldAt s1 0x185 1 % 8) else none,
        cores := (List.range recs.length).map (fun i =>
          let e := nth recs i ([], [])
          (i, bit (fieldAt e.1 2 1) 0, readRegs (draw + 32 * i) e.1, e.2)),
        vault := chunks (8 * vaultKeep r) nl (sec 4), swaps := sw.map readSwap, intents := its.map readIntent,
        tickets := tks.map (fun e => (fieldAt e 0 8, fieldAt e 8 4, fieldAt e 12 4, fieldAt e 16 4, fieldAt e 20 2)),
        dirty := dps.map (fun e => (fieldAt e 0 8 / 4 * 4, fieldAt e 0 8 % 4)),
        map := (List.range nl).map (fun l => (bit (fieldAt (sec 2) (4 * l) 4) 16, fieldAt (sec 2) (4 * l) 2)),
        variants := List.replicate recs.length (oVariant (fieldAt s1 (0x100 + 16 * fieldAt s1 0x184 1) 16)) }
    else none
  | _, _, _, _, _ => none

/-- The first three checks of R166: format, hash, signature. -/
def caskFormat (bs : List Byte) (requireSig : Bool) : Option Nat :=
  let len := fieldAt bs 8 8
  let body := (bs.drop 128).take len
  let signed := bit (fieldAt bs 6 2) 0
  let key := (bs.drop (128 + len)).take 64
  if fieldAt bs 0 4 ≠ 0x4341534B ∨ fieldAt bs 4 2 ≠ 1 ∨ len % 64 ≠ 0 ∨ len < 192 ∨ 2 ≤ fieldAt bs 6 2 ∨ !zeroAt bs 88 40
      ∨ bs.length ≠ 128 + len + (if signed then 64 + 29792 else 0) ∨ !directoryOk body then some 0x20
  else if Sha.sha256 body ≠ (bs.drop 16).take 32 then some 0x21
  else if signed then
    (if Sha.sha256 key = (bs.drop 48).take 32 ∧ Config.verify 29792 key (bs.take (128 + len)) (bs.drop (128 + len + 64)) then none
     else some 0x22)
  else if requireSig then some 0x22
  else none

/-- The tables of a record that come from section 1; addresses are checked for alignment only (R166). -/
def caskTables (r : BitVec 2048) (s1 : List Byte) : Tables :=
  let tab (a n al off : Nat) : Option (List Nat) := if n ≠ 0 ∧ a % al ≠ 0 then none else some (entries16 n (s1.drop off))
  { opts := if rNopt r < 1 ∨ 8 < rNopt r then none else tab (rcdField r 0x28 8) (rNopt r) 64 0x100
    rd := if 64 < tctl r 49 7 then none else tab (rcdField r 0x70 8) (tctl r 49 7) 16 0x1C0
    wr := if 64 < tctl r 42 7 then none else tab (rcdField r 0x78 8) (tctl r 42 7) 16 (0x1C0 + 16 * tctl r 49 7) }

/-- A cask that has passed its checks: the record, its tables, the frontier, the rest. -/
structure Accepted where
  rcd : BitVec 2048
  opts : List Nat
  rd : List TileEnt
  wr : List TileEnt
  fr : Frontier
  cask : Cask

/-- The checks of R166 in their order: a status, or what the cask holds. -/
def State.checkCask (s : State) (stream j : Nat) (bs : List Byte) (requireSig : Bool) : Except Nat Accepted :=
  match caskFormat bs requireSig with
  | some st => .error st
  | none =>
    let body := (bs.drop 128).take (fieldAt bs 8 8)
    let s1 := sectionAt body 0
    let r := BitVec.ofNat 2048 (fieldAt s1 0 256)
    let s6 := sectionAt body 5
    let swapOk (base units : Nat) : Bool := (chunks 32 (s6.length / 32) s6).any (fun b =>
      (fieldAt b 0 8 == base || fieldAt b 8 8 == base) && fieldAt b 16 4 == units)
    match s.checkRecord stream ((s.job stream j).getD {}).count r (caskTables r s1) swapOk with
    | .error st => .error st
    | .ok x =>
      let s2 := sectionAt body 1
      if !frontierOk r s2 then .error 0x24
      else
        let f := readFrontier s2
        if rHalo r ∧ !f.halosat then .error 0x25
        else match readState s.free r x.2.1 x.2.2 f body with
          | none => .error 0x26
          | some c => .ok ⟨r, x.1, x.2.1, x.2.2, f, { c with frozen := fieldAt bs 80 8 }⟩

end Sys2Proof.Machine
end

