-- ==== Sys2Proof/Machine/Gating.lean ====
section
/-! DEFINITION. Homed pages and the hubs' area, drains, the gating and ungating of compute dies
(spec/01_package.md R22, R23, spec/02_links.md R40 to R43, spec/09_memory.md R215, R216). -/

namespace Sys2Proof.Machine

open Sys2Proof.Bits

/-! ### The leaves of a context -/

/-- The entries of a table that are not all zero. -/
def tableSlots (m : List Host.Cell) (base n : Nat) : List Nat :=
  ((m.filter (fun c => decide (base ≤ c.1) && decide (c.1 < base + 8 * n))).map (fun c => (c.1 - base) / 8)).eraseDups

/-- The leaves under a table, each with the virtual address it maps (R200); of the first level the 0x680 entries that
are read (R199). -/
def leavesAt (m : List Host.Cell) (frames : List (Nat × Nat)) : Nat → Nat → Nat → Nat → List (Nat × Leaf)
  | 0, _, _, _ => []
  | n + 1, lvl, table, va =>
    (tableSlots m table (nth [0x680, 1024, 64, 64] lvl 0)).flatMap (fun i =>
      let a := table + 8 * i
      let e := Memory.read m a 8
      let here := va + i * 2 ^ nth [41, 31, 25, 19] lvl 0
      if !entryOk lvl e frames then []
      else if bit e 1 then [(here, ⟨a, e, nth [0, 31, 25, 19] lvl 19⟩)]
      else leavesAt m frames n (lvl + 1) (entryBase e) here)

/-- The leaves of a stream's context. -/
def State.leaves (s : State) (stream : Nat) : List (Nat × Leaf) :=
  let r := (s.ctx stream).root.toNat
  if rootOk r then leavesAt s.mem s.frames 4 0 (entryBase r) 0 else []

/-- The leaves of every context, with their streams. -/
def State.allLeaves (s : State) : List (Nat × Leaf) :=
  (List.range 8).flatMap (fun n => (s.leaves n).map (fun l => (n, l.2)))

/-- A leaf's page is homed on a die's stack (R201). -/
def Leaf.homedOn (l : Leaf) (d : Nat) : Bool := fieldN l.val 58 2 == 0 && fieldN l.val 54 4 == d

/-- The leaves whose pages are homed on a die's stack, with their streams. -/
def State.homed (s : State) (d : Nat) : List (Nat × Leaf) := s.allLeaves.filter (fun e => e.2.homedOn d)

/-- The frames homed on a die's stack: first cell and log2 of the size. A frame that lies in a larger one moves with it. -/
def State.homedFrames (s : State) (d : Nat) : List (Nat × Nat) :=
  let all := ((s.homed d).map (fun e => (entryBase e.2.val, e.2.bits))).eraseDups
  all.filter (fun p => !all.any (fun q => decide (p.2 < q.2) && p.1 / 2 ^ q.2 == q.1 / 2 ^ q.2))

/-! ### The hubs' area (R215, R216) -/

/-- Bytes of the hubs' area beside the context root table (log entry 56). -/
def areaBytes : Nat := 2 ^ 34 - 64

/-- The frames of the area that a leaf still maps: the others have been remapped elsewhere and are free. -/
def State.liveFrames (s : State) : List (Nat × Nat) :=
  let used := (s.allLeaves.filter (fun e => fieldN e.2.val 58 2 == 1)).map (fun e => fieldN e.2.val 9 32 * 2 ^ 9)
  s.frames.filter (fun f => used.any (fun o => decide (f.1 ≤ o) && decide (o < f.1 + f.2)))

/-- Bytes of the area that casks and moved pages occupy. -/
def State.areaUsed (s : State) : Nat :=
  ((s.tab.tasks.filterMap (fun t => t.cask.map (fun c => if c.area then caskLen t c else 0))).sum)
    + (s.tab.tasks.filterMap (fun t => t.freeze.map (·.room))).sum + (s.liveFrames.map (·.2)).sum

/-- The lowest place for a page of 2^bits bytes in the area, clear of the root table and of other frames. -/
def placeFrame (frames : List (Nat × Nat)) (bits : Nat) : Option Nat :=
  ((List.range (2 ^ (34 - bits))).map (· * 2 ^ bits)).find? (fun o =>
    decide (64 ≤ o) && frames.all (fun f => decide (o + 2 ^ bits ≤ f.1) || decide (f.1 + f.2 ≤ o)))

/-- Places for pages one after another, if all fit. -/
def placeAll : List (Nat × Nat) → List (Nat × Nat) → Option (List (Nat × Nat))
  | _, [] => some []
  | frames, (base, bits) :: ps =>
    match placeFrame frames bits with
    | none => none
    | some o => (placeAll ((o, 2 ^ bits) :: frames) ps).map ((base, o) :: ·)

/-- The pages homed on a die fit the area beside `bytes` more. -/
def State.pagesFit (s : State) (d bytes : Nat) : Bool :=
  let ps := s.homedFrames d
  decide (s.areaUsed + bytes + (ps.map (fun p => 2 ^ p.2)).sum ≤ areaBytes) && (placeAll s.liveFrames ps).isSome

/-- Sectors that are written whole hold good data (R221). -/
def Health.clearSectors (h : Health) (lo n : Nat) : Health :=
  let out (k : Nat) : Bool := !(decide (lo ≤ k) && decide (k < lo + n))
  { h with poison := h.poison.filter out, eccSoft := h.eccSoft.filter out, eccBad := h.eccBad.filter out,
           tagBad := h.tagBad.filter out, eccRetry := h.eccRetry.filter out, keys := h.keys.filter (fun e => out e.1) }

/-- A page's bytes move to another frame, with all that the device keeps by physical place (R216). The granules of a
sealed page stay in the seal set, and those of its new frame join it (R203, log entry 115). -/
def State.moveFrame (s : State) (src dst bits : Nat) : State :=
  let n := 2 ^ bits
  let line := shifted (src / 128) (n / 128) (dst / 128)
  let sec := shifted (src / 512) (n / 512) (dst / 512)
  let s := ((s.moveCells src dst n).relocate src dst n).mapCores (fun c => { c with
    l1 := c.l1.filter (fun (k : L1Copy) => line k.line == k.line), ic := c.ic.filter (fun l => line l == l) })
  let h := s.health.clearSectors (dst / 512) (n / 512)
  { s with
    sealSet := (s.sealSet ++ s.sealSet.map (shifted (src / 2 ^ 19) (n / 2 ^ 19) (dst / 2 ^ 19))).eraseDups
    msc := s.msc.map (fun e => (e.1, e.2.filter (fun (c : CacheLine) => line c.line == c.line)))
    ctxs := s.ctxs.map (fun (e : Nat × Context) =>
      let keep := e.2.pins.filter (fun (p : Nat × Nat) => line p.1 == p.1)
      (e.1, { e.2 with pins := keep, pinUse := e.2.pinUse - BitVec.ofNat 32 (e.2.pins.length - keep.length) }))
    health := { h with poison := h.poison.map sec, eccSoft := h.eccSoft.map sec, eccBad := h.eccBad.map sec,
                       tagBad := h.tagBad.map sec, eccRetry := h.eccRetry.map sec,
                       keys := h.keys.foldl (fun l e => put l (sec e.1) e.2) [] } }

/-- A leaf's word with its page in a frame of the LPDDR-6 tier. -/
def leafAtArea (e off : Nat) : Nat :=
  e - fieldN e 58 2 * 2 ^ 58 - fieldN e 54 4 * 2 ^ 54 - fieldN e 9 32 * 2 ^ 9 + 2 ^ 58 + off

/-- The hubs write the pages homed on a die to the area and rewrite their leaves, those of a page within a larger one to
its place in that one's new frame (R128, R216). -/
def State.movePages (s : State) (d : Nat) : State :=
  let leaves := s.homed d
  let s := { s with frames := s.liveFrames }
  match placeAll s.frames (s.homedFrames d) with
  | none => s
  | some ps =>
    let moved := (s.homedFrames d).filterMap (fun p => (ps.find? (fun q => q.1 == p.1)).map (fun q => (p.1, p.2, q.2)))
    let s := leaves.foldl (fun (s : State) l =>
      match moved.find? (fun p => entryBase l.2.val / 2 ^ p.2.1 == p.1 / 2 ^ p.2.1) with
      | none => s
      | some p =>
        { s with mem := Memory.setAll s.mem l.2.at_ (leBytes 8 (leafAtArea (Memory.read s.mem l.2.at_ 8) (p.2.2 + entryBase l.2.val % 2 ^ p.2.1))),
                 tlb := s.tlb.filter (fun e => e.at_ != l.2.at_) }) s
    moved.foldl (fun (s : State) p =>
      ({ s with frames := s.frames ++ [(p.2.2, 2 ^ p.2.1)] }).moveFrame p.1 (tierBase 1 0 + p.2.2) p.2.1) s

/-! ### Power commands (R133) -/

/-- The command in progress is over. -/
def State.commandDone (s : State) : State :=
  { s with pow := { s.pow with busy := false, waitTasks := [], drainDie := none } }

/-- A command is refused (R133). -/
def State.refuse (s : State) (reason : Nat) : State :=
  { s with pow := { s.pow with refused := true, reason := reason } }

/-- The command in progress is about a die. -/
def State.commandOn (s : State) (d : Nat) : Bool := s.pow.busy && s.pow.drainDie == some d

/-! ### Gating and ungating (R22, R23, R40) -/

/-- A die has a bay bound to a task. -/
def State.liveDie (s : State) (d : Nat) : Bool := (baysOfDie d).any (fun pb => (s.bay pb).bound.isSome)

/-- A die may be gated: no bay of it is live, and no page is homed on its stack (R22). -/
def State.gateable (s : State) (d : Nat) : Bool := !s.liveDie d && (s.homed d).isEmpty

/-- A diode on a gated die is not in fault (R26). -/
def State.clearDiodes (s : State) (d : Nat) : State :=
  { s with pkg := { s.pkg with diodes := s.pkg.diodes.map (fun (e : Nat × Diode) =>
      if e.1 / 8 = d ∧ e.1 < 80 ∨ 80 ≤ e.1 ∧ (e.1 - 80) / 4 = d then (e.1, { e.2 with fault := false, invalid := 0 }) else e) } }

/-- The contents of a die, its vault SRAM and its stack are lost (R22, R217). The rule says no more than lost: what is
read there afterwards is as if nothing had been written (log entry 97). -/
def State.loseDie (s : State) (d : Nat) : State :=
  let cores := (List.range 64).map (· + 64 * d)
  let gone (pa : Nat) : Bool :=
    (decide (tierBase 0 d ≤ pa) && decide (pa < tierBase 0 d + 2 ^ 40))
      || (decide (vaultCell (64 * d) 0 ≤ pa) && decide (pa < vaultCell (64 * d + 64) 0))
      || (decide (queueCell (64 * d) 0 ≤ pa) && decide (pa < queueCell (64 * d + 64) 0))
  let h := s.health
  let s := { s with
    mem := s.mem.filter (fun c => !gone c.1), lines := s.lines.filter (fun e => !gone (128 * e.1)),
    health := { h with poison := h.poison.filter (fun k => !gone (512 * k)), eccSoft := h.eccSoft.filter (fun k => !gone (512 * k)),
                       eccBad := h.eccBad.filter (fun k => !gone (512 * k)), tagBad := h.tagBad.filter (fun k => !gone (512 * k)),
                       eccRetry := h.eccRetry.filter (fun k => !gone (512 * k)),
                       vaultBad := h.vaultBad.filter (fun k => !gone (8 * k)), keys := h.keys.filter (fun e => !gone (512 * e.1)) },
    ctxs := s.ctxs.map (fun (e : Nat × Context) =>
      let keep := e.2.pins.filter (fun (p : Nat × Nat) => !(decide (512 * d ≤ p.2) && decide (p.2 < 512 * d + 512)))
      (e.1, { e.2 with pins := keep, pinUse := e.2.pinUse - BitVec.ofNat 32 (e.2.pins.length - keep.length) })) }
  let s := { s with
    msc := drop s.msc d
    fab := { s.fab with mesh := s.fab.mesh.filter (fun e =>
      !(decide (e.1 / 256 = d) || (decide (2560 ≤ e.1) && decide ((e.1 - 2560) / 64 = d)))) } }
  let s := s.clearDiodes d
  let s := cores.foldl (fun s n => s.modCore n Core.vacate) s
  let s := s.mapCores (fun c => { c with l1 := c.l1.filter (fun k => !gone (128 * k.line)), ic := c.ic.filter (fun l => !gone (128 * l)) })
  s.setStack d { s.stack d with rows := [], open_ := [], holds := [] }

/-- The links of a gated die are GATED; one that is DOWN stays so, to return by a repair alone (R40). -/
def State.gateLinks (s : State) (d : Nat) : State :=
  ((linksOf d).foldl (fun s n =>
    let l := s.link n
    let s := s.setLink n { l with st := if l.st = .down then .down else .gated, go := false }
    s.takeHeld n) s).rewriteRoutes

/-- A die is gated (R22); a die under repair goes on to its ungating (R133). -/
def State.gateNow (s : State) (d : Nat) : State :=
  let x := s.die d
  let s := (s.loseDie d).setDie d { x with power := if x.repair then .ungating else .gated, held := false, drained := false }
  let s := { s with pkg := { s.pkg with lastGate := some s.tick } }
  let s := s.gateLinks d
  if x.repair then s
  else
    let s := s.post 0x0608 d
    let s := { s with pow := { s.pow with gateNext := s.pow.gateNext.filter (· != d) } }
    if s.commandOn d then s.commandDone else s

/-- Successive gatings are at least 250 µs apart (R22). -/
def State.gateTime (s : State) : Bool :=
  match s.pkg.lastGate with
  | none => true
  | some t => decide (t + 25000 ≤ s.tick)

/-! ### Drains (R42, R43) -/

/-- The markers of a drain: for each source router, each place it has sent to since its last drain, each channel. -/
def State.markersOf (s : State) (routers : List Nat) : List (Nat × Nat × Nat) :=
  (s.fab.traffic.filter (fun e => routers.contains e.1)).flatMap (fun e => (List.range 4).map (fun c => (e.1, e.2.1, c)))

/-- A router injects a drain marker, behind the messages it has injected before (R42). Its destination router is the
one at which it reaches its die, its own for messages of its own die; the hubs have none (log entry 61). -/
def State.injectMarker (s : State) (num stamp : Nat) (m : Nat × Nat × Nat) : State :=
  let x := m.1 / 64
  let f : Flit := { stamp := stamp, chan := m.2.2, src := x, dst := m.2.1, fromR := m.1,
                    toR := if m.2.1 = x then m.1 % 64 else edgeOf m.2.1 (s.lastBefore m.2.1 m.2.2 12 x),
                    leaves := s.route x m.2.1 m.2.2, body := .marker num }
  s.inject m.1 f

/-- The lowest drain number from a counter on that no drain in progress bears. -/
def freeDrain (used : List Nat) : Nat → Nat → Nat
  | 0, n => n % 256
  | k + 1, n => if used.contains (n % 256) then freeDrain used k (n + 1) else n % 256

/-- The management core starts a drain, unless 16 are in progress. -/
def State.startDrain (s : State) (routers : List Nat) (task gate : Option Nat) : State :=
  if 16 ≤ s.fab.drains.length then s
  else
    let n := freeDrain (s.fab.drains.map (·.num)) 256 s.fab.nextDrain
    let d : Drain := { num := n, start_ := s.now, stamp := s.fab.stamps, routers := routers, markers := s.markersOf routers,
                       task := task, gate := gate }
    let s := { s with fab := { s.fab with drains := s.fab.drains ++ [d], nextDrain := (n + 1) % 256 } }
    let s := d.markers.foldl (fun s m => s.injectMarker n d.stamp m) s
    match task with
    | none => s
    | some t => s.modTask t (fun t => { t with freeze := t.freeze.map (fun f => { f with drain := some n }) })

/-- The routers of the physical cores bound to a task (R164). -/
def State.routersOf (s : State) (id : Nat) : List Nat := ((s.mapOf id).map (·.1)).flatMap coresOfBay

/-- Steps 2 and 3 of a freeze are over: the task's cores stand at their pegs, with no no-return atomic under way, and
every copy of it is cancelled or complete (R164). -/
def State.stoodDown (s : State) (t : Task) : Bool :=
  !s.copying t.id && (s.routersOf t.id).all (fun n => ((s.core n).point.isNone || (s.core n).frozen) && (s.core n).nr.isEmpty)

/-- The drains that freezes and gatings wait for and that have not started, as far as there is room. -/
def State.startDrains (s : State) : State :=
  let s := s.tab.tasks.foldl (fun s t => match t.freeze with
    | some f => if f.drain.isNone && !f.drained && s.stoodDown t then s.startDrain (s.routersOf t.id) (some t.id) none else s
    | none => s) s
  (List.range 10).foldl (fun s d =>
    if (s.die d).power = .gating ∧ !(s.die d).drained ∧ !s.fab.drains.any (fun x => x.gate == some d) then
      s.startDrain ((List.range 64).map (· + 64 * d)) none (some d)
    else s) s

/-- A gate command that cannot be carried out any more is refused: the die stays powered (R22, R133). -/
def State.giveUpGate (s : State) (d reason : Nat) : State :=
  let x := s.die d
  let s := s.setDie d { x with power := if x.power = .gating then .on else x.power, held := false, drained := false, repair := false }
  let s := { s with pow := { s.pow with gateNext := s.pow.gateNext.filter (· != d) } }
  if s.commandOn d then (s.refuse reason).commandDone else s

/-- A die whose drain is over, or that is lost, is gated as soon as 250 µs have passed since the last gating and if it
still holds no live bay and no homed page (R22). -/
def State.gateDue (s : State) (d : Nat) : State :=
  if !s.gateable d then s.giveUpGate d 4
  else if s.gateTime then s.gateNow d
  else s.setDie d { s.die d with held := true, drained := true }

/-- A drain whose every marker is acknowledged completes: its freeze goes on, or its die is gated. What its routers
have sent before it needs no marker again. -/
def State.endDrain (s : State) (d : Drain) : State :=
  let s := { s with fab := { s.fab with
    drains := s.fab.drains.filter (fun x => x.num != d.num),
    traffic := s.fab.traffic.filter (fun e => !(d.routers.contains e.1 && decide (e.2.2 < d.stamp))) } }
  let s := match d.task with
    | none => s
    | some t => s.modTask t (fun t => { t with freeze := t.freeze.map (fun f => if f.drain = some d.num then { f with drained := true } else f) })
  match d.gate with
  | none => s
  | some g => s.gateDue g

/-- Starts the drains that wait, and completes those with no marker left. -/
def State.runDrains (s : State) : State :=
  let s := s.startDrains
  let s := (s.fab.drains.filter (fun d => d.markers.isEmpty)).foldl State.endDrain s
  let s := s.startDrains
  (s.fab.drains.filter (fun d => d.markers.isEmpty)).foldl State.endDrain s

/-- A gate command is carried out if the die still may be gated: at once if it is lost or drained, else after a drain
of its routers (R22, R42). -/
def State.carryGate (s : State) (d : Nat) : State :=
  if (s.die d).lost ∨ (s.die d).drained then s.gateDue d
  else if !s.gateable d then s.giveUpGate d 4
  else (s.setDie d { s.die d with power := .gating, held := false }).runDrains

/-- A gate command, held while 250 µs have not passed since the last gating (R22). -/
def State.startGate (s : State) (d : Nat) : State :=
  if s.gateTime then s.carryGate d else s.setDie d { s.die d with held := true }

/-- The pages homed on a die move to the area, if they fit, and the die is gated; else it stays powered (R133,
R216). -/
def State.moveAndGate (s : State) (d : Nat) : State :=
  if s.pagesFit d 0 then (s.movePages d).startGate d else s.giveUpGate d 6

/-- The next die that a park response gates: in ascending number, once no bay of it is live and one gating at a
time (R128). One whose pages do not fit stays powered, which is posted (R216). -/
def State.nextGate (s : State) : State :=
  if (List.range 10).any (fun d => (s.die d).power == .gating || (s.die d).held) then s
  else match s.pow.gateNext.find? (fun d => (s.die d).power == .on) with
    | none => s
    | some d =>
      if s.liveDie d then s
      else if s.pagesFit d 0 then s.moveAndGate d
      else (s.giveUpGate d 6).post 0x060A d

/-- A die takes power and runs its self-test (R23). -/
def State.startUngate (s : State) (d : Nat) : State := s.setDie d { s.die d with power := .ungating }

/-- The links of an ungated die train, afresh after a repair, where the other end has power; one whose other end has
none is GATED until that die is ungated (R40, R133). -/
def State.trainLinks (s : State) (d : Nat) (afresh : Bool) : State :=
  ((linksOf d).foldl (fun s n =>
    let o := farEnd n d
    let l := s.link n
    if o < 10 ∧ ((s.die o).power = .gated ∨ (s.die o).power = .ungating) then
      (if afresh then s.setLink n { l.renewed with st := .gated } else s)
    else
      if afresh then s.setLink n l.afresh
      else if l.st = .gated then s.setLink n (l.train (min l.step l.maxStep))
      else s) s).rewriteRoutes

/-- The end of an ungating (R23, R133): the die is back, or has failed its self-test and stays gated, until a host
command ungates it (R21). -/
def State.ungateEnds (s : State) (d : Nat) (ok : Bool) : State :=
  let x := s.die d
  if x.power ≠ .ungating then s
  else
    let s :=
      if ok then
        let s := { s with cores := s.cores.map (fun (e : Nat × Core) => if e.1 / 64 = d then (e.1, { e.2 with jigs := [] }) else e) }
        let s := s.setDie d { x with power := .on, repair := false, failed := false, lost := x.lost && !x.repair, missed := 0, beat := true }
        (s.trainLinks d x.repair).post 0x0609 d
      else ((s.clearDiodes d).setDie d { x with power := .gated, repair := false, failed := true }).post 0x0101 d
    if s.commandOn d then s.commandDone else s

end Sys2Proof.Machine
end

