-- ==== Sys2Proof/Machine/Curves.lean ====
section
/-! DEFINITION. The default budget, budget curves and the facility key (spec/06_energy.md R112 to R118). -/

namespace Sys2Proof.Machine

open Sys2Proof.Bits

/-- DEFBUDGET_WRITE (R113): v is written; a value outside 400 to 3,300 W is reserved. -/
def execDefbudgetWrite (s : State) : Out :=
  let w := fieldN s.inp.v.toNat 0 16
  hostAct s (if 400 ≤ w ∧ w ≤ 3300 then { s with pow := { s.pow with defBudget := w } } else s)

/-! ### Curves (R114 to R117) -/

/-- CURVE_GO (R115): v is written to CURVECTL with GO = 1; LEN bytes of the buffer go to the verifier. -/
def execCurveGo (s : State) : Out :=
  let len := fieldN s.inp.v.toNat 0 14
  let p := { s.pow with curveLen := len }
  hostAct s { s with pow := if p.verifying.isSome then p else { p with verifying := some (Memory.getAll p.curveBuf 0 len) } }

/-- The point of a curve at an index: offset, watts, grade, its zero bits. -/
def curvePoint (bs : List Byte) (i : Nat) : Nat × Nat × Nat × Nat :=
  let o := 64 + 8 * i
  (fieldAt bs o 5, fieldAt bs (o + 5) 2, fieldAt bs (o + 7) 1 % 4, fieldAt bs (o + 7) 1 / 4)

/-- The first check of R116. -/
def curveMalformed (bs : List Byte) (now : Nat) : Bool :=
  let n := fieldAt bs 6 2
  let ps := (List.range n).map (curvePoint bs)
  let ts := ps.map (·.1)
  let vfrom := fieldAt bs 16 8
  let vto := fieldAt bs 24 8
  bs.length != 64 + 8 * n + 7856 || fieldAt bs 0 4 != 0x43555256 || fieldAt bs 4 2 != 1 || n == 0 || decide (256 < n)
    || fieldAt bs 8 8 == 0 || !zeroAt bs 48 16 || ps.any (fun p => p.2.2.2 != 0) || ts.headD 1 != 0
    || !(ts.zip ts.tail).all (fun e => decide (e.1 < e.2)) || decide (vto ≤ vfrom + ts.getLastD 0) || decide (vto ≤ now)
    || (!zeroAt bs 32 16 && (bs.drop 32).take 16 != idMeasBytes.take 16)

/-- The facility key as bytes. -/
def keyBytes (k : BitVec 256) : List Byte := leBytes 32 k.toNat

/-- The code of a verification (R116). -/
def Power.curveCheck (p : Power) (bs : List Byte) (now : Nat) : Nat :=
  let n := fieldAt bs 6 2
  if curveMalformed bs now then 0x04
  else match p.fkey with
    | none => 0x05
    | some k =>
      if !Config.verify 7856 (keyBytes k) (bs.take (64 + 8 * n)) (bs.drop (64 + 8 * n)) then 0x01
      else if fieldAt bs 8 8 ≤ p.maxSeq then 0x02
      else if (List.range n).any (fun i => let w := (curvePoint bs i).2.1; decide (w < 400) || decide (3300 < w)) then 0x03
      else 0

/-- The curve that bytes describe. -/
def readCurve (bs : List Byte) : Curve :=
  { seq := fieldAt bs 8 8, vfrom := fieldAt bs 16 8, vto := fieldAt bs 24 8,
    points := (List.range (fieldAt bs 6 2)).map (fun i => let p := curvePoint bs i; (p.1, p.2.1, p.2.2.1)) }

/-- The index of the segment of a curve at an instant. -/
def Curve.segmentAt (c : Curve) (now : Nat) : Nat :=
  (c.points.filter (fun p => decide (c.vfrom + p.1 ≤ now))).length - 1

/-- The grade of a segment (R114). -/
def Curve.gradeOf (c : Curve) (i : Nat) : Nat := (nth c.points i (0, 0, 0)).2.2

/-- Every segment of the curve in force that has started up to an instant counts as a start for the loop to act on
(R126). -/
def Power.noteStarts (p : Power) (now : Nat) : Power :=
  match p.inForce with
  | none => p
  | some c =>
    let j := c.segmentAt now
    let i := match p.segment with
      | some i => i + 1
      | none => j
    { p with segment := some j, starts := p.starts ++ ((List.range (j + 1)).drop i).map c.gradeOf }

/-- A curve comes into force at an instant: that counts as a segment start, with the grade of the point in force then
(R117). -/
def Power.force (p : Power) (c : Curve) (now : Nat) : Power :=
  let p := p.noteStarts now
  let i := c.segmentAt now
  { p with inForce := some c, segment := some i, starts := p.starts ++ [c.gradeOf i] }

/-- CURVE_VERIFY_DONE (R116, R117): the verification ends; during a handover it waits (R28). -/
def execCurveVerifyDone (s : State) : Out :=
  .next (match s.pow.verifying with
    | none => s
    | some bs =>
      if s.pkg.mgmt.moving then s
      else
        let code := s.pow.curveCheck bs s.now
        let p := { s.pow with verifying := none, curveCode := code }
        if code ≠ 0 then ({ s with pow := p }).post 0x0602 code
        else
          let c := readCurve bs
          let p := { p with maxSeq := c.seq }
          ({ s with pow := if c.vfrom ≤ s.now then p.force c s.now else { p with pending := some c } }).post 0x0601 0)

/-- CURVE_IN_FORCE (R117): a pending curve comes into force at its VFROM. -/
def execCurveInForce (s : State) : Out :=
  .next (match s.pow.pending with
    | none => s
    | some c => if c.vfrom ≤ s.now then { s with pow := { s.pow with pending := none }.force c s.now } else s)

/-- CURVE_EXPIRE (R117): at VTO the curve leaves force, which counts as a segment start with grade 0. -/
def execCurveExpire (s : State) : Out :=
  .next (match s.pow.inForce with
    | none => s
    | some c =>
      if c.vto ≤ s.now then
        let p := s.pow.noteStarts s.now
        ({ s with pow := { p with inForce := none, segment := none, starts := p.starts ++ [0] } }).post 0x0603 0
      else s)

/-! ### The facility key (R118) -/

/-- FKEY_INSTALL (R118): FKEYCTL.GO; ignored once LOCK is set. -/
def execFkeyInstall (s : State) : Out :=
  hostAct s (if s.pow.fkeyLock then s
    else { s with pow := { s.pow with fkey := some s.pow.fkeyBuf, pending := none, maxSeq := 0 } })

/-- FKEY_LOCK (R118): FKEYCTL.LOCK sets. -/
def execFkeyLock (s : State) : Out := hostAct s { s with pow := { s.pow with fkeyLock := true } }

end Sys2Proof.Machine
end

