-- ==== Sys2Proof/Machine/Control.lean ====
section
/-! DEFINITION. Prefixes, control transfer, control registers, pegs, ending, traps and the host window
(spec/12_encoding.md R275 to R277, spec/08_core.md R180 to R183, spec/13_isa_scalar.md R321 to R324,
spec/03_host.md R62 to R64). -/

namespace Sys2Proof.Machine

open Sys2Proof.Bits

/-! ### Prefixes -/

/-- MOD (R275): its fields stand for the next op of the bundle. -/
def execMod (r : BitVec 3) (t h : BitVec 2) (f : BitVec 4) (m : BitVec 1) (s : State) : Out :=
  .next { s with bundle := { s.bundle with mod := some ⟨r, t, h, f, m == 1#1⟩ } }
/-- IMM (R276): its upper bits stand for the next op of the bundle. -/
def execImm (i : BitVec 26) (s : State) : Out := .next { s with bundle := { s.bundle with imm := some i } }

/-- An entry of the agent's target buffer. -/
def State.tbr (s : State) (n : BitVec 2) : Target := s.scalar.tb[n.toNat]'(n.isLt)

/-- A transfer through a target-buffer entry (R183): TB_EMPTY unless it is prepared. -/
def State.transfer (s : State) (t : BitVec 2) : State :=
  if (s.tbr t).prepared then { s with bundle := { s.bundle with xfer := some (s.tbr t).addr } }
  else s.trap ⟨BitVec.ofNat 8 tcTbEmpty, 0#64⟩

/-- XFER (R183, R277): a guarded-off XFER does nothing. -/
def execXfer (g : BitVec 3) (t : BitVec 2) (s : State) : Out := anyOp g s (fun s => s.transfer t)
/-- XFER with the link bit (R183, R277): x30 := the address of the next sequential bundle, latency 1. -/
def execXferLink (t : BitVec 2) (s : State) : Out :=
  .next ((s.transfer t).putX 30#5 1 (BitVec.ofNat 64 s.bundle.next.toNat))

/-! ### The target buffer (R321) -/

/-- Writes a target-buffer entry; an XFER of the same bundle uses it (R183). -/
def State.prepare (s : State) (n : BitVec 2) (a : BitVec 52) : State :=
  s.setScalar { s.scalar with tb := s.scalar.tb.set n.toNat ⟨a, true, 3⟩ n.isLt }

/-- TPREP: relative to the bundle's address. -/
def execTprep (g : BitVec 3) (n : BitVec 2) (o : BitVec 15) (s : State) : Out :=
  anyOp g s (fun s => s.prepare n (s.bundle.pc + BitVec.ofInt 52 (4 * s.immediate o.toNat 15)))
/-- TPREPX: relative to x30. -/
def execTprepx (g : BitVec 3) (n : BitVec 2) (o : BitVec 15) (s : State) : Out :=
  anyOp g s (fun s => s.prepare n ((s.xr 30#5).extractLsb' 0 52 + BitVec.ofInt 52 (4 * s.immediate o.toNat 15)))
/-- TREAD: the target address, with bit 0 set if the entry is prepared; latency 2. -/
def execTread (g : BitVec 3) (d : BitVec 5) (n : BitVec 2) (s : State) : Out :=
  anyOp g s (fun s => s.putX d 2 (BitVec.ofNat 64 ((s.tbr n).addr.toNat ||| boolN (s.tbr n).prepared)))

/-! ### Control registers (R180, R322) -/

/-- VTYPE (R181). -/
def Regs.vtype (r : Regs) : Nat := r.lanes.toNat * 16 + r.fmt.toNat

/-- A control register as a command sequencer reads it (R299). -/
def State.csrSeq (s : State) (n : Nat) : Nat :=
  match n with
  | 0x021 => s.arith.fflags.toNat
  | 0x022 => s.arith.frm.toNat
  | 0x023 => s.arith.srseed.toNat
  | 0x030 => s.pts
  | 0x031 => match s.focus with
    | .seq q => (s.seq q).cyc
    | _ => 0
  | 0x032 => s.tick
  | 0x131 => match s.focus with
    | .seq q => (s.seq q).agelim.toNat
    | _ => 0
  | _ => 0

/-- A control register as a core reads it (R145, R180). -/
def State.csrCore (s : State) (n : Nat) : Nat :=
  let c := s.my
  match n with
  | 0x001 => c.lcid
  | 0x002 => c.lbay
  | 0x003 => c.nlcore
  | 0x004 => c.taskId
  | 0x010 => (c.coord[0]).toNat
  | 0x011 => (c.coord[1]).toNat
  | 0x012 => (c.coord[2]).toNat
  | 0x013 => (c.coord[3]).toNat
  | 0x020 => c.pt.vtype
  | 0x021 => c.pt.ar.fflags.toNat
  | 0x022 => c.pt.ar.frm.toNat
  | 0x023 => c.pt.ar.srseed.toNat
  | 0x030 => c.pts
  | 0x031 => c.cyc
  | 0x032 => s.tick
  | 0x100 => c.trapCause.toNat
  | 0x101 => c.trapAddr.toNat
  | 0x102 => c.trapInfo.toNat
  | 0x103 => c.peg.sc.pc.toNat
  | 0x104 => c.wdog.toNat * 2 ^ 8 + boolN c.frame
  | 0x105 => c.frameVec.toNat
  | 0x110 => (s.ctx s.stream).pinLim.toNat
  | 0x111 => (s.ctx s.stream).pinUse.toNat
  | 0x120 => c.pt.linksub.toNat
  | 0x121 => c.pt.hwinst.toNat
  | 0x130 => s.opstate s.me
  | _ => 0

/-- A control register as the agent reads it. -/
def State.csr (s : State) (n : Nat) : Nat := if s.mode = .seq then s.csrSeq n else s.csrCore n

/-- A value places a reserved value in a defined field, so the write is discarded whole (R9, R145, R181,
R182, R299). -/
def csrReserved (n v : Nat) : Bool :=
  match n with
  | 0x020 => decide (64 < fieldN v 4 7) || decide (12 ≤ fieldN v 0 4)
  | 0x022 => decide (6 ≤ fieldN v 0 3)
  | 0x023 => fieldN v 0 32 == 0
  | 0x104 => fieldN v 8 16 == 0
  | 0x131 => fieldN v 0 8 == 0
  | _ => false

/-- The registers a command sequencer's write reaches (R299). -/
def seqWrites (n : Nat) : Bool := n == 0x021 || n == 0x022 || n == 0x023 || n == 0x131

/-- A write of a control register (R180, R299, R322): PRIVILEGE in point mode at 0x100 and above; else it
is seen by the next bundle. -/
def State.writeCsr (s : State) (op n : Nat) (v : W64) : State :=
  if s.mode = .point ∧ 0x100 ≤ n then s.privilege op
  else if csrReserved n v.toNat ∨ (s.mode = .seq ∧ !seqWrites n) then s
  else s.issue [{ dest := .csr n v, togo := 1 }]

/-- CSRR: latency 2. -/
def execCsrr (g : BitVec 3) (d : BitVec 5) (c : BitVec 12) (s : State) : Out :=
  anyOp g s (fun s => s.putX d 2 (BitVec.ofNat 64 (s.csr c.toNat)))
/-- CSRW. -/
def execCsrw (g : BitVec 3) (d : BitVec 5) (c : BitVec 12) (s : State) : Out :=
  anyOp g s (fun s => s.writeCsr 0x04 c.toNat (s.xr d))
/-- CSRS; with d = 0 it writes nothing. -/
def execCsrs (g : BitVec 3) (d : BitVec 5) (c : BitVec 12) (s : State) : Out :=
  anyOp g s (fun s => if d = 0#5 then s else s.writeCsr 0x05 c.toNat (BitVec.ofNat 64 (s.csr c.toNat) ||| s.xr d))
/-- CSRC; with d = 0 it writes nothing. -/
def execCsrc (g : BitVec 3) (d : BitVec 5) (c : BitVec 12) (s : State) : Out :=
  anyOp g s (fun s => if d = 0#5 then s else s.writeCsr 0x06 c.toNat (BitVec.ofNat 64 (s.csr c.toNat) &&& ~~~s.xr d))

/-! ### Pegs, ending, traps (R323, R324) -/

/-- PEG: in point mode its bundle commits a peg; elsewhere it has no effect (R298, R323). -/
def execPeg (s : State) : Out :=
  .next (if s.mode = .point then { s with bundle := { s.bundle with peg := true } } else s)

/-- END: in point mode its bundle commits as a peg and the point ends, in frame mode the point is
abandoned, on a command sequencer the stream becomes IDLE, each as the bundle retires (R323). -/
def execEndOp (s : State) : Out :=
  .next { s with bundle := { s.bundle with peg := s.bundle.peg || decide (s.mode = .point), ended := true } }

/-- TRAP (0x70) and BRK (0x71): TRAPINFO holds the immediate's bits [32:0] (R145, R324). -/
def explicitTrap (cause : Nat) (g : BitVec 3) (i : BitVec 7) (s : State) : Out :=
  anyOp g s (fun s => s.trap ⟨BitVec.ofNat 8 cause, BitVec.ofNat 64 (wrapN (s.immediate i.toNat 7) 33)⟩)
/-- TRAP. -/
def execTrap (g : BitVec 3) (i : BitVec 7) (s : State) : Out := explicitTrap 0x70 g i s
/-- BRK. -/
def execBrk (g : BitVec 3) (i : BitVec 7) (s : State) : Out := explicitTrap 0x71 g i s

/-- ERET: in frame mode its bundle returns to point mode at PEGADDR; elsewhere it raises PRIVILEGE
(R324). -/
def execEret (s : State) : Out :=
  .next (if s.mode = .frame then { s with bundle := { s.bundle with eret := true } } else s.privilege 0x0C)

/-! ### The host window (R62 to R64) -/

/-- The payload bytes of a group. -/
def groupBytes (ts : List Tlp) : Nat := ts.foldl (fun n t => n + t.bytes.length) 0

/-- HWINST after a cut (R64). -/
def hwinstOf (stream seq bytes : Nat) : W64 := BitVec.ofNat 64 (seq * 2 ^ 48 + stream * 2 ^ 32 + bytes % 2 ^ 32)

/-- A core's HWINST is written; a command sequencer has none (R299). -/
def State.noteHwin (s : State) (v : W64) : State :=
  if s.mode = .seq then s else s.modRegs (fun r => { r with hwinst := v })

/-- An agent waits at an HWIN whose group has been cut. -/
def State.waitsHwin (s : State) (a : Agent) : Bool :=
  match a with
  | .core n | .jig n => (s.core n).wait == .hwin
  | .seq n => (s.seq n).wait == .hwin

/-- The cut of the HWIN bundle at which the agent waits: its last. A cut whose bundle was given up, by a halt, a trap,
a rotation or a rollback, is no bundle's any more (R63). -/
def State.cutOf (s : State) : Option Cut :=
  if s.waitsHwin s.focus then (s.host.cuts.filter (fun c => c.who == s.focus)).getLast? else none

/-- The agent's HWIN bundle waits, and its group has been applied: nothing comes before the bundle's retirement
(R63). -/
def State.groupIn (s : State) (a : Agent) : Bool :=
  s.waitsHwin a && (s.host.cuts.filter (fun c => c.who == a)).getLast?.any (·.applied)

/-- The agent's HWIN bundle waits and its group has not been applied: its clock domain is frozen (R63). -/
def State.hwinFrozen (s : State) (a : Agent) : Bool := s.waitsHwin a && !s.groupIn a

/-- The cut of a stream's group for the agent (R63): GROUPSEQ increments, the group leaves the buffer. Whether a group
that is cut and not yet applied still counts in INGUSED is left open (log entry 95). -/
def State.takeCut (s : State) : State :=
  let n := s.stream
  let x := s.strm n
  let q := (x.groupSeq + 1) % 2 ^ 16
  let s' := s.setStrm n { x with groupSeq := q, ingress := [], fullSince := none }
  { s' with host := { s'.host with cuts := s'.host.cuts ++ [⟨s.focus, n, q, x.ingress, false, 0⟩] } }

/-- HWIN: an empty group applies at once; for another the bundle waits until the group cut at its issue
has been applied, then HWINST is written (R63). The agent's later accesses come after the group (R239). -/
def execHwin (s : State) : Out :=
  .next (match s.cutOf with
    | some c =>
      if c.applied then
        (({ s with host := { s.host with cuts := s.host.cuts.filter (fun k => k != c) } }).noteHwin
          (hwinstOf c.stream c.seq (groupBytes c.tlps))).setPts c.time
      else s.stall .hwin
    | none =>
      let n := s.stream
      let q := ((s.strm n).groupSeq + 1) % 2 ^ 16
      if (s.strm n).ingress.isEmpty then
        (s.modStrm n (fun x => { x with groupSeq := q })).noteHwin (hwinstOf n q 0)
      else s.stall .hwin)

end Sys2Proof.Machine
end

