-- ==== Sys2Proof/Machine/System.lean ====
section
/-! DEFINITION. Work, carve-out, pinning, translation and link operations of class SC
(spec/13_isa_scalar.md R325 to R333, spec/09_memory.md R203 to R212). -/

namespace Sys2Proof.Machine

open Sys2Proof.Bits

/-- A status in xd: "arr" on a core, the next bundle's on a command sequencer (R329). -/
def State.putStatus (s : State) (d : BitVec 5) (v : Nat) : State := s.putX d 6 (BitVec.ofNat 64 v)

/-- Reads a 256-byte record at an address aligned to 256 bytes, with the traps of R325 and R335. -/
def State.readRecord (s : State) (ea : W64) (k : State → BitVec 2048 → State) : State :=
  if ea.toNat % 256 ≠ 0 then s.trapAt tcAlignment 256 (ea.toNat % 2 ^ 52)
  else s.withEa ea 256 (fun s va =>
    s.onGot 256 (s.load s.view va 256) (fun s r =>
      match r.2 with
      | some (c, x) => s.trapAt c 256 x
      | none => k s (BitVec.ofNat 2048 (leNat r.1))))

/-- A submission's answer: status in [7:0], TASKID in [63:32] (R325, R335). -/
def submitWord (status id : Nat) : Nat := status + id * 2 ^ 32

/-- SPAWN (R325): the record joins the job of the point; FULL where no entry is free (R79). -/
def execSpawn (g : BitVec 3) (d a : BitVec 5) (s : State) : Out :=
  coreOp 0x0D g s (fun s =>
    s.readRecord (s.xr a) (fun s r =>
      match s.submit s.stream s.my.job r true with
      | some (s, st, id) => s.putStatus d (submitWord st id)
      | none => s.putStatus d (submitWord 2 0)))

/-- CANCELJ (R326). -/
def execCancelj (g : BitVec 3) (d a : BitVec 5) (s : State) : Out :=
  anyOp g s (fun s =>
    let r := s.cancelJob s.stream (fieldN (s.xr a).toNat 0 13)
    r.1.putStatus d r.2)

/-! ### PHASE (R207, R208, R327) -/

/-- A slice of a core holds pinned lines (R211). -/
def State.slicePinned (s : State) (core slice : Nat) : Bool :=
  s.ctxs.any (fun e => e.2.pins.any (fun p => p.2 == 8 * core + slice))

/-- The change of DSLICES to n: raised slices start at zero unless they were lowered since the last peg,
which returns their contents; lowered slices keep theirs until the next peg (R207). -/
def State.carve (s : State) (n : Nat) : State :=
  let c := s.my
  let old := c.pt.dslices
  let up := (List.range 8).filter (fun i => decide (old ≤ i) && decide (i < n))
  let down := (List.range 8).filter (fun i => decide (n ≤ i) && decide (i < old))
  let fresh := up.filter (fun i => !c.lowered.contains i)
  let me := s.me
  let s := fresh.foldl (fun s i => s.zero (vaultCell me (i * sliceBytes)) sliceBytes) s
  s.modMy (fun c => { c with
    lowered := c.lowered.filter (fun i => !up.contains i) ++ down,
    pt := { c.pt with dslices := n, raised := up, phaseBusy := true } })

/-- PHASE (R327): the status of R207 lands at the declared arrival, that of pinned lines at once. Whether the drain has
ended by then is not told by cycles: the result is late, and the core freezes for it, where the inputs say so (log entry
18). -/
def execPhase (g : BitVec 3) (d : BitVec 5) (n : BitVec 4) (m : BitVec 8) (s : State) : Out :=
  coreOp 0x0F g s (fun s =>
    let want := min n.toNat 8
    let arr := if m = 0#8 then 255 else m.toNat
    let c := s.my
    if c.pt.phaseBusy then s.putX d arr 2#64
    else if (List.range 8).any (fun i => decide (c.pt.dslices ≤ i) && decide (i < want) && s.slicePinned s.me i) then
      s.putX d 1 1#64
    else
      let (late, s) := (s.carve want).lateNext
      s.issue [{ dest := .phase d 0#64, togo := arr, arrived := !late }])

/-- OPREQ (R120, R328): sets or clears the hint of the task whose point the core holds. -/
def execOpreq (g : BitVec 3) (a : BitVec 5) (s : State) : Out :=
  coreOp 0x16 g s (fun s =>
    let v := (s.xr a).toNat
    match s.my.point with
    | none => s
    | some (id, _) => s.modTask id (fun t =>
        { t with hint := if bit v 3 ∧ fieldN v 0 3 < t.opts.length then some (fieldN v 0 3) else none }))

/-! ### Pinning (R211, R329) -/

/-- The register after the one a names (R329): the sealer refuses a = 31. -/
def nextReg (a : BitVec 5) : BitVec 5 := a + 1#5

/-- The physical lines of a window, each with its home stack; none where a page is not mapped in HBM
(R211). -/
def State.windowLines (s : State) (va lines : Nat) : Option (List (Nat × Nat)) :=
  allSome ((List.range lines).map (fun i =>
    let a := va + 128 * i
    if 13 * 2 ^ 48 ≤ a then none
    else match s.walk s.stream a with
      | none => none
      | some l =>
        if fieldN l.val 58 2 = 0 then some ((entryBase l.val + a % 2 ^ l.bits) / 128, fieldN l.val 54 4) else none))

/-- The lines already pinned into a slice, by every context. -/
def State.pinnedIn (s : State) (slice : Nat) : Nat :=
  s.ctxs.foldl (fun n e => n + (e.2.pins.filter (fun p => p.2 == slice)).length) 0

/-- The cache slices a mask selects on a die: 8 × physical core + slice. A slice lowered since the last peg is not one
yet (R207). -/
def State.cacheSlices (s : State) (die mask : Nat) : List Nat :=
  ((List.range 64).filter (fun i => bit mask i)).flatMap (fun i =>
    let c := 64 * die + i
    ((List.range 8).filter (fun k => decide ((s.core c).pt.dslices ≤ k) && !(s.core c).lowered.contains k)).map (fun k => 8 * c + k))

/-- Lines put into slices in turn, each slice up to its room of 448 KiB (R211); none if they do not fit. -/
def fillSlices (room : List (Nat × Nat)) (lines : List Nat) : Option (List (Nat × Nat)) :=
  match room with
  | [] => if lines.isEmpty then some [] else none
  | (sl, n) :: rest => (fillSlices rest (lines.drop n)).map ((lines.take n).map (fun l => (l, sl)) ++ ·)

/-- PINW's check and effect (R211). -/
def State.pin (s : State) (va lines mask : Nat) : State × Nat :=
  if va % 128 ≠ 0 then (s, 1)
  else match s.windowLines va lines with
    | none => (s, 1)
    | some ls =>
      let home := (ls.head?.map (·.2)).getD 0
      let c := s.ctx s.stream
      if ls.any (fun l => l.2 != home) then (s, 2)
      else if c.pinLim.toNat < c.pinUse.toNat + lines then (s, 3)
      else match fillSlices ((s.cacheSlices home mask).map (fun k => (k, 3584 - s.pinnedIn k))) (ls.map (·.1)) with
        | none => (s, 4)
        | some p => ((p.foldl (fun s l => s.accessRow l.1) s).setCtx s.stream
            { c with pins := c.pins ++ p, pinUse := c.pinUse + BitVec.ofNat 32 lines }, 0)

/-- UNPINW's effect (R211, R329): the number of lines released. -/
def State.unpin (s : State) (va lines : Nat) : State × Nat :=
  let c := s.ctx s.stream
  let ls := (List.range lines).filterMap (fun i => (s.walk s.stream (va + 128 * i)).map (fun l =>
    (entryBase l.val + (va + 128 * i) % 2 ^ l.bits) / 128))
  let gone := (c.pins.filter (fun p => ls.contains p.1)).length
  (s.setCtx s.stream { c with pins := c.pins.filter (fun p => !ls.contains p.1), pinUse := c.pinUse - BitVec.ofNat 32 gone }, gone)

/-- PINW (R329). -/
def execPinw (g : BitVec 3) (d a b : BitVec 5) (s : State) : Out :=
  frameOp 0x10 g s (fun s =>
    let r := s.pin (s.xr a).toNat (s.xr (nextReg a)).toNat (s.xr b).toNat
    r.1.putStatus d r.2)
/-- UNPINW (R329). -/
def execUnpinw (g : BitVec 3) (d a : BitVec 5) (s : State) : Out :=
  frameOp 0x11 g s (fun s =>
    let r := s.unpin (s.xr a).toNat (s.xr (nextReg a)).toNat
    r.1.putStatus d r.2)

/-! ### TLBINV (R330) -/

/-- Drops the TLB entries that a condition selects, in every TLB of the device. -/
def State.dropTlb (s : State) (p : TlbEntry → Bool) : State := { s with tlb := s.tlb.filter (fun e => !p e) }

/-- Unseals the granules under a leaf and clears its SEAL bit; instruction caches hold sealed lines only (R203, R209,
R330). -/
def State.unseal (s : State) (l : Leaf) : State :=
  let lo := entryBase l.val / 2 ^ 19
  let n := 2 ^ (l.bits - 19)
  let b := Memory.get s.mem (l.at_ + 6)
  let s := { s with sealSet := s.sealSet.filter (fun g => !(decide (lo ≤ g) && decide (g < lo + n))),
                    mem := Memory.set s.mem (l.at_ + 6) (b &&& 0xDF#8) }
  (s.mapCores (fun c => { c with ic := c.ic.filter (fun k => !(decide (lo ≤ k / 4096) && decide (k / 4096 < lo + n))) })).dropTlb
    (fun e => e.at_ == l.at_)

/-- TLBINV (R330). -/
def execTlbinv (g : BitVec 3) (d a b : BitVec 5) (f : BitVec 2) (s : State) : Out :=
  frameOp 0x12 g s (fun s =>
    let va := (s.xr a).toNat
    let n := s.stream
    match f.toNat with
    | 0 => (s.dropTlb (fun e => e.stream == n && va / 2 ^ e.bits == e.base / 2 ^ e.bits)).putStatus d 0
    | 1 => (s.dropTlb (fun e => e.stream == n)).putStatus d 0
    | 2 =>
      let k := fieldN (s.xr b).toNat 0 3
      if rootOk va then ((s.setCtx k { s.ctx k with root := s.xr a }).dropTlb (fun e => e.stream == k)).putStatus d 0
      else s.putStatus d 1
    | _ =>
      match if va < 13 * 2 ^ 48 then s.walk n va else none with
      | some l => (s.unseal l).putStatus d 0
      | none => s.putStatus d 1)

/-! ### DIRTYH (R170, R331) -/

/-- Reads and clears the dirty bit of the page that covers an address, once for each page of the range:
the pages harvested so far with their state. -/
def State.harvestAt (s : State) (seen : List (Nat × Bool)) (va : Nat) : State × List (Nat × Bool) × Bool :=
  match if va < 13 * 2 ^ 48 then s.walk s.stream va else none with
  | none => (s, seen, false)
  | some l =>
    match find? seen l.at_ with
    | some b => (s, seen, b)
    | none =>
      let dirty := bit l.val 52
      let s := if dirty then
          ({ s.touchLine ((l.at_ + 6) / 128) with mem := Memory.set s.mem (l.at_ + 6) (Memory.get s.mem (l.at_ + 6) &&& 0xEF#8) }).dropTlb
            (fun e => e.at_ == l.at_)
        else s
      (s, put seen l.at_ dirty, dirty)

/-- The granules of one bitmap word. -/
def State.harvestWord (s : State) (seen : List (Nat × Bool)) (va : Nat) : Nat → Nat → Nat → State × List (Nat × Bool) × Nat
  | 0, _, acc => (s, seen, acc)
  | n + 1, i, acc =>
    let r := s.harvestAt seen (va + i * 2 ^ 19)
    State.harvestWord r.1 r.2.1 va n (i + 1) (acc + boolN r.2.2 * 2 ^ i)

/-- What a harvest has come to: the pages harvested with their state, the words of the bitmap from its start on, and
the cause and address of a store that faults, or what one waits for. -/
structure Harvest where
  seen : List (Nat × Bool) := []
  words : List Nat := []
  fault : Option (Nat × Nat) := none
  waits : Option Wait := none

/-- Harvests word by word, up to a word whose store faults: its pages are the last ones harvested (R331). -/
def State.harvest (s : State) (h : Harvest) (va map : Nat) : Nat → Nat → State × Harvest
  | 0, _ => (s, h)
  | n + 1, left =>
    let r := s.harvestWord h.seen va (min left 64) 0 0
    let s := r.1
    match s.store s.view s.bundle.slot map (leBytes 8 r.2.2) with
    | .ok _ _ => State.harvest s { h with seen := r.2.1, words := h.words ++ [r.2.2] } (va + 64 * 2 ^ 19) (map + 8) n (left - 64)
    | .trap c a => (s, { h with seen := r.2.1, fault := some (c, a) })
    | .wait w => (s, { h with seen := r.2.1, waits := some w })

/-- The words of the bitmap are stored: they join together, at the bundle's retirement, after the whole harvest (R298,
R299, R331). -/
def State.storeMap (s : State) (map : Nat) : List Nat → State
  | [] => s
  | v :: vs =>
    match s.store s.view s.bundle.slot map (leBytes 8 v) with
    | .ok s _ => State.storeMap s (map + 8) vs
    | .trap c a => s.trapAt c 8 a
    | .wait w => s.stall w

/-- The harvest of a DIRTYH, with what its stores meet; what was harvested and written before a store that faults
stays. -/
def State.harvestTo (s : State) (va map n : Nat) : State × Nat :=
  let r := s.harvest {} va map (ceilDiv n 64) n
  let t := r.1.storeMap map r.2.words
  let t := match r.2.fault, r.2.waits with
    | some (c, a), _ => ({ t with bundle := { t.bundle with keep := true } }).trapAt c 8 a
    | none, some w => t.stall w
    | none, none => t
  (t, (r.2.seen.filter (·.2)).length)

/-- DIRTYH (R331). -/
def execDirtyh (g : BitVec 3) (d a b : BitVec 5) (s : State) : Out :=
  systemOp 0x13 g s (fun s =>
    let va := (s.xr a).toNat
    let map := (s.xr (nextReg a)).toNat
    let n := (s.xr b).toNat
    if va % 2 ^ 19 ≠ 0 then s.trapAt tcAlignment 8 (va % 2 ^ 52)
    else if map % 8 ≠ 0 then s.trapAt tcAlignment 8 (map % 2 ^ 52)
    else if n = 0 ∨ 65536 < n then s.putStatus d (2 ^ 64 - 1)
    else if 2 ^ 52 ≤ map then s.trapAt tcTranslation 8 (map % 2 ^ 52)
    else
      let r := s.harvestTo va map n
      r.1.putStatus d r.2)

/-! ### Links (R332, R333) -/

/-- LINKQ (R332). -/
def execLinkq (g : BitVec 3) (d a : BitVec 5) (s : State) : Out :=
  anyOp g s (fun s => s.putStatus d (s.linkRead (s.xr a).toNat))
/-- LINKSET (R333). -/
def execLinkset (g : BitVec 3) (d a : BitVec 5) (s : State) : Out :=
  frameOp 0x15 g s (fun s => let r := s.linkSet (s.xr a).toNat; r.1.putStatus d r.2)

end Sys2Proof.Machine
end

