-- ==== Sys2Proof/Machine/Streams.lean ====
section
/-! DEFINITION. The operations of command programs on jobs, tasks and the energy registers
(spec/13_isa_scalar.md R334, R335, spec/04_tasks.md R73 to R79, spec/06_energy.md R112 to R115, R133). -/

namespace Sys2Proof.Machine

open Sys2Proof.Bits

/-- The stream's command sequencer. -/
def State.mySeq (s : State) : Seq := s.seq s.stream
/-- Changes the staging record. -/
def State.stage (s : State) (f : Nat → Nat) : State :=
  s.setSeq s.stream { s.mySeq with staging := BitVec.ofNat 2048 (f s.mySeq.staging.toNat) }
/-- Replaces a field of `n` bits at bit `lo` of a number. -/
def setField (w lo n v : Nat) : Nat := w - fieldN w lo n * 2 ^ lo + v % 2 ^ n * 2 ^ lo

/-- The lowest number from a counter on that no incomplete job of the stream uses (R73). -/
def freeJob (used : List Nat) : Nat → Nat → Nat
  | 0, c => c % 8192
  | n + 1, c => if used.contains (c % 8192) then freeJob used n (c + 1) else c % 8192

/-- JOB (R73, R335): held in WAIT while 256 jobs are incomplete. -/
def execJob (d : BitVec 5) (s : State) : Out :=
  streamOp 0x20 s (fun s =>
    let x := s.strm s.stream
    if 256 ≤ x.jobs.length then s.stall .table
    else
      let j := freeJob (x.jobs.map (·.1)) 256 x.jobCtr
      (s.modStrm s.stream (fun x => { x with jobCtr := (j + 1) % 8192, jobs := put x.jobs j {} })).putX d 1
        (BitVec.ofNat 64 j))

/-- TASK (R335): the staging record := the record at xa; a = 0 zeroes it. -/
def execTask (a : BitVec 5) (s : State) : Out :=
  streamOp 0x21 s (fun s =>
    if a = 0#5 then s.stage (fun _ => 0)
    else s.readRecord (s.xr a) (fun s r => s.stage (fun _ => r.toNat)))

/-- OPT (R335): OPTADDR at 0x28, TCTL.NOPT at [41:38]. -/
def execOpt (a b : BitVec 5) (s : State) : Out :=
  streamOp 0x22 s (fun s => s.stage (fun w => setField (setField w (8 * 0x28) 64 (s.xr a).toNat) 38 4 (s.xr b).toNat))
/-- DEPV (R335): DEPVi at 0x18 + 2i. -/
def execDepv (i : BitVec 2) (a : BitVec 5) (s : State) : Out :=
  streamOp 0x23 s (fun s => s.stage (fun w => setField w (8 * (0x18 + 2 * i.toNat)) 16 (s.xr a).toNat))
/-- TSET (R335): bytes 8k to 8k + 7. -/
def execTset (k a : BitVec 5) (s : State) : Out :=
  streamOp 0x24 s (fun s => s.stage (fun w => setField w (64 * k.toNat) 64 (s.xr a).toNat))

/-- The job number an operand gives (R334). -/
def jobNum (v : W64) : Nat := fieldN v.toNat 0 13

/-- LAUNCH (R335): held in WAIT while no entry is free (R79). -/
def execLaunch (d a : BitVec 5) (s : State) : Out :=
  streamOp 0x25 s (fun s =>
    match s.submit s.stream (jobNum (s.xr a)) s.mySeq.staging false with
    | some (s, st, id) => s.putX d 1 (BitVec.ofNat 64 (submitWord st id))
    | none => s.stall .table)

/-- JWAIT (R335): closes the job and holds the stream in WAIT until it completes; xd := its code. -/
def execJwait (d a : BitVec 5) (s : State) : Out :=
  streamOp 0x26 s (fun s =>
    let n := s.stream
    let j := jobNum (s.xr a)
    match s.job n j with
    | none => s.putX d 1 0xFF#64
    | some _ =>
      let s := s.issue [{ dest := .x d 0#64, togo := 1, arrived := false, awaits := .job }]
      let s := s.setSeq n { s.seq n with jwait := some j }
      (s.modStrm n (fun x => { x with st := .wait })).closeJob n j)

/-- The host egress of a stream's command program that is outstanding: its copies to host memory, by handles (R66). -/
def State.egress (s : State) (stream : Nat) : List Nat :=
  ((s.seq stream).eng.copies.filter (fun k => k.op == 0x08 && !k.dirIn && !k.toPeer)).map (·.handle)

/-- NOTIFY (R66, R335): closes the job and asks for a record at its completion; a job that is not
incomplete gives a record with CODE 0xFF at once; held in WAIT while the backlog holds 256 records. The record comes after the
command program's earlier host egress. -/
def execNotify (a b : BitVec 5) (s : State) : Out :=
  streamOp 0x27 s (fun s =>
    let n := s.stream
    let j := jobNum (s.xr a)
    let v := fieldN (s.xr a).toNat 16 6
    if 256 ≤ (s.strm n).backlog.length then s.stall .table
    else match s.job n j with
      | none => s.formRecord n { token := (s.xr b).toNat, code := 0xFF, src := n, vec := v } (s.egress n)
      | some _ => (s.modJob n j (fun k => { k with notes := k.notes ++ [((s.xr b).toNat, v, s.egress n)] })).closeJob n j)

/-! ### Energy registers (R112, R115, R133) -/

/-- CURVESTAT. -/
def Power.curveStat (p : Power) : Nat :=
  boolN p.verifying.isSome * 2 ^ 31 + p.curveCode * 2 ^ 16
    + (match p.inForce, p.pending with
      | none, none => 0
      | some _, none => 1
      | some _, some _ => 2
      | none, some _ => 3)
/-- PWRSTAT. -/
def Power.stat (p : Power) : Nat :=
  boolN p.busy * 2 ^ 31 + boolN p.refused * 2 ^ 30 + p.lastCode * 2 ^ 16 + p.reason

/-- The items of CURVEQ (R335). -/
def Power.item (p : Power) : Nat → Nat
  | 0 => p.budgetNow
  | 1 => p.pwrAvg
  | 2 => (p.inForce.map (·.seq)).getD 0
  | 3 => (p.pending.map (·.seq)).getD 0
  | 4 => p.curveStat
  | 5 => p.stat
  | 6 => p.defBudget
  | _ => 0

/-- CURVEQ (R335). -/
def execCurveq (d a : BitVec 5) (s : State) : Out :=
  streamOp 0x28 s (fun s => s.putX d 1 (BitVec.ofNat 64 (s.pow.item (fieldN (s.xr a).toNat 0 4))))

end Sys2Proof.Machine
end

