-- ==== Sys2Proof/Machine/Freeze.lean ====
section
/-! DEFINITION. Freezing a task into a cask, the end and the unwinding of a freeze, CASKOUT and CASKIN
(spec/07_casks.md R154 to R171, spec/13_isa_scalar.md R336, R337, spec/06_energy.md R128, R133). -/

namespace Sys2Proof.Machine

open Sys2Proof.Bits

/-! ### Start (R164, R165) -/

/-- A freeze of a PLACED task starts, or is satisfied by the one running: firing stops, and PREEMPT or CURTAIL
becomes pending on its running points. Its started copies are from now on to be acknowledged as cancelled, and its
drain starts once its cores stand at their pegs and its copies are over. -/
def State.startFreeze (s : State) (id : Nat) (f : Freeze) : State :=
  match s.freezing id with
  | some g => s.modTask id (fun t => { t with freeze := some { g with
      outs := g.outs ++ f.outs, resume := g.resume || f.resume, cmd := g.cmd || f.cmd } })
  | none =>
    let s := s.modTask id (fun t => { t with freeze := some f })
    (s.pendOnTask id (if f.src = 1 ∨ f.src = 2 then .curtail else .preempt)).runDrains

/-! ### Intents (R161, R165, R167) -/

/-- The engine of a logical core of a task: its agent, and its place in the rotation area if not resident. -/
def State.engineOf (s : State) (id lbay lcid : Nat) : Agent × List Nat :=
  match s.bayOf id lbay with
  | some pb => (.core (pb * 8 + lcid), [])
  | none => (.core 0, [id, lbay, lcid])

/-- The die of a logical bay of a task: that of its physical bay, in the rotation area that of a bay of the task. -/
def State.dieOfLbay (s : State) (t : Task) (lbay : Nat) : Nat :=
  ((s.bayOf t.id lbay).or ((List.range (rNlbay t.rcd)).findSome? (s.bayOf t.id))).getD 0 / 8

/-- Intents are reissued with their handles, in their order (R167). -/
def State.reissueAll (s : State) (t : Task) (is : List Intent) : State :=
  is.foldl (fun s i =>
    let e := s.engineOf t.id i.lbay i.lcid
    s.modEng e.1 e.2 (fun e => { e with
      copies := e.copies ++ [{ i.reissue t with die := s.dieOfLbay t i.lbay, ord := e.count }], count := e.count + 1,
      seqNo := max e.seqNo (i.handle / 32 + 1) })) s

/-! ### What a command or a CASKOUT waits for -/

/-- A freeze that a power command waits for is over (R133): a DRAINDIE goes on once its last task is parked;
a freeze that parked nothing ends the command. -/
def State.parkOver (s : State) (id : Nat) (parked noSpace : Bool) : State :=
  if !s.pow.waitTasks.contains id then s
  else
    let rest := s.pow.waitTasks.filter (· != id)
    let s := { s with pow := { s.pow with waitTasks := rest } }
    if !parked then (if noSpace then s.refuse 6 else s).commandDone
    else if !rest.isEmpty then s
    else match s.pow.drainDie with
      | some d => s.moveAndGate d
      | none => s.commandDone

/-- A CASKOUT's result arrives: a status and a length (R336). One whose stream has been halted meanwhile has no result
to give (R59). -/
def State.answerCaskout (s : State) (id place stream status len : Nat) : State :=
  let q := s.seq stream
  s.setSeq stream { q with sc := { q.sc with pend := answerAll (.freeze id place) (status + len * 2 ^ 8) q.sc.pend } }

/-- A task completes with a code once its table entry allows, its cask discarded. -/
def Task.dropCask (t : Task) (code : Nat) : Task :=
  { t with cask := none, stop := true, code := some (t.code.getD code), fr := { t.fr with flight := [] } }

/-- Writes bytes at a virtual address of a stream's context as engine writes, or nothing where one of them
fails translation or permission (R336), or the merge of a sector that they cover in part (R221, log entry 122). -/
def State.engineWrite (s : State) (stream va : Nat) (bs : List Byte) : Option State :=
  let v : View := { stream := stream, engine := true, seq := true, frame := true, units := [hubTlb stream] }
  let parts := segments (bs.length / 128 + 2) va bs.length
  let whole (a : Nat) : Bool := decide (va ≤ a / 512 * 512) && decide (a / 512 * 512 + 512 ≤ va + bs.length)
  if parts.all (fun p => match s.resolve v .store p.1 with
      | .ok (.cell pa leaf) => if isTier pa then whole p.1 || (s.dataFault pa leaf).isNone else (s.mergeFault pa p.2 leaf).isNone
      | _ => false) then
    some (parts.foldl (fun s p => match s.resolve v .store p.1 with
      | .ok (.cell pa leaf) =>
        let s := if isTier pa then
            let t := s.noteTlb v (s.liveVa stream none p.1)
            (if (t.dataFault pa leaf).isSome then t.freshSector (pa / 512) leaf else t).fetchData (pa / 128) 0
          else s
        s.joinOutside pa (s.outsideTime (pa / 128) 0) (offsets (pa % 128) ((bs.drop (p.1 - va)).take p.2)) leaf
      | _ => s) s)
  else none

/-- A PARKED task's cask is written as CASKOUT asks: destination, capacity and flags (R336); its status and
length. -/
def State.writeCask (s : State) (stream id dest cap flags : Nat) : State × Nat × Nat :=
  match s.task id with
  | none => (s, 0x28, 0)
  | some t => match t.cask with
    | none => (s, 0x29, 0)
    | some c =>
      let bs := caskBytes t c (bit flags 1)
      let keep (s : State) : State := s.modTask id (fun t => { t with cask := some { c with area := true } })
      if cap < bs.length then (keep s, 0x27, bs.length)
      else match s.engineWrite stream dest bs with
        | none => (keep s, 0x2A, bs.length)
        | some s => (if bit flags 0 then s.modTask id (·.dropCask 1) else s, 0, bs.length)

/-! ### The unwinding of a freeze (R165, R216) -/

/-- A core no longer stands for a freeze. -/
def Core.thaw (c : Core) : Core :=
  { c with frozen := c.frozen && c.rotate, async := c.async.filter (fun a => a.kind != .preempt && a.kind != .curtail) }

/-- The cores bound to a task change. -/
def State.modTaskCores (s : State) (id : Nat) (f : Core → Core) : State :=
  (s.routersOf id).foldl (fun s n => s.modCore n f) s

/-- A freeze is unwound: firing resumes on the same bays, the intents are reissued, FREEZE_UNWOUND is
posted; a cancel that has come applies to the running task (R130). -/
def State.unwind (s : State) (id : Nat) (noSpace : Bool) : State :=
  match s.task id with
  | none => s
  | some t => match t.freeze with
    | none => s
    | some f =>
      let s := s.modTask id (fun t => { t with freeze := none, cancelled := false, away := none })
      let s := (s.modTaskCores id Core.thaw).reissueAll t f.intents
      let s := s.post 0x0704 t.stream
      let s := f.outs.zipIdx.foldl (fun s o => s.answerCaskout id o.2 o.1.1 0x29 0) s
      let s := s.parkOver id false noSpace
      let s := { s with pow := { s.pow with gateNext := s.pow.gateNext.filter (fun d =>
        !(s.mapOf id).any (fun m => dieOfBay m.1 == d)) } }
      if t.cancelled then s.cancelTask { t with freeze := none, cancelled := false, away := none } else s

/-! ### The cask of a frozen task (R156 to R163, R171) -/

/-- The code of a page's size (R163). -/
def sizeCode (bits : Nat) : Nat := (bits - 19) / 6

/-- The dirty pages that overlap a task's write tile set: harvested and cleared (R170, R171). -/
def State.harvestTask (s : State) (t : Task) : State × List (Nat × Nat) :=
  let hit := (s.leaves t.stream).filter (fun l => bit l.2.val 52 &&
    t.wr.any (fun e => decide (e.base < l.1 + 2 ^ l.2.bits) && decide (l.1 < e.base + 128 * e.units)))
  (hit.foldl (fun (s : State) l =>
    { s.touchLine ((l.2.at_ + 6) / 128) with
             mem := Memory.set s.mem (l.2.at_ + 6) (Memory.get s.mem (l.2.at_ + 6) &&& 0xEF#8),
             tlb := s.tlb.filter (fun e => e.at_ != l.2.at_) }) s,
   hit.map (fun l => (l.1, sizeCode l.2.bits)))

/-- The cells of a logical core's vault and queue store, bound or in the rotation area. -/
def State.imageCells (s : State) (id lbay c : Nat) : Nat × Nat :=
  match s.bayOf id lbay with
  | some pb => (vaultCell (pb * 8 + c) 0, queueCell (pb * 8 + c) 0)
  | none => (rotCell id lbay c 0, rotQueueCell id lbay c 0)

/-- A logical core of a task, bound or in the rotation area. -/
def State.logicalCore (s : State) (id lbay c : Nat) : Core :=
  match s.bayOf id lbay with
  | some pb => s.core (pb * 8 + c)
  | none => match s.rotOf id lbay with
    | some r => (find? r.cores c).getD {}
    | none => {}

/-- The variant that a running point of a task runs on (R122). -/
def State.variantOf (s : State) (t : Task) (p : List Nat) : Option Nat :=
  ((List.range (8 * rNlbay t.rcd)).map (fun i => s.logicalCore t.id (i / 8) (i % 8))).findSome? (fun c =>
    if c.point = some (t.id, p) then some c.variant else none)

/-- The entries of section 8 for a ticket word of a task (R162). -/
def State.ticketEntries (s : State) (id va : Nat) (held : List (Nat × Nat)) : List (Nat × Nat × Nat × Nat × Nat) :=
  let cell := match s.vaultPlace id (fieldN va 25 7) (fieldN va 22 3) (va % 2 ^ 22) true with
    | .ok (.cell pa _) => pa
    | _ => 0
  let next := Memory.read s.mem cell 4
  let serving := Memory.read s.mem (cell + 4) 4
  (va, next, serving, 2 ^ 32 - 1, 0) :: held.map (fun h => (va, next, serving, h.2, h.1))

/-- The rotation cycle of a task: its logical bays in ascending cyclic order from the next to be brought in on, or from
the one after the last brought in where none waits to come in (R152, R156). -/
def State.cycle (s : State) (t : Task) : List Nat :=
  match s.nextIn t with
  | none => t.order
  | some l => t.order.dropWhile (· != l) ++ t.order.takeWhile (· != l)

/-- The cask of a task whose freeze has reached its last step (R164). -/
def State.assemble (s : State) (t : Task) (f : Freeze) (dirty : List (Nat × Nat)) : Cask :=
  let lcores := (List.range (8 * rNlbay t.rcd)).map (fun i => (i, i / 8, i % 8))
  { area := f.outs.isEmpty, frozen := s.now, src := f.src, taskId := t.id, entry := t.ent, hint := t.hint,
    cores := lcores.map (fun (i, l, c) =>
      let k := s.logicalCore t.id l c
      (i, k.point.isSome, k.peg, Memory.getAll s.mem (s.imageCells t.id l c).2 (rQueueb t.rcd)))
    variants := lcores.map (fun (_, l, c) => (s.logicalCore t.id l c).variant)
    vault := (List.range (rNlbay t.rcd)).map (fun l => (List.range 8).flatMap (fun c =>
      Memory.getAll s.mem (s.imageCells t.id l c).1 (vaultKeep t.rcd)))
    swaps := t.swapNames.filterMap (fun a => ((s.ctx t.stream).bufAt a).map (fun b =>
      { b with renamed := if b.renamed = some t.id then some t.id else none }))
    intents := f.intents, tickets := t.tickets.flatMap (fun e => s.ticketEntries t.id e.1 e.2), dirty := dirty
    map := (List.range (rNlbay t.rcd)).map (fun l => ((s.bayOf t.id l).isSome, ((s.cycle t).findIdx? (· == l)).getD l)) }

/-- Every core of a frozen task stands at its peg, its no-return atomics are applied, its commands are over and
its drain is complete (R164). -/
def State.freezeReady (s : State) (t : Task) (f : Freeze) : Bool :=
  f.drained && s.stoodDown t

/-- FREEZE_COMPLETE's effect (R164): the cask is assembled and the task is PARKED with its bays free, or the
cask is longer than the space counted for it and the freeze is unwound (R216). -/
def State.endFreeze (s : State) (id : Nat) : State :=
  match s.task id with
  | none => s
  | some t => match t.freeze with
    | none => s
    | some f =>
      if !s.freezeReady t f then s
      else
        let h := s.harvestTask t
        let c := h.1.assemble t f h.2
        if f.outs.isEmpty = true ∧ f.room < caskLen t c ∧ !t.cancelled then ((s.unwind id true).post 0x060A 0x8000)
        else
          let s := h.1.modTask id (fun t => { t with
            st := .parked, cask := some c, freeze := none, hint := none, slabs := t.slabs.filter (fun sl => !sl.redo.isEmpty), oldEnts := [], oldPoints := [],
            resumable := f.resume, parkedByEvent := f.src == 1, heldSince := none, cancelled := false })
          let s := s.freeBays id
          let s := if t.cancelled ∨ t.code.isSome then s.modTask id (·.dropCask 1) else s
          let s := f.outs.zipIdx.foldl (fun s o =>
            let r := s.writeCask o.1.1 id o.1.2.2.1 o.1.2.2.2.1 o.1.2.2.2.2
            r.1.answerCaskout id o.2 o.1.1 r.2.1 r.2.2) s
          ((s.parkOver id true false).nextGate)

/-! ### CASKOUT and CASKIN (R336, R337) -/

/-- CASKOUT (R336): a PLACED task is frozen, and the result arrives when its cask is written; a PARKED task's
cask is written at once. One whose points have all completed before is not frozen any more (R130, log entry 104). -/
def execCaskout (d a b c : BitVec 5) (fl : BitVec 2) (s : State) : Out :=
  streamOp 0x29 s (fun s =>
    let n := s.stream
    let id := fieldN (s.xr a).toNat 0 32
    let dest := (s.xr b).toNat
    let cap := (s.xr c).toNat
    if dest % 128 ≠ 0 then s.trapAt tcAlignment 128 (dest % 2 ^ 52)
    else match s.task id with
      | none => s.putStatus d 0x28
      | some t =>
        if t.stream ≠ n then s.putStatus d 0x28
        else match t.st with
          | .parked =>
            let r := s.writeCask n id dest cap fl.toNat
            r.1.putStatus d (r.2.1 + r.2.2 * 2 ^ 8)
          | .placed =>
            if t.finished then s.putStatus d 0x29
            else
              let place := match s.freezing id with | some g => g.outs.length | none => 0
              (s.startFreeze id { src := 3, outs := [(n, d, dest, cap, fl.toNat)], resume := false }).issue
                [{ dest := .x d 0#64, togo := 6, arrived := false, awaits := .freeze id place }]
          | _ => s.putStatus d 0x29)

/-- The bytes of a cask in a stream's memory, or the cause and address of the first that cannot be read. -/
def State.readCask (s : State) (va : Nat) : Nat → Except (Nat × Nat) (List Byte)
  | 0 => .ok []
  | n + 1 =>
    match s.resolve s.view .load va with
    | .error c => .error (c, va)
    | .ok (.status _) => .error (tcPermission, va)
    | .ok (.cell pa leaf) =>
      match s.dataFault pa leaf with
      | some c => .error (c, va)
      | none => match State.readCask s (va + 1) n with
        | .error e => .error e
        | .ok bs => .ok (Memory.get s.mem pa :: bs)

/-- The status of the first two checks of CASKIN (R337). -/
def State.caskinStatus (s : State) (stream j len : Nat) (head : List Byte) : Nat :=
  let st := s.jobStatus stream j false
  if st ≠ 0 then st
  else if len ≠ 128 + fieldAt head 8 8 + (if bit (fieldAt head 6 2) 0 then 64 + 29792 else 0) then 0x20
  else 0

/-- An accepted cask becomes a PARKED task of the job (R166). -/
def State.enterCask (s : State) (stream j : Nat) (x : Accepted) (hold : Bool) : State × Nat :=
  s.addTask stream j x.rcd (x.opts, x.rd, x.wr) (fun t =>
    { t with st := .parked, cask := some x.cask, fr := x.fr, ent := x.cask.entry, resumable := !hold,
             order := orderAfter (rNlbay x.rcd) (rNlbay x.rcd - 1) })

/-- CASKIN (R337). -/
def execCaskin (d a b c : BitVec 5) (fl : BitVec 2) (s : State) : Out :=
  streamOp 0x2A s (fun s =>
    let n := s.stream
    let j := jobNum (s.xr b)
    let len := (s.xr c).toNat
    let va := (s.xr a).toNat
    if 2 ^ 52 ≤ va then s.trapAt tcTranslation 1 (va % 2 ^ 52)
    else match s.readCask va (min len 128) with
      | .error e => (s.touchRead s.view va (min len 128)).trapAt e.1 1 e.2
      | .ok head =>
        let st := s.caskinStatus n j len head
        let s := s.touchRead s.view va (if st = 0 then len else min len 128)
        if st ≠ 0 then s.putStatus d st
        else match s.readCask va len with
          | .error e => s.trapAt e.1 1 e.2
          | .ok bs =>
            match s.checkCask n j bs (bit fl.toNat 1) with
            | .error st => s.putStatus d st
            | .ok x =>
              if !s.entryFree n then s.stall .table
              else
                let r := s.enterCask n j x (bit fl.toNat 0)
                ({ r.1 with free := r.1.free + 32 * (8 * rNlbay x.rcd) }).putStatus d (submitWord 0 r.2))

end Sys2Proof.Machine
end

