-- ==== Sys2Proof/Machine/Choice.lean ====
section
/-! DEFINITION. The helpers of the Maltster: allowed entries, finishing times, floors, candidates, predicted
draws, the change of a task's entry (spec/06_energy.md R119 to R123). -/

namespace Sys2Proof.Machine

open Sys2Proof.Bits

/-- An operating-point entry of a task. -/
def Task.opt (t : Task) (i : Nat) : Nat := nth t.opts i 0

/-- The fastest step that the thermal caps of a task's bays allow. -/
def State.taskCap (s : State) (t : Task) : Nat := (s.baysOf t.id).foldl (fun m pb => max m (s.capOf pb)) 0

/-- allowed(x): the entries whose step is no faster than the thermal cap of every bay; every entry where none
is (log entry 34). -/
def State.allowed (s : State) (t : Task) : List Nat :=
  let all := List.range t.opts.length
  let ok := all.filter (fun i => decide (s.taskCap t ≤ oStep (t.opt i)))
  if ok.isEmpty then all else ok

/-- The points of a task that have completed. -/
def Task.completed (t : Task) : Nat :=
  t.fr.lines * lineLen t.rcd + (t.fr.win.map (fun l => if l.full then lineLen t.rcd else l.count + popCount 64 l.island.toNat)).sum

/-- rem(x): the points of a task not yet completed. -/
def Task.rem (t : Task) : Nat := lineTotal t.rcd * lineLen t.rcd - t.completed

/-- fin(x, e), in ns. -/
def Task.fin (t : Task) (now i : Nat) : Nat := now * 1000 + ceilDiv t.rem (8 * oBays (t.opt i)) * oTpt (t.opt i)

/-- The element of a list with the least key, the earlier among equals. -/
def leastBy (key : Nat → Nat) : List Nat → Option Nat
  | [] => none
  | i :: is => match leastBy key is with
    | none => some i
    | some j => if key j < key i then some j else some i

/-- floor(x) at an instant (R121). -/
def State.floorEntAt (s : State) (t : Task) (now : Nat) : Nat :=
  let a := s.allowed t
  let pwr := fun i => oPwr (t.opt i)
  if bit (rEclass t.rcd) 2 ∧ rDeadline t.rcd ≠ 0 then
    match leastBy pwr (a.filter (fun i => decide (t.fin now i ≤ rDeadline t.rcd * 1000))) with
    | some i => i
    | none => (leastBy (t.fin now) a).getD 0
  else (leastBy pwr a).getD 0

/-- floor(x) now (R121). -/
def State.floorEnt (s : State) (t : Task) : Nat := s.floorEntAt t s.now

/-- Puts an entry into a list ordered by fin, then PWR, then index. -/
def insertEnt (t : Task) (now i : Nat) : List Nat → List Nat
  | [] => [i]
  | j :: js =>
    let k (x : Nat) : Nat × Nat := (t.fin now x, oPwr (t.opt x))
    if (k i).1 < (k j).1 ∨ ((k i).1 = (k j).1 ∧ (k i).2 < (k j).2) then i :: j :: js else j :: insertEnt t now i js

/-- cands(x) (R121). -/
def State.cands (s : State) (t : Task) : List Nat :=
  let a := s.allowed t
  let sorted := a.foldl (fun l i => insertEnt t s.now i l) []
  match t.hint with
  | some h => if a.contains h then h :: sorted else sorted
  | none => sorted

/-- The rail and the step of a task's entry have been requested of its bays and applied, the points on the old variant
have ended, and it has the bays of the entry: a change has fully taken effect (R121). -/
def State.changeDone (s : State) (t : Task) : Bool :=
  t.oldPoints.isEmpty && (s.baysOf t.id).length == t.wantBays
    && (s.baysOf t.id).all (fun pb =>
      let b := s.bp pb
      b.reqVl == oRail (t.opt t.ent) && b.reqStep == oStep (t.opt t.ent) && b.slow == oStep (t.opt t.ent) && b.lock.isNone && !b.rampw)

/-- cnt(x), in W. -/
def State.cnt (s : State) (t : Task) : Nat :=
  if s.changeDone t then oPwr (t.opt t.ent)
  else t.oldEnts.foldl (fun m o => max m (oPwr (t.opt o))) (oPwr (t.opt t.ent))

/-- The placed tasks in the ranking of R85. -/
def State.placedOrder (s : State) : List Task := sortBy s.before (s.tab.tasks.filter (fun t => t.st == .placed))

/-- The sum of cnt over the placed tasks. -/
def State.cntSum (s : State) : Nat := (s.placedOrder.map s.cnt).sum

/-- raise_ok(x, t): no move to an entry of higher PWR in the last 100 µs. -/
def Task.raiseOk (t : Task) (now : Nat) : Bool :=
  match t.raisedAt with
  | none => true
  | some r => decide (r + 100 ≤ now)

/-- The step that a task's bays run at: the slowest of the old ones and the new one until the variant and the bay
count of a change have taken effect (R122). -/
def State.stepOf (s : State) (t : Task) : Nat :=
  let new := oStep (t.opt t.ent)
  if t.oldPoints.isEmpty && (s.baysOf t.id).length == t.wantBays then new
  else t.oldEnts.foldl (fun m o => max m (oStep (t.opt o))) new

/-- The bays of a task take its rail and step, held at the slower step while a change takes effect (R122, R125). -/
def State.applyEntry (s : State) (id : Nat) : State :=
  match s.task id with
  | none => s
  | some t => (s.baysOf id).foldl (fun s pb =>
      let b := s.bp pb
      if b.reqVl = oRail (t.opt t.ent) ∧ b.reqStep = oStep (t.opt t.ent) ∧ b.slow = s.stepOf t then s
      else s.requestStep pb (oRail (t.opt t.ent)) (oStep (t.opt t.ent)) (s.stepOf t)) s

/-- The running points of a task that run on the variant of one of some entries, which is not the variant of another
entry (R122). -/
def State.pointsOn (s : State) (t : Task) (olds : List Nat) (new : Nat) : List (List Nat) :=
  (t.fr.flight.filter (fun x => !x.ended && (match s.variantOf t x.coord with
    | some v => v != oVariant (t.opt new) && olds.any (fun o => oVariant (t.opt o) == v)
    | none => false))).map (·.coord)

/-- "set current(x) := choice": a new entry of a task takes effect (R121, R122). One chosen while an earlier change is
still taking effect changes from the entries of both (log entry 112). -/
def State.setEntry (s : State) (id choice : Nat) : State :=
  match s.task id with
  | none => s
  | some t =>
    let olds := if s.changeDone t then [] else t.oldEnts
    if choice = t.ent then (s.modTask id (fun t => { t with oldEnts := olds })).applyEntry id
    else
      let olds := addOnce olds t.ent
      let raised := decide (oPwr (t.opt t.ent) < oPwr (t.opt choice))
      (s.modTask id (fun t => { t with
        ent := choice, oldEnts := olds, oldPoints := s.pointsOn t olds choice,
        raisedAt := if raised then some s.now else t.raisedAt })).applyEntry id

/-- The budget condition of R123 for a READY or PARKED task, with the static draw of dies it needs ungated, as the last
loop evaluated it. -/
def State.affords (s : State) (t : Task) (static : Nat) : Bool :=
  decide (s.pow.base + s.pow.sum + (oPwr (t.opt (s.floorEntAt t s.pow.loopNow)) : Rat) + (static : Rat) ≤ s.pow.budget)

end Sys2Proof.Machine
end

