-- ==== Sys2Proof/Machine/Copy.lean ====
section
/-! DEFINITION. The CP class, FENCE and AWAIT (spec/15_isa_matrix_copy.md R391 to R406,
spec/10_consistency.md R240, spec/13_isa_scalar.md R316, R318). -/

namespace Sys2Proof.Machine

open Sys2Proof.Bits

/-! ### Issuing a copy (R197, R392) -/

/-- The agent's own engine. -/
def State.eng (s : State) : Engine := s.getEng s.focus []
/-- Changes the agent's own engine. -/
def State.modOwnEng (s : State) (f : Engine → Engine) : State := s.modEng s.focus [] f

/-- An address in a vault window (R199). -/
def inVaultWindow (a : W64) : Bool := decide (14 * 2 ^ 48 ≤ a.toNat) && decide (a.toNat < 2 ^ 52)

/-- The command slot that a new copy takes: the lowest free one (DESIGN CHOICE: R197 names none, log entry 121). -/
def Engine.freeSlot (e : Engine) : Option Nat :=
  (List.range 32).find? (fun n => !e.copies.any (fun k => k.slot == n))

/-- The trap that a copy's checks raise at its bundle, if any: a gauge that breaks R241; on a command
sequencer any gauge, any vault window in a or b, CPYM and CPYQ; a CPYM outside the own range (R392). -/
def State.copyTrap (s : State) (op : Nat) (a b : W64) (gauge : Option W64) : Option (Nat × Nat × W64) :=
  if s.mode = .seq then
    if gauge.isSome then some (tcVaultWindow, 32, gauge.getD 0#64)
    else if inVaultWindow a then some (tcVaultWindow, 1, a)
    else if inVaultWindow b then some (tcVaultWindow, 1, b)
    else if op = 4 ∨ op = 5 then some (tcVaultWindow, 1, b)
    else none
  else if op = 4 ∧ b.toNat / 2 ^ 48 ≠ 14 then some (tcVaultWindow, 1, b)
  else match gauge with
    | none => none
    | some x => match s.wordCell { s.view with engine := true } x 32 with
      | .error c => some (c, 32, x)
      | .ok _ => none

/-- The command that a copy's words and operands give the engine. -/
def State.newCopy (s : State) (slot : Nat) (i : Instr) (a b l g : W64) : Copy :=
  let ws := encode s.bundle.first i
  let v := s.view
  { slot := slot, handle := s.eng.seqNo % 2048 * 32 + slot, head := nth ws 0 0#32, tail := nth ws 1 0#32,
    ra := a, rb := b, rl := l, rg := g, started := decide (s.mode ≠ .point), sincePeg := decide (s.mode = .point),
    stream := v.stream, lbay := v.lbay, lcid := v.lcid, task := v.task,
    coord := match s.mode with | .seq => [] | _ => (s.my.point.map Prod.snd).getD [],
    frame := v.frame || v.seq, nlbay := v.nlbay, ord := s.eng.count,
    die := match s.focus with | .seq n => 10 + n / 4 | .core n | .jig n => n / 64 }

/-- Issues a copy of instruction `i` with operation `op` and its register operands: it stalls while 32
commands are outstanding, else d receives the handle at latency 1. -/
def State.issueCopy (s : State) (op : Nat) (i : Instr) (d a b l g : BitVec 5) : State :=
  match s.copyTrap op (s.xr a) (s.xr b) (if g = 0#5 then none else some (s.xr g)) with
  | some (c, n, x) => s.trapAt c n (x.toNat % 2 ^ 52)
  | none =>
    match s.eng.freeSlot with
    | none => s.stall .copySlots
    | some slot =>
      let k := s.newCopy slot i (s.xr a) (s.xr b) (s.xr l) (s.xr g)
      (s.modOwnEng (fun e => { e with copies := e.copies ++ [k], seqNo := (e.seqNo + 1) % 2048, count := e.count + 1 })).putX d 1
        (BitVec.ofNat 64 k.handle)

/-- CPY (R395). -/
def execCpy (g : BitVec 3) (d a b : BitVec 5) (f : BitVec 2) (l e : BitVec 5) (h : BitVec 2) (s : State) : Out :=
  anyOp g s (fun s => s.issueCopy 0x00 (.cpy g d a b f l e h) d a b l e)
/-- CPYT (R396). -/
def execCpyt (g : BitVec 3) (d a b : BitVec 5) (f : BitVec 2) (l e : BitVec 5) (h : BitVec 2) (s : State) : Out :=
  anyOp g s (fun s => s.issueCopy 0x01 (.cpyt g d a b f l e h) d a b l e)
/-- CPYG (R397). -/
def execCpyg (g : BitVec 3) (d a b : BitVec 5) (f : BitVec 2) (l e : BitVec 5) (h : BitVec 2) (s : State) : Out :=
  anyOp g s (fun s => s.issueCopy 0x02 (.cpyg g d a b f l e h) d a b l e)
/-- CPYS (R397). -/
def execCpys (g : BitVec 3) (d a b : BitVec 5) (f : BitVec 2) (l e : BitVec 5) (h : BitVec 2) (s : State) : Out :=
  anyOp g s (fun s => s.issueCopy 0x03 (.cpys g d a b f l e h) d a b l e)
/-- CPYM (R398). -/
def execCpym (g : BitVec 3) (d a b : BitVec 5) (f : BitVec 2) (l e : BitVec 5) (m : BitVec 8) (s : State) : Out :=
  anyOp g s (fun s => s.issueCopy 0x04 (.cpym g d a b f l e m) d a b l e)
/-- CPYQ (R399). -/
def execCpyq (g : BitVec 3) (d a b : BitVec 5) (f : BitVec 2) (l e : BitVec 5) (s : State) : Out :=
  anyOp g s (fun s => s.issueCopy 0x05 (.cpyq g d a b f l e) d a b l e)
/-- CPYA (R400). -/
def execCpya (g : BitVec 3) (d a b : BitVec 5) (f : BitVec 2) (l e : BitVec 5) (t : BitVec 4) (s : State) : Out :=
  anyOp g s (fun s => s.issueCopy 0x06 (.cpya g d a b f l e t) d a b l e)
/-- CPF (R401). -/
def execCpf (g : BitVec 3) (d a : BitVec 5) (f : BitVec 2) (l e : BitVec 5) (q : BitVec 2) (s : State) : Out :=
  anyOp g s (fun s => s.issueCopy 0x07 (.cpf g d a f l e q) d a 0#5 l e)
/-- CPH (R52, R392, R402): towards a peer it is privileged. -/
def execCph (g : BitVec 3) (d a b : BitVec 5) (f : BitVec 2) (l e : BitVec 5) (dir tgt : BitVec 1)
    (port rs : BitVec 3) (s : State) : Out :=
  anyOp g s (fun s =>
    if tgt = 1#1 ∧ s.mode = .point then s.privilege 0x08
    else s.issueCopy 0x08 (.cph g d a b f l e dir tgt port rs) d a b l e)
/-- CPUB (R404): its bundle commits as a peg. -/
def execCpub (g : BitVec 3) (d a : BitVec 5) (f : BitVec 2) (e : BitVec 5) (s : State) : Out :=
  anyOp g s (fun s => s.issueCopy 0x0A (.cpub g d a f e) d a 0#5 0#5 e)

/-! ### Cancel, query, definition (R403, R405, R406) -/

/-- CCAN (R403): the result is determined when the engine acknowledges. -/
def execCcan (g : BitVec 3) (d a : BitVec 5) (s : State) : Out :=
  anyOp g s (fun s =>
    let h := (s.xr a).toNat % 2 ^ 16
    match s.eng.copies.find? (fun k => k.handle == h) with
    | none => if d = 0#5 then s else s.issue [{ dest := .x d 1#64, togo := 6 }]
    | some k =>
      let s := s.modOwnEng (fun e => e.modCopy k.slot (fun k => { k with cancelling := true }))
      if d = 0#5 then s
      else s.issue [{ dest := .x d 0#64, togo := 6, arrived := false, awaits := .cancel h }])

/-- CQRY's word (R405). -/
def Engine.query (e : Engine) (h : Nat) : Nat :=
  match e.copies.find? (fun k => k.handle == h) with
  | some k => 2 ^ 63 + 2 ^ 62 + k.done % 2 ^ 40
  | none =>
    if e.copies.any (fun k => k.slot == h % 32) then 0
    else match find? e.last (h % 32) with
      | some l => if l.handle = h then 2 ^ 62 + l.code * 2 ^ 40 + l.done % 2 ^ 40 else 0
      | none => 0

/-- CQRY (R405). -/
def execCqry (g : BitVec 3) (d a : BitVec 5) (s : State) : Out :=
  anyOp g s (fun s =>
    let v := s.eng.query ((s.xr a).toNat % 2 ^ 16)
    let (late, s) := s.lateNext
    if d = 0#5 then s else s.issue [{ dest := .x d (BitVec.ofNat 64 v), togo := 6, arrived := !late }])

/-- A half of `l` bytes lies in memory ranges or in bay windows of the task (R406). -/
def halfInRange (nlbay : Nat) (a l : W64) : Bool :=
  let last := a.toNat + (l.toNat - 1)
  decide (last < 13 * 2 ^ 48) || (decide (15 * 2 ^ 48 ≤ a.toNat) && decide (last < 15 * 2 ^ 48 + nlbay * 2 ^ 25))

/-- Two ranges of the same length overlap. -/
def rangesMeet (a n b m : Nat) : Bool := decide (a < b + m) && decide (b < a + n)

/-- The status of BDEF, and the buffer table after it (R406). -/
def State.defineBuf (s : State) (stream nlbay : Nat) (a b l : W64) : Nat × List SwapBuf :=
  let bufs := (s.ctx stream).bufs
  if l = 0#64 then
    match bufs.find? (fun x => x.a == a.toNat) with
    | none => (0, bufs)
    | some x =>
      if x.renamed.isSome ∨ s.heldHalf stream x.a false ∨ s.heldHalf stream x.a true then (1, bufs)
      else (0, bufs.filter (fun x => x.a != a.toNat))
  else if !halfInRange nlbay a l || !halfInRange nlbay b l then (4, bufs)
  else if a.toNat % 128 ≠ 0 ∨ b.toNat % 128 ≠ 0 ∨ l.toNat % 128 ≠ 0 ∨ 2 ^ 39 < l.toNat then (3, bufs)
  else
    let n := l.toNat
    let meets (h : Nat) : Bool := bufs.any (fun x =>
      rangesMeet h n x.a (128 * x.units) || rangesMeet h n x.b (128 * x.units))
    if rangesMeet a.toNat n b.toNat n || meets a.toNat || meets b.toNat then (1, bufs)
    else if 4096 ≤ bufs.length then (2, bufs)
    else (0, bufs ++ [{ a := a.toNat, b := b.toNat, units := n / 128 }])

/-- BDEF (R406). -/
def execBdef (g : BitVec 3) (d a b l : BitVec 5) (s : State) : Out :=
  anyOp g s (fun s =>
    let n := s.view.stream
    let r := s.defineBuf n s.view.nlbay (s.xr a) (s.xr b) (s.xr l)
    let s := s.setCtx n { s.ctx n with bufs := r.2 }
    let (late, s) := s.lateNext
    if d = 0#5 then s else s.issue [{ dest := .x d (BitVec.ofNat 64 r.1), togo := 6, arrived := !late }])

/-! ### FENCE (R240, R318) -/

/-- A cell is covered by a scope of a core's FENCE. -/
def scopeCovers (scope core pa : Nat) : Bool := decide (scopeOf core pa ≤ scope)

/-- The cells that the rest of a copy writes, one for each 128 bytes of its walk. -/
def State.copyCells (s : State) (k : Copy) : List Nat :=
  match s.walkOf k with
  | .error _ => []
  | .ok w =>
    let dsts := (List.range (ceilDiv w.total 128)).map (fun i => w.dst (128 * i)) ++
      (if w.total = 0 then [] else [w.dst (w.total - 1)])
    let cells (v : View) : List Nat := dsts.filterMap (fun a => match s.resolve v .store a with
      | .ok (.cell pa _) => some pa
      | _ => none)
    if k.op = 0x05 then
      match s.queueTarget k with
      | .ok (some (n, _)) => [queueCell n 0]
      | _ => []
    else if k.op = 0x04 then ((List.range 8).filter (bit k.mask)).flatMap (fun c => cells { k.view with lcid := c })
    else if k.writesDevice then cells k.view
    else []

/-- A started command targets a scope of the agent's FENCE. -/
def State.targets (s : State) (scope : Nat) (k : Copy) : Bool :=
  let within (pa : Nat) : Bool := match s.focus with
    | .seq _ => decide (3 ≤ scope)
    | _ => scopeCovers scope s.me pa
  if k.op = 0x08 ∧ !k.dirIn then scope == 4
  else if k.op = 0x0A then
    match s.publishBuf k with
    | none => decide (3 ≤ scope)
    | some b => b.places.any (fun a => match s.resolveRaw k.view .store a with
      | .ok (.cell pa _) => within pa
      | _ => decide (3 ≤ scope))
  else if k.op = 0x07 then false
  else decide (3 ≤ scope) || (s.copyCells k).any within

/-- The latest logical time of what the agent's finished commands have written in a scope (R240). -/
def State.wroteIn (s : State) (scope : Nat) : Nat :=
  let w := match s.focus with
    | .seq n => (s.seq n).wrote
    | _ => s.my.wrote
  (w.toList.take (scope + 1)).foldl max (match s.focus with | .seq _ => 0 | _ => s.my.nrTop)

/-- FENCE (R240, R318): waits for the started commands and the no-return atomics that target the scope; the agent's
later accesses come after what they wrote. -/
def execFence (g : BitVec 3) (c : BitVec 3) (s : State) : Out :=
  anyOp g s (fun s =>
    let nr := match s.focus with
      | .seq _ => []
      | _ => s.my.nr
    if s.eng.copies.any (fun k => k.started && s.targets c.toNat k) ||
        nr.any (fun x => scopeCovers c.toNat s.me x.pa) then s.stall .fence
    else s.setPts (s.wroteIn c.toNat))

/-! ### AWAIT (R316) -/

/-- A copy into the core's own queue store is outstanding. -/
def State.queueCopies (s : State) : Bool :=
  s.allCopies.any (fun k => k.op == 0x05 && k.task == s.my.point.map Prod.fst && k.lbay == s.my.lbay
    && fieldN k.rb.toNat 4 3 == s.my.lcid)

/-- AWAIT (R316): waits for the copies into its own queue store before its first evaluation, then as GWAIT does. -/
def execAwait (g : BitVec 3) (d a b : BitVec 5) (s : State) : Out :=
  if s.mode = .seq ∧ s.pr g then .next (s.privilege 0x1E)
  else wordOp 32 g a s (fun s pa =>
    if s.queueCopies && !s.my.woken && s.my.polled.isNone then s.stall .copies else s.gaugeWait d a b pa true)

end Sys2Proof.Machine
end

