-- ==== Sys2Proof/Machine/Pegs.lean ====
section
/-! DEFINITION. Fetch and the next sequential bundle, the bundles that commit as pegs, implicit pegs, waits
and stalls, retirement of a bundle (spec/07_casks.md R135 to R147, spec/08_core.md R172 to R184,
spec/12_encoding.md R269, R270, spec/13_isa_scalar.md R298, R299, R323, R324). -/

namespace Sys2Proof.Machine

open Sys2Proof.Bits

/-! ### Fetch (R184, R199, R202, R270) -/

/-- The trap of a fetch at an address: TRAPINFO is zero for causes 0x01 to 0x03 (R145). -/
def fetchTrap (cause va : Nat) : TrapRec := if cause < 4 then ⟨BitVec.ofNat 8 cause, 0#64⟩ else accessTrap cause 4 0 va

/-- The words from an address to the end of its packet, or the cause of the fault. A handler at address 0
is not sealed (R145). -/
def State.packetFrom (s : State) (va : Nat) : Except Nat (List W32) :=
  match s.resolve s.view .fetch va with
  | .error c => .error (if s.mode = .frame ∧ va = 0 then tcFetchNotSealed else c)
  | .ok (.status _) => .error tcFetchNotSealed
  | .ok (.cell pa leaf) =>
    match s.dataFault pa leaf with
    | some c => .error c
    | none => .ok ((List.range ((32 - va % 32) / 4)).map (fun i => BitVec.ofNat 32 (Memory.read s.mem (pa + 4 * i) 4)))

/-- The words of the packet from a bundle's start on; BUNDLE_START where no bundle starts (R184, R270). -/
def State.fetch (s : State) (va : Nat) : Except TrapRec (List W32) :=
  match s.packetFrom va with
  | .error c => .error (fetchTrap c va)
  | .ok ws =>
    match ws with
    | [] => .error (fetchTrap tcBundleStart va)
    | w :: _ => if va % 4 = 0 ∧ wordB w ∧ w ≠ fillWord then .ok ws else .error (fetchTrap tcBundleStart va)

/-- The first word at or after an address that is no fill word, of at most so many packets (R270). -/
def State.passFill (s : State) : Nat → Nat → Nat
  | 0, va => va
  | n + 1, va =>
    match s.packetFrom va with
    | .ok (w :: _) => if w = fillWord then State.passFill s n (va / 32 * 32 + 32) else va
    | _ => va

/-- The bundle that follows in sequence from the word after a bundle: fill words are passed (R270). The address space
has 2 to the power 47 packets. -/
def State.nextStart (s : State) (va : Nat) : Nat := s.passFill (2 ^ 47) va

/-- The head of a C op stands in a bundle's first word, whose B is 1 (R269). -/
def opensWithCopy : List W32 → Bool
  | [] => false
  | w :: _ => wordK w == 1 && w.extractLsb' 26 3 == 6#3

/-- The line that a core's fetch reads where its instruction cache does not hold it (R209). -/
def State.fetchMiss (s : State) (n : Nat) : Option (Nat × Option Nat) :=
  match s.resolve s.view .fetch s.scalar.pc.toNat with
  | .ok (.cell pa leaf) => if (s.core n).ic.contains (pa / 128) then none else some (pa / 128, leaf)
  | _ => none

/-- A core's fetch reads its line at the home and puts it into the instruction cache (R209, R217, R221). -/
def State.noteFetch (s : State) (n : Nat) : State :=
  match s.fetchMiss n with
  | none => s
  | some (l, leaf) =>
    let s := (s.noteTlb s.view s.scalar.pc.toNat).readLine l leaf 0
    if (s.dataFault (128 * l) leaf).isSome then s
    else s.modCore n (fun c => { c with ic := cachePut icLines s.free (fun _ => 1) (fun x => x == l) c.ic l })

/-- A bundle read from memory: its ops by slot, whether it opens with a copy, its length in words. -/
structure Fetched where
  ops : List (Nat × Group)
  first : Bool
  len : Nat
  deriving DecidableEq, Repr

/-- Fetches the bundle at the agent's pc: it, or a trap; none where its words are no bundle. -/
def State.fetchBundle (s : State) : Option (Except TrapRec Fetched) :=
  match s.fetch s.scalar.pc.toNat with
  | .error t => some (.error t)
  | .ok ws =>
    match parseBundle ws with
    | .error _ => none
    | .ok r => some (.ok ⟨r.1, opensWithCopy ws, r.2⟩)

/-! ### Bundles that commit as pegs (R135, R138) -/

/-- An op whose bundle commits a peg in point mode, whether or not its guard holds (R135, R138, R273). -/
def commits : Instr → Bool
  | .peg | .endOp => true
  | .amadd .. | .ammin .. | .amminn .. | .ammax .. | .ammaxn .. | .amand .. | .amor .. | .amxor .. => true
  | .amswp .. | .amcas .. | .vamadd .. | .vammin .. => true
  | .ginit .. | .gsig .. | .tkget .. | .tknext .. => true
  | .fence .. | .cpub .. | .spawn .. | .cancelj .. => true
  | _ => false

/-- The lines an op's stores could need in the withheld-store buffer (R139), which a no-return atomic never enters (R136). -/
def storeLines : Instr → Nat
  | .stb .. => 1
  | .sth .. | .stw .. | .std .. => 2
  | .vst .. => 3
  | .vsts .. | .vscat .. => 64
  | .vstq .. => 2
  | .amadd _ _ _ _ n _ | .ammin _ _ _ _ n _ | .amminn _ _ _ _ n _ | .ammax _ _ _ _ n _ | .ammaxn _ _ _ _ n _
  | .amand _ _ _ _ n _ | .amor _ _ _ _ n _ | .amxor _ _ _ _ n _ | .amswp _ _ _ _ n _ => if n = 1#1 then 0 else 1
  | .amcas .. => 1
  | _ => 0

/-- The lines a core's withheld stores hold, one entry for the stores to a line: a call's retirement writes hold none
(R136, R385). -/
def Core.linesHeld (c : Core) : Nat := ((c.withheld.filter (fun w => !w.retire)).map (·.line)).eraseDups.length

/-- Buffer pressure at the start of a bundle whose stores could need `n` lines (R139). -/
def Core.pressed (c : Core) (n : Nat) : Bool := decide (224 ≤ c.linesHeld) || decide (256 < c.linesHeld + n)

/-- Whether a core may commit a peg at the start of its bundle (R137), or what it meets first. -/
inductive PegGate where
  | free
  /-- a matrix call is outstanding: the core stalls -/
  | calling
  /-- a load has not delivered its data: the core freezes -/
  | late
  /-- the data of an access has a fault (R223) -/
  | bad (t : TrapRec)
  deriving DecidableEq, Repr

/-- The conditions of R137 and R223: an outstanding load freezes the clock domain, whether or not a call is
outstanding too. -/
def State.pegGate (s : State) (n : Nat) : PegGate :=
  if !(s.core n).loadsDone then .late
  else if (s.core n).calling then .calling
  else match s.badData n with
    | some t => .bad t
    | none => .free

/-- A core does not issue and waits. One whose bundle's host write group has been applied waits on at its HWIN, whatever
else keeps the bundle from retiring, so that no second group is cut for it (R63). -/
def State.hold (s : State) (n : Nat) (w : Wait) : State :=
  let w := if s.groupIn (.core n) then .hwin else w
  s.modCore n (fun c => { c with wait := w })

/-- A core's trap at its point-mode bundle (R143, R146). -/
def State.trapCore (s : State) (n : Nat) (t : TrapRec) : State := s.trapPoint n t (s.core n).pt.sc.pc

/-- A core whose peg waits notes the gauge word that its bundle has found not met (R315). -/
def State.notePoll (s : State) (n : Nat) (w : Wait) : State :=
  match w with
  | .gauge pa _ _ => s.modCore n (fun c => { c with polled := some pa })
  | _ => s

/-- An implicit peg at the bundle of a core in point mode (R137, R139): once it commits, the core waits as
given, and takes what is pending (R147). -/
def State.implicitPeg (s : State) (n : Nat) (w : Wait) : State :=
  match s.pegGate n with
  | .calling => (s.notePoll n w).hold n .peg
  | .late => (s.notePoll n w).hold n .late
  | .bad t => s.trapCore n t
  | .free =>
    ((((s.asAgent (.core n) State.settleBoth).commitPeg n).hold n w).modCore n (fun c => { c with polled := none })).atPeg n

/-- The clock of a core runs: its die is powered and not fenced (R22, R88). -/
def State.powered (s : State) (n : Nat) : Bool := (s.die (n / 64)).power == .on && !(s.die (n / 64)).lost

/-- A core's clock runs for its point: it holds one, is in no freeze or rotation, has power, and waits for no host
write group (R63). -/
def State.clocked (s : State) (n : Nat) : Bool :=
  (s.core n).point.isSome && !(s.core n).frozen && s.powered n && !s.hwinFrozen (.core n)

/-- The core has a bundle to issue: its clock runs, and END has not committed. -/
def State.issuing (s : State) (n : Nat) : Bool := s.clocked n && !(s.core n).ending

/-- A trap is pending or the logical bay has been asked to rotate out (R139); in frame mode it is held. -/
def Core.requested (c : Core) : Bool := !c.frame && (!c.async.isEmpty || c.rotate)

/-! ### Waits (R139, R148, R175, R244, R246) -/

/-- A wait that only an event ends. -/
def Wait.asleep : Wait → Bool
  | .gauge _ woken _ => !woken
  | .ticket _ broadcast => !broadcast
  | _ => false

/-- A wait during which the core's clock is stopped (R148). -/
def Wait.stopsClock : Wait → Bool
  | .gauge .. | .ticket .. | .queue | .copies => true
  | _ => false

/-- The results of a bundle find no free entries in the core's landing buffer, which results of point mode and of
frame mode share (R176, R431). -/
def State.overfull (s : State) : Bool :=
  s.mode != .seq &&
    decide (64 < ((s.my.pt.sc.pend ++ s.my.fr.pend).filter (fun p => p.dest.holdsEntry)).length + s.my.pt.sc.just + s.my.fr.just)

/-- A core's bundle does not issue (R139, R175): a wait of R139 takes an implicit peg in point mode, and an access
whose home cannot answer at once makes its request there (R230); `s1` is the state the ops had reached, whose
evaluation of a gauge counts as a poll (R228). -/
def State.stallCore (s s1 : State) (n : Nat) (w : Wait) : State :=
  let s := if w.stopsClock then { (s.modCore n (fun c => { c with pts := (s1.core n).pts })) with lines := s1.lines } else s
  if w = .hwin then (if s.cutOf.isNone then s.takeCut else s).hold n .hwin
  else if w.stopsClock ∧ !(s.core n).frame ∧ !s.groupIn (.core n) then s.implicitPeg n w
  else match w with
    | .line l q => (s.hold n w).ask l q
    | _ => s.hold n w

/-- A command sequencer's bundle does not issue; the stream is in WAIT where a job, a backlog or a host group holds it
(R57, R299, R335); an access makes its request at its line's home (R231). -/
def State.stallSeq (s : State) (n : Nat) (w : Wait) : State :=
  let s := if w = .hwin ∧ s.cutOf.isNone then s.takeCut else s
  let s := if w = .table ∨ w = .hwin then s.modStrm n (fun x => { x with st := .wait }) else s
  let w := if s.groupIn (.seq n) then .hwin else w
  let s := s.setSeq n { s.seq n with wait := w }
  match w with
  | .line l q => s.ask l q
  | _ => s

/-! ### Retirement -/

/-- A core's counts after a bundle has retired (R148, R180, R228). -/
def Core.tally (c : Core) : Core :=
  let c := c.chargeLate
  let r := c.retired + 1
  { c with cyc := (c.cyc + 1) % 2 ^ 64, wait := .none, woken := false, polled := none, wdogTicks := 0, stallTicks := 0,
           retired := if r = 1024 then 0 else r, pts := if r = 1024 then c.pts + 1 else c.pts }

/-- A core continues at a bundle. -/
def Core.goTo (c : Core) (a : BitVec 52) : Core :=
  if c.frame then { c with fr := { c.fr with pc := a } } else { c with pt := { c.pt with sc := { c.pt.sc with pc := a } } }

/-- A bundle of a core in frame mode retires (R144, R298): the point's own registers, as they now stand, are
the peg state; END abandons the point; ERET returns to point mode. -/
def State.retireFrame (s : State) (n : Nat) : State :=
  let b := s.bundle
  let s := s.advance.modCore n (fun c =>
    let c := c.tally.goTo (b.xfer.getD b.next)
    { c with peg := { c.pt with sc := c.peg.sc } })
  if b.ended then s.abandonPoint n
  else if b.eret then (s.modCore n Core.eret).atPeg n
  else s

/-- A bundle of a core in point mode retires (R135, R138, R323): the resume wake-up was owed to this bundle alone
(R168); it may commit a peg, whose resume address
is the bundle that follows and which takes a CANCEL of its own job (R326), and END ends the point, once a call of its own bundle is over (R98, log entry 89). -/
def State.retirePoint (s : State) (n : Nat) : State :=
  let b := s.bundle
  let s := s.advance.modCore n (fun c => { c.tally.goTo (b.xfer.getD b.next) with owed := false })
  let s := if b.peg then s.commitPeg n else s
  if !b.ended then (if b.peg then s.takeCancel n else s)
  else if (s.core n).calling then s.modCore n (fun c => { c with ending := true })
  else s.endPoint n

/-- A bundle of a command sequencer retires (R299, R323). -/
def State.retireSeq (s : State) (n : Nat) : State :=
  let b := s.bundle
  let s := s.advance
  let q := s.seq n
  let s := s.setSeq n { q with sc := { q.sc with pc := b.xfer.getD b.next }, cyc := (q.cyc + 1) % 2 ^ 64,
                               wait := .none, woken := false }
  if b.ended then s.modStrm n (fun x => { x with st := .idle }) else s

end Sys2Proof.Machine
end

