-- ==== Sys2Proof/Machine/Tasks.lean ====
section
/-! DEFINITION. Dispatch, placement and resume, slabs, firing, heartbeats and the loss of a die
(spec/04_tasks.md R82 to R94, spec/05_frontier.md R99 to R105, R111, spec/07_casks.md R167, R168,
spec/06_energy.md R122, R123). -/

namespace Sys2Proof.Machine

open Sys2Proof.Bits

/-! ### Free bays (R70, R85, R132) -/

/-- A bay may be given to a task: free, powered, enabled by the core map, on a die that is not fenced, not about to be
gated, and on which PARKDIE is not in force. -/
def State.bayFree (s : State) (pb : Nat) : Bool :=
  (s.bay pb).bound.isNone && (s.die (dieOfBay pb)).power == .on && !(s.die (dieOfBay pb)).lost && !(s.bp pb).disabled
    && !s.parkDie (dieOfBay pb) && !s.commandOn (dieOfBay pb) && !s.pow.gateNext.contains (dieOfBay pb)

/-- A bay's cores can provide direct slices: none of them holds pinned lines (R85, R206). -/
def State.bayProvides (s : State) (pb : Nat) (t : Task) : Bool :=
  (coresOfBay pb).all (fun n => (List.range (startSlices t.rcd)).all (fun i => !s.slicePinned n i))

/-- The bays that a task could take, those that the inputs name first (log entry 35). -/
def State.baysFor (s : State) (t : Task) : List Nat :=
  (((s.inp.nums.filter (fun b => decide (b < 80))) ++ List.range 80).eraseDups).filter (fun pb => s.bayFree pb && s.bayProvides pb t)

/-- A task fits (R85, R123): bays for its floor entry, all of them for a COR task, and the budget. -/
def State.fits (s : State) (t : Task) : Bool :=
  decide (oBays (t.opt (s.floorEnt t)) ≤ (s.baysFor t).length) && (!rCor t.rcd || decide (rNlbay t.rcd ≤ (s.baysFor t).length))
    && s.affords t 0

/-! ### Resume (R111, R167, R168, R248) -/

/-- A slab holds a completed point or one in flight (R111). -/
def slabStarted (r : BitVec 2048) (f : Frontier) (k : Nat) : Bool :=
  let sp := slabSpan r k
  f.flight.any (fun x => slabOf r x.coord == k) ||
    (if rNdim r = 1 then
      let l := f.line 0
      decide (1 ≤ f.lines) || l.full || decide (sp.1 < l.count)
        || (List.range 64).any (fun i => l.island.getLsbD i && decide (sp.1 ≤ l.count + 1 + i) && decide (l.count + 1 + i < sp.2))
    else
      decide (sp.1 < f.lines) || ((f.win.drop (sp.1 - f.lines)).take (sp.2 - max sp.1 f.lines)).any (fun l =>
        l.full || decide (0 < l.count) || l.island != 0#64))

/-- The slabs of a resumed task: those completed in full are recorded, those started are issued (R111); those with
points still to be fired again after the loss of a die keep them (R105). -/
def resumeSlabs (r : BitVec 2048) (f : Frontier) (old : List Slab) : List Slab :=
  (List.range (slabCount r)).filterMap (fun k =>
    match old.find? (fun sl => sl.k == k && !sl.redo.isEmpty) with
    | some sl => some { k := k, die := none, redo := sl.redo }
    | none =>
    if f.slabDone r k then some { k := k, die := none, done := true }
    else if slabStarted r f k then some { k := k, die := none } else none)

/-- A logical core restored from its record (R167, R168, R248); a running point goes on with the variant it started on
(R122). Its FRAMEVEC, which no record holds, is the stream's FRAMEENTRY (DESIGN CHOICE, log entry 128). -/
def restoreCore (t : Task) (i : Nat) (running : Bool) (g : Regs) (variant floor frameVec : Nat) : Core :=
  let c := freshCore t (i / 8) (i % 8)
  let p := (t.fr.flight.find? (fun x => !x.ended && x.lbay == i / 8 && x.lcid == i % 8)).map (·.coord)
  let q := p.getD [0, 0, 0, 0]
  { c with
    pt := g, peg := g, pts := floor + 1, resumed := true, owed := running, variant := variant,
    frameVec := BitVec.ofNat 52 frameVec,
    point := if running then p.map (fun q => (t.id, q)) else none,
    coord := #v[BitVec.ofNat 64 (nth q 0 0), BitVec.ofNat 64 (nth q 1 0), BitVec.ofNat 64 (nth q 2 0), BitVec.ofNat 64 (nth q 3 0)] }

/-- A cask's logical cores, vaults and queue stores go to a new rotation area (R167). -/
def State.loadCask (s : State) (t : Task) (c : Cask) : State :=
  let fv := (s.strm t.stream).frameEntry.toNat
  let floor := s.tsfloor
  let s := s.newArea t
  let s := { s with rotated := s.rotated.map (fun (r : RotBay) =>
    if r.task = t.id then
      { r with cores := (c.cores.filter (fun e => e.1 / 8 == r.lbay)).map (fun e =>
          (e.1 % 8, restoreCore t e.1 e.2.1 e.2.2.1 (nth c.variants e.1 0) floor fv)) }
    else r) }
  let s := c.cores.foldl (fun (s : State) e =>
    { s with mem := Memory.setAll s.mem (rotQueueCell t.id (e.1 / 8) (e.1 % 8) 0) e.2.2.2 }) s
  let vc := vaultKeep t.rcd
  (List.range (rNlbay t.rcd)).foldl (fun s l => (List.range 8).foldl (fun (s : State) k =>
    { s with mem := Memory.setAll s.mem (rotCell t.id l k 0) (((nth c.vault l []).drop (k * vc)).take vc) }) s) s

/-- The counters of ticket words are written back, and the holdings noted (R162, R167). -/
def State.loadTickets (s : State) (t : Task) (c : Cask) : State :=
  c.tickets.foldl (fun s e =>
    let va := e.1
    let s := match s.vaultPlace t.id (fieldN va 25 7) (fieldN va 22 3) (va % 2 ^ 22) true with
      | .ok (.cell pa _) => { s with mem := Memory.setAll s.mem pa (leBytes 4 e.2.1 ++ leBytes 4 e.2.2.1) }
      | _ => s
    s.modTask t.id (fun t =>
      let held := (find? t.tickets va).getD []
      { t with tickets := put t.tickets va (if e.2.2.2.1 = 2 ^ 32 - 1 then held else held ++ [(e.2.2.2.2, e.2.2.2.1)]) })) s

/-- Swap-buffer mappings are restored (R160, R167): a buffer that another task renames stays that task's, one for which the
task itself is renamed in its table is so too where its cask has brought the buffer (R80, R166), and one whose LIVE
changes does so as at a publish. -/
def State.loadSwaps (s : State) (t : Task) (c : Cask) : State :=
  c.swaps.foldl (fun s b =>
    let x := s.ctx t.stream
    let old := x.bufs.find? (fun y => y.a == b.a)
    let b := { b with
      renamed := if b.renamed.isSome ∨ t.renames.contains b.a then some t.id else old.bind (·.renamed)
      since := match old with
        | some o => if o.liveB = b.liveB then o.since else s.afterAll
        | none => s.afterAll }
    let s := s.setCtx t.stream { x with bufs := x.bufs.filter (fun y => y.a != b.a) ++ [b] }
    if b.renamed = some t.id then s.modTask t.id (fun t => { t with renames := (t.renames ++ [b.a]).eraseDups }) else s) s

/-- The logical bays of a cask in ORDER (R156). -/
def caskOrder (t : Task) (c : Cask) : List Nat :=
  let order := (List.range (rNlbay t.rcd)).filterMap (fun i =>
    (List.range (rNlbay t.rcd)).find? (fun l => (nth c.map l (false, 0)).2 == i))
  (order ++ List.range (rNlbay t.rcd)).eraseDups

/-- The logical bays of a resuming task in the order in which they are bound: those with running points first,
then in ORDER (R167). -/
def bindOrder (t : Task) (c : Cask) : List Nat :=
  let all := caskOrder t c
  let runs (l : Nat) : Bool := c.cores.any (fun e => e.1 / 8 == l && e.2.1)
  all.filter runs ++ all.filter (fun l => !runs l)

/-- Logical bays are bound to physical bays one after another. -/
def State.bindAll (s : State) (id : Nat) (bs : List (Nat × Nat)) : State :=
  bs.foldl (fun s e => match s.task id with
    | some t => s.bringIn t e.1 e.2
    | none => s) s

/-! ### Placement (R83, R85, R151, R167) -/

/-- A task is placed on its floor entry: a new one with its first logical bays, a resuming one from its cask. -/
def State.place (s : State) (t : Task) : State :=
  let e := s.floorEnt t
  let bays := (s.baysFor t).take (oBays (t.opt e))
  let s := { s with tab := { s.tab with drainRule := if s.tab.drainRule = some t.id then none else s.tab.drainRule } }
  let s := s.modTask t.id (fun t => { t with
    st := .placed, skip := 0, ent := e, oldEnts := [], oldPoints := [], raisedAt := none, away := none })
  let t := { t with ent := e }
  let s := match t.cask with
    | none =>
      let s := (s.newArea t).modTask t.id (fun t => { t with order := orderAfter (rNlbay t.rcd) (rNlbay t.rcd - 1), slabs := [], next := 0 })
      s.bindAll t.id (bays.zip (List.range (rNlbay t.rcd)))
    | some c =>
      let s := (s.loadCask t c).modTask t.id (fun t => { t with
        cask := none, slabs := resumeSlabs t.rcd t.fr t.slabs, next := 0, tickets := [], resumable := false, parkedByEvent := false,
        heldSince := none })
      let s := (s.bindAll t.id (bays.zip (bindOrder t c))).modTask t.id (fun t => { t with order := caskOrder t c })
      (((s.loadSwaps t c).loadTickets t c).reissueAll t c.intents).settlePoints t.id
  s.applyEntry t.id

/-! ### The dispatchers' round (R85, R86, R123) -/

/-- The head starts the drain rule when its skip count has reached its age limit; the rule ends when the head
it holds for is no longer READY, and a task that comes to sort ahead of that head waits for its placement too (R86;
DESIGN CHOICE, log entry 129). -/
def State.headRule (s : State) : State :=
  let order := s.readyOrder
  let held := match s.tab.drainRule with
    | some h => if order.any (fun t => t.id == h) then some h else none
    | none => none
  let rule := match held, order with
    | some h, _ => some h
    | none, t :: _ => if t.age ≤ t.skip then some t.id else none
    | none, [] => none
  { s with tab := { s.tab with drainRule := rule } }

/-- One task of the ready order is examined: placed, or passed over. -/
def State.examine (sp : State × List Nat) (id : Nat) : State × List Nat :=
  let s := sp.1
  match s.task id with
  | none => sp
  | some t =>
    if s.tab.drainRule.isSome ∧ s.tab.drainRule ≠ some id then (s, sp.2 ++ [id])
    else if s.fits t then
      let s := sp.2.foldl (fun s p => s.modTask p (fun t => { t with skip := t.skip + 1 })) (s.place t)
      (s.headRule, sp.2)
    else (s, sp.2 ++ [id])

/-- The dies, in ascending order, that a resuming task needs ungated to find bays for its floor entry; none if
it needs none or cannot be served (R123). One that failed its self-test is ungated by a host command alone (R21), and
a task that DRAINDIE parked resumes on another die (R133). -/
def State.diesNeeded (s : State) (t : Task) : List Nat :=
  let want := if rCor t.rcd then rNlbay t.rcd else oBays (t.opt (s.floorEnt t))
  let have_ := (s.baysFor t).length
    + ((List.range 10).filter (fun d => (s.die d).power == .ungating)).length * 8
  let off := (List.range 10).filter (fun d => (s.die d).power == .gated && !(s.die d).failed && !(s.die d).lost && !(s.die d).held && !s.parkDie d
    && t.away != some d)
  if want ≤ have_ then []
  else
    let k := ceilDiv (want - have_) 8
    if k ≤ off.length then off.take k else []

/-- Dies are ungated for the first resuming task that needs them and can pay for them (R123). -/
def State.ungateFor (s : State) : State :=
  match s.readyOrder.find? (fun t => t.cask.isSome && !(s.diesNeeded t).isEmpty
      && s.affords t (((s.diesNeeded t).map Config.dieStatic).sum)) with
  | none => s
  | some t => (s.diesNeeded t).foldl State.startUngate s

/-- A placed task with fewer bays than its entry counts is given free ones, unless the drain rule holds them
(R86, R88, R122): one of COR = 1 that lost bays with a die too, as they come (DESIGN CHOICE, log entry 130). -/
def State.addBays (s : State) (id : Nat) : State :=
  match s.task id with
  | none => s
  | some t =>
    if t.st ≠ .placed ∨ t.freeze.isSome ∨ t.code.isSome ∨ s.tab.drainRule.isSome then s
    else
      let missing := t.wantBays - (s.baysOf id).length
      let out := (t.order.filter t.hasWork ++ t.order.filter (fun l => !t.hasWork l)).filter (fun l => (s.bayOf id l).isNone)
      (s.bindAll id (((s.baysFor t).take missing).zip out)).applyEntry id

/-- DISPATCH (R85): one round over the ready order; nums prefers bays. -/
def execDispatch (s : State) : Out :=
  let s := s.headRule
  let s := ((s.readyOrder.map (·.id)).foldl State.examine (s, [])).1
  let s := s.ungateFor
  .next ((s.placedOrder.map (·.id)).foldl State.addBays s)

/-! ### Slabs (R87) -/

/-- The lowest slab from a number on that has not been issued. -/
def nextSlab (slabs : List Slab) : Nat → Nat → Nat
  | 0, k => k
  | n + 1, k => if slabs.any (fun sl => sl.k == k) then nextSlab slabs n (k + 1) else k

/-- SLAB_ISSUE (R87): the leader of task n1 issues its next slab to the slab's logical bay, if that bay has fewer
than two issued slabs that have not completed. -/
def execSlabIssue (s : State) : Out :=
  .next (match s.task s.inp.n1 with
    | none => s
    | some t =>
      let k := nextSlab t.slabs t.slabs.length t.next
      let l := k % rNlbay t.rcd
      let open_ := (t.slabs.filter (fun sl => sl.k % rNlbay t.rcd == l && !sl.done)).length
      if t.st = .placed ∧ t.freeze.isNone ∧ !t.stop ∧ k < slabCount t.rcd ∧ open_ < 2 then
        s.modTask t.id (fun t => { t with slabs := t.slabs ++ [{ k := k, die := (s.bayOf t.id l).map dieOfBay }], next := k + 1 })
      else s)

/-! ### Firing (R82, R100, R105) -/

/-- The register state with which a point starts (R82, R181, R182); queue handles and slices stay. -/
def firedRegs (g : Regs) (r : BitVec 2048) (entry : Nat) : Regs :=
  { sc := { x := (Vector.replicate 32 0#64).set 1 (BitVec.ofNat 64 (rcdField r 0x98 8)), pc := BitVec.ofNat 52 entry },
    q := g.q, hwinst := g.hwinst, linksub := g.linksub, dslices := g.dslices }

/-- A core with a point just fired (R82, R100, R145). -/
def Core.fire (c : Core) (t : Task) (p : List Nat) (frameVec : W64) : Core :=
  let g := firedRegs c.pt t.rcd (rVimg t.rcd (oVariant (t.opt t.ent)))
  let d (i : Nat) : W64 := BitVec.ofNat 64 (nth p i 0)
  { c with
    pt := g, peg := g, frame := false, frameVec := frameVec.extractLsb' 0 52, lcid := lcidOf t.rcd p, lbay := lbayOf t.rcd p,
    nlcore := 8 * rNlbay t.rcd, taskId := t.id, coord := #v[d 0, d 1, d 2, d 3], point := some (t.id, p),
    variant := oVariant (t.opt t.ent), stream := t.stream, job := t.job, wait := .none, woken := false, owed := false,
    wdogTicks := 0, stallTicks := 0, mx := { c.mx with mstat := 0#9, lastCode := 0 } }

/-- The point that a bound core may fire now: its logical bay resident, not asked to leave and not surplus, its task
placed and firing, in a slab whose claim names its die. -/
def State.firesNext (s : State) (n : Nat) : Option (Task × List Nat) :=
  let c := s.core n
  if c.point.isSome || c.rotate || c.frozen || !s.powered n then none
  else match (s.bay (n / 8)).bound with
    | none => none
    | some (id, l) => match s.task id with
      | none => none
      | some t =>
        if t.st = .placed ∧ t.freeze.isNone ∧ !t.stop ∧ t.code.isNone ∧ !(s.surplus t).contains (n / 8) then
          (nextPoint t.rcd t.fr (t.slabs.filter (fun sl => sl.die == some (n / 64))) l (n % 8)).map (fun p => (t, p))
        else none

/-- POINT_FIRE (R100): core n1 fires its next point. -/
def execPointFire (s : State) : Out :=
  let n := s.inp.n1
  .next (match s.firesNext n with
    | none => s
    | some (t, p) =>
      let fv := (s.strm t.stream).frameEntry
      let s := s.modCore n (fun c => c.fire t p fv)
      let x : Flight := { coord := p, lbay := lbayOf t.rcd p, lcid := lcidOf t.rcd p }
      s.modTask t.id (fun t => { t with
        fr := { t.fr with flight := insertFlight x t.fr.flight },
        slabs := t.slabs.map (fun sl => if sl.k = slabOf t.rcd p then
          { sl with redo := sl.redo.filter (· != slabIndex t.rcd p) } else sl) }))

/-! ### The loss of a die (R88, R105) -/

/-- The indexes of the completed points of a slab. -/
def doneIndexes (r : BitVec 2048) (f : Frontier) (k : Nat) : List Nat :=
  (List.range (slabPoints r k)).filter (fun i => let p := slabPoint r k i; f.has (lineOf r p) (posOf r p))

/-- The participating dies of a task (R87). -/
def State.diesOf (s : State) (id : Nat) : List Nat := ((s.baysOf id).map dieOfBay).eraseDups

/-- A task's logical bays on a lost die are unbound with nothing of their state; their points are removed and their
commands cancelled (R88, R105). -/
def State.unbindLost (s : State) (t : Task) (d : Nat) : State :=
  let lost := (s.mapOf t.id).filter (fun m => dieOfBay m.1 == d)
  let on (l : Nat) : Bool := lost.any (fun m => m.2 == l)
  let s := s.cancelCopies (fun k => k.task == some t.id && on k.lbay)
  let s := lost.foldl (fun s m => (coresOfBay m.1).foldl (fun s n => s.modCore n Core.vacate) (s.setBay m.1 {})) s
  let s := { s with rotated := s.rotated ++ lost.map (fun (m : Nat × Nat) =>
    { task := t.id, lbay := m.2, cores := (List.range 8).map (fun c => (c, freshCore t m.2 c)) : RotBay }) }
  s.modTask t.id (fun t => { t with
    fr := { t.fr with flight := t.fr.flight.filter (fun x => !on x.lbay) },
    oldPoints := t.oldPoints.filter (fun p => !on (lbayOf t.rcd p)) })

/-- What the loss of a die means for a task with bays on it (R88). -/
def State.taskLoses (s : State) (d : Nat) (t : Task) : State :=
  let claimed := t.slabs.filter (fun sl => sl.die == some d && !sl.done)
  let leader := ((s.diesOf t.id).filter (fun x => !(s.die x).lost || x == d)).foldl min 10
  let s := s.unbindLost t d
  let s := if leader = d then
      s.modTask t.id (fun t => { t with next := match t.slabs with
        | [] => 0
        | _ => t.slabs.foldl (fun m sl => max m sl.k) 0 + 1 })
    else s
  if claimed.isEmpty then s
  else if rIdem t.rcd then
    s.modTask t.id (fun t => { t with slabs := t.slabs.map (fun sl =>
      if sl.die = some d ∧ !sl.done then { sl with die := none, redo := doneIndexes t.rcd t.fr sl.k } else sl) })
  else (s.haltTask t.id 3).cancelPoints t.id

/-- A die is declared lost: it is fenced, DIE_LOST is posted, its slabs are refired or their tasks stopped. -/
def State.loseNow (s : State) (d : Nat) : State :=
  let s := s.setDie d { s.die d with lost := true, missed := 0 }
  let s := s.post 0x0401 d
  (s.tab.tasks.filter (fun t => (s.mapOf t.id).any (fun m => dieOfBay m.1 == d))).foldl (fun s t => s.taskLoses d t) s

/-- A dispatcher sends a heartbeat on channel 3 of its hub link to a hub (R88). -/
def State.sendBeat (s : State) (d hub : Nat) : State :=
  match s.sendFrom d { stamp := s.fab.stamps, chan := 3, src := d, dst := hub, fromR := 1280 + d, body := .beat } with
  | none => s
  | some t => { t with fab := { t.fab with stamps := t.fab.stamps + 1 } }

/-- HEARTBEAT (R88): die n1's 10 µs are over. Its heartbeat is missing if none of it has reached a hub in them; ok: its
dispatcher sends the next, to both hubs. -/
def execHeartbeat (s : State) : Out :=
  let x := s.die s.inp.n1
  .next (if s.inp.n1 < 10 ∧ x.power = .on ∧ !x.lost ∧ x.beatAt ≠ some (s.now / 10) then
      let s := s.setDie s.inp.n1 { x with beatAt := some (s.now / 10), beat := false, missed := if x.beat then 0 else x.missed + 1 }
      if s.inp.ok then (s.sendBeat s.inp.n1 10).sendBeat s.inp.n1 11 else s
    else s)

/-- DIE_LOST (R41, R88): die n1 has missed three heartbeats, or no route reaches it. -/
def execDieLost (s : State) : Out :=
  let d := s.inp.n1
  let x := s.die d
  .next (if d < 10 ∧ !x.lost ∧ x.power = .on ∧ (3 ≤ x.missed ∨ s.unreached.contains d) then s.loseNow d else s)

/-- Every die that no route reaches is lost (R41). -/
def State.loseUnreached (s : State) : State := s.unreached.foldl State.loseNow s

end Sys2Proof.Machine
end

