-- ==== Sys2Proof/Machine/Maltster.lean ====
section
/-! DEFINITION. The Maltster's loop, curtailment, the error band, thermal polls and rails
(spec/06_energy.md R121 to R132, spec/01_package.md R17 to R26). -/

namespace Sys2Proof.Machine

open Sys2Proof.Bits

/-! ### The budget (R113, R114) -/

/-- The value of a curve at an instant: linear within a segment, constant in the last (R114). -/
def Curve.valueAt (c : Curve) (now : Nat) : Rat :=
  let i := c.segmentAt now
  let p := nth c.points i (0, 0, 0)
  match c.points.drop (i + 1) with
  | [] => p.2.1
  | q :: _ =>
    (p.2.1 : Rat) + ((q.2.1 : Rat) - (p.2.1 : Rat)) * ((now : Rat) - (c.vfrom : Rat) - (p.1 : Rat)) / ((q.1 : Rat) - (p.1 : Rat))

/-- budget(t) (R113). -/
def State.budgetAt (s : State) : Rat :=
  match s.pow.inForce with
  | some c => c.valueAt s.now
  | none => s.pow.defBudget

/-- A rational truncated to a whole number, never negative. -/
def truncRat (r : Rat) : Nat := r.floor.toNat

/-! ### The choice of entries (R121) -/

/-- margin(b). -/
def margin (b : Rat) : Rat := max (b / 100) (25 / 2)

/-- The choice for one task, with what is left; never below its floor (R121). -/
def State.chooseFor (s : State) (t : Task) (b left : Rat) : Nat :=
  let f := s.floorEnt t
  let pwr (i : Nat) : Rat := oPwr (t.opt i)
  ((s.cands t).find? (fun e =>
    let extra := pwr e - pwr f
    decide (0 ≤ extra) &&
      (if pwr t.ent < pwr e then t.raiseOk s.now && decide (extra + margin b ≤ left) else decide (extra ≤ left)))).getD f

/-- The entries of the placed tasks, one after another in their ranking. -/
def State.chooseAll (s : State) (b left : Rat) : List Nat → State
  | [] => s
  | id :: ids =>
    match s.task id with
    | none => State.chooseAll s b left ids
    | some t =>
      let c := s.chooseFor t b left
      let extra : Rat := (oPwr (t.opt c) : Rat) - (oPwr (t.opt (s.floorEnt t)) : Rat)
      State.chooseAll (s.setEntry id c) b (left - extra) ids

/-! ### Curtailment (R126 to R129, R216) -/

/-- Tasks in the order in which a response takes them: lowest effective priority first, among equals the latest
to become READY (R127). -/
def State.curtailBefore (s : State) (a b : Task) : Bool :=
  let ea := s.eprio a.id
  let eb := s.eprio b.id
  decide (ea < eb) || (ea == eb && decide (b.readyAt < a.readyAt))

/-- A response may take a task: placed, with points to complete, not already stopping or in a freeze (R130). -/
def Task.takeable (t : Task) : Bool := t.st == .placed && t.freeze.isNone && t.code.isNone && !t.finished

/-- The tasks that a response may take, with a bit of ECLASS; of two that became READY at one µs, the later submitted
first (log 109). -/
def State.eligible (s : State) (k : Nat) : List Task :=
  sortBy s.curtailBefore (s.tab.tasks.reverse.filter (fun t => t.takeable && bit (rEclass t.rcd) k))

/-- A response of this event or of an earlier one has chosen a task: its park still freezes it, or shed has stopped it
(R126). -/
def Task.chosen (t : Task) : Bool := t.freeze.any (fun f => f.src == 1) || t.code == some 2

/-- The sum of the entries' PWR over the placed tasks that no response has taken. -/
def State.restSum (s : State) (taken : List Nat) : Rat :=
  (((s.tab.tasks.filter (fun t => t.st == .placed && !t.chosen && !taken.contains t.id)).map
    (fun t => oPwr (t.opt t.ent))).sum : Nat)

/-- A park of tasks by a cause: those whose largest cask fits are frozen, one after another while the budget is
not met; the others post SPACE_SHORT (R127, R216). The state and the tasks taken. -/
def State.parkEach (s : State) (src : Nat) (enough : List Nat → Bool) : List Task → List Nat → State × List Nat
  | [], taken => (s, taken)
  | t :: ts, taken =>
    if enough taken then (s, taken)
    else if areaBytes < s.areaUsed + t.largestCask then State.parkEach (s.post 0x060A 0x8000) src enough ts taken
    else State.parkEach (s.startFreeze t.id { src := src, room := t.largestCask, resume := true }) src enough ts (taken ++ [t.id])

/-- A die is about to be gated (R128). -/
def State.aboutToGate (s : State) (taken : List Nat) (d : Nat) : Bool :=
  let live := (baysOfDie d).filterMap (fun pb => (s.bay pb).bound.map (·.1))
  !live.isEmpty && live.all taken.contains && !(s.homed d).any (fun e =>
    s.tab.tasks.any (fun t => t.stream == e.1 && t.st == .placed && !taken.contains t.id))

/-- Puts a number into a rising list. -/
def insertRising (d : Nat) : List Nat → List Nat
  | [] => [d]
  | e :: es => if d < e then d :: e :: es else if d = e then e :: es else e :: insertRising d es

/-- The dies that a park response gates for the tasks it has chosen: those whose pages fit, in ascending number, with
their bytes; the others post SPACE_SHORT (R128, R216). -/
def State.gateEach (s : State) (taken : List Nat) : List Nat → Nat → State × Nat
  | [], bytes => (s, bytes)
  | d :: ds, bytes =>
    if !s.aboutToGate taken d || s.pow.gateNext.contains d then State.gateEach s taken ds bytes
    else
      let n := ((s.homedFrames d).map (fun p => 2 ^ p.2)).sum
      let before := (s.pow.gateNext.map (fun g => ((s.homedFrames g).map (fun p => 2 ^ p.2)).sum)).sum
      if s.pagesFit d before then
        State.gateEach { s with pow := { s.pow with gateNext := insertRising d s.pow.gateNext } } taken ds (bytes + n)
      else State.gateEach (s.post 0x060A d) taken ds bytes

/-- The running points of a shed task leave their cores at once, nothing of them kept, and its commands are cancelled
(R129). -/
def State.shedTask (s : State) (id : Nat) : State :=
  ((s.routersOf id).foldl (fun s n => if (s.core n).point.map (·.1) = some id then s.dropPoint n else s) s).haltTask id 2

/-- Shed takes tasks while the budget is not met. -/
def State.shedEach (s : State) (enough : List Nat → Bool) : List Task → List Nat → State × List Nat
  | [], taken => (s, taken)
  | t :: ts, taken =>
    if enough taken then (s, taken) else State.shedEach (s.shedTask t.id) enough ts (taken ++ [t.id])

/-- What the responses of an event have done so far: the state, the tasks taken, those of them that park has taken, the
deepest response run, the bytes of the pages to be moved. -/
structure Responses where
  s : State
  taken : List Nat
  parked : List Nat
  deepest : Nat
  bytes : Nat

/-- One response after slow, run only while the budget is not met at its turn (R126). -/
def Responses.run (r : Responses) (grade : Nat) (base b : Rat) : Responses :=
  let enough (s : State) (taken : List Nat) : Bool := decide (base + s.restSum taken ≤ b)
  if enough r.s r.taken then r
  else if grade = 2 then
    let p := r.s.parkEach 1 (enough r.s) ((r.s.eligible 0).filter (fun t => !r.taken.contains t.id)) r.taken
    let parked := r.parked ++ p.2.drop r.taken.length
    let g := p.1.gateEach parked (List.range 10) r.bytes
    ⟨g.1, p.2, parked, max r.deepest 2, g.2⟩
  else
    let p := r.s.shedEach (enough r.s) ((r.s.eligible 1).filter (fun t => !r.taken.contains t.id)) r.taken
    ⟨p.1, p.2, r.parked, max r.deepest 3, r.bytes⟩

/-- The response interval of a grade (R127), in the time that one byte takes at 2.0 TB/s, of which 2,000,000 make 1 µs. -/
def responseTime (grade bytes : Nat) : Nat :=
  match grade with
  | 2 => 20000 * 2000000 + bytes
  | 3 => 2000 * 2000000
  | _ => 500 * 2000000

/-- The end of a response interval that begins at a tick (R126). -/
def responseEnd (start grade bytes : Nat) : Nat := start * 20000 + responseTime grade bytes

/-- A curtailment event begins: its responses are decided one after another, slow having run (R126). -/
def State.curtail (s : State) (declared : Nat) (base b : Rat) : State :=
  let s := s.post 0x0604 declared
  let r0 : Responses := ⟨s, [], [], 1, 0⟩
  let r1 := if 2 ≤ declared then r0.run declared base b else r0
  let r2 := r1.run 2 base b
  let r := r2.run 3 base b
  let s := if declared ≠ 0 ∧ declared < r.deepest then r.s.post 0x0605 r.deepest else r.s
  let e : Curtail := { start_ := s.tick, declared := declared, deepest := r.deepest,
                       ends := responseEnd s.tick r.deepest r.bytes, tried := r.parked, bytes := r.bytes }
  ({ s with pow := { s.pow with event := some e, winEvent := true } }).nextGate

/-- A park response goes on with the next tasks after one whose freeze was unwound, which it does not take again
(R165); the dies that are then about to be gated follow (R128). -/
def State.parkMore (s : State) (id : Nat) : State :=
  let tried := ((s.pow.event.map (·.tried)).getD []) ++ [id]
  let enough (taken : List Nat) : Bool := decide (s.pow.base + s.restSum taken ≤ s.pow.budget)
  let p := s.parkEach 1 enough ((s.eligible 0).filter (fun t => !tried.contains t.id)) []
  let held := tried.filter (fun x => (s.task x).any (fun t => t.freeze.isSome || t.st != .placed))
  let g := p.1.gateEach (held ++ p.2) (List.range 10) 0
  { g.1 with pow := { g.1.pow with event := g.1.pow.event.map (fun (e : Curtail) =>
    { e with tried := tried ++ p.2, bytes := e.bytes + g.2, ends := responseEnd e.start_ e.deepest (e.bytes + g.2) }) } }

/-- The bytes of a cask written for an event's park response lengthen its interval (R127, R425). -/
def State.countCask (s : State) (id : Nat) : State :=
  match (s.task id).bind (·.cask), s.task id with
  | some c, some t => { s with pow := { s.pow with event := s.pow.event.map (fun (e : Curtail) =>
      if e.tried.contains id then
        { e with bytes := e.bytes + caskLen t c, ends := responseEnd e.start_ e.deepest (e.bytes + caskLen t c) }
      else e) } }
  | _, _ => s

/-- CURTAILMENT_END (R126): the interval of the deepest response has passed; of a park, once its casks are written. -/
def execCurtailmentEnd (s : State) : Out :=
  .next (match s.pow.event with
    | some e =>
      if e.ends ≤ s.tick * 20000 ∧ !(e.deepest = 2 ∧ e.tried.any (fun id => (s.freezing id).isSome)) then
        { s with pow := { s.pow with event := none } }
      else s
    | none => s)

/-! ### Resumes (R123) -/

/-- A parked task whose budget condition holds, and has held for 1 ms where a curtailment event parked it. -/
def State.mayResume (s : State) (t : Task) : Bool :=
  s.affords t (if (s.baysFor t).length < oBays (t.opt (s.floorEnt t)) then ((s.diesNeeded t).map Config.dieStatic).sum else 0)

/-- The loop notes how long the condition has held, and takes the first task that may resume (R83, R123). -/
def State.resumeOne (s : State) : State :=
  let waiting (t : Task) : Bool := t.st == .parked && t.cask.isSome && t.resumable && t.waits.isEmpty && t.code.isNone
  let s := { s with tab := { s.tab with tasks := s.tab.tasks.map (fun (t : Task) =>
    if waiting t && s.mayResume t then { t with heldSince := some (t.heldSince.getD s.now) } else { t with heldSince := none }) } }
  let ready (t : Task) : Bool := waiting t && (match t.heldSince with
    | some h => !t.parkedByEvent || decide (h + 1000 ≤ s.now)
    | none => false)
  match (sortBy s.before (s.tab.tasks.filter ready)).head? with
  | none => s
  | some t =>
    let s := s.modTask t.id (fun t => { t with st := .ready, readyAt := s.now })
    match s.task t.id with
    | some t => s.markRenames t
    | none => s

/-! ### The loop -/

/-- Bays whose step request waits take what the rail now permits (R125). -/
def State.resettleAll (s : State) : State :=
  (s.pkg.bays.filter (fun e => e.2.rampw)).foldl (fun s e => s.retry e.1) s

/-- Every placed task is on its entry of the highest PWR, and no READY task waits for the budget (R124). -/
def State.atTop (s : State) : Bool :=
  s.placedOrder.all (fun t => (s.allowed t).all (fun i => decide (oPwr (t.opt i) ≤ oPwr (t.opt t.ent))))
    && s.readyOrder.all (fun t => s.affords t 0)

/-- MALTSTER_LOOP (R121): at a time-base multiple of 10 µs; n1 is the measured module power in mW. Every segment that has started since the last loop
begins its event, one after another (R126). -/
def execMaltsterLoop (s : State) : Out :=
  .next (if s.tick % 1000 ≠ 0 ∨ s.pow.loopAt = some (s.now / 10) then s
    else
      let m : Rat := (s.inp.n1 : Rat) / 1000
      let b : Rat := s.budgetAt
      let order := s.placedOrder
      let base : Rat := m - (s.cntSum : Rat)
      let need : Rat := base + (((order.map (fun t => oPwr (t.opt (s.floorEnt t)))).sum : Nat) : Rat)
      let s := s.resettleAll
      let s := { s with pow := { s.pow with
        loopAt := some (s.now / 10), base := base, budget := b, budgetNow := truncRat b } }
      let s := s.chooseAll b (b - need) (order.map (·.id))
      let p := s.pow.noteStarts s.now
      let grades := p.starts.filter (fun g => decide (1 ≤ g))
      let s := { s with pow := { p with starts := [] } }
      let s := grades.foldl (fun s g => s.curtail g base b) s
      let s := if decide (b < need) && s.pow.event.isNone then s.curtail 0 base b else s
      let s := ({ s with pow := { s.pow with sum := (s.cntSum : Rat), loopNow := s.now } }).resumeOne
      { s with pow := { s.pow with
        winLoops := s.pow.winLoops + 1, winPower := s.pow.winPower + m, winBudget := s.pow.winBudget + b,
        winEvent := s.pow.winEvent || s.pow.event.isSome, winTop := s.pow.winTop && s.atTop } })

/-! ### The error band (R124) -/

/-- BAND_CHECK (R124): at the end of a 10 ms window. -/
def execBandCheck (s : State) : Out :=
  let p := s.pow
  .next (if s.now / 10000 ≤ p.bandAt ∨ p.winLoops = 0 then s
    else
      let mean := p.winPower / (p.winLoops : Rat)
      let target := p.winBudget / (p.winLoops : Rat)
      let width := max (target / 50) 25
      let low := decide (mean < target - width)
      let miss := low || decide (target + width < mean)
      let exempt := p.winEvent || (low && p.winTop)
      let diff := if target ≤ mean then mean - target else target - mean
      let detail := boolN low * 2 ^ 15 + min (truncRat diff) 32767
      let s := { s with pow := { p with
        pwrAvg := truncRat mean % 2 ^ 16, bandAt := s.now / 10000, winLoops := 0, winPower := 0, winBudget := 0,
        winEvent := p.event.isSome, winTop := true } }
      if miss && !exempt then s.post 0x0606 detail else s)

/-! ### Thermal polls (R25, R26, R131, R132) -/

/-- The entries of a diode's class: advise, hold, park, fault. -/
def State.thermEntry (s : State) (diode : Nat) (i : Fin 4) : Therm :=
  if diode < 80 then s.pow.therm[i.val]'(by omega) else s.pow.therm[i.val + 4]'(by omega)

/-- A THERMAL event, unless the entry's action is NONE (R132, R134); a sensor fault is posted in any case (R26). -/
def State.thermEvent (s : State) (diode : Nat) (i : Fin 4) (on : Bool) : State :=
  if (s.thermEntry diode i).action = 0 ∧ !(i = 3 ∧ on) then s else s.post 0x0607 (i.val * 2 ^ 14 + boolN on * 2 ^ 13 + diode)

/-- Whether a threshold stands crossed after a reading (R25). -/
def crossedAfter (was : Bool) (e : Therm) (r : Int) : Bool :=
  if was then decide (e.temp - (e.hyst : Int) ≤ r) else decide (e.temp ≤ r)

/-- A diode after one conversion, with the events it posts. -/
def State.convert (s : State) (i : Nat) (r : Option Int) : State :=
  let d := s.diode i
  let put (s : State) (d : Diode) : State := { s with pkg := { s.pkg with diodes := Bits.put s.pkg.diodes i d } }
  match r with
  | none =>
    let s1 := put s { d with invalid := d.invalid + 1, fault := d.fault || decide (1 ≤ d.invalid) }
    if !d.fault && decide (1 ≤ d.invalid) then s1.thermEvent i 3 true else s1
  | some v =>
    let a := crossedAfter d.advise (s.thermEntry i 0) v
    let h := crossedAfter d.hold (s.thermEntry i 1) v
    let p := crossedAfter d.park (s.thermEntry i 2) v
    let s1 := put s { reading := v, advise := a, hold := h, park := p }
    let s1 := if d.fault then s1.thermEvent i 3 false else s1
    let s1 := if a = d.advise then s1 else s1.thermEvent i 0 a
    let s1 := if h = d.hold then s1 else s1.thermEvent i 1 h
    if p = d.park then s1 else s1.thermEvent i 2 p

/-- The die of a diode (R25). -/
def dieOfDiode (i : Nat) : Nat := if i < 80 then i / 8 else (i - 80) / 4

/-- Every task with a live bay on a die on which PARKDIE is in force is parked (R128, R132). -/
def State.parkHot (s : State) : State :=
  (List.range 10).foldl (fun s d =>
    if s.parkDie d then
      let ts := s.tab.tasks.filter (fun t => t.takeable && (s.mapOf t.id).any (fun m => dieOfBay m.1 == d))
      (s.parkEach 2 (fun _ => false) ts []).1
    else s) s

/-- The thermal actions in force have changed since a state: bays on which they differ are evaluated again, and tasks
are parked where PARKDIE is in force (R132). -/
def State.thermApply (s old : State) : State :=
  ((List.range 80).foldl (fun s pb => if s.thermal pb = old.thermal pb then s else s.resettle pb) s).parkHot

/-- THERMAL_POLL (R25): temps gives the 120 conversions, none for an invalid one; the diodes of a gated die are not
polled (R26). -/
def execThermalPoll (s : State) : Out :=
  .next (if s.pkg.pollAt = some (s.now / 100) then s
    else
      let old := s
      let s := { s with pkg := { s.pkg with pollAt := some (s.now / 100) } }
      let s := (List.range 120).foldl (fun s i =>
        if (s.die (dieOfDiode i)).power = .gated then s else s.convert i (nth s.inp.temps i none)) s
      s.thermApply old)

/-! ### The thermal policy table (R131) -/

/-- The thresholds of a class stand in order. -/
def thermOrdered (t : Vector Therm 8) (hbm : Bool) : Bool :=
  let e (i : Fin 4) : Therm := if hbm then t[i.val + 4]'(by omega) else t[i.val]'(by omega)
  decide ((e 0).temp ≤ (e 1).temp) && decide ((e 1).temp ≤ (e 2).temp)

/-- THERMTAB_WRITE (R131, R132): n1 the entry, v the value; an action above 4 is reserved, and a write that breaks the
order of the thresholds is discarded. An action that an entry's crossing puts in force now, or no longer, takes effect
at once. -/
def execThermtabWrite (s : State) : Out :=
  let v := s.inp.v.toNat
  let e : Therm := { hyst := fieldN v 40 8, temp := sextN (fieldN v 16 16) 16, param := fieldN v 8 3, action := fieldN v 0 3 }
  hostAct s (if h : s.inp.n1 < 8 then
      let t := s.pow.therm.set s.inp.n1 e h
      if e.action ≤ 4 ∧ thermOrdered t false ∧ thermOrdered t true then
        ({ s with pow := { s.pow with therm := t } }).thermApply s
      else s
    else s)

/-! ### Rails (R17 to R20, R125) -/

/-- TARGET's range (R17). -/
def railRange (vl : Bool) (mv : Nat) : Bool :=
  if vl then decide (550 ≤ mv) && decide (mv ≤ 700) else decide (780 ≤ mv) && decide (mv ≤ 920)

/-- Puts a rail back. -/
def State.setRail (s : State) (vl : Bool) (r : Rail) : State :=
  { s with pkg := if vl then { s.pkg with vl := r } else { s.pkg with vh := r } }

/-- Before a ramp downwards, each bay on the rail, or about to draw from it, whose step or request is not permitted at
the new TARGET ends its lock, and moves, where it then draws from the rail, to the fastest step permitted at TARGET and at
the voltage reached (R20, R125). -/
def State.yieldRail (s : State) (vl : Bool) (mv : Nat) : State :=
  let low := min mv ((s.rail vl).present s.now)
  (List.range 80).foldl (fun s pb =>
    let b := s.bp pb
    let to_ := match b.lock with
      | some l => l.2
      | none => b.step
    if !b.onRail vl ∨ (b.permits vl mv b.step ∧ b.permits vl mv to_ ∧ b.permits vl mv b.reqStep) then s
    else
      let c := b.locked
      if c.vl ≠ vl then s.setBp pb c
      else
        let want := s.wanted c pb vl
        let fit := c.fastest vl low want
        s.setBp pb { c with step := fit, rampw := decide (fit ≠ want) }) s

/-- RAILSET_WRITE (R18): n1 is 0 for VH and 1 for VL, v the value. -/
def execRailsetWrite (s : State) : Out :=
  let vl := s.inp.n1 == 1
  let r := s.rail vl
  let mv := fieldN s.inp.v.toNat 0 10
  hostAct s (if 1 < s.inp.n1 then s
    else if !railRange vl mv then s.setRail vl { r with err := true }
    else
      let err := r.err && !bit s.inp.v.toNat 30
      let now := r.present s.now
      let s := if mv < r.target then s.yieldRail vl mv else s
      s.setRail vl { target := mv, start_ := now, since := s.now, busy := decide (now ≠ mv), err := err })

/-- RAIL_RAMP_END (R18): rail n1 stands at its TARGET. -/
def execRailRampEnd (s : State) : Out :=
  let vl := s.inp.n1 == 1
  let r := s.rail vl
  .next (if s.inp.n1 ≤ 1 ∧ r.present s.now = r.target then s.setRail vl { r with busy := false } else s)

/-- FREQ_LOCK_DONE (R20): bay n1 runs at its new step. -/
def execFreqLockDone (s : State) : Out := .next (s.setBp s.inp.n1 (s.bp s.inp.n1).locked)

end Sys2Proof.Machine
end

