-- ==== Sys2Proof/Machine/Commands.lean ====
section
/-! DEFINITION. Power commands, the gating events and the hand-over of the management cores
(spec/06_energy.md R133, spec/01_package.md R22, R23, R27, R28, spec/09_memory.md R216). -/

namespace Sys2Proof.Machine

open Sys2Proof.Bits

/-! ### Carrying a command out (R133) -/

/-- The command in progress begins: what it is about, and the tasks it waits for. -/
def State.commandBusy (s : State) (about : Option Nat) (tasks : List Nat) : State :=
  { s with pow := { s.pow with busy := true, drainDie := about, waitTasks := tasks } }

/-- PARKTASK (R133, R216): the task is frozen, and its cask goes to the LPDDR-6 tier. A task whose points have all
completed before is parked no more (R130): the command is refused with WRONG_STATE (log entry 104). -/
def State.cmdParktask (s : State) (arg : Nat) : State :=
  if 2 ^ 32 ≤ arg then s.refuse 7
  else match s.task arg with
    | none => s.refuse 2
    | some t =>
      if t.st ≠ .placed ∨ t.code.isSome ∨ t.finished then s.refuse 3
      else if t.freeze.isNone ∧ areaBytes < s.areaUsed + t.largestCask then s.refuse 6
      else (s.commandBusy none [arg]).startFreeze arg { src := 0, room := t.largestCask, cmd := true }

/-- RESUMETASK (R133): a PARKED task becomes resumable under R123. -/
def State.cmdResumetask (s : State) (arg : Nat) : State :=
  if 2 ^ 32 ≤ arg then s.refuse 7
  else match s.task arg with
    | none => s.refuse 2
    | some t =>
      if t.st ≠ .parked then s.refuse 3
      else s.modTask arg (fun t => { t with resumable := true, parkedByEvent := false })

/-- GATEDIE (R22, R133). -/
def State.cmdGatedie (s : State) (arg : Nat) : State :=
  if 10 ≤ arg then s.refuse 7
  else if (s.die arg).lost then s.refuse 5
  else if (s.die arg).power ≠ .on then s.refuse 3
  else if !s.gateable arg then s.refuse 4
  else (s.commandBusy (some arg) []).startGate arg

/-- UNGATEDIE (R23, R133). -/
def State.cmdUngatedie (s : State) (arg : Nat) : State :=
  if 10 ≤ arg then s.refuse 7
  else if (s.die arg).lost then s.refuse 5
  else if (s.die arg).power ≠ .gated then s.refuse 3
  else (s.commandBusy (some arg) []).startUngate arg

/-- The tasks with a live bay on a die. -/
def State.tasksOn (s : State) (d : Nat) : List Task :=
  s.tab.tasks.filter (fun t => (s.mapOf t.id).any (fun m => dieOfBay m.1 == d))

/-- DRAINDIE (R133, R216): the tasks with live bays on the die are parked, its pages move, then it is gated. A task
whose points have all completed before completes instead (R130). -/
def State.cmdDraindie (s : State) (arg : Nat) : State :=
  if 10 ≤ arg then s.refuse 7
  else if (s.die arg).lost then s.refuse 5
  else if (s.die arg).power ≠ .on then s.refuse 3
  else
    let ts := s.tasksOn arg
    let room := ((ts.filter (fun t => t.freeze.isNone && !t.finished)).map Task.largestCask).sum
    if !s.pagesFit arg room then s.refuse 6
    else
      let s := s.commandBusy (some arg) (ts.map (·.id))
      if ts.isEmpty then s.moveAndGate arg
      else (ts.filter (fun t => !t.finished)).foldl (fun s t =>
        (s.modTask t.id (fun t => { t with away := some arg })).startFreeze t.id { src := 0, room := t.largestCask, cmd := true, resume := true }) s

/-- REPAIRDIE (R133): the die is fenced, gated and ungated, and its links train afresh. -/
def State.cmdRepairdie (s : State) (arg : Nat) : State :=
  let x := s.die arg
  if 10 ≤ arg then s.refuse 7
  else if !x.lost ∧ x.power ≠ .gated then s.refuse 3
  else if !s.gateable arg then s.refuse 4
  else
    let s := (s.commandBusy (some arg) []).setDie arg { x with repair := true }
    if x.power = .on then s.startGate arg else s.startUngate arg

/-- REPAIRLINK (R133): the link's traffic moves to other routes, then it trains afresh at width 64. -/
def State.cmdRepairlink (s : State) (arg : Nat) : State :=
  let l := s.link arg
  if 24 ≤ arg then s.refuse 7
  else if l.st = .gated ∨ (l.st = .up ∧ !l.half ∧ l.spares = 0) then s.refuse 3
  else
    let s := (s.commandBusy (some (100 + arg)) []).setLink arg { l with st := .down }
    let s := s.rewriteRoutes
    s.setLink arg (s.link arg).afresh

/-- A command submitted with no other in progress is carried out or refused (R133). -/
def State.runCommand (s : State) (code arg : Nat) : State :=
  let s := { s with pow := { s.pow with lastCode := code, reason := 0 } }
  match code with
  | 1 => s.cmdParktask arg
  | 2 => s.cmdResumetask arg
  | 3 => s.cmdGatedie arg
  | 4 => s.cmdUngatedie arg
  | 5 => s.cmdDraindie arg
  | 6 => s.cmdRepairdie arg
  | 7 => s.cmdRepairlink arg
  | _ => s.refuse 1

/-- The commands held during a hand-over are carried out in arrival order, each once the one before it is over
(R28). -/
def State.heldGo (s : State) : Nat → State
  | 0 => s
  | n + 1 =>
    match s.pkg.mgmt.heldCmds with
    | [] => s
    | (code, arg) :: rest =>
      if s.pow.busy || s.pkg.mgmt.moving then s
      else State.heldGo ({ s with pkg := { s.pkg with mgmt := { s.pkg.mgmt with heldCmds := rest } } }.runCommand code arg) n

/-- Takes the held commands that may now run. -/
def State.takeHeldCmds (s : State) : State := s.heldGo s.pkg.mgmt.heldCmds.length

/-- PWRCMD.GO with a code and an argument (R28, R133): ignored while a command is in progress; held during a
hand-over. -/
def State.submitCmd (s : State) (code arg : Nat) : State :=
  let s := { s with pow := { s.pow with cmdCode := code, cmdArg := arg } }
  if s.pow.busy then s
  else if s.pkg.mgmt.moving || !s.pkg.mgmt.heldCmds.isEmpty then
    { s with pkg := { s.pkg with mgmt := { s.pkg.mgmt with heldCmds := s.pkg.mgmt.heldCmds ++ [(code, arg)] } } }.takeHeldCmds
  else s.runCommand code arg

/-- The 48 bits of ARG. -/
def cmdArg (s : State) : Nat := s.inp.n1 % 2 ^ 48

/-- PARKTASK: n1 is ARG. -/
def execParktask (s : State) : Out := hostAct s (s.submitCmd 1 (cmdArg s))
/-- RESUMETASK: n1 is ARG. -/
def execResumetask (s : State) : Out := hostAct s (s.submitCmd 2 (cmdArg s))
/-- GATEDIE: n1 is ARG. -/
def execGatedie (s : State) : Out := hostAct s (s.submitCmd 3 (cmdArg s))
/-- UNGATEDIE: n1 is ARG. -/
def execUngatedie (s : State) : Out := hostAct s (s.submitCmd 4 (cmdArg s))
/-- DRAINDIE: n1 is ARG. -/
def execDraindie (s : State) : Out := hostAct s (s.submitCmd 5 (cmdArg s))
/-- REPAIRDIE: n1 is ARG. -/
def execRepairdie (s : State) : Out := hostAct s (s.submitCmd 6 (cmdArg s))
/-- REPAIRLINK: n1 is ARG. -/
def execRepairlink (s : State) : Out := hostAct s (s.submitCmd 7 (cmdArg s))
/-- PWRCMD_BAD_CODE: n1 is ARG, n2 a code that is none of the seven. -/
def execPwrcmdBadCode (s : State) : Out :=
  let code := s.inp.n2 % 256
  hostAct s (if 1 ≤ code ∧ code ≤ 7 then s else s.submitCmd code (cmdArg s))

/-! ### Gating (R22, R23) -/

/-- GATE_HELD_RELEASE (R22): the held gate command of the lowest die is carried out once 250 µs have passed. -/
def execGateHeldRelease (s : State) : Out :=
  .next (match (List.range 10).find? (fun d => (s.die d).held) with
    | none => s
    | some d => if s.gateTime then ((s.carryGate d).nextGate).takeHeldCmds else s)

/-- UNGATE_COMPLETE (R23): die n1's self-test has ended; ok tells whether it passed. -/
def execUngateComplete (s : State) : Out :=
  .next (if s.inp.n1 < 10 then ((s.ungateEnds s.inp.n1 s.inp.ok).nextGate).takeHeldCmds else s)

/-! ### Management cores and HBM channels (R27, R28) -/

/-- MGMT_FIRMWARE_UPDATE (R28): hub n1's management core leaves service; refused while one is out. The primary
role moves if the primary leaves. -/
def execMgmtFirmwareUpdate (s : State) : Out :=
  let m := s.pkg.mgmt
  .next (if m.out.isSome ∨ 1 < s.inp.n1 then s
    else { s with pkg := { s.pkg with mgmt := { m with out := some s.inp.n1, moving := m.primary == s.inp.n1 } } })

/-- HANDOVER (R28): the other hub's management core takes the primary role. -/
def execHandover (s : State) : Out :=
  let m := s.pkg.mgmt
  .next (if !m.moving then s
    else
      let p := 1 - m.primary
      let s := { s with pkg := { s.pkg with mgmt := { m with primary := p, moving := false } } }
      (s.post 0x0102 p).takeHeldCmds)

/-- MGMT_CORE_RETURN (R28): the management core that is out returns to service; H0 takes the primary role back,
which HANDOVER tells (R68; DEDUCED, log entry 36). -/
def execMgmtCoreReturn (s : State) : Out :=
  let m := s.pkg.mgmt
  .next (match m.out with
    | none => s
    | some h =>
      if m.moving then s
      else
        let back := h == 0 && m.primary != 0
        let s := { s with pkg := { s.pkg with mgmt := { m with out := none, primary := if back then 0 else m.primary } } }
        if back then s.post 0x0102 0 else s)

/-- HBM_CHANNEL_RETIRE (R27, R214): pseudo-channel n2 of stack n1 is retired, and its pages are remapped to a spare,
with the addresses and the bytes they had. With all four spares in use, of which the rule says nothing, the channel
stays as it is (log entry 102). -/
def execHbmChannelRetire (s : State) : Out :=
  let k := s.stack s.inp.n1
  .next (if s.inp.n1 < 10 ∧ s.inp.n2 < 384 ∧ k.spares < 4 then
      s.setStack s.inp.n1 { k with spares := k.spares + 1, retired := put k.retired s.inp.n2 k.spares }
    else s)

end Sys2Proof.Machine
end

