-- ==== Sys2Proof/Machine/Fabric.lean ====
section
/-! DEFINITION. Events of links, flits, routes, drains, permits and peer ports (spec/02_links.md R32 to
R53, spec/07_casks.md R165). Links are numbered 0 to 23; where an event also concerns a peer port p, its link is
24 + p. -/

namespace Sys2Proof.Machine

open Sys2Proof.Bits

/-! ### Training (R32 to R34, R39, R133) -/

/-- The repair of a link is over once it no longer trains (R133). -/
def State.linkRepaired (s : State) (n : Nat) : State :=
  if s.commandOn (100 + n) ∧ (s.link n).st ≠ .retrain then s.commandDone.takeHeldCmds else s

/-- LINKCTL_GO (R32): n1 the link, v the value written with GO = 1. -/
def execLinkctlGo (s : State) : Out :=
  hostAct s (if s.inp.n1 < 24 then (s.requestRate s.inp.n1 (fieldN s.inp.v.toNat 0 3)).1 else s)

/-- A lane found failed while a link trains takes a spare, or counts against its half (R39, R133). -/
def Link.trainLane (l : Link) (lane : Nat) : Link :=
  if l.spares < 4 then { l with spares := l.spares + 1 } else { l with failed := addOnce l.failed lane }

/-- Both halves of a link's logical lanes contain a failed lane (R39). -/
def Link.bothHalves (l : Link) : Bool :=
  l.failed.any (fun x => decide (x < 32)) && l.failed.any (fun x => decide (32 ≤ x))

/-- LINK_TRAIN_COMPLETE (R33, R34): the attempt on link n1 ends; ok tells whether it succeeds, nums which lanes fail
in it. -/
def execLinkTrainComplete (s : State) : Out :=
  let n := s.inp.n1
  let l := s.link n
  .next (if 24 ≤ n ∨ l.st ≠ .retrain then s
    else
      let m := if s.inp.ok then (s.inp.nums.filter (fun x => decide (x < 64))).foldl Link.trainLane l else l
      let halves := !l.half && !m.failed.isEmpty
      let s := s.setLink n { m with half := l.half || halves }
      let further := l.half && decide (l.failed.length < m.failed.length)
      let s :=
        if m.bothHalves || further then s.linkDown n
        else
          let s := if halves then s.linkEvent 0 n else s
          s.trainEnds n s.inp.ok
      (s.loseUnreached).linkRepaired n)

/-- LANE_RETIRE (R38, R39): link n1's lane n2 has counted n3 errors in a time-base millisecond. -/
def execLaneRetire (s : State) : Out :=
  let l := s.link s.inp.n1
  .next (if s.inp.n1 < 24 ∧ s.inp.n2 < 64 ∧ l.st = .up ∧ l.laneThr.toNat < s.inp.n3 then
      (s.laneFails s.inp.n1 s.inp.n2).loseUnreached
    else s)

/-! ### Arrival (R37, R42, R46, R52) -/

/-- The on-chip links that engine data has crossed in the die of its consumer (R44). -/
def Flit.consumerPath (f : Flit) : List Nat :=
  let start := if f.src = f.dst then f.fromR % 64 else edgeOf f.dst (farEnd (f.via.getLast?.getD 0) f.dst)
  meshPath f.dst start f.toR

/-- Engine data of a command reaches its consumer: the slot that its permits gave it waits for it, or it is dropped
because a permit had been duplicated, and the command fails with PERMIT (R46). Data for memory needs no slot. -/
def State.landData (s : State) (a : Agent) (handle : Nat) (full : Bool) : State :=
  match (s.getEng a []).copies.find? (fun j => j.handle == handle && j.started) with
  | none => s
  | some j =>
    if full then s.failCopy a [] j ecPermit
    else s.modEng a [] (fun e => e.modCopy j.slot (fun j => { j with landed := j.landed + 1 }))

/-- A permit for an on-chip link arrives there (R44). -/
def Permit.arrive (p : Permit) : Permit :=
  if p.inFlight = 0 then p else { p with inFlight := p.inFlight - 1, held := p.held + 1 }

/-- The consumer of a flit had no slot left when it took its permits: the last on-chip link of its path counts more
filled than there are. -/
def State.overfilled (s : State) (consumer : Nat) (f : Flit) : Bool :=
  s.duplicated consumer f.consumerPath
    && f.consumerPath.getLast?.any (fun p => let q := s.permit consumer p; decide (q.slots < q.filled))

/-- A message is injected at a place (R42): at a router of a die's mesh, or onto a link by a hub or a partner. None
while it cannot be. -/
def State.trySend (s : State) (x router : Nat) (f : Flit) : Option State :=
  let f := { f with stamp := s.fab.stamps, src := x, fromR := router, leaves := s.route x f.dst f.chan }
  (if x < 10 then some (s.inject router f) else s.sendFrom x f).map (fun t => { t with fab := { t.fab with
    stamps := t.fab.stamps + 1,
    traffic := t.fab.traffic.filter (fun e => !(e.1 == router && e.2.1 == f.dst)) ++ [(router, f.dst, f.stamp)] } })

/-- The message is sent if it can be. -/
def State.send (s : State) (x router : Nat) (f : Flit) : State := (s.trySend x router f).getD s

/-- The command for which the device serves a partner: its addresses translate in the named stream's context, without
the rights of frame mode, in the TLB of the hub with the peer ports (R52, R402). -/
def partnerCopy (stream : Nat) : Copy :=
  { slot := 0, handle := 0, head := 0#32, tail := 0#32, ra := 0#64, rb := 0#64, rl := 0#64, rg := 0#64,
    started := true, sincePeg := false, stream := stream, task := none, frame := false, die := 11 }

/-- Its context: no window of a vault is in it. -/
def partnerView (stream : Nat) : View := { (partnerCopy stream).view with seq := false }

/-- A unit of a partner's copy is written as an engine's is (R52, R402): whole, into a plain range or the shadow half of
a swap buffer; what the translation or the permissions refuse is not written. The state and the code for the partner;
none while it has to wait. -/
def State.peerWrite (s : State) (stream va : Nat) (bytes : List Byte) : Option (State × Nat) :=
  let v := partnerView stream
  let write (s : State) (at_ : Nat) : Option (State × Nat) :=
    match s.resolveRaw v .store at_ with
    | .error c => some (s, engineCode c)
    | .ok (.status _) => some (s, 2)
    | .ok (.cell pa leaf) =>
      match (if isTier pa then s.dataFault pa leaf else none) with
      | some c => some (s.checkRead pa leaf, engineCode c)
      | none => match s.writeUnit none (partnerCopy stream) v (bytes.zipIdx.map (fun b => (at_ + b.2, b.1))) with
        | .unit _ t _ _ => some (t, 0)
        | .fails c => some (s, c)
        | _ => none
  if bytes = [] ∨ va / 128 ≠ (va + bytes.length - 1) / 128 ∨ 8 ≤ stream then some (s, 0)
  else match bufHit (s.ctx stream).bufs va with
    | none => write s va
    | some (b, _, off) =>
      if b.renamed.isSome then some (s, ecBufState)
      else if s.heldHalf stream b.a (!b.liveB) then none
      else write s ((if b.liveB then b.a else b.b) + off)

/-- Bytes that a partner's copy reads, as an engine reads them: within one aligned unit, at one logical time, of a page
with PR (R235, R402). The state, the code and the bytes; none while it has to wait. -/
def State.peerRead (s : State) (stream va n : Nat) : Option (State × Nat × List Byte) :=
  if n = 0 ∨ va / 128 ≠ (va + n - 1) / 128 ∨ 8 ≤ stream then some (s, 0, [])
  else match s.resolve (partnerView stream) .load va with
    | .error c => some (s, engineCode c, [])
    | .ok (.status _) => some (s, 2, [])
    | .ok (.cell _ _) => match s.fetchUnit (partnerCopy stream) va with
      | .error (.fails c) => some (s, c, [])
      | .error _ => none
      | .ok (s, k) =>
        let addrs := (List.range n).map (va + ·)
        match addrs.findSome? (find? k.bads) with
        | some c => some (s, c, [])
        | none => some (s, 0, addrs.map k.byteAt)

/-- A message has reached its destination: the destination router of a marker returns its acknowledgement to the
marker's router on channel 3, which notes it there (R42); engine data finds its slot or is dropped (R46); a permit may be
used (R44), a heartbeat is counted unless its die is fenced (R88), a partner's data is written and its reads are served,
each with an answer to it (R52, R402, log entry 113). None while it has to wait. -/
def State.arrive (s : State) (f : Flit) : Option State :=
  match f.body with
  | .data _ => some s
  | .engine a h c => some (s.landData a h (c.any (fun c => s.overfilled c f)))
  | .grant key => some { s with fab := { s.fab with permits := put s.fab.permits key ((find? s.fab.permits key).getD {}).arrive } }
  | .beat => some (if (s.die f.src).lost then s else s.setDie f.src { s.die f.src with beat := true })
  | .marker n => s.trySend f.dst (64 * f.dst + f.toR)
      { chan := 3, src := f.dst, dst := f.src, toR := f.fromR % 64, body := .ack n f.fromR f.chan }
  | .ack n router chan => some { s with fab := { s.fab with drains := s.fab.drains.map (fun (d : Drain) =>
      if d.num = n ∧ !d.arrived.contains (router, f.src, chan) then { d with arrived := d.arrived ++ [(router, f.src, chan)] }
      else d) } }
  | .peer stream va bytes =>
    if f.dst ≠ 11 ∨ f.src < 12 then some s
    else (s.peerWrite stream va bytes).bind (fun r =>
      r.1.trySend 11 (64 * 11) { chan := 2, src := 11, dst := f.src, body := .answer r.2 [] })
  | .peerRead stream va n =>
    if f.dst ≠ 11 ∨ f.src < 12 then some s
    else (s.peerRead stream va n).bind (fun r =>
      r.1.trySend 11 (64 * 11) { chan := 2, src := 11, dst := f.src, body := .answer r.2.1 r.2.2 })
  | .answer _ _ => some s

/-! ### The mesh (R44) -/

/-- A message at router `r` of die `x` goes on: to the next on-chip link, column first and then row; at its last router
it arrives, or leaves the die. None while it has to wait there. -/
def State.meshGo (s : State) (x r : Nat) (f : Flit) : Option State :=
  match f.target x with
  | none => none
  | some t =>
    match meshPath x r t with
    | p :: _ => some (s.setMesh p (s.meshAt p ++ [f]))
    | [] => if f.dst = x then s.arrive f else s.sendFrom x f

/-- The oldest message of a channel on an on-chip link, or at a router, goes on (R37, R44). -/
def State.meshStep (s : State) (key chan : Nat) : State :=
  let fs := s.meshAt key
  match fs.find? (fun f => f.chan == chan) with
  | none => s
  | some f =>
    let x := if key < 2560 then key / 256 else (key - 2560) / 64
    let r := if key < 2560 then routerAfter key else (key - 2560) % 64
    let f' := if f.dst ≠ x ∧ f.leaves.isNone then { f with leaves := s.route x f.dst f.chan } else f
    match (s.setMesh key (fs.erase f)).meshGo x r f' with
    | some t => t
    | none => s

/-- A flit that has come over a link goes on at its far end: into the die's mesh at the edge router, engine data for a
consumer of the die only with a permit for each link of its path there, which it spends (R44); out of a hub again; or it
has arrived, also at a partner (R51). None while it has to wait in its receive buffer. -/
def State.takeIn (s : State) (l d : Nat) (f : Flit) : Option State :=
  let x := endOf l d
  if 12 ≤ x then s.arrive f
  else if 10 ≤ x then (if f.dst = x then s.arrive f else s.sendFrom x f)
  else
    let f := { f with leaves := if f.dst = x then none else s.route x f.dst f.chan }
    match f.body with
    | .engine _ _ (some c) =>
      if f.dst ≠ x then s.meshGo x (edgeOf x (farEnd l x)) f
      else if !s.permitted c f.consumerPath then none
      else (s.spendPermits c f.consumerPath).meshGo x (edgeOf x (farEnd l x)) f
    | _ => s.meshGo x (edgeOf x (farEnd l x)) f

/-! ### Flits (R35 to R37) -/

/-- Of an engine's started commands in the given slots the one that sends next: the highest priority, among equals the
earliest issued (R197). -/
def Engine.sender (e : Engine) (slots : List Nat) : Option Copy :=
  (e.copies.filter (fun k => k.started && slots.contains k.slot)).foldl
    (fun m k => match m with
      | some j => if j.prio < k.prio then some k else some j
      | none => some k) none

/-- Where the next engine data of a command goes: die and router of its consumer, or a hub, with the number of the
queue or swap buffer that consumes it (R44). -/
def State.dataTo (s : State) (k : Copy) : (Nat × Nat) × Option Nat :=
  let hub := 10 + k.stream / 4
  if k.op = 0x05 then (match s.queueTarget k with
    | .ok (some (n, q)) => ((n / 64, n % 64), some (queueConsumer n q.toNat))
    | _ => ((hub, 0), none))
  else if !k.writesDevice then ((if k.toPeer then (12 + k.port, 0) else (10, 0)), none)
  else match s.walkOf k with
    | .error _ => ((hub, 0), none)
    | .ok w => match bufHit (s.ctx k.stream).bufs (w.dst k.moved) with
      | none => ((s.consumerVa k (w.dst k.moved)).getD (hub, 0), none)
      | some (b, _, off) =>
        ((s.consumerVa k ((if b.liveB then b.a else b.b) + off)).getD (hub, 0), some (swapConsumer k.stream b.a))

/-- FLIT_SEND (R35, R36, R44, R197): place n1 (a die, 10 and 11 for the hubs, 12 + p for the partner on peer port p)
injects a message on channel n2, from router nums[0] of it, for router n3 of place n4; v is its payload. On channel 2,
ok3 marks engine data of the engine of `who`: of its commands with data ready, whose slots stand in pairs, the one that
is next sends, within its consumer's die only with a permit for each on-chip link of the path, which it spends; a
partner sends the bytes of a unit for address v of stream n3, or asks for as many there as pairs names (R402); any other message there is a permit with the number v. A
partner's drain marker is marked by ok2, with its drain number in n3 (R51). -/
def execFlitSend (s : State) : Out :=
  let x := s.inp.n1
  let router := 64 * x + s.inp.nums.headD 0 % 64
  .next (if 20 ≤ x ∨ 4 ≤ s.inp.n2 ∨ 20 ≤ s.inp.n4 then s
    else if s.inp.ok3 then
      (match (s.getEng s.inp.who []).sender (s.inp.pairs.map (·.1)) with
       | none => s
       | some k =>
         let (src, r) := match s.inp.who with
           | .core n | .jig n => (n / 64, n)
           | .seq n => (10 + n / 4, 64 * (10 + n / 4))
         let ((dst, toR), c) := s.dataTo k
         let f : Flit := { chan := 2, src := src, dst := dst, fromR := r, toR := toR, body := .engine s.inp.who k.handle c }
         if s.inp.n2 ≠ 2 ∨ src ≠ x ∨ (src = dst ∧ 10 ≤ src) then s
         else match (if src = dst then c else none) with
           | none => s.send src r f
           | some c => if s.permitted c f.consumerPath then (s.spendPermits c f.consumerPath).send src r f else s)
    else if x = s.inp.n4 ∧ 10 ≤ x then s
    else
      let body : Body :=
        if 12 ≤ x ∧ s.inp.ok2 then .marker s.inp.n3
        else if s.inp.n2 ≠ 2 then .data s.inp.v
        else if 12 ≤ x then (match s.inp.pairs with
          | [] => .peer s.inp.n3 s.inp.v.toNat s.inp.bytes
          | (n, _) :: _ => .peerRead s.inp.n3 s.inp.v.toNat n)
        else .grant s.inp.v.toNat
      s.send x router { chan := s.inp.n2, src := x, dst := s.inp.n4, fromR := router, toR := s.inp.n3 % 64, body := body })

/-- A receiver takes an intact flit in its turn: it goes on, or waits in its channel's receive buffer (R35, R37). -/
def State.deliver (s : State) (l d : Nat) (f : Flit) (room : Bool) : State :=
  match (if !room || (s.ldir l d).queued.any (fun q => q.chan == f.chan) then none
         else (s.setLdir l d ((s.ldir l d).credit f.chan)).takeIn l d f) with
  | some t => t
  | none => s.setLdir l d { s.ldir l d with queued := (s.ldir l d).queued ++ [f] }

/-- The oldest waiting flit of a channel leaves its receive buffer. -/
def State.unqueue (s : State) (l d chan : Nat) : State :=
  let k := s.ldir l d
  match k.queued.find? (fun q => q.chan == chan) with
  | none => s
  | some f =>
    match (s.setLdir l d ({ k with queued := k.queued.erase f }.credit chan)).takeIn l d f with
    | some t => t
    | none => s

/-- A peer port counts a flit that fails its check and an uncorrectable codeword (R53). -/
def State.countPeer (s : State) (n : Nat) (bad fec : Bool) : State :=
  if n < 24 then s
  else
    let q := s.peer (n - 24)
    s.setPeer (n - 24) { q with crcerr := if bad then (q.crcerr + 1) % 2 ^ 64 else q.crcerr,
                                fecunc := if fec then (q.fecunc + 1) % 2 ^ 64 else q.fecunc }

/-- The receiver of a link's direction takes the next flit of the wire (R36). -/
def State.receive (s : State) (n d : Nat) : State :=
  let k := s.ldir n d
  match k.wire with
  | [] => s
  | f :: rest =>
    if !s.inp.ok then
      let first := !k.reject || f.seq == k.expect
      (s.setLdir n d { k with wire := rest, crcerr := (k.crcerr + 1) % 2 ^ 64, reject := true, asked := k.asked || first }).countPeer
        n (d == 1) false
    else if f.seq ≠ k.expect then s.setLdir n d { k with wire := rest }
    else (s.setLdir n d { k with wire := rest, reject := false, expect := (k.expect + 1) % 4096 }).deliver n d f s.inp.ok2

/-- FLIT_RECEIVE (R36, R37, R44, R51): the receiver of link n1 (24 + p for peer port p), direction n2, takes the next
flit of the wire. ok: the CRC holds; ok2: the channel's buffer is not held back; ok3: a peer port meets an
uncorrectable codeword. n3 = 1: a waiting flit of channel n4 leaves its receive buffer instead. n1 = 64 + k: the oldest
message of channel n4 on the on-chip link or at the router k goes on. -/
def execFlitReceive (s : State) : Out :=
  let n := s.inp.n1
  let d := s.inp.n2 % 2
  .next (if 64 ≤ n then s.meshStep (n - 64) s.inp.n4
    else if 32 ≤ n then s
    else if s.inp.n3 = 1 then s.unqueue n d s.inp.n4
    else if !s.linkUp n then s
    else (s.countPeer n false s.inp.ok3).receive n d)

/-- REPLAY_REQUEST (R36): the transmitter of link n1 (24 + p for peer port p), direction n2, honours the request on its
way. -/
def execReplayRequest (s : State) : Out :=
  let n := s.inp.n1
  let d := s.inp.n2 % 2
  let k := s.ldir n d
  .next (if 32 ≤ n ∨ !k.asked ∨ !s.linkUp n then s
    else
      let s := s.setLdir n d { k with
        asked := false, wire := k.wire ++ k.sent.filter k.unaccepted, replays := (k.replays + 1) % 2 ^ 64,
        winReplays := k.winReplays + 1 }
      if n < 24 ∨ d ≠ 0 then s
      else s.setPeer (n - 24) { s.peer (n - 24) with replays := ((s.peer (n - 24)).replays + 1) % 2 ^ 64 })

/-- FLIT_ACK (R36): the accepted flits of link n1, direction n2, leave the replay buffer. -/
def execFlitAck (s : State) : Out :=
  let n := s.inp.n1
  let d := s.inp.n2 % 2
  let k := s.ldir n d
  .next (if n < 32 then s.setLdir n d { k with sent := k.sent.filter k.unaccepted } else s)

/-! ### Route changes (R41) -/

/-- Flits leave a list of held ones for a link as long as it can take them: the state and those left. -/
def sendHeld (l d : Nat) : List Flit → State → State × List Flit
  | [], s => (s, [])
  | f :: fs, s => if s.canSend l d f.chan then sendHeld l d fs (s.transmit l d f) else (s, f :: fs)

/-- The flits of a route change that a dead old link has sent and that its receiver has not accepted: they are resent
over the new route (R41, R43). -/
def State.toResend (s : State) (m : RouteMove) : List Flit :=
  let k := s.ldir m.old (dirFrom m.old m.src)
  if s.linkDead m.old then k.sent.filter (fun f => f.dst == m.dst && f.chan == m.chan && k.unaccepted f) else []

/-- The earlier flits of a route change have been delivered, or wait in the replay buffer of the dead old link
(R37, R41). -/
def State.routeClear (s : State) (m : RouteMove) : Bool :=
  let again := s.toResend m
  (s.onRoute m.src m.dst m.chan m.old).all (fun f => decide (m.stamp ≤ f.stamp) || again.contains f)

/-- ROUTE_RELEASE (R41): at place n1, for place n2 and channel n3. The held flits take the new route once every earlier
one has been delivered; those of a link that is DOWN are resent ahead of them. -/
def execRouteRelease (s : State) : Out :=
  .next (match s.fab.moves.find? (fun m => m.src == s.inp.n1 && m.dst == s.inp.n2 && m.chan == s.inp.n3) with
    | none => s
    | some m =>
      if !s.routeClear m then s
      else
        let d := dirFrom m.old m.src
        let k := s.ldir m.old d
        let again := s.toResend m
        let s := if again.isEmpty then s
          else s.setLdir m.old d { k with
            sent := k.sent.filter (fun f => !again.contains f), wire := k.wire.filter (fun f => !again.contains f),
            spent := setNth k.spent m.chan (nth k.spent m.chan 0 - again.length) }
        let all := (again.map (fun f => { f with via := f.via.filter (· != m.old) })).foldr insertFlit m.held
        let r := match s.route m.src m.dst m.chan with
          | none => (s, all)
          | some l => sendHeld l (dirFrom l m.src) all s
        { r.1 with fab := { r.1.fab with moves := r.1.fab.moves.filterMap (fun (x : RouteMove) =>
          if x.src = m.src ∧ x.dst = m.dst ∧ x.chan = m.chan then
            (if r.2.isEmpty then none else some { x with held := r.2 })
          else some x) } })

/-! ### Drains (R42, R43, R165) -/

/-- DRAIN_MARKER_ACK (R42, R43): the management core takes the acknowledgement of the marker of drain n1 from router n2
to place n3 on channel n4: it has come back, and every earlier message of its router there has been delivered. -/
def execDrainMarkerAck (s : State) : Out :=
  .next (match s.fab.drains.find? (fun d => d.num == s.inp.n1) with
    | none => s
    | some d =>
      let mark := (s.inp.n2, s.inp.n3, s.inp.n4)
      if !d.markers.contains mark || !d.arrived.contains mark
          || s.flitsLeft.any (fun f => f.fromR == s.inp.n2 && f.dst == s.inp.n3 && f.chan == s.inp.n4 && decide (f.stamp < d.stamp)) then s
      else
        let s := { s with fab := { s.fab with drains := s.fab.drains.map (fun (x : Drain) =>
          if x.num = d.num then { x with markers := x.markers.filter (· != mark) } else x) } }
        (s.runDrains.nextGate).takeHeldCmds)

/-- DRAIN_TIMEOUT (R43, R165): drain n1 has not completed within 10 ms; its freeze is unwound, and the response that
asked for it passes to the next task. -/
def execDrainTimeout (s : State) : Out :=
  .next (match s.fab.drains.find? (fun d => d.num == s.inp.n1) with
    | none => s
    | some d =>
      if d.timedOut ∨ s.now < d.start_ + 10000 then s
      else
        let s := { s with fab := { s.fab with drains := s.fab.drains.map (fun (x : Drain) =>
          if x.num = d.num then { x with timedOut := true, task := none } else x) } }
        let s := s.post 0x0702 d.num
        match d.task with
        | none => s
        | some id =>
          let src := ((s.freezing id).map (·.src)).getD 0
          let s := s.unwind id false
          ((if src = 1 then s.parkMore id else s).nextGate).takeHeldCmds)

/-! ### Permits (R44 to R46) -/

/-- The slots a consumer declares on an on-chip link, and those filled and not consumed. A queue declares its SIZE and
consumes a slot as HEAD passes it (R186). -/
def State.slotsNow (s : State) (consumer : Nat) (p : Permit) : Permit :=
  if consumer < 10240 then
    let h := (s.core (consumer / 16)).offeredQueue (BitVec.ofNat 4 (consumer % 16))
    let gone := if h.size = 0 then 0 else (h.head + 2 * h.size - p.head % (2 * h.size)) % (2 * h.size)
    { p with slots := h.size, filled := p.filled - gone, head := h.head }
  else p

/-- PERMIT_GRANT (R44): for the on-chip link n1 (256 × die + 4 × router + port) the consumer with the number n4 grants a
permit for a free slot. A swap buffer declares n2 slots and, with ok, has just consumed one: the rule gives no measure of
them (log entry 91). n3: 1 a permit in flight arrives, 2 it is lost, 3 it is duplicated. -/
def execPermitGrant (s : State) : Out :=
  let key := permitKey s.inp.n4 s.inp.n1
  let p := (find? s.fab.permits key).getD {}
  let q : Permit :=
    match s.inp.n3 with
    | 1 => p.arrive
    | 2 => { p with inFlight := p.inFlight - 1 }
    | 3 => if p.inFlight = 0 then p else { p with inFlight := p.inFlight + 1 }
    | _ =>
      let p := if s.inp.n4 < 10240 then s.slotsNow s.inp.n4 p
        else { p with slots := s.inp.n2, filled := if s.inp.ok then p.filled - 1 else p.filled }
      if p.held + p.inFlight + p.filled < p.slots then { p with inFlight := p.inFlight + 1 } else p
  .next (if s.inp.n1 < 2560 then { s with fab := { s.fab with permits := put s.fab.permits key q } } else s)

/-- One on-chip link of an audit, for one consumer (R45, R68): a difference is posted, the permits are reset. -/
def State.auditOne (s : State) (key : Nat) (p : Permit) : State :=
  let p := s.slotsNow (key / 2560) p
  let sum := p.held + p.inFlight + p.filled
  let place := key % 2560
  let s := { s with fab := { s.fab with permits := put s.fab.permits key { p with held := p.slots - p.filled, inFlight := 0 } } }
  if sum = p.slots then s else s.post 0x0201 (boolN (decide (p.slots < sum)) * 2 ^ 15 + place / 256 * 2 ^ 11 + place % 256 * 2 ^ 3)

/-- PERMIT_AUDIT (R45): the audit of die n1, which has power, at the interval of FABAUDIT. -/
def execPermitAudit (s : State) : Out :=
  let d := s.inp.n1
  let x := s.die d
  .next (if d < 10 ∧ (x.power = .on ∨ x.power = .gating) ∧ x.auditAt + s.fab.auditMs * 1000 ≤ s.now then
      (s.fab.permits.filter (fun e => e.1 % 2560 / 256 == d)).foldl (fun s e => s.auditOne e.1 e.2) (s.setDie d { x with auditAt := s.now })
    else s)

/-! ### Replay windows (R48) -/

/-- REPLAY_WINDOW_END (R48): of link n1, direction n2. Flits sent are first transmissions (log entry 101). -/
def execReplayWindowEnd (s : State) : Out :=
  let n := s.inp.n1
  let l := s.link n
  let k := l.dir s.inp.n2
  .next (if 24 ≤ n ∨ (k.winFlits < 10 ^ 9 ∧ s.now < k.winSince + 10 ^ 6) then s
    else if k.winFlits < 10 ^ 6 then s.setLink n (l.setDir s.inp.n2 { k with winSince := s.now })
    else
      let t := s.setLink n (l.setDir s.inp.n2 { k with winSince := s.now, winFlits := 0, winReplays := 0 })
      if l.thr ≠ 0xFFFFFFFF#32 ∧ l.thr.toNat * k.winFlits < k.winReplays * 10 ^ 9 then t.linkEvent 1 n else t)

/-! ### Peer ports (R51, R53) -/

/-- Every engine: its agent, its place in the rotation area, its commands. -/
def State.engines (s : State) : List (Agent × List Nat × List Copy) :=
  s.cores.map (fun e => (Agent.core e.1, [], e.2.eng.copies)) ++ s.seqs.map (fun e => (Agent.seq e.1, [], e.2.eng.copies))
    ++ s.rotated.flatMap (fun r => r.cores.map (fun e => (Agent.core 0, [r.task, r.lbay, e.1], e.2.eng.copies)))

/-- PEER_PORT_DOWN (R51, R53): port n1 goes DOWN, and its copies fail with PEER_DOWN. -/
def execPeerPortDown (s : State) : Out :=
  let n := s.inp.n1
  .next (if 8 ≤ n ∨ (s.peer n).st = 2 then s
    else
      -- what is under way on the port is lost: the device retries no part of it (R53)
      let p := s.peer n
      let lose (k : LinkDir) : LinkDir := { k with sent := [], wire := [], queued := [], next := k.expect, spent := [0, 0, 0, 0],
                                                   reject := false, asked := false }
      let s := s.setPeer n { p with st := 2, d0 := lose p.d0, d1 := lose p.d1 }
      let s := s.engines.foldl (fun s e =>
        (e.2.2.filter (fun k => k.started && k.op == 0x08 && k.toPeer && k.port == n)).foldl
          (fun s k => s.failCopy e.1 e.2.1 k ecPeerDown) s) s
      s.linkEvent 4 (24 + n))

/-- PEERSTAT_WRITE (R53): v is written to PEERSTAT of port n1; a 1 in EVDOWN starts the retrain of a DOWN port. -/
def execPeerstatWrite (s : State) : Out :=
  let p := s.peer s.inp.n1
  hostAct s (if s.inp.n1 < 8 ∧ bit s.inp.v.toNat 28 then
      s.setPeer s.inp.n1 { p with evDown := false, st := if p.st = 2 then 1 else p.st }
    else s)

/-- PEER_TRAIN_COMPLETE (R51, R53): port n1's training ends; ok: it is UP, and v is the partner's PEERID. -/
def execPeerTrainComplete (s : State) : Out :=
  let p := s.peer s.inp.n1
  .next (if s.inp.n1 < 8 ∧ p.st = 1 then
      s.setPeer s.inp.n1 (if s.inp.ok then { p with st := 0, id := s.inp.v } else { p with st := 2 })
    else s)

end Sys2Proof.Machine
end

