-- ==== Sys2Proof/Machine/Home.lean ====
section
/-! DEFINITION. Requests at the homes of lines, owners, row activations and bank holds, write-backs, conflict
rollbacks and the publication of TSFLOOR (spec/10_consistency.md R227 to R234, spec/09_memory.md R217, R218,
R223). -/

namespace Sys2Proof.Machine

open Sys2Proof.Bits

/-! ### Requests at a home (R230, R231, R234) -/

/-- The request that core `core` makes at the home of line n2. -/
def State.reqOf (s : State) (kind : ReqKind) (core : Nat) : Req := ⟨kind, core, 0, none⟩

/-- The kind of a request by its number: 0 RD, 1 EX, 2 UP. -/
def kindOf : Nat → ReqKind
  | 0 => .rd
  | 1 => .ex
  | _ => .up

/-- Puts a request among those of one cycle in ascending order of its core, which is that of its die too (R11,
R231). -/
def insertReq (q : Req) : List Req → List Req
  | [] => [q]
  | p :: ps => if q.core < p.core then q :: p :: ps else p :: insertReq q ps

/-- Requests for line n2 reach its home in one cycle: that of core n1, and those of pairs as (core, kind); a core
that waits for an answer makes no second one (R230, R231). -/
def State.request (s : State) (kind : ReqKind) : State :=
  let line := s.inp.n2
  let qs := ((s.inp.n1, kind) :: s.inp.pairs.map (fun p => (p.1, kindOf p.2))).map (fun p => s.reqOf p.2 p.1)
  let qs := qs.filter (fun q => decide (q.core < 640) && !s.asking q.core line)
  if !isTier (128 * line) then s
  else (s.enqueue line (qs.foldl (fun l q => insertReq q l) [])).serveAll line

/-- HOME_RD (R230): core n1 asks for line n2. -/
def execHomeRd (s : State) : Out := .next (s.request .rd)
/-- HOME_EX (R230): core n1 asks for line n2. -/
def execHomeEx (s : State) : Out := .next (s.request .ex)
/-- HOME_UP (R230): core n1 asks for line n2. -/
def execHomeUp (s : State) : Out := .next (s.request .up)

/-- HOME_NR (R229, R234): a no-return atomic of core n1 reaches the home of line n2. Its home, for a vault
line the slice, queues it behind what waits there (R231), and applies it unless another core's withheld store makes it
wait (R232). -/
def execHomeNr (s : State) : Out :=
  let line := s.inp.n2
  .next (if !(s.core s.inp.n1).nr.any (fun a => a.pa / 128 == line) then s
    else
      -- each atomic of the core to the line has one request in the queue or at the owner
      let waiting := ((s.line line).queue.filter (fun q => q.core == s.inp.n1 && q.kind == .nr)).length +
        (match (s.line line).home with | .fetch _ q => if q.core = s.inp.n1 ∧ q.kind = .nr then 1 else 0 | _ => 0)
      if ((s.core s.inp.n1).nr.filter (fun a => a.pa / 128 == line)).length ≤ waiting then s.serveAll line
      else (s.enqueue line [s.reqOf .nr s.inp.n1]).serveAll line)

/-- The owner's data has come to the home: it serves the request it fetched for, then its queue (R230). -/
def State.fetched (s : State) (line : Nat) (q : Req) : State :=
  let r := s.line line
  (s.setLine line { r with home := .idle, queue := q :: r.queue }).serveAll line

/-- HOME_WB (R230): owner n1 writes line n2 back; a line with a withheld store stays with its core. -/
def execHomeWb (s : State) : Out :=
  let o := s.inp.n1
  let line := s.inp.n2
  let r := s.line line
  .next (if (s.core o).withheld.any (fun w => w.line == line) then s
    else match r.home with
      | .idle => s
      | .excl p => if p = o then ((s.writtenBack line).touchLine line).serveAll line else s
      | .fetch p q => if p = o then ((s.modCore o (·.dropLine line)).touchLine line).fetched line q else s)

/-- HOME_DATA (R230): the owner's reply for line n2 arrives. -/
def execHomeData (s : State) : Out :=
  let r := s.line s.inp.n2
  .next (match r.home with
    | .fetch _ q => if r.fwd.isNone then s.fetched s.inp.n2 q else s
    | _ => s)

/-- OWNER_FWD (R230, R232): the owner of line n2 receives its FWD: it gives up the line, answers an early read and
keeps the line, waits, or drops a stale FWD. -/
def execOwnerFwd (s : State) : Out :=
  let line := s.inp.n2
  let r := s.line line
  .next (match r.fwd with
    | none => s
    | some o =>
      match r.home with
      | .fetch p q =>
        if p ≠ o then s.setLine line { r with fwd := none }
        else match (s.core o).withheld.find? (fun w => w.line == line) with
          | none => (s.setLine line { r with fwd := none }).modCore o (·.dropLine line)
          | some w =>
            if q.kind = .nr ∧ q.core = o then
              -- its own withheld store follows the atomic, for which it does not wait (R232)
              ((s.setLine line { r with fwd := none, home := .excl o }).applyNr o line).serveAll line
            else if q.kind = .rd ∧ max (s.core q.core).pts r.wts < w.wts then
              let s := s.setLine line { r with fwd := none, home := .excl o }
              (s.giveRead q line (some w.wts)).serveAll line
            else s
      | _ => s.setLine line { r with fwd := none })

/-! ### Holds, write-backs, cycles, TSFLOOR -/

/-- BANK_HOLD_END (R218): the hold of stack n1's bank n2 ends; waiting requests proceed. -/
def execBankHoldEnd (s : State) : Out :=
  let k := s.stack s.inp.n1
  .next (match k.hold? s.inp.n2 with
    | none => s
    | some (_, fin, arrivals) =>
      if s.ns < fin then s
      else
        let waited := (arrivals.map (fun a => fin - a)).sum
        let s := s.setStack s.inp.n1 { k with
          backoffNs := (k.backoffNs + waited) % 2 ^ 64, holds := k.holds.filter (fun h => h.1 != s.inp.n2) }
        (s.lines.filter (fun e => !e.2.queue.isEmpty && bankOfLine e.1 == some (s.inp.n1, s.inp.n2))).foldl
          (fun s e => s.serveAll e.1) s)

/-- CACHE_WRITEBACK (R223): a cache writes line n1 back; the merge of its sector may find an error. -/
def execCacheWriteback (s : State) : Out :=
  let pa := 128 * s.inp.n1
  .next (if !isTier pa then s
    else
      let t := (s.checkRead pa none).accessRow s.inp.n1
      match s.dataFault pa none with
      | none => t
      | some c => if c = tcIntegrity then t.post 0x0902 (1 * 2 ^ 14) else t.post 0x0901 (2 * 2 ^ 14))

/-- A core's oldest withheld store. -/
def Core.oldestWts (c : Core) : Nat := (c.withheld.map (·.wts)).foldl min ((c.withheld.map (·.wts)).headD 0)

/-- The core of a cycle that rolls back: the highest oldest WTS, on a tie the highest number (R232). -/
def State.victim (s : State) (cores : List Nat) : Nat :=
  cores.foldl (fun m n =>
    let a := (s.core n).oldestWts
    let b := (s.core m).oldestWts
    if b < a ∨ (a = b ∧ m < n) then n else m) (cores.headD 0)

/-- The lines whose withheld stores a core waits for: through its own outstanding load or store, or through its
stalled peg and the call, the no-return atomics or the commands that the peg waits for (R232, R234, R240). -/
def State.stuckOn (s : State) (n : Nat) : List Nat :=
  let c := s.core n
  match c.wait with
  | .line l _ => [l]
  | .peg | .call => (c.mx.call.bind (·.stuck)).toList
  | .atomics => c.nr.map (·.pa / 128)
  | .fence => c.nr.map (·.pa / 128) ++ (c.eng.copies.filter (·.started)).flatMap (fun k => (s.copyGauges k).map (· / 128) ++ s.copySources k)
  | _ => []

/-- Each core of a list waits on a line that the next one withholds a store to, the last one's by the first. -/
def State.waitCycle (s : State) (cores : List Nat) : Bool :=
  decide (2 ≤ cores.length) && decide cores.Nodup &&
    (cores.zip (cores.tail ++ cores.take 1)).all (fun e => (s.stuckOn e.1).any (fun l => ((s.core e.2).oldestOf l).isSome))

/-- CONFLICT_ROLLBACK (R232): nums is a cycle of waiting cores; the one chosen rolls back to its peg. -/
def execConflictRollback (s : State) : Out :=
  .next (if s.waitCycle s.inp.nums then s.modCore (s.victim s.inp.nums) Core.rollback else s)

/-- The publications of TSFLOOR up to number `k`, which falls due 10 µs times k after device start: each gives the
largest WTS issued up to 10 µs before it (R228). -/
def State.publishFloor (s : State) (k : Nat) : State :=
  if k ≤ s.floorAt then s
  else { s with floorAt := k, floorNext := s.wtsTop,
                tsfloor := max s.tsfloor (if k = s.floorAt + 1 then s.floorNext else s.wtsTop) }

/-- TSFLOOR_PUBLISH (R228): the publication that falls due now, every 10 µs of time base. One that has not been
taken when time goes on happens then (State.pass). -/
def execTsfloorPublish (s : State) : Out :=
  .next (if s.tick % 1000 = 0 then s.publishFloor (s.tick / 1000) else s)

end Sys2Proof.Machine
end

