-- ==== Sys2Proof/Machine/CoreEvents.lean ====
section
/-! DEFINITION. Events of cores, bays and tasks that are no bundle: implicit pegs, stalls, watchdogs, rotation,
freezes, the completion of tasks, the ends of waits (spec/04_tasks.md R81, R91, R92, spec/07_casks.md R137 to R152, R164, R165, spec/08_core.md R177,
spec/10_consistency.md R244, R246, spec/13_isa_scalar.md R299, R320). -/

namespace Sys2Proof.Machine

open Sys2Proof.Bits

/-- The ops of the bundle at a core's pc; none where it does not fetch. -/
def State.bundleOps (s : State) (n : Nat) : List Instr :=
  match State.fetchBundle { s with focus := .core n } with
  | some (.ok f) => f.ops.map (fun g => g.2.op)
  | _ => []

/-- IMPLICIT_PEG (R139): at the start of core n1's bundle, for buffer pressure or a request; a wait of R139 takes its
peg as the wait begins. -/
def execImplicitPeg (s : State) : Out :=
  let n := s.inp.n1
  let c := s.core n
  .next (if !s.issuing n ∨ c.frame then s
    else if c.requested then State.implicitPeg { s with bundle := {} } n c.wait
    else if c.pressed (((s.bundleOps n).map storeLines).sum) then State.implicitPeg { s with bundle := {} } n .none
    else s)

/-- A freeze of the task of a core's point is in progress (R164). -/
def State.inFreeze (s : State) (n : Nat) : Bool :=
  match (s.core n).point with
  | some (id, _) => (s.freezing id).isSome
  | none => false

/-- PEG_STALL (R140, R165): core n1 has stalled for more than 1 ms on an outstanding call: it traps, or, in step 2 of a
freeze, stands at its previous peg. -/
def execPegStall (s : State) : Out :=
  let n := s.inp.n1
  let c := s.core n
  .next (if c.wait ≠ .peg ∨ c.stallTicks ≤ 100000 then s
    else if s.inFreeze n ∧ c.async.any (fun a => a.kind == .preempt || a.kind == .curtail) then
      (s.modCore n Core.rollback).atPeg n
    else State.trapCore { s with bundle := {} } n ⟨0x50#8, 0#64⟩)

/-- WATCHDOG_EXPIRE (R148): core n1's count has reached MODE.WDOG ms while its point runs. -/
def execWatchdogExpire (s : State) : Out :=
  let n := s.inp.n1
  let c := s.core n
  .next (if c.point.isSome ∧ !c.frozen ∧ !c.ending ∧ s.powered n ∧ c.wdog.toNat * 100000 ≤ c.wdogTicks then (s.abandonPoint n).post 0x0701 n else s)

/-! ### Rotation (R152) -/

/-- The logical bay of a physical bay is asked to rotate out: cores that wait at their peg leave at once. -/
def State.askOut (s : State) (pb : Nat) : State :=
  (coresOfBay pb).foldl (fun s n =>
    let s := s.modCore n (fun c => { c with rotate := true })
    let c := s.core n
    if c.point.isSome && !c.frame && c.wait.stopsClock && !c.frozen then s.atPeg n else s) s

/-- ROTATION_QUANTUM_END (R152, R122, R316): physical bay n1's quantum ends, or all its cores stand in AWAIT, while a
logical bay with work is not resident; or it is surplus and its running points have ended. -/
def execRotationQuantumEnd (s : State) : Out :=
  let pb := s.inp.n1
  .next (match (s.bay pb).bound.bind (fun b => s.task b.1) with
    | none => s
    | some t =>
      let b := s.bay pb
      if t.st ≠ .placed ∨ t.freeze.isSome then s
      else if (s.surplus t).contains pb then
        (if (coresOfBay pb).any (fun n => (s.core n).point.isSome) then s else s.askOut pb)
      else if (b.since + rRotq t.rcd ≤ s.now ∨ s.bayAwaits pb) ∧ (s.nextIn t).isSome then s.askOut pb
      else s)

/-- BAY_ROTATE_COMPLETE (R152): physical bay n1's logical bay has left, and the next one with work comes in; a surplus
bay stays free. -/
def execBayRotateComplete (s : State) : Out :=
  let pb := s.inp.n1
  .next (match (s.bay pb).bound with
    | none => s
    | some (id, l) => match s.task id with
      | none => s
      | some t =>
        if t.freeze.isSome ∨ !(coresOfBay pb).all (fun n => (s.core n).rotate) ∨ !s.mayLeave pb then s
        else
          let surplus := (s.surplus t).contains pb
          let s := s.takeOut t pb l
          let s := if t.stop then s.discardRotated id else s
          match s.task id with
          | none => s
          | some t =>
            if surplus then s
            else match s.nextIn t with
              | none => s
              | some l => s.bringIn t pb l)

/-! ### Freezes (R164) -/

/-- FREEZE_COMPLETE (R164, R165, R216): task n1's freeze reaches its drain, or its last step; if it is unwound for want
of space, the response that asked for it passes to the next task. -/
def execFreezeComplete (s : State) : Out :=
  let id := s.inp.n1
  .next (match s.freezing id with
    | none => s
    | some f =>
      let t := s.runDrains.endFreeze id
      let unwound := (t.task id).any (fun x => x.st == .placed && x.freeze.isNone)
      let t := if f.src ≠ 1 ∨ (t.freezing id).isSome then t else if unwound then t.parkMore id else t.countCask id
      (t.nextGate).takeHeldCmds)

/-! ### Completion (R81, R91, R92) -/

/-- TASK_COMPLETE (R92): task n1 is done and its renamed buffers may publish. -/
def execTaskComplete (s : State) : Out :=
  .next (match s.task s.inp.n1 with
    | none => s
    | some t => if s.taskOver t ∧ s.mayPublish t then (((s.completeTask t).parkOver t.id true false).nextGate).takeHeldCmds else s)

/-! ### The ends of waits -/

/-- Every result that waits for data has it. -/
def arriveData (ps : List Pending) : List Pending :=
  ps.map (fun p => if p.awaits = .data then { p with arrived := true } else p)

/-- LOAD_DATA_ARRIVE (R177): late data arrives for core n1. -/
def execLoadDataArrive (s : State) : Out :=
  .next (s.modCore s.inp.n1 (fun c =>
    let arrive (r : Scalar) : Scalar := { r with pend := arriveData r.pend }
    { c with
      pt := { c.pt with sc := arrive c.pt.sc }, peg := { c.peg with sc := arrive c.peg.sc }, fr := arrive c.fr,
      wait := if c.wait = .late then .none else c.wait }))

/-- REMOTE_ANSWER_ARRIVE (R299): the answer to stream n1's operation arrives. -/
def execRemoteAnswerArrive (s : State) : Out :=
  let q := s.seq s.inp.n1
  .next (s.setSeq s.inp.n1 { q with sc := { q.sc with pend := arriveData q.sc.pend },
                                    wait := if q.wait = .late then .none else q.wait })

/-- GAUGE_WAKE (R244): the wake event of core n1's gauge word has come: its wait completes, its bundle writing GEN. -/
def execGaugeWake (s : State) : Out :=
  .next (match (s.core s.inp.n1).wait with
    | .gauge _ true _ => s.modCore s.inp.n1 (fun c => { c with wait := .none, woken := true, wdogTicks := 0 })
    | _ => s)

/-- TICKET_BROADCAST (R246): a broadcast has reached core n1: its TKWAIT evaluates its ticket again. -/
def execTicketBroadcast (s : State) : Out :=
  .next (match (s.core s.inp.n1).wait with
    | .ticket _ true => s.modCore s.inp.n1 (fun c => { c with wait := .none, wdogTicks := 0 })
    | _ => s)

/-- A queue wait's count is met (R320). -/
def State.queueWaitMet (s : State) : Instr → Bool
  | .qwaitf _ q b => decide ((s.xr b).toNat ≤ (s.qview q).filled)
  | .qwaite _ q b => decide ((s.xr b).toNat ≤ (s.qview q).free)
  | _ => true

/-- QUEUE_WAIT_COMPLETE (R320): a landing or a permit return meets the count of core n1's wait. -/
def execQueueWaitComplete (s : State) : Out :=
  let n := s.inp.n1
  .next (if (s.core n).wait = .queue ∧ (s.bundleOps n).all (State.queueWaitMet { s with focus := .core n }) then
      s.modCore n (fun c => { c with wait := .none, wdogTicks := 0 })
    else s)

end Sys2Proof.Machine
end

