-- ==== Sys2Proof/Machine/Seal.lean ====
section
/-! DEFINITION. The sealer and attestation (spec/12_encoding.md R268 to R279, R288, R289,
spec/15_isa_matrix_copy.md R372, R389, spec/03_host.md R71, R72). -/

namespace Sys2Proof.Machine

open Sys2Proof.Bits

/-! ### Program images (R288, R289) -/

/-- The words of an image and of the fill after it, by index; none past the last. -/
abbrev Image := Nat → Option W32

/-- The word at an index is there and satisfies a condition. -/
def Image.is (im : Image) (i : Nat) (p : W32 → Bool) : Bool :=
  match im i with
  | some w => p w
  | none => false

/-- The op that starts at an index; none where the word is no defined op (R278, R281 to R286). -/
def Image.op (im : Image) (i : Nat) : Option Instr :=
  match im i with
  | none => none
  | some w =>
    let cl := (w.extractLsb' 26 3).toNat
    let op := (w.extractLsb' 17 6).toNat
    let i' := match wordK w with
      | 0 => decodeSingle cl op w
      | 1 => decodeDouble cl op w ((im (i + 1)).getD 0#32)
      | _ => none
    i'.bind (fun x => if wordK w = 0 ∧ x.fieldReserved then none else some x)

/-- A word goes on with the bundle of the word before it: it is in the same packet and has B = 0. -/
def Image.continues (im : Image) (i : Nat) : Bool := i % 8 != 0 && im.is i (fun w => !wordB w)

/-- The MOD or IMM at an index. -/
def prefixOf (w : W32) : Option Instr :=
  if wordK w = 2 ∧ (w.extractLsb' 26 3).toNat ≤ 1 then decodePrefix (w.extractLsb' 26 3).toNat w else none

/-- What a prefix at an index meets in its run (R275, R276, R278): `n` bounds the run. -/
def Image.prefixFails (im : Image) (p : Instr) : Nat → Nat → List Reject
  | 0, _ => [.orphanPrefix]
  | n + 1, j =>
    match im j with
    | none => [.orphanPrefix]
    | some w =>
      if !im.continues j then [.orphanPrefix]
      else match prefixOf w with
        | some q => if samePrefix p q then [.orphanPrefix] else Image.prefixFails im p n (j + 1)
        | none =>
          if wordK w ≤ 1 then
            match im.op j with
            | some i => (i.refusesPrefix p).toList
            | none => []
          else [.orphanPrefix]

/-- The refusals of an op word by its fields (R281 to R286, R274). -/
def Image.opFails (im : Image) (i : Nat) (w : W32) : List Reject :=
  let cl := (w.extractLsb' 26 3).toNat
  let op := (w.extractLsb' 17 6).toNat
  if cl = 7 then [.reservedClass]
  else
    let t := (im (i + 1)).getD 0#32
    match (if wordK w = 0 then decodeSingle cl op w else decodeDouble cl op w t) with
    | none => [.reservedOp]
    | some x =>
      match (if wordK w = 0 then judgeSingle (wordB w) x w else judgeDouble (wordB w) x w t) with
      | .error (0, r) => [r]
      | _ => []

/-- The refusals of a tail by its fields: those of its op that its head does not show (R288). -/
def Image.tailFails (im : Image) (i : Nat) (t : W32) : List Reject :=
  if !im.is (i - 1) (fun w => wordK w == 1) ∨ i = 0 then [.tailWithoutHead]
  else match im (i - 1) with
    | none => []
    | some w =>
      match decodeDouble (w.extractLsb' 26 3).toNat (w.extractLsb' 17 6).toNat w t with
      | none => []
      | some x =>
        match judgeDouble (wordB w) x w t with
        | .error (1, r) => [r]
        | _ => []

/-- The refusals of a prefix word. -/
def Image.prefixWordFails (im : Image) (i : Nat) (w : W32) : List Reject :=
  let pk := (w.extractLsb' 26 3).toNat
  match decodePrefix pk w with
  | none => [.reservedClass]
  | some p =>
    let guard : List Reject := if pk = 2 ∧ w.extractLsb' 20 1 = 1#1 ∧ w.extractLsb' 23 3 ≠ 0#3 then [.guardInvalid] else []
    let own : List Reject := (if p.roundingReserved then [.roundingReserved] else [])
      ++ (if encode (wordB w) p != [w] && guard.isEmpty then [.nonzeroMbz] else [])
    let run : List Reject := if pk = 2 then (if im.continues (i + 1) then [.xferNotLast] else []) else im.prefixFails p 8 (i + 1)
    guard ++ own ++ run

/-- The first index of the bundle that a word belongs to (R269). -/
def Image.bundleStart (im : Image) : Nat → Nat
  | 0 => 0
  | i + 1 => if im.continues (i + 1) then Image.bundleStart im i else i + 1

/-- The slot class of the op that starts at an index. -/
def Image.slotAt (im : Image) (i : Nat) : Option Nat := (im.op i).map Instr.slotClass

/-- An op word beyond a limit of R279. -/
def Image.beyondLimit (im : Image) (i : Nat) : Bool :=
  match im.slotAt i with
  | none => false
  | some k =>
    let b := im.bundleStart i
    decide (slotLimit k < ((List.range (i + 1 - b)).filter (fun n => im.slotAt (b + n) == some k)).length)

/-- Every refusal of the word at an index of a program image of `n` words (R288). -/
def Image.fails (im : Image) (n i : Nat) : List Reject :=
  match im i with
  | none => [.sealRange]
  | some w =>
    if n ≤ i then (if w = fillWord then [] else [.badFill])
    else
      let afterFill := (List.range (i % 8)).any (fun k => im.is (i - i % 8 + k) (· == fillWord))
      let fill : List Reject := if (wordB w && wordK w == 3 && w != fillWord) || (afterFill && w != fillWord) then [.badFill] else []
      let cross : List Reject := if (i % 8 = 0 ∧ !wordB w) ∨ (i % 8 = 7 ∧ wordK w = 1) then [.packetCross] else []
      let headless : List Reject := if wordK w = 1 ∧ !im.is (i + 1) isTail then [.headWithoutTail] else []
      let own : List Reject := match wordK w with
        | 0 | 1 => im.opFails i w
        | 2 => im.prefixWordFails i w
        | _ => if isTail w then im.tailFails i w else []
      let excess : List Reject := if wordK w ≤ 1 ∧ im.beyondLimit i then [.slotOversubscribed] else []
      fill ++ cross ++ headless ++ own ++ excess

/-- The refusal of a word: the first in the order of R289. -/
def firstRefusal : List Reject → Option Reject
  | [] => none
  | r :: rs => some (rs.foldl (fun m x => if x.rank < m.rank then x else m) r)

/-! ### Jig images (R372, R389) -/

/-- A micro-word of a block at an index is refused: `at_` gives the block's micro-words. -/
def microFails (at_ : Nat → W32) (len i : Nat) : Bool :=
  let w := at_ i
  if len ≤ i then w != 0#32
  else match decodeJig w with
    | .error _ => true
    | .ok x =>
      let cleared (b : BitVec 1) : Bool := (List.range i).any (fun k => match decodeJig (at_ k) with
        | .ok (.jAccz c _) => c == b
        | _ => false)
      (i + 1 == len && x != .jEnd) || (match x with
        | .jLoop t _ _ => decide (i ≤ t.toNat)
        | .jLoopReg t _ _ => decide (i ≤ t.toNat)
        | .jStrm _ _ b _ _ _ _ => !cleared b
        | .jRetire _ _ b _ _ _ _ => !cleared b
        | _ => false)

/-- The word at an index of a jig image of `n` words is refused. -/
def Image.jigFails (im : Image) (n i : Nat) : List Reject :=
  match im i with
  | none => [.sealRange]
  | some w =>
    let fill : List Reject := if n ≤ i ∧ w ≠ fillWord then [.badFill] else []
    let base := i - i % 264
    let word (k : Nat) : W32 := (im (base + k)).getD fillWord
    let len := (word 1).toNat
    let depth := (word 3).toNat
    let bad : Bool :=
      if n ≤ base then false
      else match i % 264 with
        | 0 => w != 0xEB1A0001#32
        | 1 => len == 0 || decide (256 < len)
        | 2 => decide (63 < w.toNat)
        | 3 => depth == 0 || decide (65536 < depth)
        | 4 | 5 | 6 | 7 => w != 0#32
        | k => microFails (fun j => word (j + 8)) len (k - 8)
    fill ++ (if bad then [.jigInvalid] else [])

/-! ### A request (R71) -/

/-- The word at an index of the image that starts at an address, as it is mapped in a context; none also where its data
has an error (R221, log entry 122). -/
def State.imageAt (s : State) (stream va : Nat) : Image := fun i =>
  let a := va + 4 * i
  if 13 * 2 ^ 48 ≤ a then none
  else (s.leafFor [hubTlb stream] stream a).bind (fun l =>
    let pa := entryBase l.val + a % 2 ^ l.bits
    if (s.dataFault pa (some l.at_)).isSome then none else some (BitVec.ofNat 32 (Memory.read s.mem pa 4)))

/-- The first of `n` words from an index on that is refused, with its refusal. -/
def firstFailing (f : Nat → Option Reject) : Nat → Nat → Option (Nat × Nat)
  | 0, _ => none
  | n + 1, i =>
    match f i with
    | some r => some (r.code, 4 * i)
    | none => firstFailing f n (i + 1)

/-- The address after the page that maps an address; after its granule where nothing maps it. -/
def State.pageEnd (s : State) (stream va : Nat) : Nat :=
  let bits := match s.leafFor [hubTlb stream] stream va with
    | some l => l.bits
    | none => 19
  va / 2 ^ bits * 2 ^ bits + 2 ^ bits

/-- SEALADDR is the start of the page that maps it. -/
def State.pageStart (s : State) (stream va : Nat) : Bool :=
  match s.leafFor [hubTlb stream] stream va with
  | some l => va % 2 ^ l.bits == 0
  | none => false

/-- The refusal of an image: code and byte offset (R71, R288, R289). -/
def State.sealVerdict (s : State) (stream va len : Nat) (jig : Bool) : Option (Nat × Nat) :=
  if !s.pageStart stream va then some (Reject.sealRange.code, 0)
  else
    let im := s.imageAt stream va
    let n := len / 4
    firstFailing (fun i => firstRefusal (if jig then im.jigFails n i else im.fails n i)) ((s.pageEnd stream (va + len - 1) - va) / 4) 0

/-- The leaves that map the bytes of an image. -/
def State.imageLeaves (s : State) (stream va len : Nat) : List Leaf :=
  ((List.range (ceilDiv len (2 ^ 19))).filterMap (fun k => s.leafFor [hubTlb stream] stream (va + k * 2 ^ 19))).eraseDups

/-- The granules of a leaf. -/
def Leaf.granules (l : Leaf) : List Nat := (List.range (2 ^ (l.bits - 19))).map (entryBase l.val / 2 ^ 19 + ·)

/-- The bytes of an image. -/
def State.imageBytes (s : State) (stream va len : Nat) : List Byte :=
  (List.range (len / 4)).flatMap (fun i => leBytes 4 ((s.imageAt stream va i).getD 0#32).toNat)

/-- SEAL_GO (R71): a request is accepted unless one is under check; the pages it touches are held. The image is read
for the check here (log entry 37). With SEALLEN still at its reset value of 0 the image is empty: it is accepted and holds
no page (DESIGN CHOICE, log entry 123). -/
def execSealGo (s : State) : Out :=
  let q := s.host.sealer
  hostAct s (if q.req.isSome then s
    else
      let stream := q.ctx.toNat % 8
      let va := q.addr.toNat
      let len := q.len.toNat
      let s := s.touchRead { stream := stream, frame := true, units := [hubTlb stream] } va len
      { s with host := { s.host with sealer := { q with
        req := some (q.addr, q.len, q.ctx), done := false, off := 0, code := 0,
        seen := s.imageBytes stream va len, verdict := s.sealVerdict stream va len (bit q.ctx.toNat 8),
        hold := (s.imageLeaves stream va len).flatMap Leaf.granules } } })

/-- A log entry of 36 bytes (R72). -/
def logEntry (kind : Nat) (hash : List Byte) : List Byte := [BitVec.ofNat 8 kind, 0#8, 0#8, 0#8] ++ hash

/-- Enters a measurement in the log (R72): the newest 4,096 are kept, the chain value covers all. -/
def State.measure (s : State) (kind : Nat) (hash : List Byte) : State :=
  let a := s.host.att
  let e := logEntry kind hash
  let log := a.log ++ [e]
  { s with host := { s.host with att := { a with log := log.drop (log.length - 4096), chain := Sha.sha256 (a.chain ++ e) } } }

/-- Seals the leaf at a place: its granules join the seal set, its SEAL bit is set (R203). -/
def State.sealLeaf (s : State) (l : Leaf) : State :=
  { s.touchLine ((l.at_ + 6) / 128) with
    sealSet := (s.sealSet ++ l.granules).eraseDups
    mem := Memory.set s.mem (l.at_ + 6) (Memory.get s.mem (l.at_ + 6) ||| 0x20#8)
    tlb := s.tlb.filter (fun e => e.at_ != l.at_) }

/-- SEAL_COMPLETE (R71): the sealer ends its check; an image whose bytes have changed is refused with IMAGE_HASH. -/
def execSealComplete (s : State) : Out :=
  let q := s.host.sealer
  .next (match q.req with
    | none => s
    | some (addr, len, ctx) =>
      let stream := ctx.toNat % 8
      let verdict := match q.verdict with
        | some v => some v
        | none => if s.imageBytes stream addr.toNat len.toNat = q.seen then none else some (Reject.imageHash.code, 0)
      let rest : Sealer := { q with req := none, done := true, hold := [], seen := [], verdict := none }
      match verdict with
      | some (code, off) => { s with host := { s.host with sealer := { rest with code := code, off := off } } }
      | none =>
        let hash := Sha.sha256 q.seen
        let t := (s.imageLeaves stream addr.toNat len.toNat).foldl State.sealLeaf s
        ({ t with host := { t.host with sealer := { rest with hash := hash } } }).measure (if bit ctx.toNat 8 then 4 else 3) hash)

/-- SEALRES (R71). -/
def Sealer.res (q : Sealer) : Nat := boolN q.done * 2 ^ 63 + q.off % 2 ^ 32 * 2 ^ 8 + q.code

/-! ### Attestation (R72) -/

/-- BOOTSTAT (R69). -/
def Boot.stat (b : Boot) : Nat := b.phase * 2 ^ 28 + b.fail * 2 ^ 20 + boolN b.slotB * 2 + boolN b.h1ok

/-- ATTEST_GO (R72): ATTCTL.GO starts a report over the nonce and the buffer written last. -/
def execAttestGo (s : State) : Out :=
  let a := s.host.att
  hostAct s (if a.req.isSome then s else { s with host := { s.host with att := { a with req := some (a.nonce, a.buf) } } })

/-- The report before its signature. -/
def State.report (s : State) (nonce : BitVec 256) : List Byte :=
  let a := s.host.att
  leBytes 4 0x41545354 ++ leBytes 4 1 ++ Config.identityKey ++ leBytes 32 nonce.toNat ++ leBytes 8 s.now
    ++ leBytes 4 s.host.boot.stat ++ leBytes 4 a.log.length ++ a.chain ++ a.log.flatten

/-- ATTEST_DONE (R72): the signed report is written to the host buffer and ATTEST_DONE is posted. -/
def execAttestDone (s : State) : Out :=
  .next (match s.host.att.req with
    | none => s
    | some (nonce, buf) =>
      let r := s.report nonce
      let s := { s with host := { s.host with att := { s.host.att with req := none } } }
      (s.hostWrite buf.toNat (r ++ Config.sign r)).post 0x0302 0)

end Sys2Proof.Machine
end

