-- ==== Sys2Proof/Machine/Boot.lean ====
section
/-! DEFINITION. Boot, configuration records and power inputs (spec/03_host.md R69, R70, spec/01_package.md
R16, spec/09_memory.md R220, R222). -/

namespace Sys2Proof.Machine

open Sys2Proof.Bits

/-! ### Configuration records (R70) -/

/-- The body of a record. -/
def recordBody (r : List Byte) : List Byte := (r.drop 64).take (fieldAt r 12 4)
/-- The kind of a record. -/
def recordKind (r : List Byte) : Nat := fieldAt r 4 2

/-- The FAIL code that a record is refused with, 0 if it is accepted (R69, R70). -/
def recordCode (r : List Byte) : Nat :=
  let n := 64 + fieldAt r 12 4
  if fieldAt r 0 4 ≠ 0x43464752 ∨ recordKind r = 0 ∨ 6 < recordKind r ∨ r.length ≠ n + 29792
      ∨ (r.drop 16).take 16 ≠ idMeasBytes.take 16 ∨ (r.drop 32).take 32 ≠ Sha.sha256 (recordBody r)
      ∨ !Config.verify 29792 Config.vendorKey (r.take n) (r.drop n) then 2
  else if fieldAt r 8 4 < (Config.minVersion (recordKind r)).toNat then 3
  else 0

/-- The first accepted record of a kind. -/
def accepted (rs : List (List Byte)) (kind : Nat) : Option (List Byte) :=
  rs.find? (fun r => recordKind r == kind && recordCode r == 0)

/-- The record of a kind that the firmware uses: the first accepted one; none where one of the kind is refused or none
is there, which leaves the parts it is for disabled (R70). -/
def usable (rs : List (List Byte)) (kind : Nat) : Option (List Byte) :=
  if rs.any (fun r => recordKind r == kind && recordCode r != 0) then none else accepted rs kind

/-- The FAIL code with which the records fail boot: one of kind 1, 5 or 6 is refused or missing (R70). -/
def recordsFail (rs : List (List Byte)) : Option Nat :=
  match rs.find? (fun r => [1, 5, 6].contains (recordKind r) && recordCode r != 0) with
  | some r => some (recordCode r)
  | none => if [1, 5, 6].all (fun k => rs.any (fun r => recordKind r == k)) then none else some 4

/-- A value of a record's body (log entry 38). -/
def recordValue (r : List Byte) (i : Nat) : Nat := Config.recordField (recordBody r) i

/-- The enabled-core map and the calibration of a bay (R19, R70): a bay without calibration is disabled. It begins on VH
with a request for step 0, at the fastest step that VH's target permits (R120, R125). -/
def bayFrom (coremap : List Byte) (cal : Option (List Byte)) (vh : Rail) (pb : Nat) : BayPower :=
  let b : BayPower := {
    disabled := cal.isNone || decide (recordValue coremap pb ≠ 0)
    minima := match cal with
      | some c => (List.range 8).map (fun k => (k, recordValue c (8 * pb + k)))
      | none => [] }
  let fit := b.fastest false vh.target 0
  { b with step := fit, rampw := decide (fit ≠ 0) }

/-- The limits of a link, which trains at step 2 or at MAXSTEP (R31, R49, R69); without them it is disabled. -/
def linkFrom (limits : Option (List Byte)) (n : Nat) : Link :=
  match limits with
  | none => { st := .down }
  | some r =>
    let m := recordValue r (4 * n) % 5
    { maxStep := m, step := recordValue r (4 * n + 1) % 5, rate := min 2 m, target := min 2 m, st := .retrain,
      thr := BitVec.ofNat 32 (recordValue r (4 * n + 2)), laneThr := BitVec.ofNat 16 (recordValue r (4 * n + 3)) }

/-- A rail that ramps to the target its record gives (R17, R69, R70), from 0 mV (log entry 105). -/
def railFrom (r : List Byte) (vl : Bool) (now : Nat) : Rail :=
  let v := recordValue r (boolN vl) % 1024
  let d := if vl then 700 else 920
  let mv := if vl then (if 550 ≤ v ∧ v ≤ 700 then v else d) else (if 780 ≤ v ∧ v ≤ 920 then v else d)
  { target := mv, start_ := 0, since := now, busy := true }

/-- An entry of the thermal policy table from the record of thermal defaults (R131). -/
def thermFrom (r : List Byte) (i : Nat) : Therm :=
  { hyst := recordValue r (4 * i) % 256, temp := sextN (recordValue r (4 * i + 1) % 2 ^ 16) 16,
    param := recordValue r (4 * i + 2) % 8, action := recordValue r (4 * i + 3) % 5 }

/-- What the verified records give the module (R70). -/
def State.applyRecords (s : State) : State :=
  let rs := s.host.boot.records
  let coremap := (usable rs 1).getD []
  let rails := (usable rs 6).getD []
  let vh := railFrom rails false s.now
  { s with
    pkg := { s.pkg with
      bays := (List.range 80).map (fun pb => (pb, bayFrom coremap (usable rs 2) vh pb))
      vh := vh, vl := railFrom rails true s.now }
    fab := { s.fab with links := (List.range 24).map (fun n => (n, linkFrom (usable rs 3) n)) }
    pow := { s.pow with therm := match usable rs 4 with
      | some r => Vector.ofFn (fun i => thermFrom r i.val)
      | none => s.pow.therm } }

/-! ### Boot (R69) -/

/-- Boot fails: PHASE 0xF and FAIL. -/
def State.bootFails (s : State) (code : Nat) : State :=
  { s with host := { s.host with boot := { s.host.boot with phase := 0xF, fail := code } } }

/-- A die that fails self-test at bring-up is gated and posted (R69); only a host command ungates it (R21). -/
def State.failDie (s : State) (d : Nat) : State :=
  (((s.clearDiodes d).setDie d { s.die d with power := .gated, failed := true }).gateLinks d).post 0x0101 d

/-- The refused and missing records are posted as CFG_REFUSED (R68, R70). -/
def State.postRefusals (s : State) : State :=
  let rs := s.host.boot.records
  let s := rs.foldl (fun s r => if recordCode r = 0 then s else s.post 0x0301 (recordKind r % 256 * 256 + recordCode r)) s
  [1, 2, 3, 4, 5, 6].foldl (fun s k => if rs.any (fun r => recordKind r == k) then s else s.post 0x0301 (k * 256 + 4)) s

/-- The hash of the vendor public key that each hub's ROM holds (R69). -/
def romHash : List Byte := Sha.sha256 Config.vendorKey
/-- A firmware image verifies: the hash of the vendor key it carries is the one in ROM, and its signature holds (R69). -/
def FwImage.ok (f : FwImage) : Bool := Sha.sha256 f.key == romHash && Config.verify 29792 f.key f.body f.sig

/-- The management core writes the eight roots of the context root table at bring-up (R200). -/
def State.writeRoots (s : State) (bs : List Byte) : State :=
  (List.range 8).foldl (fun s k => s.setCtx k { s.ctx k with root := BitVec.ofNat 64 (fieldAt bs (8 * k) 8) }) s

/-- Puts BOOTSTAT.PHASE. -/
def State.setPhase (s : State) (p : Nat) : State := { s with host := { s.host with boot := { s.host.boot with phase := p } } }

/-- The ROM phase (R69): slot A's image is verified, then slot B's. n1 = 1: H0 fails its self-test; ok3: H1's management
core stands by. -/
def State.bootRom (s : State) : State :=
  let b := s.host.boot
  let s := { s with tick := 0, host := { s.host with boot := { b with
    main := true, fail := 0, slotB := !b.fwA.ok, h1ok := s.inp.ok3 && (b.fwA.ok || b.fwB.ok) } } }
  if !b.fwA.ok && !b.fwB.ok then s.bootFails 1 else if s.inp.n1 = 1 then s.bootFails 5 else s.setPhase 1

/-- The records phase (R69, R70): every record is verified, and the refusals are posted. -/
def State.bootRecords (s : State) : State :=
  match recordsFail s.host.boot.records with
  | some c => s.postRefusals.bootFails c
  | none => s.postRefusals.setPhase 2

/-- Bring-up begins (R69): the rails ramp, the links train, the dies that nums gives fail their self-test; 64 bytes of
inputs are the context root table (R200). -/
def State.bringUp (s : State) : State :=
  let s := s.applyRecords
  let s := if s.inp.bytes.length = 64 then s.writeRoots s.inp.bytes else s
  ((s.inp.nums.filter (fun d => decide (d < 10))).foldl State.failDie s).setPhase 3

/-- DEVICE_START (R69): main power starts boot, which goes on phase by phase. -/
def execDeviceStart (s : State) : Out :=
  let b := s.host.boot
  .next (if !b.aux then s
    else match b.phase with
      | 0 => s.bootRom
      | 1 => s.bootRecords
      | 2 => s.bringUp
      | _ => s)

/-- Bring-up is complete: the rails stand at their targets and no link trains (R69). -/
def State.broughtUp (s : State) : Bool :=
  s.pkg.vh.present s.now == s.pkg.vh.target && s.pkg.vl.present s.now == s.pkg.vl.target
    && (List.range 24).all (fun n => (s.link n).st != .retrain)

/-- BOOT_READY (R69, R72): bring-up is complete; the measurements of the firmware image and of the accepted records are
logged. -/
def execBootReady (s : State) : Out :=
  let b := s.host.boot
  .next (if b.phase ≠ 3 ∨ !s.broughtUp then s
    else
      let s := s.measure 1 (Sha.sha256 (if b.slotB then b.fwB.body else b.fwA.body))
      let s := (b.records.filter (fun r => recordCode r == 0)).foldl (fun s r => s.measure 2 (Sha.sha256 r)) s
      s.setPhase 4)

/-! ### Power inputs (R16, R222) -/

/-- A cell of the LPDDR-6 tier (R199). -/
def isLpddr (pa : Nat) : Bool := isTier pa && decide (tierBase 1 0 ≤ pa)

/-- Health entries of sectors that a condition keeps. -/
def Health.keep (h : Health) (p : Nat → Bool) : Health :=
  let ok (k : Nat) : Bool := p (512 * k)
  { poison := h.poison.filter ok, eccSoft := h.eccSoft.filter ok, eccBad := h.eccBad.filter ok,
    tagBad := h.tagBad.filter ok, eccRetry := h.eccRetry.filter ok, keys := h.keys.filter (fun e => ok e.1) }

/-- AUX_POWER_ON (R222): the always-on domain is powered and the 16 key slots are generated anew; what was encrypted
under the old keys fails its tag. -/
def execAuxPowerOn (s : State) : Out :=
  let b := s.host.boot
  let h := s.health
  .next (if b.aux then s
    else { s with
      health := { h with tagBad := (h.tagBad ++ h.keys.map (·.1)).eraseDups }
      host := { s.host with boot := { b with aux := true } } })

/-- A parked task whose cask the hubs' area held has lost it: nothing of it can be resumed (R16). -/
def Task.loseCask (t : Task) : Task :=
  if t.cask.any (·.area) then { t with cask := none, resumable := false } else t

/-- AUX_POWER_OFF (R16, R118): the contents of the LPDDR-6 tier, casks among them, the keys and the facility key's state
are lost. -/
def execAuxPowerOff (s : State) : Out :=
  let h := s.health
  .next { s with
    mem := s.mem.filter (fun c => !isLpddr c.1)
    lines := s.lines.filter (fun e => !isLpddr (128 * e.1))
    frames := [], kept := []
    tab := { s.tab with tasks := s.tab.tasks.map Task.loseCask }
    health := { h.keep (fun pa => !isLpddr pa) with vaultBad := h.vaultBad, checkBad := h.checkBad }
    ctxs := s.ctxs.map (fun (e : Nat × Context) => (e.1, { e.2 with root := 0#64 }))
    pow := { s.pow with fkey := none, fkeyLock := false, maxSeq := 0 }
    host := { s.host with boot := { s.host.boot with aux := false } } }

/-- The casks that the hubs' area holds, as bytes (R215). -/
def State.areaCasks (s : State) : List (List Byte) :=
  s.tab.tasks.filterMap (fun t => match t.cask with
    | some c => if c.area then some (caskBytes t c false) else none
    | none => none)

/-- MAIN_POWER_OFF (R16, R69): the dies, the hubs and boot go down; the always-on domain keeps the LPDDR-6 contents, casks
and the context root table among them (R215), the keys and the facility key's state, module flash its firmware and its records. -/
def execMainPowerOff (s : State) : Out :=
  let r : State := State.reset
  .next { r with
    agenda := s.agenda, focus := s.focus, inp := s.inp, free := s.free, late := s.late, meet := s.meet
    retireCuts := s.retireCuts
    mem := s.mem.filter (fun c => isLpddr c.1)
    lines := s.lines.filter (fun e => isLpddr (128 * e.1))
    ctxs := s.ctxs.map (fun (e : Nat × Context) => (e.1, { root := e.2.root }))
    kept := s.kept ++ s.areaCasks
    health := s.health.keep isLpddr
    pow := { r.pow with fkey := s.pow.fkey, fkeyLock := s.pow.fkeyLock, maxSeq := s.pow.maxSeq }
    host := { r.host with mem := s.host.mem, abort := s.host.abort,
                          boot := { main := false, aux := s.host.boot.aux, records := s.host.boot.records,
                                    fwA := s.host.boot.fwA, fwB := s.host.boot.fwB } } }

end Sys2Proof.Machine
end

