-- ==== Sys2Proof/Machine/HostPort.lean ====
section
/-! DEFINITION. Host writes and reads, ingress buffers, the application of a group, the direct registers of
the streams, notification queues and MSI-X vectors (spec/03_host.md R54 to R68, spec/10_consistency.md
R239). -/

namespace Sys2Proof.Machine

open Sys2Proof.Bits

/-! ### Where a host access lands (R55, R58, R60) -/

/-- What the bytes of a host access to BAR2 or BAR4 touch. -/
inductive HostSpot where
  /-- device memory through a stream's mailbox or aperture, at a virtual address -/
  | inside (stream va : Nat)
  /-- more than one window, or a mailbox and the registers behind it; the stream of the first byte -/
  | crosses (stream : Nat)
  /-- the register area of a window, or nothing -/
  | other
  deriving DecidableEq, Repr

/-- Bytes in a stream's mailbox. -/
def mailboxBytes : Nat := 2 ^ 22

/-- The place of `n` bytes at an offset of BAR2 or BAR4. -/
def State.hostSpot (s : State) (bar off n : Nat) : HostSpot :=
  if n = 0 then .other
  else if bar = 2 ∧ off < 2 ^ 26 then
    let k := off / 2 ^ 23
    let o := off % 2 ^ 23
    if o + n ≤ mailboxBytes then .inside k (((s.strm k).mbx.toNat + o) % 2 ^ 64)
    else if mailboxBytes ≤ o ∧ o + n ≤ 2 ^ 23 then .other
    else .crosses k
  else if bar = 4 ∧ off < 2 ^ 36 then
    let k := off / 2 ^ 33
    let o := off % 2 ^ 33
    if o + n ≤ 2 ^ 33 then .inside k (((s.strm k).ap.toNat + o) % 2 ^ 64) else .crosses k
  else .other

/-- The payload bytes of a stream's ingress buffer, INGUSED (R58). -/
def Stream.used (x : Stream) : Nat := groupBytes x.ingress

/-- A host write is dropped: WRERR sets, WRITE_DROPPED is posted (R60, R63, R68). -/
def State.dropWrite (s : State) (stream detail : Nat) : State :=
  (s.modStrm stream (fun x => { x with wrerr := true })).postStream stream 0x0305 detail

/-- HOST_WRITE_TLP (R60, R61): n1 the BAR, n2 the offset, bytes the payload. A write is accepted whole into
staging; one for which staging has no room waits with its posted credits withheld, and every host write and read
behind it is held. Its virtual address is formed with STRMMBX or APBASE as it is accepted, which the rules leave open
(log entry 94, DESIGN CHOICE). -/
def execHostWriteTlp (s : State) : Out :=
  hostBehind s (if !s.host.linkUp then s
    else match s.hostSpot s.inp.n1 s.inp.n2 s.inp.bytes.length with
      | .other => s
      | .crosses k => s.dropWrite k 0x81
      | .inside k va =>
        if groupBytes s.host.staging + s.inp.bytes.length ≤ 2 ^ 20 then
          { s with host := { s.host with staging := s.host.staging ++ [⟨k, va, s.inp.bytes⟩] } }
        else { s with host := { s.host with blocked := some ⟨k, va, s.inp.bytes⟩ } })

/-- The write that waits for room in staging enters once it has it (R61). -/
def State.unblock (s : State) : State :=
  match s.host.blocked with
  | none => s
  | some t =>
    if groupBytes s.host.staging + t.bytes.length ≤ 2 ^ 20 then
      { s with host := { s.host with staging := s.host.staging ++ [t], blocked := none } }
    else s

/-- Takes the first write of a stream out of a list. -/
def takeFirst (stream : Nat) : List Tlp → Option (Tlp × List Tlp)
  | [] => none
  | t :: ts => if t.stream = stream then some (t, ts) else (takeFirst stream ts).map (fun r => (r.1, t :: r.2))

/-- INGRESS_STAGING_MOVE (R61): the oldest staged write of stream n1 moves once its buffer has room; FULL is
a buffer of 4 MiB. -/
def execIngressStagingMove (s : State) : Out :=
  let n := s.inp.n1
  .next (match takeFirst n s.host.staging with
    | none => s
    | some (t, rest) =>
      let used := (s.strm n).used + t.bytes.length
      if 2 ^ 22 < used then s
      else
        let s := { s with host := { s.host with staging := rest } }
        let now := s.now
        (s.modStrm n (fun x => { x with ingress := x.ingress ++ [t],
                                        fullSince := if used = 2 ^ 22 then some now else x.fullSince })).unblock)

/-- INGRESS_STALL (R61): FULL of stream n1 has lasted 10 ms. -/
def execIngressStall (s : State) : Out :=
  let n := s.inp.n1
  .next (match (s.strm n).fullSince with
    | none => s
    | some t =>
      if t + 10000 ≤ s.now then
        (s.modStrm n (fun x => { x with stallBit := true, fullSince := none })).postStream n 0x0304 0
      else s)

/-- PCIE_RESET (R61): pending host bytes are discarded, and LOST sets in each stream that loses some. A group that has
been cut has left the buffer and is still applied (log entry 95). -/
def execPcieReset (s : State) : Out :=
  let lose (s : State) (n : Nat) : State :=
    if (s.strm n).ingress.isEmpty && !s.host.staging.any (fun t => t.stream == n) then s
    else s.modStrm n (fun x => { x with ingress := [], fullSince := none, lost := true, tellLost := true })
  let s := (List.range 8).foldl lose s
  .next { s with host := { s.host with staging := [], blocked := none, linkUp := false } }

/-- PCIE_LINK_UP (R68): INGRESS_LOST is posted for each stream that lost bytes. -/
def execPcieLinkUp (s : State) : Out :=
  let tell (s : State) (n : Nat) : State :=
    if (s.strm n).tellLost then (s.modStrm n (fun x => { x with tellLost := false })).postStream n 0x0306 0 else s
  .next (if s.host.linkUp then s
    else (List.range 8).foldl tell { s with host := { s.host with linkUp := true } })

/-! ### Host reads (R60, R239) -/

/-- The last pending write of a byte among writes. -/
def pendingByte (ts : List Tlp) (va : Nat) : Option Byte :=
  ts.foldl (fun a t => if t.va ≤ va ∧ va < t.va + t.bytes.length then some (nth t.bytes (va - t.va) 0#8) else a) none

/-- Every pending write of a stream: cut groups, its buffer, staging. -/
def State.pendingWrites (s : State) (n : Nat) : List Tlp :=
  (s.host.cuts.filter (fun c => c.stream == n && !c.applied)).flatMap (·.tlps) ++ (s.strm n).ingress
    ++ s.host.staging.filter (fun t => t.stream == n)

/-- A byte as a host read returns it; none aborts. -/
def State.hostByte (s : State) (n va : Nat) : Option Byte :=
  if 13 * 2 ^ 48 ≤ va then none
  else match s.resolve (hostView n) .load va with
    | .ok (.cell pa leaf) =>
      if (s.dataFault pa leaf).isSome then none
      else some ((pendingByte (s.pendingWrites n) va).getD (Memory.get s.mem pa))
    | _ => none

/-- The lines of a host access of `n` bytes whose bank is held (R218). -/
def State.hostHeld (s : State) (acc : Acc) (stream va n : Nat) : List Nat :=
  (segments (n / 128 + 2) va n).filterMap (fun p =>
    match s.resolve (hostView stream) acc p.1 with
    | .ok (.cell pa _) => if s.rowHeld (pa / 128) then some (pa / 128) else none
    | _ => none)

/-- A request of the host is counted once on each held bank that it waits for (R218). -/
def State.noteHostHeld (s : State) (lines : List Nat) : State :=
  lines.foldl (fun s l => if s.host.heldLines.contains l then s else
    let t := s.noteHeld l
    { t with host := { t.host with heldLines := t.host.heldLines ++ [l] } }) s

/-- The host's requests wait no longer. -/
def State.hostServed (s : State) : State := { s with host := { s.host with heldLines := [] } }

/-! ### The application of a group (R63, R239) -/

/-- What stops a host write at a byte (R63, R68, R71). -/
def State.hostStoreFault (s : State) (n va : Nat) : Option Nat :=
  match s.resolve (hostView n) .store va with
  | .ok (.status _) => some 0x11
  | .ok (.cell _ _) => none
  | .error c =>
    if c = tcPermission then
      match s.leafFor [hubTlb n] n (s.liveVa n none va) with
      | some l => if bit l.val 3 && !bit l.val 5 then some 0x80 else some c
      | none => some c
    else some c

/-- The error that a host write meets where it covers part of a sector or of a vault word (R220, R221). -/
def State.hostMerge (s : State) (n : Nat) (t : Tlp) (va k : Nat) : Option Nat :=
  match s.resolve (hostView n) .store va with
  | .ok (.cell pa leaf) =>
    let lo := va / 512 * 512
    if isTier pa ∧ t.va ≤ lo ∧ lo + 512 ≤ t.va + t.bytes.length then none else s.mergeFault pa k leaf
  | _ => none

/-- The line parts of one write of a group: cells, bytes and leaf. -/
def State.tlpParts (s : State) (n : Nat) (t : Tlp) : List (Nat × List Byte × Option Nat) :=
  (segments (t.bytes.length / 128 + 2) t.va t.bytes.length).filterMap (fun p =>
    match s.resolve (hostView n) .store p.1 with
    | .ok (.cell pa leaf) => some (pa, (t.bytes.drop (p.1 - t.va)).take p.2, leaf)
    | _ => none)

/-- What drops a write of a group: a byte that faults, or an error of a sector or vault word it covers in part. -/
def State.tlpFault (s : State) (n : Nat) (t : Tlp) : Option Nat :=
  ((List.range t.bytes.length).findSome? (fun i => s.hostStoreFault n (t.va + i))).or
    ((segments (t.bytes.length / 128 + 2) t.va t.bytes.length).findSome? (fun p => s.hostMerge n t p.1 p.2))

/-- The logical time of a group: above the RTS of every line it writes (R239). -/
def State.groupTime (s : State) (n : Nat) (tlps : List Tlp) : Nat :=
  1 + ((tlps.filter (fun t => (s.tlpFault n t).isNone)).flatMap (fun t =>
    (s.tlpParts n t).map (fun p => (s.line (p.1 / 128)).rts))).foldl max 0

/-- The sectors that a write covers whole hold good data under its page's key again (R220, R221). -/
def State.freshSectors (s : State) (n : Nat) (t : Tlp) : State :=
  (s.tlpParts n t).foldl (fun s p =>
    let va := t.va + (512 - t.va % 512) % 512
    if isTier p.1 ∧ p.1 % 512 = 0 ∧ (List.range (t.bytes.length / 512 + 1)).any (fun i =>
        decide (va + 512 * i + 512 ≤ t.va + t.bytes.length) &&
          (match s.resolve (hostView n) .store (va + 512 * i) with | .ok (.cell pa _) => pa == p.1 | _ => false)) then
      s.freshSector (p.1 / 512) p.2.2
    else s) s

/-- The translations of a host write are noted in its hub's TLB (R204). -/
def State.noteTlps (s : State) (n : Nat) (t : Tlp) : State :=
  (segments (t.bytes.length / 128 + 2) t.va t.bytes.length).foldl (fun s p =>
    let at_ := s.liveVa n none p.1
    if at_ < 13 * 2 ^ 48 then s.noteTlb (hostView n) at_ else s) s

/-- Applies one write of a group at the group's time, or drops it whole. A line of which a core withholds a store takes
it no later than that store (R232, log entry 85). -/
def State.applyTlp (s : State) (n time : Nat) (t : Tlp) : State :=
  match s.tlpFault n t with
  | some d => s.dropWrite n d
  | none =>
    (s.tlpParts n t).foldl (fun s p =>
      let line := p.1 / 128
      let at_ := match s.heldBut none line with | some w => min time w | none => time
      let s := if isTier p.1 then s.fetchData line 0 else s
      s.joinOutside p.1 at_ (offsets (p.1 % 128) p.2.1) p.2.2) ((s.freshSectors n t).noteTlps n t)

/-- The lines of a group whose bank is held (R218). -/
def State.tlpsHeld (s : State) (n : Nat) (ts : List Tlp) : List Nat := ts.flatMap (fun t => s.hostHeld .store n t.va t.bytes.length)

/-- HOST_GROUP_APPLIED (R63): the oldest group of its stream, cut for the agent `who`, joins at one instant; its HWIN
bundle may then retire. An agent that no longer waits leaves the group applied all the same. A group waits for the
banks it needs (R218). -/
def execHostGroupApplied (s : State) : Out :=
  .next (match s.host.cuts.find? (fun c => c.who == s.inp.who && !c.applied) with
    | none => s
    | some c =>
      let held := s.tlpsHeld c.stream c.tlps
      if (s.host.cuts.find? (fun k => k.stream == c.stream && !k.applied)) ≠ some c then s
      else if !held.isEmpty then s.noteHostHeld held
      else
        let time := s.groupTime c.stream c.tlps
        let s := c.tlps.foldl (fun s t => s.applyTlp c.stream time t) s
        let waits := s.waitsHwin c.who && (s.host.cuts.filter (fun k => k.who == c.who)).getLast? == some c
        let cuts := if waits then s.host.cuts.map (fun (k : Cut) => if k = c then { k with applied := true, time := time } else k)
          else s.host.cuts.filter (fun k => k != c)
        ({ s with host := { s.host with cuts := cuts } }).hostServed)

/-! ### Stream registers (R58, R59) -/

/-- STRMCTL_GO (R59, R334): stream n1 starts at STRMENTRY from IDLE or FAULT, its staging record zero. -/
def execStrmctlGo (s : State) : Out :=
  let n := s.inp.n1
  let x := s.strm n
  hostAct s (if x.st = .idle ∨ x.st = .fault then
      let q := s.seq n
      (s.setSeq n { q with sc := { q.sc with pc := x.entry.extractLsb' 0 52, pend := [], just := 0 }, wait := .none,
                           woken := false, jwait := none, staging := 0#2048 }).modStrm n (fun x => { x with st := .run })
    else s)

/-- STRMCTL_HALT (R59): stream n1 stops between bundles and becomes IDLE. -/
def execStrmctlHalt (s : State) : Out :=
  let n := s.inp.n1
  let q := s.seq n
  hostAct s ((s.setSeq n { q with wait := .none, jwait := none, sc := { q.sc with pend := q.sc.pend.filter (·.arrived) } }).modStrm n
    (fun x => { x with st := .idle }))

/-- STREAM_REG_WRITE (R58): n1 the stream, n2 the register's offset in its block, v the value. -/
def execStreamRegWrite (s : State) : Out :=
  let n := s.inp.n1
  let x := s.strm n
  let v := s.inp.v
  hostAct s (if s.inp.n2 ≠ 0x08 ∧ s.inp.n2 ≠ 0x10 ∧ s.inp.n2 ≠ 0x18 then s
    else if x.st = .run ∨ x.st = .wait then s.setStrm n { x with refused := true }
    else if s.inp.n2 = 0x08 then s.setStrm n { x with entry := v }
    else if s.inp.n2 = 0x10 then (if v.toNat % 2 ^ 22 = 0 then s.setStrm n { x with mbx := v } else s)
    else if v.toNat % 2 ^ 31 = 0 then s.setStrm n { x with ap := v }
    else s)

/-! ### Notification queues (R65 to R67) -/

/-- NQBASE_WRITE (R65): n1 the vector, v the value; bits [11:0] are reserved. -/
def execNqbaseWrite (s : State) : Out :=
  let q := s.nq s.inp.n1
  hostAct s (if q.en then s else s.setNq s.inp.n1 { q with base := s.inp.v &&& ~~~0xFFF#64 })

/-- NQCTL_WRITE (R65): n1 the vector, v the value. -/
def execNqctlWrite (s : State) : Out :=
  let q := s.nq s.inp.n1
  let v := s.inp.v.toNat
  let log := fieldN v 26 4
  hostAct s (if 13 ≤ log ∨ 1000 < fieldN v 0 10 ∨ (q.en ∧ log ≠ q.logSize) then s
    else (s.setNq s.inp.n1 { q with en := bit v 31, ovf := q.ovf && !bit v 30, logSize := log, window := fieldN v 0 10 }).releaseBacklogs)

/-- NQHEAD_WRITE (R65): n1 the vector, v the count of consumed records. -/
def execNqheadWrite (s : State) : Out :=
  let q := { s.nq s.inp.n1 with head := s.inp.v.toNat % 2 ^ 32 }
  hostAct s (if q.size < q.used then s else (s.setNq s.inp.n1 q).releaseBacklogs)

/-- MSIX_WINDOW_CLOSE (R67): the window of vector n1 closes, and one message covers its records. -/
def execMsixWindowClose (s : State) : Out :=
  let m := s.msix s.inp.n1
  .next (match m.closes with
    | some t => if t ≤ s.now then (s.setMsix s.inp.n1 { m with closes := none }).message s.inp.n1 else s
    | none => s)

/-- MSIX_VECTOR_UNMASK (R67): vector n1 is unmasked, and a pending message is sent. -/
def execMsixVectorUnmask (s : State) : Out :=
  let m := s.msix s.inp.n1
  let t := s.setMsix s.inp.n1 { m with masked := false, pending := false }
  hostAct s (if m.masked && m.pending then t.message s.inp.n1 else t)

end Sys2Proof.Machine
end

