-- ==== Sys2Proof/Machine/Jig.lean ====
section
/-! DEFINITION. The micro-words of a jig (spec/15_isa_matrix_copy.md R374 to R387). One step of the matrix
sequencer takes one micro-word, or one cycle of its wait. -/

namespace Sys2Proof.Machine

open Sys2Proof.Bits

/-! ### Flow of a call -/

/-- The call's jig pointer. -/
def Call.ptr (c : Call) (p : BitVec 3) : W64 := c.jp[p.toNat]'(p.isLt)

/-- J.LOOP on counter `k` with count `n` and target `t` (R381). -/
def Call.loop (c : Call) (t : Nat) (k : BitVec 2) (n : Nat) : Call :=
  let left := match c.lc[k.toNat]'(k.isLt) with
    | none => n - 1
    | some v => v - 1
  if 0 < left then { c with lc := c.lc.set k.toNat (some left) k.isLt, idx := t }
  else { c with lc := c.lc.set k.toNat none k.isLt, idx := c.idx + 1 }

/-- The count a register gives a J.LOOP: 0 means 65,536 (R381). -/
def loopCount (v : W64) : Nat := if v.toNat % 2 ^ 16 = 0 then 65536 else v.toNat % 2 ^ 16

/-- A value has the form of a queue reference (R376). -/
def queueForm (v : W64) : Bool := match queueRef v with | some (.ok _) => true | _ => false

/-- J.ADDP (R382): a queue reference that loses its form is spoilt. -/
def Call.add (c : Call) (d : BitVec 3) (v : W64) : Call :=
  let x := c.ptr d + v
  { c with
    jp := c.jp.set d.toNat x d.isLt, idx := c.idx + 1,
    spoilt := if ((c.ptr d).getLsbD 63 || c.spoilt.contains d.toNat) && !queueForm x then addOnce c.spoilt d.toNat
              else c.spoilt.filter (· != d.toNat) }

/-- The call goes on to the next word. -/
def Call.step (c : Call) : Call := { c with idx := c.idx + 1 }

/-- The operands a call will read from the vault, as address and size, found by following its words from its issue; the
formats of the planes are followed with them (R190, R195, R237, R376). -/
def Call.readsAhead (words : List W32) : Nat → Option Nat → Option Nat → Call → List (Nat × Nat)
  | 0, _, _, _ => []
  | n + 1, cur, shadow, c =>
    let go (c : Call) : List (Nat × Nat) := Call.readsAhead words n cur shadow c
    let at_ (p : BitVec 3) (size : Nat) : List (Nat × Nat) := if c.spoilt.contains p.toNat then [] else [((c.ptr p).toNat, size)]
    match (words[c.idx]?).bind decodeJigFields with
    | some (.jLdw p f) => at_ p (tileSize f.toNat) ++ Call.readsAhead words n cur (some f.toNat) c.step
    | some .jSwapw => Call.readsAhead words n shadow cur c.step
    | some (.jSkipmap p) => at_ p (if shadow = some 11 then 32 else 16) ++ go c.step
    | some (.jStrm p f _ r _ e m) =>
      match cur with
      | none => []
      | some w =>
        let kk := planeK w
        at_ p (streamSize f.toNat kk (r.toNat + 1))
          ++ (if e = 1#1 then at_ m (ceilDiv (kk / 8 * ceilDiv (r.toNat + 1) 8) 64 * 8) else []) ++ go c.step
    | some (.jBias e p) => (if e = 1#1 then at_ p 512 else []) ++ go c.step
    | some (.jScaleVec p) => at_ p 512 ++ go c.step
    | some (.jLoop t k m) => go (c.loop t.toNat k (m.toNat + 1))
    | some (.jLoopReg t k r) => go (c.loop t.toNat k (loopCount (c.ptr r)))
    | some (.jAddp d i) => go (c.add d (i.signExtend 64))
    | some (.jAddpReg d a) => go (c.add d (c.ptr a))
    | some .jEnd => []
    | none => []
    | some _ => go c.step

/-- The formats of the planes as a call's remaining words leave them: current and shadow. -/
def Call.planesRun (words : List W32) : Nat → Option Nat → Option Nat → Call → Option Nat × Option Nat
  | 0, cur, shadow, _ => (cur, shadow)
  | n + 1, cur, shadow, c =>
    let go (c : Call) : Option Nat × Option Nat := Call.planesRun words n cur shadow c
    match (words[c.idx]?).bind decodeJigFields with
    | some (.jLdw _ f) => Call.planesRun words n cur (some f.toNat) c.step
    | some .jSwapw => Call.planesRun words n shadow cur c.step
    | some (.jLoop t k m) => go (c.loop t.toNat k (m.toNat + 1))
    | some (.jLoopReg t k r) => go (c.loop t.toNat k (loopCount (c.ptr r)))
    | some (.jAddp d i) => go (c.add d (i.signExtend 64))
    | some (.jAddpReg d a) => go (c.add d (c.ptr a))
    | some .jEnd => (cur, shadow)
    | none => (cur, shadow)
    | some _ => go c.step

/-! ### Taking a micro-word -/

/-- What a micro-word does: goes on after some cycles with the call as it then stands, waits a cycle, or
fails the call with a code. -/
inductive Micro where
  | go (s : State) (c : Call) (cycles : Nat)
  | wait
  /-- waits a cycle for a line that another core withholds a store to -/
  | stuck (line : Nat)
  | fail (code : Nat)
  /-- the call has ended within the word -/
  | over (s : State)

/-- Puts the running call back. -/
def State.setCall (s : State) (c : Call) : State :=
  s.modMy (fun k => { k with mx := { k.mx with call := some c } })

/-- A shadow load goes on beside the micro-words, and ends with its last cycle (R190, R375). -/
def Matrix.load (m : Matrix) (cycles : Nat) : Matrix :=
  if !m.loading then m
  else if m.loadLeft ≤ cycles then { m with loading := false, loaded := true, loadLeft := 0 }
  else { m with loadLeft := m.loadLeft - cycles }

/-- Cycles of the call pass. -/
def State.passCycles (s : State) (c : Call) (n : Nat) : State :=
  (s.setCall { c with cycles := c.cycles + n }).modMy (fun k => { k with mx := k.mx.load n })

/-- A word uses a pointer: one that has ceased to be a queue reference fails it (R382). -/
def Call.using_ (c : Call) (p : BitVec 3) (k : W64 → Micro) : Micro :=
  if c.spoilt.contains p.toNat then .fail ecQueue else k (c.ptr p)

/-- A micro-word of the running call; without one there is nothing to do. The call stops with DEPTH where
its cycle count would pass the jig's bound (R375). -/
def micro (s : State) (k : State → Call → Micro) : Out :=
  match s.my.mx.call with
  | none => .next s
  | some c =>
    let depth := s.my.depthOf c
    let hold (line : Option Nat) : Out :=
      .next (if depth ≤ c.cycles + 1 then s.endCall ecDepth else s.passCycles { c with stuck := line } 1)
    match k s c with
    | .go s' c' n =>
      .next (if depth < c.cycles + n then s.endCall ecDepth else s'.passCycles { c' with stuck := none } n)
    | .wait => hold none
    | .stuck line => hold (some line)
    | .fail code => .next (s.endCall code)
    | .over s' => .next s'

/-- Changes the matrix unit of the core. -/
def State.modMx (s : State) (f : Matrix → Matrix) : State := s.modMy (fun k => { k with mx := f k.mx })

/-! ### Weights (R378) -/

/-- J.LDW: waits for the swap of an earlier load. -/
def execJLdw (p : BitVec 3) (f : BitVec 4) (s : State) : Out :=
  micro s (fun s c =>
    if s.my.mx.loading || s.my.mx.loaded then .wait
    else c.using_ p (fun a => match s.callRead c a (tileSize f.toNat) 128 with
      | .error e => .fail e
      | .ok bs => .go (s.modMx (fun m => { m with shadow := some ⟨f.toNat, bs, 0⟩, loading := true,
                                                  loadLeft := s.loadCycles c a.toNat (tileSize f.toNat) })) c.step 1))

/-- J.SWAPW: waits for the shadow load; without a load since the last swap it exchanges the planes. -/
def execJSwapw (s : State) : Out :=
  micro s (fun s c =>
    if s.my.mx.loading then .wait
    else .go (s.modMx (fun m => { m with cur := m.shadow, shadow := m.cur, loaded := false })) c.step 1)

/-- J.SKIPMAP: 16 bytes, or 32 for a q4 tile (R376). -/
def execJSkipmap (p : BitVec 3) (s : State) : Out :=
  micro s (fun s c =>
    let n := match s.my.mx.shadow with
      | some w => if w.fmt = 11 then 32 else 16
      | none => 16
    c.using_ p (fun a => match s.callRead c a n 16 with
    | .error e => .fail e
    | .ok bs => .go (s.modMx (fun m => { m with shadow := m.shadow.map (fun w => { w with skip := leNat bs }) })) c.step 1))

/-! ### Accumulation (R379, R380) -/

/-- A bank of the matrix unit. -/
def Matrix.bank (m : Matrix) (k : BitVec 1) : Bank := if k = 1#1 then m.bank1 else m.bank0
/-- Replaces a bank. -/
def Matrix.setBank (m : Matrix) (k : BitVec 1) (b : Bank) : Matrix :=
  if k = 1#1 then { m with bank1 := b } else { m with bank0 := b }

/-- J.ACCZ. -/
def execJAccz (k t : BitVec 1) (s : State) : Out :=
  micro s (fun s c => .go (s.modMx (fun m => m.setBank k { int := t == 1#1 })) c.step 1)

/-- The rows of a stream one after another: the bank and the flags, or none at a check mismatch (R194,
R380). -/
def streamRows (int : Bool) (p : Plane) (el : Nat → Nat → FVal) (groups : Nat → List Nat)
    (org : Nat) (bad : Nat → Bool) (pass0 : Nat) : List Nat → Bank → Option Bank × BitVec 9
  | [], b => (some b, 0#9)
  | r :: rs, b =>
    if bad (pass0 + r) then (none, 0#9)
    else
      let out := passRow int p (el r) (groups (r / 8)) (b.row (org + r))
      let t := streamRows int p el groups org bad pass0 rs { b with rows := put b.rows (org + r) out.1 }
      (t.1, out.2 ||| t.2)

/-- J.STRM (R380): R = r + 1 rows into rows 8 × ORG up of a bank; where the call reaches its DEPTH within the word, the
row blocks before it have been streamed. Slice conflicts add the cycles that the environment gives (R188, R375, log
entry 90). -/
def execJStrm (p : BitVec 3) (f : BitVec 4) (k : BitVec 1) (r : BitVec 8) (o : BitVec 5) (e : BitVec 1)
    (m : BitVec 3) (s : State) : Out :=
  micro s (fun s c =>
    match s.my.mx.cur with
    | none => .fail ecAccType
    | some w =>
      let int := accumulatesInt w.fmt f.toNat
      if (s.my.mx.bank k).int ≠ int then .fail ecAccType
      else
        let rows := r.toNat + 1
        let kk := planeK w.fmt
        let groups := kk / 8
        let blocks := ceilDiv rows 8
        c.using_ p (fun a => (if e = 1#1 then c.using_ m else fun k => k 0#64) (fun am =>
        match s.streamRead c a (streamSize f.toNat kk rows),
              (if e = 1#1 then s.callRead c am (ceilDiv (groups * blocks) 64 * 8) 8 else .ok []) with
        | .error x, _ => .fail x
        | _, .error x => .fail x
        | .ok data, .ok map =>
          let slip := s.retireCuts.headD 0
          let s := { s with retireCuts := s.retireCuts.tail }
          let amap := leNat map
          let act := activeGroups w.skip amap groups
          let wide := fmtWidth w.fmt == 16 || fmtWidth f.toNat == 16
          let upTo := fun (n : Nat) => (List.range n).foldl (fun t b =>
            t + blockCycles (min 8 (rows - 8 * b)) (act b).length groups wide) 0
          let fit := ((List.range blocks).filter (fun b => decide (slip + upTo (b + 1) ≤ s.my.depthOf c - c.cycles))).length
          match streamRows int w (fun r i => operandElem f.toNat data (rows * kk / 2) (r * kk + i)) act
              (8 * o.toNat) (fun q => s.health.checkBad.contains (s.me, q)) c.passes
              (List.range (min rows (8 * fit))) (s.my.mx.bank k) with
          | (none, fl) => .over ((s.modMx (fun x => { x with mstat := x.mstat ||| fl })).endCall ecCheck)
          | (some b, fl) =>
            let s := s.modMx (fun x => { x.setBank k b with mstat := x.mstat ||| fl })
            if fit < blocks then .over (s.endCall ecDepth)
            else .go s { c.step with passes := c.passes + rows } (slip + upTo blocks))))

/-! ### Flow (R381, R382) -/

/-- J.LOOP with its count in the word. -/
def execJLoop (t : BitVec 8) (k : BitVec 2) (n : BitVec 16) (s : State) : Out :=
  micro s (fun s c => .go s (c.loop t.toNat k (n.toNat + 1)) 1)
/-- J.LOOP with its count in a pointer. -/
def execJLoopReg (t : BitVec 8) (k : BitVec 2) (r : BitVec 3) (s : State) : Out :=
  micro s (fun s c => .go s (c.loop t.toNat k (loopCount (c.ptr r))) 1)
/-- J.ADDP with an immediate. -/
def execJAddp (d : BitVec 3) (i : BitVec 23) (s : State) : Out :=
  micro s (fun s c => .go s (c.add d (i.signExtend 64)) 1)
/-- J.ADDP with a pointer. -/
def execJAddpReg (d a : BitVec 3) (s : State) : Out :=
  micro s (fun s c => .go s (c.add d (c.ptr a)) 1)

/-! ### Queues (R383) -/

/-- J.WAITQ: KIND 0 waits for filled slots, KIND 1 for free ones. -/
def execJWaitq (q : BitVec 4) (k : BitVec 1) (n : BitVec 10) (s : State) : Out :=
  micro s (fun s c =>
    let h := s.my.offeredQueue q
    let count := n.toNat + 1
    let mine := if k = 0#1 then h.consEngine else h.prodEngine
    if h.size = 0 ∨ !mine ∨ h.size < count then .fail ecQueue
    else if count ≤ (if k = 0#1 then h.filled else h.free) then .go s c.step 1
    else .wait)

/-- J.ADVQ: END 0 moves HEAD, END 1 moves TAIL. -/
def execJAdvq (q : BitVec 4) (e : BitVec 1) (n : BitVec 10) (s : State) : Out :=
  micro s (fun s c =>
    let h := s.my.offeredQueue q
    let count := n.toNat + 1
    let mine := if e = 0#1 then h.consEngine else h.prodEngine
    if h.size = 0 ∨ !mine ∨ h.size < count ∨ (if e = 0#1 then h.filled else h.free) < count then .fail ecQueue
    else
      .go (s.modMy (fun k => k.setQueue q (fun h =>
        if e = 0#1 then { h with head := (h.head + count) % (2 * h.size) }
        else { h with tail := (h.tail + count) % (2 * h.size) }))) c.step 1)

/-! ### Bias, scale, retirement (R384, R385) -/

/-- J.BIAS: the elements are read at each J.RETIRE. -/
def execJBias (e : BitVec 1) (p : BitVec 3) (s : State) : Out :=
  micro s (fun s c =>
    if e = 1#1 then c.using_ p (fun a => .go s { c.step with bias := some a } 1)
    else .go s { c.step with bias := none } 1)
/-- J.SCALE by a power of two. -/
def execJScale (e : BitVec 8) (s : State) : Out :=
  micro s (fun s c => .go s { c.step with scale := .pow2 e.toInt } 1)

/-- Bytes as 32-bit elements. -/
def words32 : Nat → List Byte → List W32
  | 0, _ => []
  | n + 1, bs => BitVec.ofNat 32 (leNat (bs.take 4)) :: words32 n (bs.drop 4)

/-- J.SCALE by column. -/
def execJScaleVec (p : BitVec 3) (s : State) : Out :=
  micro s (fun s c =>
    c.using_ p (fun a => match s.callRead c a 512 64 with
    | .error e => .fail e
    | .ok bs => .go s { c.step with scale := .vec (words32 128 bs) } 1))

/-- Where a retirement writes: queue-store cells, or cells of the own bay's vault whose lines the core
reserves (R376, R385). -/
inductive RetireTo where
  | queue (cells : List (Nat × Nat))
  | vault (cells : List (Nat × Nat))

/-- The destination of a retirement of `n` bytes. -/
def State.retireTo (s : State) (p : W64) (n : Nat) : Except Nat RetireTo :=
  match queueRef p with
  | some (.error e) => .error e
  | some (.ok (q, i)) =>
    let h := s.my.offeredQueue q
    if h.size = 0 ∨ !h.prodEngine ∨ h.free < i + ceilDiv n 256 then .error ecQueue
    else .ok (.queue (queueCells s.me h (h.tail + i) n))
  | none =>
    if p.toNat % 64 ≠ 0 then .error ecAlignment
    else if !s.inOwnBay p.toNat then .error ecVaultWindow
    else (s.ownCells .store (s.liveVa s.my.stream (s.my.point.map Prod.fst)) (segments (n / 128 + 2) p.toNat n)).map .vault

/-- The cells that are left of a destination after its first `n` bytes. -/
def cellsFrom : Nat → List (Nat × Nat) → List (Nat × Nat)
  | _, [] => []
  | n, (pa, k) :: rest => if k ≤ n then cellsFrom (n - k) rest else (pa + n, k - n) :: rest

/-- A retirement comes after the last publish of the buffers that it writes into (R236, R237). -/
def State.retireAfter (s : State) (p : W64) (n : Nat) : State := s.setPts (s.publishedIn s.my.stream p.toNat n)

/-- Writes retired bytes at cells; each vault line is reserved and its bytes withheld, occupying no line
of the buffer. Another core's reservation of a line makes the word wait for it. -/
def State.retireWrite (s : State) (queue : Bool) : List (Nat × Nat) → List Byte → Except Nat State
  | [], _ => .ok s
  | (pa, k) :: rest, bs =>
    if bs.isEmpty then .ok s
    else if queue then
      State.retireWrite { s with mem := Memory.setAll s.mem pa (bs.take k) } queue rest (bs.drop k)
    else match s.openWrite (pa / 128) none with
      | .ok s1 w =>
        State.retireWrite (s1.modMy (fun c => c.withhold (pa / 128) w (offsets (pa % 128) (bs.take k)) none true none 0#64))
          queue rest (bs.drop k)
      | _ => .error (pa / 128)

/-- The bytes a cycle of retirement writes (R375). -/
def State.retireRate (s : State) : RetireTo → Nat
  | .queue _ => 512
  | .vault cells => s.sliceRate cells

/-- The bias elements a retirement reads (R384). -/
def State.biasOf (s : State) (c : Call) : Except Nat (Option (List W32)) :=
  match c.bias with
  | none => .ok none
  | some a => (s.callRead c a 512 64).map (fun bs => some (words32 128 bs))

/-- J.RETIRE (R385): where the call reaches its DEPTH within the word, what is already written remains. Under SR the
elements are written in several steps, between which the core's own SR ops step the LFSR (R257, log entry 90). -/
def execJRetire (p : BitVec 3) (f : BitVec 4) (k : BitVec 1) (r : BitVec 3) (t : BitVec 2) (o : BitVec 5)
    (n : BitVec 8) (s : State) : Out :=
  micro s (fun s c =>
    let w := fmtWidth f.toNat / 8
    let count := 128 * (n.toNat + 1)
    c.using_ p (fun a =>
    match s.retireTo a (count * w) with
    | .error e => .fail e
    | .ok dst =>
      match s.biasOf c with
      | .error e => .fail e
      | .ok bias =>
        let mode := c.rmode.getD (s.roundMode r.toNat)
        let rate := s.retireRate dst
        let from_ := c.retired
        let part := if mode = 5 then min (count - from_) (max 1 (s.retireCuts.headD count)) else count - from_
        let before := ceilDiv (from_ * w) rate
        let left := (s.my.depthOf c - c.cycles + before) * rate / w - from_
        let run := retireRun f.toNat mode t.toNat (s.my.mx.bank k) bias c.scale (8 * o.toNat)
          (min part left) from_ s.arith.lfsr
        let s1 := if mode = 5 then { s with retireCuts := s.retireCuts.tail } else s
        let s1 := match dst with | .queue _ => s1 | .vault _ => s1.retireAfter a (count * w)
        let s1 := (s1.setArith { s.arith with lfsr := run.2.2 }).modMx (fun m =>
          { m with mstat := m.mstat ||| (run.2.1 &&& 0x37#6).setWidth 9 })
        match s1.retireWrite (match dst with | .queue _ => true | .vault _ => false)
            (cellsFrom (from_ * w) (match dst with | .queue cs => cs | .vault cs => cs)) run.1 with
        | .error line => .stuck line
        | .ok s2 =>
          let cycles := ceilDiv ((from_ + part) * w) rate - before
          if left < part then .over (s2.endCall ecDepth)
          else if from_ + part < count then .go s2 { c with retired := from_ + part, rmode := some mode } cycles
          else .go s2 { c.step with retired := 0, rmode := none } cycles))

/-! ### Signals and the end (R386, R387) -/

/-- J.SIG: the call's earlier retirement writes have been made. -/
def execJSig (p : BitVec 3) (n : BitVec 24) (s : State) : Out :=
  micro s (fun s c =>
    c.using_ p (fun a => match s.wordCell s.view a 32 with
    | .error e => .fail (engineCode e)
    | .ok pa =>
      if s.gaugeBusy (some s.me) pa then .stuck (pa / 128)
      else .go (s.addToGauge 1 0xFFFF pa n.toNat (s.callTime pa)) c.step 1))

/-- J.END. -/
def execJEnd (s : State) : Out :=
  match s.my.mx.call with
  | none => .next s
  | some c => .next (s.endCall (if s.my.depthOf c ≤ c.cycles then ecDepth else 0))

end Sys2Proof.Machine
end

