-- ==== Sys2Proof/Machine/Matrix.lean ====
section
/-! DEFINITION. The MX class: calls, parameters, jigs, fences of the matrix unit
(spec/15_isa_matrix_copy.md R364 to R373). -/

namespace Sys2Proof.Machine

open Sys2Proof.Bits

/-- Waits until no call is outstanding (R368 to R370). -/
def State.whenIdle (s : State) (k : State → State) : State := if s.my.calling then s.stall .call else k s

/-- The parameter set a call captures (R366). -/
def Regs.captured (r : Regs) : Vector W64 8 := if r.mpFilled then r.mpNext else r.mp

/-- The formats of the current and the shadow plane once a running call has taken its words. -/
def Call.planesAfter (words : List W32) (m : Matrix) : Option Nat × Option Nat :=
  let fmt (p : Option Plane) : Option Nat := p.map (·.fmt)
  match m.call with
  | none => (fmt m.cur, fmt m.shadow)
  | some c => Call.planesRun words 65536 (fmt m.cur) (fmt m.shadow) c

/-- A call of jig `j` as the core would issue it now (R236, R237, R366). -/
def State.callNow (s : State) (j : Nat) : Call :=
  let mp := s.regs.captured
  { jig := j, jp := mp, mp := mp, snap := s.seenBy s.me,
    live := s.liveHalves s.my.stream (s.my.point.map Prod.fst) s.my.mx.kept }

/-- The operands that a call of jig `j` will read, as address and size; a queued call finds the planes as the running
call leaves them (R190, R195, R237). -/
def State.callReads (s : State) (j : Nat) : List (Nat × Nat) :=
  let g := (find? s.my.jigs j).getD ⟨0, []⟩
  let planes := match s.my.mx.call with
    | none => Call.planesAfter [] s.my.mx
    | some b => Call.planesAfter ((find? s.my.jigs b.jig).getD ⟨0, []⟩).words s.my.mx
  Call.readsAhead g.words g.depth planes.1 planes.2 (s.callNow j)

/-- Issues a call of jig `j`: its operands are read as at this moment, those of a swap buffer after its last publish
(R195, R236, R237, R365). -/
def State.issueCall (s : State) (j : Nat) : State :=
  let c := s.callNow j
  let reads := s.callReads j
  let s := s.setPts ((reads.map (fun r => s.publishedIn s.my.stream r.1 r.2)).foldl max 0)
  s.onGot 64 (s.openLines (reads.flatMap (fun r => s.callLines c r.1 r.2)).eraseDups) (fun s _ =>
    let c := { c with snap := s.seenBy s.me, holds := (reads.flatMap (fun r => s.callHold c r.1 r.2)).eraseDups }
    let s := s.modMx (fun m => { m with kept := [] })
    if s.my.mx.call.isSome then s.modMx (fun m => { m with queued := some c })
    else (s.modMx (fun m => { m with call := some c })).startCall)

/-- MCALL (R365 to R367): its gauge may lie in a slice that is being raised (R208, R387). -/
def execMcall (g : BitVec 3) (j : BitVec 6) (s : State) : Out :=
  pointOp 0x00 g s (fun s =>
    let a := s.regs.captured.get 7
    match s.wordCell { s.view with engine := true } a 32 with
    | .error c => s.trapAt c 32 (a.toNat % 2 ^ 52)
    | .ok _ => if s.my.mx.queued.isSome then s.stall .call else s.issueCall j.toNat)

/-- MPARW (R366): the live set, or the shadow set while a call is outstanding. -/
def execMparw (g : BitVec 3) (n : BitVec 3) (a : BitVec 5) (s : State) : Out :=
  pointOp 0x01 g s (fun s =>
    s.issue [{ dest := if s.my.calling then .mpShadow n (s.xr a) else .mp n (s.xr a), togo := 1 }])

/-- MPARR (R366): the live set. -/
def execMparr (g : BitVec 3) (d : BitVec 5) (n : BitVec 3) (s : State) : Out :=
  pointOp 0x02 g s (fun s => s.putX d 2 (s.regs.mp[n.toNat]'(n.isLt)))

/-- The block of 1,056 bytes lies on sealed pages (R203, R368). -/
def State.blockSealed (s : State) (va : Nat) : Bool :=
  (segments 10 va 1056).all (fun p =>
    decide (fieldN p.1 48 4 < 13) && (match s.leafFor s.view.units s.my.stream p.1 with
      | some l => s.leafSealed l
      | none => false))

/-- A block's status and, where it is a jig of that number, the jig (R368, R372). -/
def jigOf (bs : List Byte) (j : Nat) : Nat × Option Jig :=
  let at_ (o n : Nat) : Nat := leNat ((bs.drop o).take n)
  if at_ 0 4 ≠ 0xEB1A0001 then (1, none)
  else if at_ 8 1 ≠ j then (2, none)
  else (0, some ⟨at_ 12 4, words32 (at_ 4 2) (bs.drop 32)⟩)

/-- A bay that holds no live point has its jig store reloaded with one jig block; a block that is none loads nothing
(R27, R372, log entry 106). -/
def State.reloadJigs (s : State) (pb : Nat) (block : List Byte) : State :=
  let cs := (List.range 8).map (fun i => 8 * pb + i)
  let j := leNat ((block.drop 8).take 1)
  if cs.any (fun c => (s.core c).point.isSome) then s
  else match (jigOf block j).2 with
    | some g => cs.foldl (fun s c => s.modCore c (fun k => { k with jigs := put k.jigs (j % 64) g })) s
    | none => s

/-- MLDJ (R368): faults and errors of the block are taken at its bundle; arrival 6. -/
def execMldj (g : BitVec 3) (d a : BitVec 5) (j : BitVec 6) (s : State) : Out :=
  pointOp 0x03 g s (fun s => s.whenIdle (fun s =>
    s.withEa (s.xr a) 1056 (fun s va =>
      if va % 32 ≠ 0 then s.trapAt tcAlignment 1056 va
      else if fieldN va 48 4 = 13 then s.trapAt tcPermission 1056 va
      else s.onGot 1056 (match s.resolveAll s.view .load (segments 10 va 1056) with
            | .error (c, x) => .trap c x
            | .ok ps => (s.atAccess s.view va 1056).readParts va ps) (fun s r =>
          match r.2 with
          | some (c, x) => s.trapAt c 1056 x
          | none =>
            if !s.blockSealed va then s.trap ⟨BitVec.ofNat 8 tcFetchNotSealed, 0#64⟩
            else
              let b := jigOf r.1 j.toNat
              let s := match b.2 with
                | some g => s.modMy (fun k => { k with jigs := put k.jigs j.toNat g })
                | none => s
              let (late, s) := s.lateNext
              if d = 0#5 then s
              else s.issue [{ dest := .x d (BitVec.ofNat 64 b.1), togo := 6, arrived := !late }]))))

/-- MRETIRE (R369): the code of the call that completed last. -/
def execMretire (g : BitVec 3) (d : BitVec 5) (s : State) : Out :=
  pointOp 0x04 g s (fun s => s.whenIdle (fun s => s.putX d 1 (BitVec.ofNat 64 s.my.mx.lastCode)))

/-- MFENCE (R369): releases the holds kept after CHECK. -/
def execMfence (g : BitVec 3) (s : State) : Out :=
  pointOp 0x05 g s (fun s => s.whenIdle (fun s => s.modMx (fun m => { m with kept := [] })))

/-- MROT (R370). -/
def execMrot (g : BitVec 3) (a : BitVec 5) (s : State) : Out :=
  pointOp 0x06 g s (fun s => s.whenIdle (fun s => s.modMx (fun m => { m with mrot := (s.xr a).toNat % 128 })))

/-- MSTAT (R371): returns the flags and clears those whose bit is set in xa. -/
def execMstat (g : BitVec 3) (d a : BitVec 5) (s : State) : Out :=
  pointOp 0x07 g s (fun s =>
    let f := s.my.mx.mstat
    (s.modMx (fun m => { m with mstat := m.mstat &&& ~~~((s.xr a).extractLsb' 0 9) })).putX d 2 (f.setWidth 64))

end Sys2Proof.Machine
end

