-- ==== Sys2Proof/Machine/Registers.lean ====
section
/-! DEFINITION. The registers of BAR0 and of the stream windows as the host reads and writes them, and host reads
(spec/03_host.md R54 to R60, R65, R71, R72, spec/02_links.md R49, R53, spec/06_energy.md R112 to R118, R131, R133,
spec/00_scope.md R7 to R9). -/

namespace Sys2Proof.Machine

open Sys2Proof.Bits

/-! ### Reading (R56 to R60, R65, R71, R72, R112) -/

/-- The 32-bit half at `o` of a 64-bit register at `base`. -/
def half (v base o : Nat) : Nat := if o = base then v % 2 ^ 32 else v / 2 ^ 32 % 2 ^ 32

/-- A 32-bit word of a byte string. -/
def bytesWord (bs : List Byte) (o : Nat) : Nat := leNat ((bs.drop o).take 4)

/-- RAILSET (R17). -/
def Rail.reg (r : Rail) (now : Nat) : Nat :=
  boolN r.busy * 2 ^ 31 + boolN r.err * 2 ^ 30 + r.present now * 2 ^ 16 + r.target

/-- NQCTL (R65). -/
def NotifQ.ctl (q : NotifQ) : Nat := boolN q.en * 2 ^ 31 + boolN q.ovf * 2 ^ 30 + q.logSize * 2 ^ 26 + q.window

/-- An entry of THERMTAB (R131). -/
def Therm.reg (e : Therm) : Nat := e.hyst * 2 ^ 40 + (wrap64 e.temp).toNat % 2 ^ 16 * 2 ^ 16 + e.param * 2 ^ 8 + e.action

/-- PWRCMD as it reads: GO reads 0 (R133). -/
def Power.cmd (p : Power) : Nat := p.cmdCode * 2 ^ 48 + p.cmdArg

/-- FKEYCTL (R118). -/
def Power.fkeyCtl (p : Power) : Nat := boolN p.fkeyLock * 2 ^ 30 + boolN p.fkey.isSome * 2 ^ 29

/-- A word of the energy registers (R112); FKEY and CURVEBUF are write-only. -/
def State.energyWord (s : State) (o : Nat) : Nat :=
  let p := s.pow
  if o = 0x10100 ∨ o = 0x10104 then half p.cmd 0x10100 o
  else if o = 0x10108 then p.stat
  else if o = 0x10110 then p.defBudget
  else if o = 0x10118 then p.budgetNow
  else if o = 0x1011C then p.pwrAvg
  else if o = 0x10200 then p.curveLen
  else if o = 0x10204 then p.curveStat
  else if o = 0x10208 ∨ o = 0x1020C then half (p.item 2) 0x10208 o
  else if o = 0x10210 ∨ o = 0x10214 then half (p.item 3) 0x10210 o
  else if o = 0x10320 then p.fkeyCtl
  else if 0x11000 ≤ o ∧ o < 0x11040 then half ((nth p.therm.toList ((o - 0x11000) / 8) {}).reg) (o / 8 * 8) o
  else 0

/-- A word of the link and peer blocks (R49, R53). -/
def State.fabricWord (s : State) (o : Nat) : Nat :=
  let k := o - 0x20000
  if k < 0x1800 then
    let r := k % 0x100
    if r < 0x10 then (s.link (k / 0x100)).reg r else half ((s.link (k / 0x100)).reg (r / 8 * 8)) (r / 8 * 8) r
  else if k = 0x1800 then s.fab.auditMs
  else if 0x1900 ≤ k ∧ k < 0x1B00 then
    let r := (k - 0x1900) % 0x40
    half ((s.peer ((k - 0x1900) / 0x40)).reg (r / 8 * 8)) (r / 8 * 8) r
  else 0

/-- A word of the notification, sealer and attestation registers and of the MSI-X table. -/
def State.serviceWord (s : State) (o : Nat) : Nat :=
  let q := s.nq ((o - 0x30000) / 0x20)
  let m := s.msix ((o - 0x100000) / 16)
  let l := s.host.sealer
  if 0x30000 ≤ o ∧ o < 0x30800 then
    match o % 0x20 with
    | 0 | 4 => half q.base.toNat 0 (o % 0x20)
    | 8 => q.ctl
    | 12 => q.head
    | 16 => q.tail
    | _ => 0
  else if o = 0x40000 ∨ o = 0x40004 then half l.addr.toNat 0x40000 o
  else if o = 0x40008 then l.len.toNat
  else if o = 0x4000C then l.ctx.toNat
  else if o = 0x40018 ∨ o = 0x4001C then half l.res 0x40018 o
  else if 0x40020 ≤ o ∧ o < 0x40040 then bytesWord l.hash (o - 0x40020)
  else if 0x50000 ≤ o ∧ o < 0x50020 then bytesWord (leBytes 32 s.host.att.nonce.toNat) (o - 0x50000)
  else if o = 0x50020 ∨ o = 0x50024 then half s.host.att.buf.toNat 0x50020 o
  else if 0x100000 ≤ o ∧ o < 0x100400 then
    match o % 16 with
    | 0 | 4 => half m.addr.toNat 0 (o % 16)
    | 8 => m.data.toNat
    | _ => boolN m.masked
  else if o = 0x101000 ∨ o = 0x101004 then
    ((List.range 32).map (fun i => boolN (s.msix (8 * (o - 0x101000) + i)).pending * 2 ^ i)).sum
  else 0

/-- The 32-bit word at an aligned offset of BAR0; unlisted offsets read 0 (R56). -/
def State.bar0Word (s : State) (o : Nat) : Nat :=
  if o = 0 then 0x01010640
  else if 0x20 ≤ o ∧ o < 0x40 then bytesWord idMeasBytes (o - 0x20)
  else if o = 0x1000 then s.host.boot.stat
  else if o = 0x1008 then s.host.evtVec.toNat
  else if o = 0x10000 then s.pkg.vh.reg s.now
  else if o = 0x10004 then s.pkg.vl.reg s.now
  else if o < 0x20000 then s.energyWord o
  else if o < 0x30000 then s.fabricWord o
  else s.serviceWord o

/-- The code of a stream state (R57). -/
def StreamSt.code : StreamSt → Nat
  | .idle => 0 | .run => 1 | .wait => 2 | .fault => 3

/-- STRMSTAT (R59). -/
def Stream.stat (x : Stream) : Nat :=
  x.st.code * 2 ^ 29 + boolN (decide (2 ^ 22 ≤ x.used)) * 2 ^ 28 + boolN x.stallBit * 2 ^ 27 + boolN x.wrerr * 2 ^ 26
    + boolN x.refused * 2 ^ 25 + boolN x.lost * 2 ^ 24 + x.groupSeq

/-- A word of a stream window's registers (R58). -/
def Stream.word (x : Stream) (o : Nat) : Nat :=
  match o with
  | 0x400004 => x.stat
  | 0x400008 | 0x40000C => half x.entry.toNat 0x400008 o
  | 0x400010 | 0x400014 => half x.mbx.toNat 0x400010 o
  | 0x400018 | 0x40001C => half x.ap.toNat 0x400018 o
  | 0x400020 => x.used
  | 0x400024 => x.errVec.toNat
  | 0x400028 | 0x40002C => half x.frameEntry.toNat 0x400028 o
  | _ => 0

/-- A byte of the registers of BAR0 or of the register areas of BAR2. -/
def State.registerByte (s : State) (bar o : Nat) : Byte :=
  let w := if bar = 0 then s.bar0Word (o / 4 * 4) else (s.strm (o / 2 ^ 23)).word (o % 2 ^ 23 / 4 * 4)
  BitVec.ofNat 8 (w / 2 ^ (8 * (o % 4)))

/-- HOST_READ (R56, R58, R60): n1 the BAR, n2 the offset, n3 the length; the answer stands in readOut, none for
Completer Abort. A read behind a write that staging has no room for is held (R61), and one of a held bank waits for it
(R218). -/
def execHostRead (s : State) : Out :=
  let bar := s.inp.n1
  let off := s.inp.n2
  let n := s.inp.n3
  let regs : Bool := (bar == 0 && decide (off + n ≤ 2 ^ 24)) || (bar == 2 && decide (off + n ≤ 2 ^ 26))
  let answer : Option (Option (List Byte)) := match s.hostSpot bar off n with
    | .other => if regs then some (some ((List.range n).map (fun i => s.registerByte bar (off + i)))) else none
    | .crosses _ => some none
    | .inside k va => some (allSome ((List.range n).map (fun i => s.hostByte k (va + i))))
  hostBehind s (match answer with
    | none => s
    | some a =>
      if !s.host.linkUp then s
      else match s.hostSpot bar off n with
        | .inside k va =>
          let held := if va + n ≤ 13 * 2 ^ 48 then s.hostHeld .load k va n else []
          if !held.isEmpty then s.noteHostHeld held
          else
            let s := if va + n ≤ 13 * 2 ^ 48 then (s.touchRead (hostView k) va n).hostServed else s
            { s with host := { s.host with readOut := a } }
        | _ => { s with host := { s.host with readOut := a } })

/-! ### Writing (R8, R9) -/

/-- Writes of the energy registers that have no behaviour of their own (R112, R115, R118, R133): the GO bits act by
events of their own. -/
def State.writeEnergy (s : State) (o v : Nat) (bs : List Byte) : State :=
  let p := s.pow
  let put (p : Power) : State := { s with pow := p }
  if o = 0x10100 then put { p with cmdCode := fieldN v 48 8, cmdArg := fieldN v 0 48 }
  else if o = 0x10108 then put { p with refused := p.refused && !bit v 30 }
  else if o = 0x10200 then put { p with curveLen := fieldN v 0 14 }
  else if 0x10300 ≤ o ∧ o < 0x10320 then
    let old := leBytes 32 p.fkeyBuf.toNat
    put { p with fkeyBuf := BitVec.ofNat 256 (leNat ((old.take (o - 0x10300) ++ bs ++ old.drop (o - 0x10300 + bs.length)).take 32)) }
  else if 0x14000 ≤ o ∧ o < 0x18000 then put { p with curveBuf := Memory.setAll p.curveBuf (o - 0x14000) (bs.take (0x18000 - o)) }
  else s

/-- Writes of the link blocks and of FABAUDIT (R49). -/
def State.writeFabric (s : State) (o v : Nat) : State :=
  let k := o - 0x20000
  let n := k / 0x100
  let l := s.link n
  if k < 0x1800 then
    match k % 0x100 with
    | 0x00 => if 5 ≤ fieldN v 0 3 then s else s.setLink n { l with step := fieldN v 0 3 }
    | 0x04 => s.setLink n { l with refused := l.refused && !bit v 28, evHalf := l.evHalf && !bit v 27,
                                   evReplay := l.evReplay && !bit v 26, evTrain := l.evTrain && !bit v 25 }
    | 0x08 => s.setLink n { l with thr := BitVec.ofNat 32 v }
    | 0x0C => s.setLink n { l with laneThr := BitVec.ofNat 16 v }
    | _ => s
  else if k = 0x1800 then
    let ms := fieldN v 0 10
    if 1 ≤ ms ∧ ms ≤ 1000 then { s with fab := { s.fab with auditMs := ms } } else s
  else s

/-- Writes of the sealer and attestation registers (R71, R72). -/
def State.writeService (s : State) (o v : Nat) (bs : List Byte) : State :=
  let l := s.host.sealer
  let a := s.host.att
  let seal_ (l : Sealer) : State := { s with host := { s.host with sealer := l } }
  let att (a : Attest) : State := { s with host := { s.host with att := a } }
  if o = 0x40000 then (if v % 2 ^ 19 = 0 then seal_ { l with addr := BitVec.ofNat 64 v } else s)
  else if o = 0x40008 then
    let n := v % 2 ^ 32
    if n % 32 = 0 ∧ 32 ≤ n ∧ n ≤ 2 ^ 26 then seal_ { l with len := BitVec.ofNat 32 n } else s
  else if o = 0x4000C then seal_ { l with ctx := BitVec.ofNat 32 v &&& 0x107#32 }
  else if 0x50000 ≤ o ∧ o < 0x50020 then
    let old := leBytes 32 a.nonce.toNat
    att { a with nonce := BitVec.ofNat 256 (leNat ((old.take (o - 0x50000) ++ bs ++ old.drop (o - 0x50000 + bs.length)).take 32)) }
  else if o = 0x50020 then att { a with buf := BitVec.ofNat 64 v }
  else s

/-- Writes of the MSI-X table (R54, R67); clearing a mask sends what is pending. -/
def State.writeMsix (s : State) (o v : Nat) : State :=
  let n := (o - 0x100000) / 16
  let m := s.msix n
  match o % 16 with
  | 0 => s.setMsix n { m with addr := BitVec.ofNat 64 v }
  | 8 => s.setMsix n { m with data := BitVec.ofNat 32 v }
  | 12 =>
    if bit v 0 then s.setMsix n { m with masked := true }
    else
      let s := s.setMsix n { m with masked := false, pending := false }
      if m.masked && m.pending then s.message n else s
  | _ => s

/-- Writes of BAR0 (R56). -/
def State.writeBar0 (s : State) (o v : Nat) (bs : List Byte) : State :=
  if o = 0x1008 then { s with host := { s.host with evtVec := BitVec.ofNat 6 v } }
  else if 0x10100 ≤ o ∧ o < 0x20000 then s.writeEnergy o v bs
  else if 0x20000 ≤ o ∧ o < 0x30000 then s.writeFabric o v
  else if 0x40000 ≤ o ∧ o < 0x60000 then s.writeService o v bs
  else if 0x100000 ≤ o ∧ o < 0x100400 then s.writeMsix o v
  else s

/-- Writes of the registers of a stream window (R58, R59). -/
def State.writeStream (s : State) (o v : Nat) : State :=
  let n := o / 2 ^ 23
  match o % 2 ^ 23 with
  | 0x400004 => s.modStrm n (fun x => { x with
      stallBit := x.stallBit && !bit v 27, wrerr := x.wrerr && !bit v 26,
      refused := x.refused && !bit v 25, lost := x.lost && !bit v 24 })
  | 0x400024 => s.modStrm n (fun x => { x with errVec := BitVec.ofNat 6 v })
  | 0x400028 => if v % 32 = 0 then s.modStrm n (fun x => { x with frameEntry := BitVec.ofNat 64 v }) else s
  | _ => s

/-- REGISTER_WRITE (R8, R9): n1 the BAR, n2 the register's offset, v the value; bytes for the byte buffers FKEY,
CURVEBUF and ATTNONCE. A 32-bit write to one half of a 64-bit register is left open by the rules: the model lets a write
at the register's own offset set all 64 bits and ignores one at its upper half (log entry 96, DESIGN CHOICE). -/
def execRegisterWrite (s : State) : Out :=
  hostAct s (match s.inp.n1 with
    | 0 => s.writeBar0 s.inp.n2 s.inp.v.toNat s.inp.bytes
    | 2 => if s.inp.n2 < 2 ^ 26 then s.writeStream s.inp.n2 s.inp.v.toNat else s
    | _ => s)

end Sys2Proof.Machine
end

