-- ==== Sys2Proof/Machine/ScalarFp.lean ====
section
/-! DEFINITION. Scalar floating point (spec/13_isa_scalar.md R306 to R308). -/

namespace Sys2Proof.Machine

open Sys2Proof.Bits

/-- The bits of an operand in the op's format: higher bits are ignored (R306). -/
def fpArg (f : Nat) (v : W64) : Nat := v.toNat % 2 ^ fmtWidth f

/-- An op that rounds once and takes RND, SAT and FMT; latency 4. It steps the LFSR once under SR
(R257). -/
def fpRound (f : Nat → RoundCtl → Nat → Nat → Nat → Nat × BitVec 6) (g : BitVec 3) (d a b : BitVec 5)
    (s : State) : Out :=
  anyOp g s (fun s =>
    let fm := s.fpFmt
    let mode := s.modRnd
    let r := f fm (s.roundCtl mode s.modSat) (fpArg fm (s.xr a)) (fpArg fm (s.xr b)) (fpArg fm (s.xr d))
    (s.stepLfsr mode 1).putX d 4 (BitVec.ofNat 64 r.1) r.2)

/-- FADD (R306). -/
def execFadd (g : BitVec 3) (d a b : BitVec 5) (s : State) : Out :=
  fpRound (fun f c x y _ => fAdd f c x y) g d a b s
/-- FSUB (R306). -/
def execFsub (g : BitVec 3) (d a b : BitVec 5) (s : State) : Out :=
  fpRound (fun f c x y _ => fSub f c x y) g d a b s
/-- FMUL (R306). -/
def execFmul (g : BitVec 3) (d a b : BitVec 5) (s : State) : Out :=
  fpRound (fun f c x y _ => fMul f c x y) g d a b s
/-- FFMA (R306): xd is read at bundle start. -/
def execFfma (g : BitVec 3) (d a b : BitVec 5) (s : State) : Out :=
  fpRound (fun f c x y z => fFma f c false z x y) g d a b s

/-- FMIN and FMAX (R262, R306). -/
def fpMinMax (isMax : Bool) (g : BitVec 3) (d a b : BitVec 5) (s : State) : Out :=
  anyOp g s (fun s =>
    let fm := s.fpFmt
    let r := fMinMax fm isMax (fpArg fm (s.xr a)) (fpArg fm (s.xr b))
    s.putX d 4 (BitVec.ofNat 64 r.1) r.2)
/-- FMIN (R306). -/
def execFmin (g : BitVec 3) (d a b : BitVec 5) (s : State) : Out := fpMinMax false g d a b s
/-- FMAX (R306). -/
def execFmax (g : BitVec 3) (d a b : BitVec 5) (s : State) : Out := fpMinMax true g d a b s

/-- The floating-point compares (R262, R304, R306). -/
def fpCompare (rel : Rel) (g : BitVec 3) (p : BitVec 2) (a b : BitVec 5) (s : State) : Out :=
  anyOp g s (fun s =>
    let fm := s.fpFmt
    let r := compareElem fm rel (fpArg fm (s.xr a)) (fpArg fm (s.xr b))
    s.putPair p 4 r.1 r.2)
/-- FCMPEQ (R306). -/
def execFcmpeq (g : BitVec 3) (p : BitVec 2) (a b : BitVec 5) (s : State) : Out := fpCompare .eq g p a b s
/-- FCMPLT (R306). -/
def execFcmplt (g : BitVec 3) (p : BitVec 2) (a b : BitVec 5) (s : State) : Out := fpCompare .lt g p a b s
/-- FCMPLE (R306). -/
def execFcmple (g : BitVec 3) (p : BitVec 2) (a b : BitVec 5) (s : State) : Out := fpCompare .le g p a b s

/-- FCLASS (R307). -/
def execFclass (g : BitVec 3) (d a : BitVec 5) (s : State) : Out :=
  anyOp g s (fun s => s.putX d 4 (BitVec.ofNat 64 (classMask s.fpFmt (fpArg s.fpFmt (s.xr a)))))

/-- A converted element as a 64-bit register: sign-extended for signed integers, else zero-extended
(R308). -/
def convToX (df bits : Nat) : W64 :=
  if isSigned df then wrap64 (sextN bits (fmtWidth df)) else BitVec.ofNat 64 bits

/-- FCVT (R308). -/
def execFcvt (g : BitVec 3) (d a : BitVec 5) (sf df : BitVec 4) (r : BitVec 3) (t : BitVec 2) (s : State) :
    Out :=
  anyOp g s (fun s =>
    let mode := s.roundMode r.toNat
    let v := convert sf.toNat df.toNat (s.roundCtl mode t.toNat) (fpArg sf.toNat (s.xr a))
    (s.stepLfsr mode 1).putX d 4 (convToX df.toNat v.1) v.2)

end Sys2Proof.Machine
end

