-- ==== Sys2Proof/Machine/ScalarInt.lean ====
section
/-! DEFINITION. Integer arithmetic, logic, moves, compares and predicates of class SA
(spec/13_isa_scalar.md R300 to R305, spec/11_formats.md R252, R253). -/

namespace Sys2Proof.Machine

open Sys2Proof.Bits

/-- A register-register op of R300: xd := f xa xb at a latency. -/
def regReg (lat : Nat) (f : W64 → W64 → W64) (g : BitVec 3) (d a b : BitVec 5) (s : State) : Out :=
  anyOp g s (fun s => s.putX d lat (f (s.xr a) (s.xr b)))

/-- A value as the exact operand of an op that takes SAT: unsigned under 10, signed else (R300). -/
def satArg (sat : Nat) (v : W64) : Int := if sat = 2 then (v.toNat : Int) else v.toInt

/-- A register-register op that takes SAT: the exact result `f`, fitted (R300). -/
def regRegSat (lat : Nat) (f : Int → Int → Int) (g : BitVec 3) (d a b : BitVec 5) (s : State) : Out :=
  anyOp g s (fun s =>
    let r := fit64 s.modSat (f (satArg s.modSat (s.xr a)) (satArg s.modSat (s.xr b)))
    s.putX d lat r.1 r.2)

/-- An immediate op of R301: xd := f xa imm, latency 1. -/
def regImm (f : W64 → Int → W64) (g : BitVec 3) (d a : BitVec 5) (i : BitVec 7) (s : State) : Out :=
  anyOp g s (fun s => s.putX d 1 (f (s.xr a) (s.immediate i.toNat 7)))

/-- A compare of two registers (R304). -/
def cmpReg (f : W64 → W64 → Bool) (g : BitVec 3) (p : BitVec 2) (a b : BitVec 5) (s : State) : Out :=
  anyOp g s (fun s => s.putPair p 1 (f (s.xr a) (s.xr b)))

/-- A compare with an immediate (R304). -/
def cmpImm (f : Int → Int → Bool) (g : BitVec 3) (p : BitVec 2) (a : BitVec 5) (i : BitVec 7) (s : State) :
    Out :=
  anyOp g s (fun s => s.putPair p 1 (f (s.xr a).toInt (wrap64 (s.immediate i.toNat 7)).toInt))

/-- A predicate op (R305). -/
def predOp (f : Bool → Bool → Bool) (g d a b : BitVec 3) (s : State) : Out :=
  anyOp g s (fun s => s.putP d 1 (f (s.pr a) (s.pr b)))

/-- Signed quotient (R253). -/
def divS (a b : W64) : W64 := if b = 0#64 then BitVec.allOnes 64 else BitVec.ofInt 64 (a.toInt.tdiv b.toInt)
/-- Unsigned quotient (R253). -/
def divU (a b : W64) : W64 := if b = 0#64 then BitVec.allOnes 64 else BitVec.ofNat 64 (a.toNat / b.toNat)
/-- Signed remainder (R253). -/
def remS (a b : W64) : W64 := if b = 0#64 then a else BitVec.ofInt 64 (a.toInt.tmod b.toInt)
/-- Unsigned remainder (R253). -/
def remU (a b : W64) : W64 := if b = 0#64 then a else BitVec.ofNat 64 (a.toNat % b.toNat)
/-- Bits [127:64] of the signed product (R300). -/
def mulHigh (a b : W64) : W64 := BitVec.ofInt 64 (a.toInt * b.toInt / 2 ^ 64)
/-- Bits [127:64] of the unsigned product (R300). -/
def mulHighN (a b : W64) : W64 := BitVec.ofNat 64 (a.toNat * b.toNat / 2 ^ 64)
/-- A shift amount: the low 6 bits (R253). -/
def shAmt (v : W64) : Nat := v.toNat % 64
/-- The low 6 bits of an immediate shift amount (R301). -/
def shImm (i : Int) : Nat := wrapN i 6
/-- The count of leading zero bits (R302). -/
def clz64 (v : W64) : Nat := if v = 0#64 then 64 else 63 - Bits.log2 v.toNat

/-- NOP has no effect, whatever its guard (R300). -/
def execNop (_g : BitVec 3) (s : State) : Out := .next s
/-- ADD (R300). -/
def execAdd (g : BitVec 3) (d a b : BitVec 5) (s : State) : Out := regRegSat 1 (· + ·) g d a b s
/-- SUB (R300). -/
def execSub (g : BitVec 3) (d a b : BitVec 5) (s : State) : Out := regRegSat 1 (· - ·) g d a b s
/-- ADDI (R301): under SAT 10 the immediate stays signed. -/
def execAddi (g : BitVec 3) (d a : BitVec 5) (i : BitVec 7) (s : State) : Out :=
  anyOp g s (fun s =>
    let r := fit64 s.modSat (satArg s.modSat (s.xr a) + s.immediate i.toNat 7)
    s.putX d 1 r.1 r.2)
/-- MUL (R300). -/
def execMul (g : BitVec 3) (d a b : BitVec 5) (s : State) : Out := regRegSat 3 (· * ·) g d a b s
/-- MULH (R300). -/
def execMulh (g : BitVec 3) (d a b : BitVec 5) (s : State) : Out := regReg 3 mulHigh g d a b s
/-- MULHN (R300). -/
def execMulhn (g : BitVec 3) (d a b : BitVec 5) (s : State) : Out := regReg 3 mulHighN g d a b s
/-- MADD (R300): xd is also read at bundle start. -/
def execMadd (g : BitVec 3) (d a b : BitVec 5) (s : State) : Out :=
  anyOp g s (fun s =>
    let m := s.modSat
    let r := fit64 m (satArg m (s.xr d) + satArg m (s.xr a) * satArg m (s.xr b))
    s.putX d 3 r.1 r.2)
/-- DIV (R253, R300). -/
def execDiv (g : BitVec 3) (d a b : BitVec 5) (s : State) : Out := regReg 20 divS g d a b s
/-- DIVN (R253, R300). -/
def execDivn (g : BitVec 3) (d a b : BitVec 5) (s : State) : Out := regReg 20 divU g d a b s
/-- REM (R253, R300). -/
def execRem (g : BitVec 3) (d a b : BitVec 5) (s : State) : Out := regReg 20 remS g d a b s
/-- REMN (R253, R300). -/
def execRemn (g : BitVec 3) (d a b : BitVec 5) (s : State) : Out := regReg 20 remU g d a b s
/-- AND (R300). -/
def execAndR (g : BitVec 3) (d a b : BitVec 5) (s : State) : Out := regReg 1 (· &&& ·) g d a b s
/-- OR (R300). -/
def execOrR (g : BitVec 3) (d a b : BitVec 5) (s : State) : Out := regReg 1 (· ||| ·) g d a b s
/-- XOR (R300). -/
def execXorR (g : BitVec 3) (d a b : BitVec 5) (s : State) : Out := regReg 1 (· ^^^ ·) g d a b s
/-- ANDI (R301). -/
def execAndi (g : BitVec 3) (d a : BitVec 5) (i : BitVec 7) (s : State) : Out :=
  regImm (fun x i => x &&& wrap64 i) g d a i s
/-- ORI (R301). -/
def execOri (g : BitVec 3) (d a : BitVec 5) (i : BitVec 7) (s : State) : Out :=
  regImm (fun x i => x ||| wrap64 i) g d a i s
/-- XORI (R301). -/
def execXori (g : BitVec 3) (d a : BitVec 5) (i : BitVec 7) (s : State) : Out :=
  regImm (fun x i => x ^^^ wrap64 i) g d a i s
/-- SHL (R253, R300). -/
def execShl (g : BitVec 3) (d a b : BitVec 5) (s : State) : Out :=
  regReg 1 (fun x y => x <<< shAmt y) g d a b s
/-- SHR (R253, R300). -/
def execShr (g : BitVec 3) (d a b : BitVec 5) (s : State) : Out :=
  regReg 1 (fun x y => x >>> shAmt y) g d a b s
/-- SHA (R253, R300). -/
def execSha (g : BitVec 3) (d a b : BitVec 5) (s : State) : Out :=
  regReg 1 (fun x y => x.sshiftRight (shAmt y)) g d a b s
/-- SHLI (R301). -/
def execShli (g : BitVec 3) (d a : BitVec 5) (i : BitVec 7) (s : State) : Out :=
  regImm (fun x i => x <<< shImm i) g d a i s
/-- SHRI (R301). -/
def execShri (g : BitVec 3) (d a : BitVec 5) (i : BitVec 7) (s : State) : Out :=
  regImm (fun x i => x >>> shImm i) g d a i s
/-- SHAI (R301). -/
def execShai (g : BitVec 3) (d a : BitVec 5) (i : BitVec 7) (s : State) : Out :=
  regImm (fun x i => x.sshiftRight (shImm i)) g d a i s
/-- MIN (R300). -/
def execMinS (g : BitVec 3) (d a b : BitVec 5) (s : State) : Out :=
  regReg 1 (fun x y => if y.slt x then y else x) g d a b s
/-- MAX (R300). -/
def execMaxS (g : BitVec 3) (d a b : BitVec 5) (s : State) : Out :=
  regReg 1 (fun x y => if x.slt y then y else x) g d a b s
/-- MINN (R300). -/
def execMinn (g : BitVec 3) (d a b : BitVec 5) (s : State) : Out :=
  regReg 1 (fun x y => if y.ult x then y else x) g d a b s
/-- MAXN (R300). -/
def execMaxn (g : BitVec 3) (d a b : BitVec 5) (s : State) : Out :=
  regReg 1 (fun x y => if x.ult y then y else x) g d a b s
/-- CLZ (R302). -/
def execClz (g : BitVec 3) (d a : BitVec 5) (s : State) : Out :=
  anyOp g s (fun s => s.putX d 1 (BitVec.ofNat 64 (clz64 (s.xr a))))
/-- POPC (R302). -/
def execPopc (g : BitVec 3) (d a : BitVec 5) (s : State) : Out :=
  anyOp g s (fun s => s.putX d 1 (BitVec.ofNat 64 (popCount 64 (s.xr a).toNat)))
/-- MOV (R302). -/
def execMov (g : BitVec 3) (d a : BitVec 5) (s : State) : Out :=
  anyOp g s (fun s => s.putX d 1 (s.xr a))
/-- MOVI (R302). -/
def execMovi (g : BitVec 3) (d : BitVec 5) (i : BitVec 12) (s : State) : Out :=
  anyOp g s (fun s => s.putX d 1 (wrap64 (s.immediate i.toNat 12)))
/-- MOVL (R276, R302): 41 bits of head and tail, 67 with an IMM, to the low 64. -/
def execMovl (g : BitVec 3) (d : BitVec 5) (hi : BitVec 12) (lo : BitVec 29) (s : State) : Out :=
  anyOp g s (fun s => s.putX d 1 (wrap64 (s.immediate (hi ++ lo).toNat 41)))

/-- Field position and length of BEXT and BINS (R303). -/
def bextPos (b : W64) : Nat := b.toNat % 64
/-- The length; 0 means 64 (R303). -/
def bextLen (b : W64) : Nat := let l := fieldN b.toNat 8 6; if l = 0 then 64 else l
/-- BEXT (R303). -/
def execBext (g : BitVec 3) (d a b : BitVec 5) (s : State) : Out :=
  regReg 1 (fun x y => BitVec.ofNat 64 (x.toNat / 2 ^ bextPos y % 2 ^ bextLen y)) g d a b s
/-- BINS (R303): xd is also read at bundle start. -/
def execBins (g : BitVec 3) (d a b : BitVec 5) (s : State) : Out :=
  anyOp g s (fun s =>
    let y := s.xr b
    let m : W64 := BitVec.ofNat 64 ((2 ^ bextLen y - 1) * 2 ^ bextPos y)
    s.putX d 1 ((s.xr d &&& ~~~m) ||| ((s.xr a <<< bextPos y) &&& m)))

/-- CMPEQ (R304). -/
def execCmpeq (g : BitVec 3) (p : BitVec 2) (a b : BitVec 5) (s : State) : Out :=
  cmpReg (fun x y => x == y) g p a b s
/-- CMPNE (R304). -/
def execCmpne (g : BitVec 3) (p : BitVec 2) (a b : BitVec 5) (s : State) : Out :=
  cmpReg (fun x y => x != y) g p a b s
/-- CMPLT (R304). -/
def execCmplt (g : BitVec 3) (p : BitVec 2) (a b : BitVec 5) (s : State) : Out :=
  cmpReg (fun x y => x.slt y) g p a b s
/-- CMPLE (R304). -/
def execCmple (g : BitVec 3) (p : BitVec 2) (a b : BitVec 5) (s : State) : Out :=
  cmpReg (fun x y => x.sle y) g p a b s
/-- CMPLTN (R304). -/
def execCmpltn (g : BitVec 3) (p : BitVec 2) (a b : BitVec 5) (s : State) : Out :=
  cmpReg (fun x y => x.ult y) g p a b s
/-- CMPLEN (R304). -/
def execCmplen (g : BitVec 3) (p : BitVec 2) (a b : BitVec 5) (s : State) : Out :=
  cmpReg (fun x y => x.ule y) g p a b s
/-- CMPEQI (R304). -/
def execCmpeqi (g : BitVec 3) (p : BitVec 2) (a : BitVec 5) (i : BitVec 7) (s : State) : Out :=
  cmpImm (fun x y => x == y) g p a i s
/-- CMPLTI (R304). -/
def execCmplti (g : BitVec 3) (p : BitVec 2) (a : BitVec 5) (i : BitVec 7) (s : State) : Out :=
  cmpImm (fun x y => decide (x < y)) g p a i s
/-- CMPGTI (R304). -/
def execCmpgti (g : BitVec 3) (p : BitVec 2) (a : BitVec 5) (i : BitVec 7) (s : State) : Out :=
  cmpImm (fun x y => decide (y < x)) g p a i s

/-- PAND (R305). -/
def execPand (g d a b : BitVec 3) (s : State) : Out := predOp (· && ·) g d a b s
/-- POR (R305). -/
def execPor (g d a b : BitVec 3) (s : State) : Out := predOp (· || ·) g d a b s
/-- PXOR (R305). -/
def execPxor (g d a b : BitVec 3) (s : State) : Out := predOp (· ^^ ·) g d a b s
/-- PANDN (R305). -/
def execPandn (g d a b : BitVec 3) (s : State) : Out := predOp (fun x y => x && !y) g d a b s
/-- PMOVX (R305). -/
def execPmovx (g : BitVec 3) (d : BitVec 5) (s : State) : Out :=
  anyOp g s (fun s => s.putX d 1 (BitVec.ofNat 64 s.scalar.pbits))
/-- XMOVP (R305): six results, p2 to p7. -/
def execXmovp (g : BitVec 3) (a : BitVec 5) (s : State) : Out :=
  anyOp g s (fun s =>
    let v := s.xr a
    [2#3, 3#3, 4#3, 5#3, 6#3, 7#3].foldl (fun s j => s.putP j 1 (v.getLsbD j.toNat)) s)

end Sys2Proof.Machine
end

