-- ==== Sys2Proof/Machine/VectorArith.lean ====
section
/-! DEFINITION. Vector ops that compute lane by lane, compares, transcendentals, dot products, reductions
and scans (spec/14_isa_vector.md R339 to R349, spec/11_formats.md R257, R267). -/

namespace Sys2Proof.Machine

open Sys2Proof.Bits

/-! ### Formats and lanes -/

/-- The formats of class A (R339). -/
def classA (f : Nat) : Bool := f ≤ 8
/-- The formats of class I. -/
def classI (f : Nat) : Bool := f ≤ 5
/-- The formats of class F. -/
def classF (f : Nat) : Bool := 6 ≤ f && f ≤ 8
/-- The formats of VDOT4 (R348). -/
def classD (f : Nat) : Bool := f == 0 || f == 1 || f == 9 || f == 10
/-- The formats of the vector atomics (R358). -/
def classM (f : Nat) : Bool := f == 4 || f == 5 || f == 6

/-- An op that issues in point mode with a format of its class: a format from VTYPE that the op does not
accept writes no register and makes no access, and sets NV where the result would land (R339). -/
def vecOp (op lat : Nat) (accepts : Nat → Bool) (g : BitVec 3) (s : State) (k : Nat → State → State) : Out :=
  pointOp op g s (fun s => if accepts s.vecFmt then k s.vecFmt s else s.flagsAt lat flNV)

/-- The results of active lanes in ascending order, each with the LFSR as the lane finds it, which steps
once a lane under SR (R257, R341). -/
def laneRun (act mode : Nat) (k : Nat → Nat → Nat × BitVec 6) : List Nat → W32 → List Nat × BitVec 6 × W32
  | [], l => ([], 0#6, l)
  | i :: is, l =>
    if bit act i then
      let r := k i (l.toNat % 2 ^ 16)
      let rest := laneRun act mode k is (if mode = 5 then lfsrStep l else l)
      (r.1 :: rest.1, r.2 ||| rest.2.1, rest.2.2)
    else
      let rest := laneRun act mode k is l
      (0 :: rest.1, rest.2.1, rest.2.2)

/-- Writes the active lanes of vd, each computed from its index and the LFSR's low half (R342, R343). -/
def State.perLane (s : State) (d : BitVec 5) (lat act mode : Nat) (k : Nat → Nat → Nat × BitVec 6) : State :=
  let r := laneRun act mode k (List.range 64) s.arith.lfsr
  (s.setArith { s.arith with lfsr := r.2.2 }).putV d lat (BitVec.ofNat 2048 (ofLanes r.1), laneMask act) r.2.1

/-- Active lanes of raw bits, no flag (class R of R339). -/
def State.rawLanes (s : State) (d : BitVec 5) (act : Nat) (k : Nat → Nat) : State :=
  s.putV d 2 (lanesOf act k)

/-- An integer lane result, wrapped or clamped to the format (R343). -/
def intLane (f sat : Nat) (v : Int) : Nat × BitVec 6 :=
  let r := fitInt f sat v
  (laneForm f r.1, flagIf r.2 flSAT)

/-- The rounding mode of a lane op: integer lane arithmetic ignores rounding (R341). -/
def State.laneMode (s : State) (f : Nat) : Nat := if isFloat f then s.modRnd else 0

/-! ### Lane arithmetic (R343) -/

/-- A lane op of class A given by its integer and its float results of d, a and b. -/
def arithOp (op lat : Nat) (fi : Int → Int → Int → Int)
    (ff : Nat → RoundCtl → Nat → Nat → Nat → Nat × BitVec 6) (scalarB : Bool)
    (g : BitVec 3) (d a b : BitVec 5) (k : BitVec 2) (s : State) : Out :=
  vecOp op lat classA g s (fun f s =>
    let va := s.vr a
    let vd := s.vr d
    let vb := s.vr b
    let xb := (s.xr b).toNat % 2 ^ fmtWidth f
    let mode := s.laneMode f
    let sat := s.modSat
    s.perLane d lat (s.active k) mode (fun i sr =>
      let x := elem f va i
      let y := if scalarB then xb else elem f vb i
      let z := elem f vd i
      if isFloat f then ff f ⟨mode, sat, sr⟩ z x y
      else intLane f sat (fi (intOf f z) (intOf f x) (intOf f y))))

/-- VADD (R343). -/
def execVadd (g : BitVec 3) (d a b : BitVec 5) (k : BitVec 2) (s : State) : Out :=
  arithOp 0x00 2 (fun _ x y => x + y) (fun f c _ x y => fAdd f c x y) false g d a b k s
/-- VSUB (R343). -/
def execVsub (g : BitVec 3) (d a b : BitVec 5) (k : BitVec 2) (s : State) : Out :=
  arithOp 0x01 2 (fun _ x y => x - y) (fun f c _ x y => fSub f c x y) false g d a b k s
/-- VMUL (R343). -/
def execVmul (g : BitVec 3) (d a b : BitVec 5) (k : BitVec 2) (s : State) : Out :=
  arithOp 0x02 4 (fun _ x y => x * y) (fun f c _ x y => fMul f c x y) false g d a b k s
/-- VFMA (R343). -/
def execVfma (g : BitVec 3) (d a b : BitVec 5) (k : BitVec 2) (s : State) : Out :=
  arithOp 0x03 4 (fun z x y => z + x * y) (fun f c z x y => fFma f c false z x y) false g d a b k s
/-- VFMS (R343). -/
def execVfms (g : BitVec 3) (d a b : BitVec 5) (k : BitVec 2) (s : State) : Out :=
  arithOp 0x04 4 (fun z x y => z - x * y) (fun f c z x y => fFma f c true z x y) false g d a b k s
/-- VADDX (R343). -/
def execVaddx (g : BitVec 3) (d a b : BitVec 5) (k : BitVec 2) (s : State) : Out :=
  arithOp 0x0F 2 (fun _ x y => x + y) (fun f c _ x y => fAdd f c x y) true g d a b k s
/-- VMULX (R343). -/
def execVmulx (g : BitVec 3) (d a b : BitVec 5) (k : BitVec 2) (s : State) : Out :=
  arithOp 0x10 4 (fun _ x y => x * y) (fun f c _ x y => fMul f c x y) true g d a b k s
/-- VFMAX (R343): d + a × s. -/
def execVfmax (g : BitVec 3) (d a b : BitVec 5) (k : BitVec 2) (s : State) : Out :=
  arithOp 0x11 4 (fun z x y => z + x * y) (fun f c z x y => fFma f c false z x y) true g d a b k s

/-- Minimum or maximum of two elements of class A (R262, R343). -/
def elemMinMax (f : Nat) (isMax : Bool) (x y : Nat) : Nat × BitVec 6 :=
  if isFloat f then fMinMax f isMax x y
  else
    let less := decide (intOf f x < intOf f y)
    (if less == isMax then y else x, 0#6)

/-- VMIN and VMAX: no rounding, no saturation. -/
def minMaxOp (op : Nat) (isMax : Bool) (g : BitVec 3) (d a b : BitVec 5) (k : BitVec 2) (s : State) : Out :=
  vecOp op 2 classA g s (fun f s =>
    let va := s.vr a
    let vb := s.vr b
    s.perLane d 2 (s.active k) 0 (fun i _ =>
      let r := elemMinMax f isMax (elem f va i) (elem f vb i)
      (laneForm f r.1, r.2)))
/-- VMIN (R343). -/
def execVmin (g : BitVec 3) (d a b : BitVec 5) (k : BitVec 2) (s : State) : Out :=
  minMaxOp 0x05 false g d a b k s
/-- VMAX (R343). -/
def execVmax (g : BitVec 3) (d a b : BitVec 5) (k : BitVec 2) (s : State) : Out :=
  minMaxOp 0x06 true g d a b k s

/-- VABS and VNEG: the sign bit alone on floats, no rounding (R261, R343). -/
def signOp (op : Nat) (fi : Int → Int) (ff : Nat → Nat → Nat) (g : BitVec 3) (d a : BitVec 5)
    (k : BitVec 2) (s : State) : Out :=
  vecOp op 2 classA g s (fun f s =>
    let va := s.vr a
    let sat := s.modSat
    s.perLane d 2 (s.active k) 0 (fun i _ =>
      let x := elem f va i
      if isFloat f then (ff (2 ^ (fmtWidth f - 1)) x, 0#6) else intLane f sat (fi (intOf f x))))
/-- VABS (R343). -/
def execVabs (g : BitVec 3) (d a : BitVec 5) (k : BitVec 2) (s : State) : Out :=
  signOp 0x07 (fun x => (x.natAbs : Int)) (fun top x => x % top) g d a k s
/-- VNEG (R343). -/
def execVneg (g : BitVec 3) (d a : BitVec 5) (k : BitVec 2) (s : State) : Out :=
  signOp 0x08 (fun x => -x) (fun top x => (x + top) % (2 * top)) g d a k s

/-- The bitwise ops: all 32 bits of the lane (R343). -/
def bitOp (op : Nat) (h : Nat → Nat → Nat) (g : BitVec 3) (d a b : BitVec 5) (k : BitVec 2) (s : State) : Out :=
  pointOp op g s (fun s =>
    let va := s.vr a
    let vb := s.vr b
    s.rawLanes d (s.active k) (fun i => h (lane va i) (lane vb i)))
/-- VAND (R343). -/
def execVand (g : BitVec 3) (d a b : BitVec 5) (k : BitVec 2) (s : State) : Out :=
  bitOp 0x09 (· &&& ·) g d a b k s
/-- VOR (R343). -/
def execVor (g : BitVec 3) (d a b : BitVec 5) (k : BitVec 2) (s : State) : Out :=
  bitOp 0x0A (· ||| ·) g d a b k s
/-- VXOR (R343). -/
def execVxor (g : BitVec 3) (d a b : BitVec 5) (k : BitVec 2) (s : State) : Out :=
  bitOp 0x0B (· ^^^ ·) g d a b k s

/-- The shifts: by b modulo the width (R253, R343). -/
def shiftOp (op : Nat) (h : Nat → Nat → Nat → Nat) (g : BitVec 3) (d a b : BitVec 5) (k : BitVec 2)
    (s : State) : Out :=
  vecOp op 2 classI g s (fun f s =>
    let va := s.vr a
    let vb := s.vr b
    s.perLane d 2 (s.active k) 0 (fun i _ =>
      (laneForm f (h (fmtWidth f) (elem f va i) (elem f vb i % fmtWidth f)), 0#6)))
/-- VSHL (R343). -/
def execVshl (g : BitVec 3) (d a b : BitVec 5) (k : BitVec 2) (s : State) : Out :=
  shiftOp 0x0C (fun w x n => x * 2 ^ n % 2 ^ w) g d a b k s
/-- VSHR (R343). -/
def execVshr (g : BitVec 3) (d a b : BitVec 5) (k : BitVec 2) (s : State) : Out :=
  shiftOp 0x0D (fun _ x n => x / 2 ^ n) g d a b k s
/-- VSHA (R343): fills from the sign bit, for n formats too (R253). -/
def execVsha (g : BitVec 3) (d a b : BitVec 5) (k : BitVec 2) (s : State) : Out :=
  shiftOp 0x0E (fun w x n => wrapN (sextN x w / (2 ^ n : Nat)) w) g d a b k s

/-- VMULH (R343): bits [2w - 1:w] of the exact product. -/
def execVmulh (g : BitVec 3) (d a b : BitVec 5) (k : BitVec 2) (s : State) : Out :=
  vecOp 0x25 4 classI g s (fun f s =>
    let va := s.vr a
    let vb := s.vr b
    let w := fmtWidth f
    s.perLane d 4 (s.active k) 0 (fun i _ =>
      (laneForm f (wrapN (intOf f (elem f va i) * intOf f (elem f vb i) / (2 ^ w : Nat)) w), 0#6)))

/-- VSEL (R344): every lane below VTYPE.LANES is written. -/
def execVsel (g : BitVec 3) (d a b : BitVec 5) (k : BitVec 2) (s : State) : Out :=
  pointOp 0x16 g s (fun s =>
    let va := s.vr a
    let vb := s.vr b
    let m := (s.mask k).toNat
    s.rawLanes d s.allLanes (fun i => if bit m i then lane va i else lane vb i))

/-- A float lane op of one operand with its rounding (R345, R347). -/
def floatOp (op lat : Nat) (rounds : Bool) (h : Nat → RoundCtl → Nat → Nat × BitVec 6)
    (g : BitVec 3) (d a : BitVec 5) (k : BitVec 2) (s : State) : Out :=
  vecOp op lat classF g s (fun f s =>
    let va := s.vr a
    let mode := if rounds then s.modRnd else 0
    let sat := s.modSat
    s.perLane d lat (s.active k) mode (fun i sr => h f ⟨mode, sat, sr⟩ (elem f va i)))
/-- VRNDI (R345). -/
def execVrndi (g : BitVec 3) (d a : BitVec 5) (k : BitVec 2) (s : State) : Out :=
  floatOp 0x26 2 true roundIntegral g d a k s
/-- VCLASS (R345). -/
def execVclass (g : BitVec 3) (d a : BitVec 5) (k : BitVec 2) (s : State) : Out :=
  floatOp 0x24 2 false (fun f _ x => (classMask f x, 0#6)) g d a k s
/-- VEXP2 (R347). -/
def execVexp2 (g : BitVec 3) (d a : BitVec 5) (k : BitVec 2) (s : State) : Out :=
  floatOp 0x1A 8 true (transcend .exp2) g d a k s
/-- VLOG2 (R347). -/
def execVlog2 (g : BitVec 3) (d a : BitVec 5) (k : BitVec 2) (s : State) : Out :=
  floatOp 0x1B 8 true (transcend .log2) g d a k s
/-- VRCP (R347). -/
def execVrcp (g : BitVec 3) (d a : BitVec 5) (k : BitVec 2) (s : State) : Out :=
  floatOp 0x1C 8 true (transcend .rcp) g d a k s
/-- VRSQRT (R347). -/
def execVrsqrt (g : BitVec 3) (d a : BitVec 5) (k : BitVec 2) (s : State) : Out :=
  floatOp 0x1D 8 true (transcend .rsqrt) g d a k s
/-- VTANH (R347). -/
def execVtanh (g : BitVec 3) (d a : BitVec 5) (k : BitVec 2) (s : State) : Out :=
  floatOp 0x1E 8 true (transcend .tanh) g d a k s

/-! ### Compares (R346) -/

/-- The 64 bits of a compare: c for active lanes, 0 for the others; NV for active lanes only. -/
def compareBits (f : Nat) (rel : Rel) (act : Nat) (va vb : VReg) : List Nat → Nat × BitVec 6
  | [] => (0, 0#6)
  | i :: is =>
    let rest := compareBits f rel act va vb is
    if bit act i then
      let r := compareElem f rel (elem f va i) (elem f vb i)
      (rest.1 + boolN r.1 * 2 ^ i, r.2 ||| rest.2)
    else rest

/-- The vector compares. -/
def vecCompare (op : Nat) (rel : Rel) (g : BitVec 3) (d : BitVec 3) (a b : BitVec 5) (k : BitVec 2)
    (s : State) : Out :=
  vecOp op 2 classA g s (fun f s =>
    let r := compareBits f rel (s.active k) (s.vr a) (s.vr b) (List.range 64)
    s.putK d 2 (BitVec.ofNat 64 r.1) r.2)
/-- VCMPEQ (R346). -/
def execVcmpeq (g : BitVec 3) (d : BitVec 3) (a b : BitVec 5) (k : BitVec 2) (s : State) : Out :=
  vecCompare 0x12 .eq g d a b k s
/-- VCMPLT (R346). -/
def execVcmplt (g : BitVec 3) (d : BitVec 3) (a b : BitVec 5) (k : BitVec 2) (s : State) : Out :=
  vecCompare 0x13 .lt g d a b k s
/-- VCMPLE (R346). -/
def execVcmple (g : BitVec 3) (d : BitVec 3) (a b : BitVec 5) (k : BitVec 2) (s : State) : Out :=
  vecCompare 0x14 .le g d a b k s
/-- VCMPNE (R346). -/
def execVcmpne (g : BitVec 3) (d : BitVec 3) (a b : BitVec 5) (k : BitVec 2) (s : State) : Out :=
  vecCompare 0x15 .ne g d a b k s

/-! ### Dot products, reductions and scans (R348, R349) -/

/-- An exact sum with the zeros of IEEE 754 kept as in an unrounded sum (R267): -0 only where every term
is -0, or under RDN; none for an invalid operation or a NaN, with whether it sets NV. -/
def dotSum (mode : Nat) : Option FVal → List (FVal × FVal) → Option FVal
  | acc, [] => acc
  | none, _ => none
  | some acc, (x, y) :: rest =>
    if x.isNaN || y.isNaN then none
    else match mulVal x y with
      | none => none
      | some p => dotSum mode (addVal mode acc p) rest

/-- A signalling NaN, a product 0 × ∞ or opposite infinities among the terms of a dot product: what sets
NV (R260). -/
def dotInvalid (acc : FVal) (terms : List (FVal × FVal)) : Bool :=
  acc.isSNaN || terms.any (fun t => t.1.isSNaN || t.2.isSNaN ||
    (!t.1.isNaN && !t.2.isNaN && (mulVal t.1 t.2).isNone)) ||
    (let infs := (acc :: terms.filterMap (fun t => if t.1.isNaN || t.2.isNaN then none else mulVal t.1 t.2))
     infs.contains (.inf true) && infs.contains (.inf false))

/-- A lane of VDOT4 in a floating-point format (R267, R348). -/
def dotFloat (f : Nat) (c : RoundCtl) (z x y : Nat) : Nat × BitVec 6 :=
  let terms := (List.range 4).map (fun j => (readElem f (fieldN x (8 * j) 8), readElem f (fieldN y (8 * j) 8)))
  let acc := readElem 6 z
  let sum := if acc.isNaN then none else dotSum c.mode (some acc) terms
  match sum with
  | none => nanResult 6 (dotInvalid acc terms)
  | some v => convertVal 6 c false v

/-- A lane of VDOT4 in an integer format. -/
def dotInt (f sat z x y : Nat) : Nat × BitVec 6 :=
  let p (j : Nat) : Int := intOf f (fieldN x (8 * j) 8) * intOf f (fieldN y (8 * j) 8)
  intLane 4 sat (intOf 4 z + p 0 + p 1 + p 2 + p 3)

/-- VDOT4 (R348). -/
def execVdot4 (g : BitVec 3) (d a b : BitVec 5) (k : BitVec 2) (s : State) : Out :=
  vecOp 0x1F 4 classD g s (fun f s =>
    let va := s.vr a
    let vb := s.vr b
    let vd := s.vr d
    let mode := s.laneMode f
    let sat := s.modSat
    s.perLane d 4 (s.active k) mode (fun i sr =>
      if isFloat f then dotFloat f ⟨mode, sat, sr⟩ (lane vd i) (lane va i) (lane vb i)
      else dotInt f sat (lane vd i) (lane va i) (lane vb i)))

/-- One level of the tree of R267: an addition where both positions hold a value, which steps the LFSR
once; an empty position passes the other. -/
def treeLevel (mode : Nat) (add : Nat → Nat → Nat → Nat × BitVec 6) :
    List (Option Nat) → W32 → List (Option Nat) × BitVec 6 × W32
  | some x :: some y :: rest, l =>
    let r := add (l.toNat % 2 ^ 16) x y
    let t := treeLevel mode add rest (if mode = 5 then lfsrStep l else l)
    (some r.1 :: t.1, r.2 ||| t.2.1, t.2.2)
  | x :: y :: rest, l =>
    let t := treeLevel mode add rest l
    (x.or y :: t.1, t.2.1, t.2.2)
  | rest, l => (rest, 0#6, l)

/-- `n` levels of the tree. -/
def treeLevels (mode : Nat) (add : Nat → Nat → Nat → Nat × BitVec 6) :
    Nat → List (Option Nat) → W32 → Option Nat × BitVec 6 × W32
  | 0, vs, l => ((vs.head?).join, 0#6, l)
  | n + 1, vs, l =>
    let t := treeLevel mode add vs l
    let r := treeLevels mode add n t.1 t.2.2
    (r.1, t.2.1 ||| r.2.1, r.2.2)

/-- A reduction's result in xd (R349). -/
def redToX (f bits : Nat) : W64 := if isFloat f then BitVec.ofNat 64 bits else wrap64 (intOf f bits)

/-- What a reduction without active lanes gives (R349). -/
def redEmpty (f : Nat) : Option Bool → Nat
  | none => 0
  | some isMax =>
    match floatFmt f with
    | some ff => infBits ff isMax
    | none => wrapN (if isMax then (intRange f).1 else (intRange f).2) (fmtWidth f)

/-- The element values of active lanes, empty elsewhere. -/
def activeElems (f act : Nat) (v : VReg) : List (Option Nat) :=
  (List.range 64).map (fun i => if bit act i then some (elem f v i) else none)

/-- A reduction by the tree of R267, `add` joining two values and `last` giving its result. -/
def State.reduceTree (s : State) (d : BitVec 5) (f act mode : Nat) (empty : Nat) (va : VReg)
    (add : Nat → Nat → Nat → Nat × BitVec 6) (last : Nat → Nat × BitVec 6) : State :=
  let r := treeLevels mode add 6 (activeElems f act va) s.arith.lfsr
  let v := last (r.1.getD empty)
  (s.setArith { s.arith with lfsr := r.2.2 }).putX d 6 (redToX f v.1) (r.2.1 ||| v.2)

/-- VREDADD (R267, R349): floats by the tree, integers exactly and then wrapped or saturated. -/
def execVredadd (g : BitVec 3) (d a : BitVec 5) (k : BitVec 2) (s : State) : Out :=
  vecOp 0x20 6 classA g s (fun f s =>
    let va := s.vr a
    let act := s.active k
    let mode := s.laneMode f
    let sat := s.modSat
    if isFloat f then
      s.reduceTree d f act mode (redEmpty f none) va (fun sr x y => fAdd f ⟨mode, sat, sr⟩ x y)
        (fun x => (x, 0#6))
    else
      let sum : Int := (activeElems f act va).foldl (fun t o => t + (o.map (intOf f)).getD 0) 0
      let r := fitInt f sat sum
      s.putX d 6 (redToX f r.1) (flagIf r.2 flSAT))

/-- What VREDMAX and VREDMIN give for a value that no other has been joined with: of a NaN the canonical one (R261,
R262). -/
def redLast (f x : Nat) : Nat × BitVec 6 :=
  if isFloat f && (readElem f x).isNaN then nanResult f (readElem f x).isSNaN else (x, 0#6)

/-- VREDMAX and VREDMIN: the tree with the rules of R262. -/
def redMinMax (op : Nat) (isMax : Bool) (g : BitVec 3) (d a : BitVec 5) (k : BitVec 2) (s : State) : Out :=
  vecOp op 6 classA g s (fun f s =>
    s.reduceTree d f (s.active k) 0 (redEmpty f (some isMax)) (s.vr a) (fun _ x y => elemMinMax f isMax x y)
      (redLast f))
/-- VREDMAX (R349). -/
def execVredmax (g : BitVec 3) (d a : BitVec 5) (k : BitVec 2) (s : State) : Out :=
  redMinMax 0x21 true g d a k s
/-- VREDMIN (R349). -/
def execVredmin (g : BitVec 3) (d a : BitVec 5) (k : BitVec 2) (s : State) : Out :=
  redMinMax 0x22 false g d a k s

/-- The running sums of VSCANADD over active lanes (R267): the first passes unchanged. -/
def scanRun (f sat mode act : Nat) (va : VReg) : List Nat → Option Nat → W32 → List Nat × BitVec 6 × W32
  | [], _, l => ([], 0#6, l)
  | i :: is, prev, l =>
    if !bit act i then
      let t := scanRun f sat mode act va is prev l
      (0 :: t.1, t.2.1, t.2.2)
    else match prev with
      | none =>
        let x := elem f va i
        let t := scanRun f sat mode act va is (some x) l
        (laneForm f x :: t.1, t.2.1, t.2.2)
      | some p =>
        let x := elem f va i
        let r := if isFloat f then fAdd f ⟨mode, sat, l.toNat % 2 ^ 16⟩ p x
          else let q := fitInt f sat (intOf f p + intOf f x); (q.1, flagIf q.2 flSAT)
        let t := scanRun f sat mode act va is (some r.1) (if mode = 5 then lfsrStep l else l)
        (laneForm f r.1 :: t.1, r.2 ||| t.2.1, t.2.2)

/-- VSCANADD (R349). -/
def execVscanadd (g : BitVec 3) (d a : BitVec 5) (k : BitVec 2) (s : State) : Out :=
  vecOp 0x23 6 classA g s (fun f s =>
    let act := s.active k
    let r := scanRun f s.modSat (s.laneMode f) act (s.vr a) (List.range 64) none s.arith.lfsr
    (s.setArith { s.arith with lfsr := r.2.2 }).putV d 6 (BitVec.ofNat 2048 (ofLanes r.1), laneMask act) r.2.1)

end Sys2Proof.Machine
end

