-- ==== Sys2Proof/Machine/VectorConvert.lean ====
section
/-! DEFINITION. Conversions between layouts and formats: VCVT, VQNT, VDQNT
(spec/14_isa_vector.md R350 to R352, spec/11_formats.md R254, R255, R263, R264). -/

namespace Sys2Proof.Machine

open Sys2Proof.Bits

/-- An element in packed form: width in bits, the part's offset in bytes, its number (R338). -/
def packedElem (w off : Nat) (v : VReg) (j : Nat) : Nat := fieldN v.toNat (8 * off + w * j) w

/-- The source element of a conversion between widths `sw` and `dw`, part n (R350). -/
def cvtSource (sw dw n : Nat) (v : VReg) (j : Nat) : Nat :=
  if sw < dw then packedElem sw (8 * sw * n) v j else lane v j % 2 ^ sw

/-- A packed destination: value and byte mask of the elements written, 64 of width w from byte 8 × w × n
(R350). -/
def packLanes (w n act : Nat) (els : List Nat) : VReg × BitVec 256 :=
  let off := 8 * w * n
  let b := w / 8
  (BitVec.ofNat 2048 (((List.range 64).zip els).foldl
      (fun a e => a + e.2 % 2 ^ w * 2 ^ (8 * off + w * e.1)) 0),
   BitVec.ofNat 256 ((List.range 64).foldl
      (fun a j => a + boolN (bit act j) * ((2 ^ b - 1) * 2 ^ (off + b * j))) 0))

/-- VCVT (R350): only the bytes of the active elements change. -/
def execVcvt (g : BitVec 3) (d a : BitVec 5) (k : BitVec 2) (sf df : BitVec 4) (r : BitVec 3)
    (t : BitVec 2) (n : BitVec 2) (s : State) : Out :=
  pointOp 0x17 g s (fun s =>
    let va := s.vr a
    let act := s.active k
    let mode := s.roundMode r.toNat
    let sw := fmtWidth sf.toNat
    let dw := fmtWidth df.toNat
    let run := laneRun act mode (fun j sr =>
      convert sf.toNat df.toNat ⟨mode, t.toNat, sr⟩ (cvtSource sw dw n.toNat va j))
      (List.range 64) s.arith.lfsr
    let out : VReg × BitVec 256 :=
      if dw < sw then packLanes dw n.toNat act run.1
      else (BitVec.ofNat 2048 (ofLanes (run.1.map (laneForm df.toNat))), laneMask act)
    (s.setArith { s.arith with lfsr := run.2.2 }).putV d 3 out run.2.1)

/-- The codes of two blocks, code i in nibble i (R255). -/
def nibbles : List Nat → Nat
  | [] => 0
  | c :: cs => c % 16 + 16 * nibbles cs

/-- VQNT (R351): inactive elements are taken as +0; the codes go to bytes 0 to 31 of vd, the two scale
bytes to x. -/
def execVqnt (g : BitVec 3) (d a : BitVec 5) (k : BitVec 2) (ty : BitVec 2) (au : BitVec 1)
    (r : BitVec 3) (x : BitVec 5) (s : State) : Out :=
  pointOp 0x18 g s (fun s =>
    let f := s.vecFmt
    if !classF f then s.flagsAt 6 flNV
    else
      let va := s.vr a
      let act := s.active k
      let mode := s.roundMode r.toNat
      let el (i : Nat) : FVal := if bit act i then readElem f (elem f va i) else .fin false 0 0
      let lfsr0 := s.arith.lfsr
      let b0 := quantBlock (au == 1#1) ty.toNat mode ((List.range 32).map el) lfsr0
      let lfsr1 := if mode = 5 then lfsrSteps 32 lfsr0 else lfsr0
      let b1 := quantBlock (au == 1#1) ty.toNat mode ((List.range 32).map (fun i => el (32 + i))) lfsr1
      let s := s.stepLfsr mode 64
      let s := s.putV d 6 (BitVec.ofNat 2048 (nibbles (b0.2.1 ++ b1.2.1)), BitVec.ofNat 256 (2 ^ 32 - 1))
        (b0.2.2 ||| b1.2.2)
      s.putX x 6 (BitVec.ofNat 64 (b0.1 + 256 * b1.1)))

/-- VDQNT (R352): code i under the scale byte of its block, rounded into the destination. -/
def execVdqnt (g : BitVec 3) (d a b : BitVec 5) (k : BitVec 2) (df : BitVec 4) (s : State) : Out :=
  pointOp 0x19 g s (fun s =>
    let va := s.vr a
    let scales := (s.xr b).toNat
    let mode := s.modRnd
    let sat := s.modSat
    s.perLane d 6 (s.active k) mode (fun i sr =>
      convertVal df.toNat ⟨mode, sat, sr⟩ false
        (q4Value (fieldN scales (8 * (i / 32)) 8) (fieldN va.toNat (4 * i) 4))))

end Sys2Proof.Machine
end

