-- ==== Sys2Proof/Machine/VectorMem.lean ====
section
/-! DEFINITION. Vector loads, stores, queue slots and atomics (spec/14_isa_vector.md R353 to R358). -/

namespace Sys2Proof.Machine

open Sys2Proof.Bits

/-- What a vector op does at its lanes. -/
inductive LaneAcc where
  | load | store | atomic
  deriving DecidableEq, Repr

/-- The cause a lane's address meets: alignment first, then the order of R202 (R356). -/
def State.laneCause (s : State) (acc : LaneAcc) (ea : W64) : Option Nat :=
  if ea.toNat % 4 ≠ 0 then some tcAlignment
  else if 2 ^ 52 ≤ ea.toNat then some tcTranslation
  else match acc with
    | .atomic => match s.atomicCell s.view ea.toNat 4 with
      | .error c => some c
      | .ok _ => none
    | .load => match s.resolve s.view .load ea.toNat with
      | .error c => some c
      | .ok _ => none
    | .store => match s.resolve s.view .store ea.toNat with
      | .error c => some c
      | .ok (.status _) => some tcPermission
      | .ok (.cell _ _) => none

/-- The active lanes with their addresses, lowest first. -/
def laneAddrs (act : Nat) (addr : Nat → W64) : List (Nat × W64) :=
  ((List.range 64).filter (bit act)).map (fun i => (i, addr i))

/-- The lowest active lane that faults: its cause and address (R356). -/
def State.laneFault (s : State) (acc : LaneAcc) : List (Nat × W64) → Option (Nat × Nat)
  | [] => none
  | (_, ea) :: rest =>
    match s.laneCause acc ea with
    | some c => some (c, ea.toNat % 2 ^ 52)
    | none => State.laneFault s acc rest

/-- Loads the lanes one after another: their values by lane, and the first fault of their data (R223). -/
def State.loadLanes (s : State) : List (Nat × W64) → Got (List (Nat × Nat) × Option (Nat × Nat))
  | [] => .ok s ([], none)
  | (i, ea) :: rest =>
    match s.load s.view ea.toNat 4 with
    | .trap c a => .trap c a
    | .wait w => .wait w
    | .ok s1 r =>
      match State.loadLanes s1 rest with
      | .ok s2 (ls, f) => .ok s2 ((i, leNat r.1) :: ls, worse r.2 f)
      | e => e

/-- A vector load into the active lanes of vd, landing at bundle `arr` (R353 to R356). -/
def State.loadV (s : State) (d : BitVec 5) (size arr act : Nat) (addr : Nat → W64) : State :=
  let lanes := laneAddrs act addr
  match s.laneFault .load lanes with
  | some (c, a) => s.trapAt c size a
  | none =>
    match lanes.findSome? (fun e => s.storeFault e.2.toNat 4) with
    | some t => s.trap t
    | none =>
      s.onGot size (s.loadLanes lanes) (fun t r =>
        let v := lanesOf act (fun i => (find? r.1 i).getD 0)
        let (late, why, t) := t.lateLoad s (s.firstCell ((lanes.headD (0, 0#64)).2.toNat))
        t.issue [{ dest := .v d v.1 v.2, togo := arr, arrived := !late, why := why,
                   bad := t.badOf size r.2 }])

/-- Stores the lanes in ascending order, so that the highest lane's bytes remain (R354, R355). -/
def State.storeLanes (s : State) (size : Nat) (v : VReg) : List (Nat × W64) → Got Unit
  | [] => .ok s ()
  | (i, ea) :: rest =>
    match s.resolve s.view .store ea.toNat with
    | .error c => .trap c ea.toNat
    | .ok p =>
      match (s.atAccess s.view ea.toNat 4).writeParts size s.bundle.slot ea.toNat [(p, 4)] (leBytes 4 (lane v i)) with
      | .ok s1 _ => State.storeLanes s1 size v rest
      | e => e

/-- A vector store of the active lanes of vd. -/
def State.storeV (s : State) (d : BitVec 5) (size act : Nat) (addr : Nat → W64) : State :=
  let lanes := laneAddrs act addr
  match s.laneFault .store lanes with
  | some (c, a) => s.trapAt c size a
  | none => s.onGot size (s.storeLanes size (s.vr d) lanes) (fun s _ => s)

/-- The address of lane i from a base: ea + 4i (R353). -/
def unitAddr (ea : W64) (i : Nat) : W64 := ea + BitVec.ofNat 64 (4 * i)
/-- The address of lane i with a stride (R354). -/
def strideAddr (ea xs : W64) (i : Nat) : W64 := ea + BitVec.ofNat 64 i * xs
/-- The address of lane i with an index vector (R355). -/
def indexAddr (xa : W64) (vb : VReg) (i : Nat) : W64 := xa + wrap64 (sextN (lane vb i) 32)

/-- VLD (R353). -/
def execVld (g : BitVec 3) (d a : BitVec 5) (i : BitVec 7) (s : State) : Out :=
  pointOp 0x00 g s (fun s => s.loadV d 256 8 s.allLanes (unitAddr (s.ea a (s.immediate i.toNat 7 * 256))))
/-- VST (R353). -/
def execVst (g : BitVec 3) (d a : BitVec 5) (i : BitVec 7) (s : State) : Out :=
  pointOp 0x01 g s (fun s => s.storeV d 256 s.allLanes (unitAddr (s.ea a (s.immediate i.toNat 7 * 256))))
/-- VLDS (R354). -/
def execVlds (g : BitVec 3) (d a : BitVec 5) (k : BitVec 2) (x : BitVec 5) (m : BitVec 8) (o : BitVec 16)
    (s : State) : Out :=
  pointOp 0x02 g s (fun s => s.loadV d 4 (if m = 0#8 then 8 else m.toNat) (s.active k)
    (strideAddr (s.ea a (s.immediate o.toNat 16)) (s.xr x)))
/-- VSTS (R354). -/
def execVsts (g : BitVec 3) (d a : BitVec 5) (k : BitVec 2) (x : BitVec 5) (o : BitVec 16) (s : State) : Out :=
  pointOp 0x03 g s (fun s => s.storeV d 4 (s.active k)
    (strideAddr (s.ea a (s.immediate o.toNat 16)) (s.xr x)))
/-- VGATH (R355). -/
def execVgath (g : BitVec 3) (d a b : BitVec 5) (k : BitVec 2) (s : State) : Out :=
  pointOp 0x04 g s (fun s => s.loadV d 4 8 (s.active k) (indexAddr (s.xr a) (s.vr b)))
/-- VSCAT (R355). -/
def execVscat (g : BitVec 3) (d a b : BitVec 5) (k : BitVec 2) (s : State) : Out :=
  pointOp 0x05 g s (fun s => s.storeV d 4 (s.active k) (indexAddr (s.xr a) (s.vr b)))

/-! ### Queue slots (R357) -/

/-- VLDQ (R187, R357): the slot at HEAD + i, as the core's own withheld stores leave it. -/
def execVldq (g : BitVec 3) (d : BitVec 5) (q : BitVec 4) (b : BitVec 5) (k : BitVec 2) (s : State) : Out :=
  pointOp 0x06 g s (fun s =>
    let h := s.qr q
    if h.size = 0 ∨ h.consEngine ∨ h.filled ≤ b.toNat then s.queueTrap q
    else
      let pa := queueCell s.me (h.headSlot b.toNat)
      let v := lanesOf (s.active k) (fun i => s.peekN (pa + 4 * i) 4)
      let (late, s) := s.lateNext
      s.issue [{ dest := .v d v.1 v.2, togo := 3, arrived := !late }])

/-- VSTQ (R136, R187, R357): the active lanes go into the slot at TAIL + i, withheld as every store of
the core is. -/
def execVstq (g : BitVec 3) (d : BitVec 5) (q : BitVec 4) (b : BitVec 5) (k : BitVec 2) (s : State) : Out :=
  pointOp 0x07 g s (fun s =>
    let h := s.qview q
    if h.size = 0 ∨ h.prodEngine ∨ h.free ≤ b.toNat then s.queueTrap q
    else
      let pa := queueCell s.me (h.tailSlot b.toNat)
      let v := s.vr d
      let act := s.active k
      ((List.range 64).filter (bit act)).foldl (fun s i =>
        let a := pa + 4 * i
        s.modMy (fun c => c.withhold (a / 128) s.pts (offsets (a % 128) (leBytes 4 (lane v i))) none false none 0#64)) s)

/-! ### Atomics (R358) -/

/-- One no-return atomic per active lane, in ascending lane order. -/
def State.laneAtomics (s : State) (op : AtomOp) (v : VReg) : List (Nat × W64) → Got Unit
  | [] => .ok s ()
  | (i, ea) :: rest =>
    match s.atomicCell s.view ea.toNat 4 with
    | .error c => .trap c ea.toNat
    | .ok (pa, leaf) =>
      match (s.atAccess s.view ea.toNat 4).sendNr op pa 4 (lane v i) leaf with
      | .ok s1 _ => State.laneAtomics s1 op v rest
      | .trap c a => .trap c a
      | .wait w => .wait w

/-- VAMADD and VAMMIN: `op` by format. -/
def vecAtomic (num : Nat) (op : Nat → AtomOp) (g : BitVec 3) (d a b : BitVec 5) (k : BitVec 2) (s : State) : Out :=
  vecOp num 1 classM g s (fun f s =>
    let lanes := laneAddrs (s.active k) (indexAddr (s.xr a) (s.vr b))
    match s.laneFault .atomic lanes with
    | some (c, a) => s.trapAt c 4 a
    | none => s.onGot 4 (s.laneAtomics (op f) (s.vr d) lanes) (fun s _ => s))
/-- VAMADD (R358). -/
def execVamadd (g : BitVec 3) (d a b : BitVec 5) (k : BitVec 2) (s : State) : Out :=
  vecAtomic 0x19 (fun f => if f = 6 then .fadd else .add) g d a b k s
/-- VAMMIN (R358). -/
def execVammin (g : BitVec 3) (d a b : BitVec 5) (k : BitVec 2) (s : State) : Out :=
  vecAtomic 0x1A (fun f => if f = 6 then .fmin else if f = 4 then .smin else .umin) g d a b k s

end Sys2Proof.Machine
end

