-- ==== Sys2Proof/Machine/VectorMove.lean ====
section
/-! DEFINITION. Vector moves and permutations, lane masks, and VSETT (spec/14_isa_vector.md R359 to
R363). -/

namespace Sys2Proof.Machine

open Sys2Proof.Bits

/-- VMOV (R359). -/
def execVmov (g : BitVec 3) (d a : BitVec 5) (k : BitVec 2) (s : State) : Out :=
  pointOp 0x10 g s (fun s => s.rawLanes d (s.active k) (lane (s.vr a)))
/-- VBCX (R359). -/
def execVbcx (g : BitVec 3) (d a : BitVec 5) (k : BitVec 2) (s : State) : Out :=
  pointOp 0x08 g s (fun s => s.rawLanes d (s.active k) (fun _ => (s.xr a).toNat))
/-- VEXTX (R359): lane xb[5:0], whatever the mask and LANES. -/
def execVextx (g : BitVec 3) (d a b : BitVec 5) (s : State) : Out :=
  pointOp 0x09 g s (fun s => s.putX d 2 (BitVec.ofNat 64 (lane (s.vr a) ((s.xr b).toNat % 64))))
/-- VINSX (R359): one lane, whatever the mask and LANES. -/
def execVinsx (g : BitVec 3) (d a b : BitVec 5) (s : State) : Out :=
  pointOp 0x0A g s (fun s => s.rawLanes d (2 ^ ((s.xr b).toNat % 64)) (fun _ => (s.xr a).toNat))

/-- A permutation of R360: it reads every lane of its sources and writes the active lanes. -/
def permOp (op : Nat) (pick : VReg → VReg → Nat → Nat) (g : BitVec 3) (d a b : BitVec 5) (k : BitVec 2)
    (s : State) : Out :=
  pointOp op g s (fun s => s.rawLanes d (s.active k) (pick (s.vr a) (s.vr b)))
/-- VPERM (R360). -/
def execVperm (g : BitVec 3) (d a b : BitVec 5) (k : BitVec 2) (s : State) : Out :=
  permOp 0x0B (fun va vb i => lane va (lane vb i % 64)) g d a b k s
/-- VZIP (R360). -/
def execVzip (g : BitVec 3) (d a b : BitVec 5) (k : BitVec 2) (s : State) : Out :=
  permOp 0x0D (fun va vb i => if i % 2 = 0 then lane va (i / 2) else lane vb (i / 2)) g d a b k s
/-- VUNZIP (R360). -/
def execVunzip (g : BitVec 3) (d a b : BitVec 5) (k : BitVec 2) (s : State) : Out :=
  permOp 0x0E (fun va vb i => if i < 32 then lane va (2 * i) else lane vb (2 * (i - 32))) g d a b k s
/-- VSLIDE (R360): a source lane outside 0 to 63 gives 0. -/
def execVslide (g : BitVec 3) (d a b : BitVec 5) (k : BitVec 2) (s : State) : Out :=
  pointOp 0x0C g s (fun s =>
    s.rawLanes d (s.active k) (fun i =>
      let j : Int := (i : Int) + (s.xr b).toInt
      if 0 ≤ j ∧ j < 64 then lane (s.vr a) j.toNat else 0))

/-- VIOTA (R361): m(i), the number of active lanes below lane i. -/
def execViota (g : BitVec 3) (d : BitVec 5) (k : BitVec 2) (s : State) : Out :=
  pointOp 0x0F g s (fun s => s.rawLanes d (s.active k) (fun i => popCount i (s.active k)))
/-- The active lanes, lowest first. -/
def lanesIn (act : Nat) : List Nat := (List.range 64).filter (bit act)
/-- VCOMPRESS (R361): lanes 0 to n - 1 of vd, whatever the mask. -/
def execVcompress (g : BitVec 3) (d a : BitVec 5) (k : BitVec 2) (s : State) : Out :=
  pointOp 0x1B g s (fun s =>
    let ls := lanesIn (s.active k)
    s.rawLanes d (2 ^ ls.length - 1) (fun j => lane (s.vr a) (nth ls j 0)))
/-- VEXPAND (R361). -/
def execVexpand (g : BitVec 3) (d a : BitVec 5) (k : BitVec 2) (s : State) : Out :=
  pointOp 0x1C g s (fun s => s.rawLanes d (s.active k) (fun i => lane (s.vr a) (popCount i (s.active k))))

/-! ### Lane masks (R362): all 64 bits, whatever VTYPE.LANES -/

/-- A mask op of two k registers. -/
def maskOp (op : Nat) (h : W64 → W64 → W64) (g : BitVec 3) (d a b : BitVec 3) (s : State) : Out :=
  pointOp op g s (fun s => s.putK d 2 (h (s.kr a) (s.kr b)))
/-- KAND (R362). -/
def execKand (g : BitVec 3) (d a b : BitVec 3) (s : State) : Out := maskOp 0x11 (· &&& ·) g d a b s
/-- KOR (R362). -/
def execKor (g : BitVec 3) (d a b : BitVec 3) (s : State) : Out := maskOp 0x12 (· ||| ·) g d a b s
/-- KXOR (R362). -/
def execKxor (g : BitVec 3) (d a b : BitVec 3) (s : State) : Out := maskOp 0x13 (· ^^^ ·) g d a b s
/-- KNOT (R362). -/
def execKnot (g : BitVec 3) (d a : BitVec 3) (s : State) : Out :=
  pointOp 0x14 g s (fun s => s.putK d 2 (~~~ s.kr a))
/-- KPOPC (R362). -/
def execKpopc (g : BitVec 3) (d : BitVec 5) (a : BitVec 3) (s : State) : Out :=
  pointOp 0x15 g s (fun s => s.putX d 2 (BitVec.ofNat 64 (popCount 64 (s.kr a).toNat)))
/-- KFIRST (R362): 64 for an empty mask. -/
def execKfirst (g : BitVec 3) (d : BitVec 5) (a : BitVec 3) (s : State) : Out :=
  pointOp 0x16 g s (fun s => s.putX d 2 (BitVec.ofNat 64 ((firstSet 64 0 (s.kr a).toNat).getD 64)))
/-- KMOVX (R362). -/
def execKmovx (g : BitVec 3) (d : BitVec 5) (a : BitVec 3) (s : State) : Out :=
  pointOp 0x17 g s (fun s => s.putX d 2 (s.kr a))
/-- XMOVK (R362). -/
def execXmovk (g : BitVec 3) (d : BitVec 3) (a : BitVec 5) (s : State) : Out :=
  pointOp 0x18 g s (fun s => s.putK d 2 (s.xr a))

/-- VSETT (R363): the new VTYPE is seen by the next bundle; xd has latency 2. -/
def execVsett (g : BitVec 3) (d a b : BitVec 5) (s : State) : Out :=
  pointOp 0x1D g s (fun s =>
    let n := (s.xr a).toNat
    let f := (s.xr b).toNat % 16
    if n = 0 ∨ 0xC ≤ f then s.putX d 2 0#64
    else
      let l := min n 64
      (s.issue [{ dest := .csr 0x020 (BitVec.ofNat 64 (l % 64 * 16 + f)), togo := 1 }]).putX d 2
        (BitVec.ofNat 64 l))

end Sys2Proof.Machine
end

