-- ==== Sys2Proof/Machine/Dispatch.lean ====
section
/-! DEFINITION. One meaning for each constructor of Instr. -/

namespace Sys2Proof.Machine

def exec (i : Instr) (s : State) : Host.Outcome State Fault Refusal :=
  match i with
  | .nop g => Sys2Proof.Machine.execNop g s
  | .add g d a b => Sys2Proof.Machine.execAdd g d a b s
  | .sub g d a b => Sys2Proof.Machine.execSub g d a b s
  | .addi g d a im => Sys2Proof.Machine.execAddi g d a im s
  | .mul g d a b => Sys2Proof.Machine.execMul g d a b s
  | .mulh g d a b => Sys2Proof.Machine.execMulh g d a b s
  | .mulhn g d a b => Sys2Proof.Machine.execMulhn g d a b s
  | .madd g d a b => Sys2Proof.Machine.execMadd g d a b s
  | .div g d a b => Sys2Proof.Machine.execDiv g d a b s
  | .divn g d a b => Sys2Proof.Machine.execDivn g d a b s
  | .rem g d a b => Sys2Proof.Machine.execRem g d a b s
  | .remn g d a b => Sys2Proof.Machine.execRemn g d a b s
  | .andR g d a b => Sys2Proof.Machine.execAndR g d a b s
  | .orR g d a b => Sys2Proof.Machine.execOrR g d a b s
  | .xorR g d a b => Sys2Proof.Machine.execXorR g d a b s
  | .andi g d a im => Sys2Proof.Machine.execAndi g d a im s
  | .ori g d a im => Sys2Proof.Machine.execOri g d a im s
  | .xori g d a im => Sys2Proof.Machine.execXori g d a im s
  | .shl g d a b => Sys2Proof.Machine.execShl g d a b s
  | .shr g d a b => Sys2Proof.Machine.execShr g d a b s
  | .sha g d a b => Sys2Proof.Machine.execSha g d a b s
  | .shli g d a im => Sys2Proof.Machine.execShli g d a im s
  | .shri g d a im => Sys2Proof.Machine.execShri g d a im s
  | .shai g d a im => Sys2Proof.Machine.execShai g d a im s
  | .minS g d a b => Sys2Proof.Machine.execMinS g d a b s
  | .maxS g d a b => Sys2Proof.Machine.execMaxS g d a b s
  | .minn g d a b => Sys2Proof.Machine.execMinn g d a b s
  | .maxn g d a b => Sys2Proof.Machine.execMaxn g d a b s
  | .clz g d a => Sys2Proof.Machine.execClz g d a s
  | .popc g d a => Sys2Proof.Machine.execPopc g d a s
  | .mov g d a => Sys2Proof.Machine.execMov g d a s
  | .movi g d im => Sys2Proof.Machine.execMovi g d im s
  | .movl g d hi lo => Sys2Proof.Machine.execMovl g d hi lo s
  | .bext g d a b => Sys2Proof.Machine.execBext g d a b s
  | .bins g d a b => Sys2Proof.Machine.execBins g d a b s
  | .cmpeq g p a b => Sys2Proof.Machine.execCmpeq g p a b s
  | .cmpne g p a b => Sys2Proof.Machine.execCmpne g p a b s
  | .cmplt g p a b => Sys2Proof.Machine.execCmplt g p a b s
  | .cmple g p a b => Sys2Proof.Machine.execCmple g p a b s
  | .cmpltn g p a b => Sys2Proof.Machine.execCmpltn g p a b s
  | .cmplen g p a b => Sys2Proof.Machine.execCmplen g p a b s
  | .cmpeqi g p a im => Sys2Proof.Machine.execCmpeqi g p a im s
  | .cmplti g p a im => Sys2Proof.Machine.execCmplti g p a im s
  | .cmpgti g p a im => Sys2Proof.Machine.execCmpgti g p a im s
  | .pand g d a b => Sys2Proof.Machine.execPand g d a b s
  | .por g d a b => Sys2Proof.Machine.execPor g d a b s
  | .pxor g d a b => Sys2Proof.Machine.execPxor g d a b s
  | .pandn g d a b => Sys2Proof.Machine.execPandn g d a b s
  | .pmovx g d => Sys2Proof.Machine.execPmovx g d s
  | .xmovp g a => Sys2Proof.Machine.execXmovp g a s
  | .fadd g d a b => Sys2Proof.Machine.execFadd g d a b s
  | .fsub g d a b => Sys2Proof.Machine.execFsub g d a b s
  | .fmul g d a b => Sys2Proof.Machine.execFmul g d a b s
  | .ffma g d a b => Sys2Proof.Machine.execFfma g d a b s
  | .fmin g d a b => Sys2Proof.Machine.execFmin g d a b s
  | .fmax g d a b => Sys2Proof.Machine.execFmax g d a b s
  | .fcmpeq g p a b => Sys2Proof.Machine.execFcmpeq g p a b s
  | .fcmplt g p a b => Sys2Proof.Machine.execFcmplt g p a b s
  | .fcmple g p a b => Sys2Proof.Machine.execFcmple g p a b s
  | .fcvt g d a sf df r t => Sys2Proof.Machine.execFcvt g d a sf df r t s
  | .fclass g d a => Sys2Proof.Machine.execFclass g d a s
  | .ldb g d a im => Sys2Proof.Machine.execLdb g d a im s
  | .ldbs g d a im => Sys2Proof.Machine.execLdbs g d a im s
  | .ldh g d a im => Sys2Proof.Machine.execLdh g d a im s
  | .ldhs g d a im => Sys2Proof.Machine.execLdhs g d a im s
  | .ldw g d a im => Sys2Proof.Machine.execLdw g d a im s
  | .ldws g d a im => Sys2Proof.Machine.execLdws g d a im s
  | .ldd g d a im => Sys2Proof.Machine.execLdd g d a im s
  | .stb g d a im => Sys2Proof.Machine.execStb g d a im s
  | .sth g d a im => Sys2Proof.Machine.execSth g d a im s
  | .stw g d a im => Sys2Proof.Machine.execStw g d a im s
  | .std g d a im => Sys2Proof.Machine.execStd g d a im s
  | .ldl g d a m w h o => Sys2Proof.Machine.execLdl g d a m w h o s
  | .amadd g d a b n w => Sys2Proof.Machine.execAmadd g d a b n w s
  | .ammin g d a b n w => Sys2Proof.Machine.execAmmin g d a b n w s
  | .amminn g d a b n w => Sys2Proof.Machine.execAmminn g d a b n w s
  | .ammax g d a b n w => Sys2Proof.Machine.execAmmax g d a b n w s
  | .ammaxn g d a b n w => Sys2Proof.Machine.execAmmaxn g d a b n w s
  | .amand g d a b n w => Sys2Proof.Machine.execAmand g d a b n w s
  | .amor g d a b n w => Sys2Proof.Machine.execAmor g d a b n w s
  | .amxor g d a b n w => Sys2Proof.Machine.execAmxor g d a b n w s
  | .amswp g d a b n w => Sys2Proof.Machine.execAmswp g d a b n w s
  | .amcas g d a b w c => Sys2Proof.Machine.execAmcas g d a b w c s
  | .ginit g a b => Sys2Proof.Machine.execGinit g a b s
  | .gsig g a b => Sys2Proof.Machine.execGsig g a b s
  | .gwait g d a b => Sys2Proof.Machine.execGwait g d a b s
  | .gread g d a n => Sys2Proof.Machine.execGread g d a n s
  | .tkget g d a => Sys2Proof.Machine.execTkget g d a s
  | .tkwait g a b => Sys2Proof.Machine.execTkwait g a b s
  | .tknext g a => Sys2Proof.Machine.execTknext g a s
  | .fence g c => Sys2Proof.Machine.execFence g c s
  | .await g d a b => Sys2Proof.Machine.execAwait g d a b s
  | .qinit g q a b => Sys2Proof.Machine.execQinit g q a b s
  | .qwaitf g q b => Sys2Proof.Machine.execQwaitf g q b s
  | .qwaite g q b => Sys2Proof.Machine.execQwaite g q b s
  | .qadvh g q b => Sys2Proof.Machine.execQadvh g q b s
  | .qadvt g q b => Sys2Proof.Machine.execQadvt g q b s
  | .qstat g d q => Sys2Proof.Machine.execQstat g d q s
  | .pfl g a im => Sys2Proof.Machine.execPfl g a im s
  | .tprep g n o => Sys2Proof.Machine.execTprep g n o s
  | .tprepx g n o => Sys2Proof.Machine.execTprepx g n o s
  | .tread g d n => Sys2Proof.Machine.execTread g d n s
  | .csrr g d c => Sys2Proof.Machine.execCsrr g d c s
  | .csrw g d c => Sys2Proof.Machine.execCsrw g d c s
  | .csrs g d c => Sys2Proof.Machine.execCsrs g d c s
  | .csrc g d c => Sys2Proof.Machine.execCsrc g d c s
  | .peg => Sys2Proof.Machine.execPeg s
  | .hwin => Sys2Proof.Machine.execHwin s
  | .endOp => Sys2Proof.Machine.execEndOp s
  | .trap g im => Sys2Proof.Machine.execTrap g im s
  | .brk g im => Sys2Proof.Machine.execBrk g im s
  | .eret => Sys2Proof.Machine.execEret s
  | .spawn g d a => Sys2Proof.Machine.execSpawn g d a s
  | .cancelj g d a => Sys2Proof.Machine.execCancelj g d a s
  | .phase g d n m => Sys2Proof.Machine.execPhase g d n m s
  | .pinw g d a b => Sys2Proof.Machine.execPinw g d a b s
  | .unpinw g d a => Sys2Proof.Machine.execUnpinw g d a s
  | .tlbinv g d a b f => Sys2Proof.Machine.execTlbinv g d a b f s
  | .dirtyh g d a b => Sys2Proof.Machine.execDirtyh g d a b s
  | .linkq g d a => Sys2Proof.Machine.execLinkq g d a s
  | .linkset g d a => Sys2Proof.Machine.execLinkset g d a s
  | .opreq g a => Sys2Proof.Machine.execOpreq g a s
  | .job d => Sys2Proof.Machine.execJob d s
  | .task a => Sys2Proof.Machine.execTask a s
  | .opt a b => Sys2Proof.Machine.execOpt a b s
  | .depv im a => Sys2Proof.Machine.execDepv im a s
  | .tset k a => Sys2Proof.Machine.execTset k a s
  | .launch d a => Sys2Proof.Machine.execLaunch d a s
  | .jwait d a => Sys2Proof.Machine.execJwait d a s
  | .notify a b => Sys2Proof.Machine.execNotify a b s
  | .curveq d a => Sys2Proof.Machine.execCurveq d a s
  | .caskout d a b c fl => Sys2Proof.Machine.execCaskout d a b c fl s
  | .caskin d a b c fl => Sys2Proof.Machine.execCaskin d a b c fl s
  | .vadd g d a b k => Sys2Proof.Machine.execVadd g d a b k s
  | .vsub g d a b k => Sys2Proof.Machine.execVsub g d a b k s
  | .vmul g d a b k => Sys2Proof.Machine.execVmul g d a b k s
  | .vfma g d a b k => Sys2Proof.Machine.execVfma g d a b k s
  | .vfms g d a b k => Sys2Proof.Machine.execVfms g d a b k s
  | .vmin g d a b k => Sys2Proof.Machine.execVmin g d a b k s
  | .vmax g d a b k => Sys2Proof.Machine.execVmax g d a b k s
  | .vabs g d a k => Sys2Proof.Machine.execVabs g d a k s
  | .vneg g d a k => Sys2Proof.Machine.execVneg g d a k s
  | .vand g d a b k => Sys2Proof.Machine.execVand g d a b k s
  | .vor g d a b k => Sys2Proof.Machine.execVor g d a b k s
  | .vxor g d a b k => Sys2Proof.Machine.execVxor g d a b k s
  | .vshl g d a b k => Sys2Proof.Machine.execVshl g d a b k s
  | .vshr g d a b k => Sys2Proof.Machine.execVshr g d a b k s
  | .vsha g d a b k => Sys2Proof.Machine.execVsha g d a b k s
  | .vaddx g d a b k => Sys2Proof.Machine.execVaddx g d a b k s
  | .vmulx g d a b k => Sys2Proof.Machine.execVmulx g d a b k s
  | .vfmax g d a b k => Sys2Proof.Machine.execVfmax g d a b k s
  | .vcmpeq g d a b k => Sys2Proof.Machine.execVcmpeq g d a b k s
  | .vcmplt g d a b k => Sys2Proof.Machine.execVcmplt g d a b k s
  | .vcmple g d a b k => Sys2Proof.Machine.execVcmple g d a b k s
  | .vcmpne g d a b k => Sys2Proof.Machine.execVcmpne g d a b k s
  | .vsel g d a b k => Sys2Proof.Machine.execVsel g d a b k s
  | .vcvt g d a k sf df r t n => Sys2Proof.Machine.execVcvt g d a k sf df r t n s
  | .vqnt g d a k ty au r x => Sys2Proof.Machine.execVqnt g d a k ty au r x s
  | .vdqnt g d a b k df => Sys2Proof.Machine.execVdqnt g d a b k df s
  | .vexp2 g d a k => Sys2Proof.Machine.execVexp2 g d a k s
  | .vlog2 g d a k => Sys2Proof.Machine.execVlog2 g d a k s
  | .vrcp g d a k => Sys2Proof.Machine.execVrcp g d a k s
  | .vrsqrt g d a k => Sys2Proof.Machine.execVrsqrt g d a k s
  | .vtanh g d a k => Sys2Proof.Machine.execVtanh g d a k s
  | .vdot4 g d a b k => Sys2Proof.Machine.execVdot4 g d a b k s
  | .vredadd g d a k => Sys2Proof.Machine.execVredadd g d a k s
  | .vredmax g d a k => Sys2Proof.Machine.execVredmax g d a k s
  | .vredmin g d a k => Sys2Proof.Machine.execVredmin g d a k s
  | .vscanadd g d a k => Sys2Proof.Machine.execVscanadd g d a k s
  | .vclass g d a k => Sys2Proof.Machine.execVclass g d a k s
  | .vmulh g d a b k => Sys2Proof.Machine.execVmulh g d a b k s
  | .vrndi g d a k => Sys2Proof.Machine.execVrndi g d a k s
  | .vld g d a im => Sys2Proof.Machine.execVld g d a im s
  | .vst g d a im => Sys2Proof.Machine.execVst g d a im s
  | .vlds g d a k x m o => Sys2Proof.Machine.execVlds g d a k x m o s
  | .vsts g d a k x o => Sys2Proof.Machine.execVsts g d a k x o s
  | .vgath g d a b k => Sys2Proof.Machine.execVgath g d a b k s
  | .vscat g d a b k => Sys2Proof.Machine.execVscat g d a b k s
  | .vldq g d q b k => Sys2Proof.Machine.execVldq g d q b k s
  | .vstq g d q b k => Sys2Proof.Machine.execVstq g d q b k s
  | .vbcx g d a k => Sys2Proof.Machine.execVbcx g d a k s
  | .vextx g d a b => Sys2Proof.Machine.execVextx g d a b s
  | .vinsx g d a b => Sys2Proof.Machine.execVinsx g d a b s
  | .vperm g d a b k => Sys2Proof.Machine.execVperm g d a b k s
  | .vslide g d a b k => Sys2Proof.Machine.execVslide g d a b k s
  | .vzip g d a b k => Sys2Proof.Machine.execVzip g d a b k s
  | .vunzip g d a b k => Sys2Proof.Machine.execVunzip g d a b k s
  | .viota g d k => Sys2Proof.Machine.execViota g d k s
  | .vmov g d a k => Sys2Proof.Machine.execVmov g d a k s
  | .kand g d a b => Sys2Proof.Machine.execKand g d a b s
  | .kor g d a b => Sys2Proof.Machine.execKor g d a b s
  | .kxor g d a b => Sys2Proof.Machine.execKxor g d a b s
  | .knot g d a => Sys2Proof.Machine.execKnot g d a s
  | .kpopc g d a => Sys2Proof.Machine.execKpopc g d a s
  | .kfirst g d a => Sys2Proof.Machine.execKfirst g d a s
  | .kmovx g d a => Sys2Proof.Machine.execKmovx g d a s
  | .xmovk g d a => Sys2Proof.Machine.execXmovk g d a s
  | .vamadd g d a b k => Sys2Proof.Machine.execVamadd g d a b k s
  | .vammin g d a b k => Sys2Proof.Machine.execVammin g d a b k s
  | .vcompress g d a k => Sys2Proof.Machine.execVcompress g d a k s
  | .vexpand g d a k => Sys2Proof.Machine.execVexpand g d a k s
  | .vsett g d a b => Sys2Proof.Machine.execVsett g d a b s
  | .mcall g j => Sys2Proof.Machine.execMcall g j s
  | .mparw g n a => Sys2Proof.Machine.execMparw g n a s
  | .mparr g d n => Sys2Proof.Machine.execMparr g d n s
  | .mldj g d a j => Sys2Proof.Machine.execMldj g d a j s
  | .mretire g d => Sys2Proof.Machine.execMretire g d s
  | .mfence g => Sys2Proof.Machine.execMfence g s
  | .mrot g a => Sys2Proof.Machine.execMrot g a s
  | .mstat g d a => Sys2Proof.Machine.execMstat g d a s
  | .cpy g d a b f l e h => Sys2Proof.Machine.execCpy g d a b f l e h s
  | .cpyt g d a b f l e h => Sys2Proof.Machine.execCpyt g d a b f l e h s
  | .cpyg g d a b f l e h => Sys2Proof.Machine.execCpyg g d a b f l e h s
  | .cpys g d a b f l e h => Sys2Proof.Machine.execCpys g d a b f l e h s
  | .cpym g d a b f l e m => Sys2Proof.Machine.execCpym g d a b f l e m s
  | .cpyq g d a b f l e => Sys2Proof.Machine.execCpyq g d a b f l e s
  | .cpya g d a b f l e t => Sys2Proof.Machine.execCpya g d a b f l e t s
  | .cpf g d a f l e q => Sys2Proof.Machine.execCpf g d a f l e q s
  | .cph g d a b f l e dir tgt port rs => Sys2Proof.Machine.execCph g d a b f l e dir tgt port rs s
  | .ccan g d a => Sys2Proof.Machine.execCcan g d a s
  | .cpub g d a f e => Sys2Proof.Machine.execCpub g d a f e s
  | .cqry g d a => Sys2Proof.Machine.execCqry g d a s
  | .bdef g d a b l => Sys2Proof.Machine.execBdef g d a b l s
  | .mod r t h f m => Sys2Proof.Machine.execMod r t h f m s
  | .imm im => Sys2Proof.Machine.execImm im s
  | .xfer g t => Sys2Proof.Machine.execXfer g t s
  | .xferLink t => Sys2Proof.Machine.execXferLink t s
  | .jLdw p f => Sys2Proof.Machine.execJLdw p f s
  | .jSwapw => Sys2Proof.Machine.execJSwapw s
  | .jSkipmap p => Sys2Proof.Machine.execJSkipmap p s
  | .jStrm p f k r o e m => Sys2Proof.Machine.execJStrm p f k r o e m s
  | .jAccz k t => Sys2Proof.Machine.execJAccz k t s
  | .jLoop t c n => Sys2Proof.Machine.execJLoop t c n s
  | .jLoopReg t c r => Sys2Proof.Machine.execJLoopReg t c r s
  | .jAddp d im => Sys2Proof.Machine.execJAddp d im s
  | .jAddpReg d a => Sys2Proof.Machine.execJAddpReg d a s
  | .jWaitq q k n => Sys2Proof.Machine.execJWaitq q k n s
  | .jAdvq q e n => Sys2Proof.Machine.execJAdvq q e n s
  | .jBias e p => Sys2Proof.Machine.execJBias e p s
  | .jScale e => Sys2Proof.Machine.execJScale e s
  | .jScaleVec p => Sys2Proof.Machine.execJScaleVec p s
  | .jRetire p f k r t o n => Sys2Proof.Machine.execJRetire p f k r t o n s
  | .jSig p n => Sys2Proof.Machine.execJSig p n s
  | .jEnd => Sys2Proof.Machine.execJEnd s
  | .railsetWrite => Sys2Proof.Machine.execRailsetWrite s
  | .railRampEnd => Sys2Proof.Machine.execRailRampEnd s
  | .freqLockDone => Sys2Proof.Machine.execFreqLockDone s
  | .gateHeldRelease => Sys2Proof.Machine.execGateHeldRelease s
  | .ungateComplete => Sys2Proof.Machine.execUngateComplete s
  | .thermalPoll => Sys2Proof.Machine.execThermalPoll s
  | .mgmtFirmwareUpdate => Sys2Proof.Machine.execMgmtFirmwareUpdate s
  | .handover => Sys2Proof.Machine.execHandover s
  | .hbmChannelRetire => Sys2Proof.Machine.execHbmChannelRetire s
  | .linkctlGo => Sys2Proof.Machine.execLinkctlGo s
  | .linkTrainComplete => Sys2Proof.Machine.execLinkTrainComplete s
  | .routeRelease => Sys2Proof.Machine.execRouteRelease s
  | .flitSend => Sys2Proof.Machine.execFlitSend s
  | .flitReceive => Sys2Proof.Machine.execFlitReceive s
  | .replayRequest => Sys2Proof.Machine.execReplayRequest s
  | .flitAck => Sys2Proof.Machine.execFlitAck s
  | .laneRetire => Sys2Proof.Machine.execLaneRetire s
  | .drainMarkerAck => Sys2Proof.Machine.execDrainMarkerAck s
  | .drainTimeout => Sys2Proof.Machine.execDrainTimeout s
  | .permitGrant => Sys2Proof.Machine.execPermitGrant s
  | .permitAudit => Sys2Proof.Machine.execPermitAudit s
  | .replayWindowEnd => Sys2Proof.Machine.execReplayWindowEnd s
  | .peerPortDown => Sys2Proof.Machine.execPeerPortDown s
  | .peerstatWrite => Sys2Proof.Machine.execPeerstatWrite s
  | .peerTrainComplete => Sys2Proof.Machine.execPeerTrainComplete s
  | .hostWriteTlp => Sys2Proof.Machine.execHostWriteTlp s
  | .hostRead => Sys2Proof.Machine.execHostRead s
  | .ingressStagingMove => Sys2Proof.Machine.execIngressStagingMove s
  | .ingressStall => Sys2Proof.Machine.execIngressStall s
  | .pcieReset => Sys2Proof.Machine.execPcieReset s
  | .pcieLinkUp => Sys2Proof.Machine.execPcieLinkUp s
  | .strmctlGo => Sys2Proof.Machine.execStrmctlGo s
  | .strmctlHalt => Sys2Proof.Machine.execStrmctlHalt s
  | .streamRegWrite => Sys2Proof.Machine.execStreamRegWrite s
  | .nqbaseWrite => Sys2Proof.Machine.execNqbaseWrite s
  | .nqctlWrite => Sys2Proof.Machine.execNqctlWrite s
  | .nqheadWrite => Sys2Proof.Machine.execNqheadWrite s
  | .msixWindowClose => Sys2Proof.Machine.execMsixWindowClose s
  | .msixVectorUnmask => Sys2Proof.Machine.execMsixVectorUnmask s
  | .deviceStart => Sys2Proof.Machine.execDeviceStart s
  | .bootReady => Sys2Proof.Machine.execBootReady s
  | .auxPowerOn => Sys2Proof.Machine.execAuxPowerOn s
  | .auxPowerOff => Sys2Proof.Machine.execAuxPowerOff s
  | .sealGo => Sys2Proof.Machine.execSealGo s
  | .sealComplete => Sys2Proof.Machine.execSealComplete s
  | .attestGo => Sys2Proof.Machine.execAttestGo s
  | .attestDone => Sys2Proof.Machine.execAttestDone s
  | .hostGroupApplied => Sys2Proof.Machine.execHostGroupApplied s
  | .dispatch => Sys2Proof.Machine.execDispatch s
  | .slabIssue => Sys2Proof.Machine.execSlabIssue s
  | .heartbeat => Sys2Proof.Machine.execHeartbeat s
  | .dieLost => Sys2Proof.Machine.execDieLost s
  | .pointFire => Sys2Proof.Machine.execPointFire s
  | .taskComplete => Sys2Proof.Machine.execTaskComplete s
  | .defbudgetWrite => Sys2Proof.Machine.execDefbudgetWrite s
  | .curveGo => Sys2Proof.Machine.execCurveGo s
  | .curveVerifyDone => Sys2Proof.Machine.execCurveVerifyDone s
  | .curveInForce => Sys2Proof.Machine.execCurveInForce s
  | .curveExpire => Sys2Proof.Machine.execCurveExpire s
  | .fkeyInstall => Sys2Proof.Machine.execFkeyInstall s
  | .fkeyLock => Sys2Proof.Machine.execFkeyLock s
  | .thermtabWrite => Sys2Proof.Machine.execThermtabWrite s
  | .maltsterLoop => Sys2Proof.Machine.execMaltsterLoop s
  | .curtailmentEnd => Sys2Proof.Machine.execCurtailmentEnd s
  | .bandCheck => Sys2Proof.Machine.execBandCheck s
  | .parktask => Sys2Proof.Machine.execParktask s
  | .resumetask => Sys2Proof.Machine.execResumetask s
  | .gatedie => Sys2Proof.Machine.execGatedie s
  | .ungatedie => Sys2Proof.Machine.execUngatedie s
  | .draindie => Sys2Proof.Machine.execDraindie s
  | .repairdie => Sys2Proof.Machine.execRepairdie s
  | .repairlink => Sys2Proof.Machine.execRepairlink s
  | .pwrcmdBadCode => Sys2Proof.Machine.execPwrcmdBadCode s
  | .implicitPeg => Sys2Proof.Machine.execImplicitPeg s
  | .pegStall => Sys2Proof.Machine.execPegStall s
  | .watchdogExpire => Sys2Proof.Machine.execWatchdogExpire s
  | .rotationQuantumEnd => Sys2Proof.Machine.execRotationQuantumEnd s
  | .bayRotateComplete => Sys2Proof.Machine.execBayRotateComplete s
  | .freezeComplete => Sys2Proof.Machine.execFreezeComplete s
  | .loadDataArrive => Sys2Proof.Machine.execLoadDataArrive s
  | .gaugeWake => Sys2Proof.Machine.execGaugeWake s
  | .ticketBroadcast => Sys2Proof.Machine.execTicketBroadcast s
  | .queueWaitComplete => Sys2Proof.Machine.execQueueWaitComplete s
  | .shadowLoadDone => Sys2Proof.Machine.execShadowLoadDone s
  | .jigDepthExpire => Sys2Proof.Machine.execJigDepthExpire s
  | .copyComplete => Sys2Proof.Machine.execCopyComplete s
  | .cancelAck => Sys2Proof.Machine.execCancelAck s
  | .conflictRollback => Sys2Proof.Machine.execConflictRollback s
  | .tsfloorPublish => Sys2Proof.Machine.execTsfloorPublish s
  | .homeRd => Sys2Proof.Machine.execHomeRd s
  | .homeEx => Sys2Proof.Machine.execHomeEx s
  | .homeUp => Sys2Proof.Machine.execHomeUp s
  | .homeNr => Sys2Proof.Machine.execHomeNr s
  | .homeWb => Sys2Proof.Machine.execHomeWb s
  | .homeData => Sys2Proof.Machine.execHomeData s
  | .ownerFwd => Sys2Proof.Machine.execOwnerFwd s
  | .bankHoldEnd => Sys2Proof.Machine.execBankHoldEnd s
  | .cacheWriteback => Sys2Proof.Machine.execCacheWriteback s
  | .registerWrite => Sys2Proof.Machine.execRegisterWrite s
  | .destinationUnitWritten => Sys2Proof.Machine.execDestinationUnitWritten s
  | .mgmtCoreReturn => Sys2Proof.Machine.execMgmtCoreReturn s
  | .mainPowerOff => Sys2Proof.Machine.execMainPowerOff s
  | .remoteAnswerArrive => Sys2Proof.Machine.execRemoteAnswerArrive s

end Sys2Proof.Machine
end

