-- ==== Sys2Proof/Machine/Bundle.lean ====
section
/-! DEFINITION. One bundle of a core or a command sequencer, one micro-word of a jig, the passing of time
(spec/07_casks.md R135 to R148, spec/08_core.md R172 to R177, spec/12_encoding.md R269 to R279,
spec/15_isa_matrix_copy.md R374). -/

namespace Sys2Proof.Machine

open Sys2Proof.Bits

/-- Goes on from a next state. -/
def andThen (o : Out) (k : State → Out) : Out :=
  match o with
  | .next s => k s
  | .fault f => .fault f
  | .refused r => .refused r

/-- Runs instructions one after another. -/
def runAll : List Instr → State → Out
  | [], s => .next s
  | i :: is, s => andThen (exec i s) (runAll is)

/-- Runs a bundle's ops in the order of their slots, each after its prefixes; the first trap or stall ends
it, but for a host window that waits, behind which later slots may trap (R63, R143, R173). -/
def runGroups (first : Bool) : List (Nat × Group) → State → Out
  | [], s => .next s
  | (slot, g) :: rest, s =>
    if s.bundle.trap.isSome ∨ (s.bundle.stall ≠ .none ∧ s.bundle.stall ≠ .hwin) then .next s
    else
      andThen
        (runAll (g.mods ++ [g.op]) { s with bundle := { s.bundle with
          slot := slot, first := first && slot == 4 && g.mods.isEmpty, mod := none, imm := none, hint := none } })
        (runGroups first rest)

/-- Runs the ops of a bundle from a clean slate. -/
def State.runBundle (s : State) (f : Fetched) (pegs : Bool) : Out :=
  let pc := s.scalar.pc
  runGroups f.first f.ops { s with bundle := {
    pc := pc, peg := pegs, meets := s.bundle.meets, next := BitVec.ofNat 52 (s.nextStart (pc.toNat + 4 * f.len)) } }

/-- A core's bundle after its ops, from the state `s` before it: it traps, stalls or retires. -/
def State.afterCore (s : State) (n : Nat) (t : State) : State :=
  match t.bundle.trap with
  | some r => (if t.bundle.keep then t else s).takeTrap r t.bundle.pc
  | none =>
    if t.bundle.stall ≠ .none then s.stallCore t n t.bundle.stall
    else if t.overfull then s.hold n .landing
    else if (t.core n).frame then t.retireFrame n
    else t.retirePoint n

/-- An XFER whose guard holds, and the target-buffer entry it uses (R183, R277). -/
def State.xferEntry (s : State) : Instr → Option (BitVec 2)
  | .xfer g t => if s.pr g then some t else none
  | .xferLink t => some t
  | _ => none

/-- A TPREP or TPREPX of an entry whose guard holds (R183, R321). -/
def State.preps (s : State) (t : BitVec 2) : Instr → Bool
  | .tprep g n _ | .tprepx g n _ => s.pr g && n == t
  | _ => false

/-- The cycles that a bundle's XFER stalls: 3 − k in the k-th bundle after its TPREP (R183). -/
def State.xferStall (s : State) (ops : List Instr) : Nat :=
  match ops.findSome? s.xferEntry with
  | none => 0
  | some t => if ops.any (s.preps t) then 3 else (s.tbr t).fetching

/-- A bundle that waits for reasons other than its XFER has stalled for it already (R175). -/
def Wait.untried : Wait → Bool
  | .none | .late | .peg => true
  | _ => false

/-- The stall of an XFER that follows its TPREP closely: CYC counts its cycles (R175, R180, R183). -/
def State.awaitTarget (s : State) (ops : List Instr) : State :=
  let k := s.xferStall ops
  if k = 0 then s
  else match s.focus with
  | .core n => s.modCore n (fun c => if c.wait.untried then { c with cyc := (c.cyc + k) % 2 ^ 64 } else c)
  | .seq n => if (s.seq n).wait.untried then s.setSeq n { s.seq n with cyc := ((s.seq n).cyc + k) % 2 ^ 64 } else s
  | .jig _ => s

/-- The line of the bundle is to be fetched from a bank that is held (R209, R218). -/
def State.fetchHeld (s : State) (n : Nat) : Option Nat :=
  (s.fetchMiss n).bind (fun m => if s.rowHeld m.1 then some m.1 else none)

/-- A core's fetch waits for its bank; it counts among the requests held once (R218). -/
def State.holdFetch (s : State) (n line : Nat) : State :=
  let w : Wait := .line line ⟨.up, n, 0, none⟩
  if (s.core n).wait = w then s else (s.noteHeld line).hold n w

/-- A core issues the bundle at its pc. Words that are no bundle, which no sealed image holds (R290), leave it there
(R2, log entry 27). -/
def State.issueCore (s : State) (n : Nat) : Out :=
  let s := s.noteFetch n
  let c := s.core n
  match s.fetchBundle with
  | none => .next (s.hold n .none)
  | some (.error t) => .next (s.takeTrap t s.scalar.pc)
  | some (.ok f) =>
    let pegs := !c.frame && f.ops.any (fun g => commits g.2.op)
    if !c.frame && c.pressed ((f.ops.map (fun g => storeLines g.2.op)).sum) then .next (s.implicitPeg n .none)
    else match (if pegs then s.pegGate n else .free) with
      | .calling => .next (s.hold n .peg)
      | .late => .next (s.hold n .late)
      | .bad t => .next (s.trapPoint n t c.pt.sc.pc)
      | .free =>
        let s := s.awaitTarget (f.ops.map (fun g => g.2.op))
        andThen ((if pegs then s.release n else s).runBundle f pegs) (fun t => .next (s.afterCore n t))

/-- What a due result that has not landed gives: a wait for its data, or the trap of its fault (R177,
R223). -/
def State.unlanded (s : State) : Option (Option TrapRec) :=
  match dueOf (if s.mode = .point then s.scalar.pend ++ s.my.fr.pend else s.scalar.pend) with
  | [] => none
  | ps => some (if ps.all (·.arrived) then ps.findSome? (·.bad) else none)

/-- A core wakes for its bundle: PTS is at least TSFLOOR (R228), a wake event is noted (R244). -/
def Core.rouse (c : Core) (floor : Nat) : Core :=
  { c with pts := max c.pts floor,
           woken := c.woken || (match c.wait with | .gauge _ w _ => w | _ => false) }

/-- Whether a core's asynchronous trap, arrived since its last step, arrives in the cycle of the bundle that it takes
now and not before it (R146, log entry 87); from now on its traps have arrived. -/
def State.meeting (s : State) (n : Nat) : Bool × State :=
  let c := s.core n
  if c.async.isEmpty then (false, s)
  else
    let t := s.modCore n (fun c => { c with async := c.async.map (fun a => { a with fresh := false }) })
    if !c.requested || c.rotate || c.wait.asleep || !c.async.all (·.fresh) then (false, t)
    else match s.meet with
      | [] => (false, t)
      | b :: bs => (b, { t with meet := bs })

/-- A core comes to its bundle: its logical time is at least TSFLOOR, and what is due lands. -/
def State.comeTo (s : State) (n : Nat) (meets : Bool) : State :=
  (({ s with bundle := { meets := meets } }).modCore n (fun c => c.rouse s.tsfloor)).settleBoth

/-- A core's step: a request is met by an implicit peg, else the bundle at its pc is taken. -/
def State.coreStep (s : State) (n : Nat) : Out :=
  if !s.issuing n then .next s
  else
    let m := s.meeting n
    let s := m.2
    let c := s.core n
    if c.requested && !m.1 && !s.groupIn (.core n) then .next (State.implicitPeg { s with bundle := {} } n c.wait)
    else if c.wait.asleep && !(c.owed && !c.frame) then .next s
    else
      let s := s.comeTo n m.1
      match s.unlanded with
      | some none => .next (s.hold n .late)
      | some (some t) => .next (s.takeTrap t s.scalar.pc)
      | none => match s.fetchHeld n with
        | some l => .next (s.holdFetch n l)
        | none => s.issueCore n

/-- A command sequencer's bundle after its ops. -/
def State.afterSeq (s : State) (n : Nat) (t : State) : State :=
  match t.bundle.trap with
  | some r => (if t.bundle.keep then t else s).takeTrap r t.bundle.pc
  | none => if t.bundle.stall ≠ .none then s.stallSeq n t.bundle.stall else t.retireSeq n

/-- The stream's sequencer issues: it runs, or tries again the operation that holds it in WAIT; a host write group that
it waits for has been applied (R57, R63). -/
def State.seqIssuing (s : State) (n : Nat) : Bool :=
  ((s.strm n).st == .run || ((s.strm n).st == .wait && ((s.seq n).wait == .table || (s.seq n).wait == .hwin)))
    && !s.hwinFrozen (.seq n)

/-- A command sequencer's fetch, which no instruction cache holds, reads its line at the home (R209, R217, R221). -/
def State.noteSeqFetch (s : State) : State :=
  match s.resolve s.view .fetch s.scalar.pc.toNat with
  | .ok (.cell pa leaf) => (s.noteTlb s.view s.scalar.pc.toNat).readLine (pa / 128) leaf 0
  | _ => s

/-- The line of a command sequencer's fetch lies in a held bank (R218). -/
def State.seqFetchHeld (s : State) : Option Nat :=
  match s.resolve s.view .fetch s.scalar.pc.toNat with
  | .ok (.cell pa _) => if s.rowHeld (pa / 128) then some (pa / 128) else none
  | _ => none

/-- A command sequencer's fetch waits for its bank; it counts among the requests held once (R218). -/
def State.holdSeq (s : State) (n line : Nat) : State :=
  let w : Wait := .line line ⟨.up, 640 + n, 0, none⟩
  if (s.seq n).wait = w then s else let s := s.noteHeld line; s.setSeq n { s.seq n with wait := w }

/-- A command sequencer's step (R299). Words that are no bundle leave it where it is (R2, log entry 27). -/
def State.seqStep (s : State) (n : Nat) : Out :=
  if !s.seqIssuing n then .next s
  else
    let s := if (s.strm n).st = .run then s else s.modStrm n (fun x => { x with st := .run })
    let s := (s.setSeq n { s.seq n with pts := max (s.seq n).pts s.tsfloor }).settle
    match s.unlanded with
    | some none => .next (s.stallSeq n .late)
    | some (some t) => .next (s.takeTrap t s.scalar.pc)
    | none =>
    if let some l := s.seqFetchHeld then .next (s.holdSeq n l) else
      let s := s.noteSeqFetch
      match s.fetchBundle with
      | none => .next s
      | some (.error t) => .next (s.takeTrap t s.scalar.pc)
      | some (.ok f) =>
        let s := s.awaitTarget (f.ops.map (fun g => g.2.op))
        andThen (s.runBundle f false) (fun t => .next (s.afterSeq n t))

/-- A matrix sequencer's step: the next micro-word of the running call (R374), or the end that its gauge's line has
kept waiting; late data stops it with its core (R175). A word that is no micro-word leaves it there (R2, log entry
27). -/
def State.jigStep (s : State) (n : Nat) : Out :=
  let c := s.core n
  if !s.clocked n || c.frame || c.wait == .late then .next s
  else match c.mx.call with
    | none => .next s
    | some k => match k.ending with
      | some code => .next (s.endCall code)
      | none =>
        match ((find? c.jigs k.jig).map (fun j => nth j.words k.idx 0#32)).map decodeJig with
        | some (.ok i) => exec i s
        | _ => .next s

/-- A step of the agent in focus. -/
def State.agentStep (s : State) : Out :=
  match s.focus with
  | .core n => s.coreStep n
  | .seq n => s.seqStep n
  | .jig n => s.jigStep n

/-! ### Time -/

/-- The frequency of a step in MHz (R19). -/
def stepMhz (step : Nat) : Nat := nth [3600, 3200, 2800, 2400, 2000, 1600, 1200, 800] step 0

/-- Waits with the clock running and no bundle retiring: CYC counts their cycles (R175, R180). -/
def Wait.counts : Wait → Bool
  | .atomics | .call | .peg | .landing | .copySlots | .fence => true
  | _ => false

/-- The cause that a core's freeze for late data is charged to: of its causes the first in the order of R213. A load
that waits for its line to be served stands there for its landing (log entry 18). -/
def State.lateCause (s : State) (c : Core) : Option Nat :=
  match c.wait with
  | .late => some (((c.pt.sc.pend ++ c.fr.pend).filter (fun p => !p.arrived)).foldl (fun m p => min m p.why) 4)
  | .line l q => if q.kind = .rd then some (if s.rowHeld l then 2 else 4) else none
  | _ => none

/-- Reference ticks pass for a core with power: a core that no point holds counts the cycles of its clock; of one that
holds a point the watchdog and the peg's stall count, the cycles of a stall, a freeze counted with the first of its
causes (R140, R148, R180, R213). -/
def Core.elapse (c : Core) (ticks cycles : Nat) (cause : Option Nat) : Core :=
  if c.point.isNone then { c with cyc := (c.cyc + cycles) % 2 ^ 64 }
  else if c.frozen then c
  else
    { c with lateTicks := if cause.isSome then c.lateTicks + ticks else c.lateTicks,
             lateWhy := match cause with
               | some k => min c.lateWhy k
               | none => c.lateWhy,
             cyc := if c.wait.counts then (c.cyc + cycles) % 2 ^ 64 else c.cyc,
             wdogTicks := if c.wait.stopsClock then 0 else c.wdogTicks + ticks,
             stallTicks := if c.wait = .peg then c.stallTicks + ticks else c.stallTicks }

/-- Time-base µs pass on a link that is UP (R49). -/
def Link.elapse (l : Link) (us : Nat) : Link :=
  let d (x : LinkDir) : LinkDir :=
    { x with ratetime := Vector.ofFn (fun i => if i.val = l.rate then (x.ratetime[i] + us) % 2 ^ 64 else x.ratetime[i]) }
  if l.st = .up then { l with d0 := d l.d0, d1 := d l.d1 } else l

/-- Reference ticks pass for the links, of which those in the default state are not listed (R6, R49). -/
def State.passLinks (s : State) (ticks : Nat) : State :=
  let us := (s.tick + ticks) / 100 - s.tick / 100
  if us = 0 then s
  else { s with fab := { s.fab with links := (List.range 24).map (fun n => (n, (s.link n).elapse us)) } }

/-- The cycles of a bay's clock in the ticks that pass (R6, R19). -/
def State.cyclesIn (s : State) (pb ticks : Nat) : Nat :=
  let f := stepMhz (s.bp pb).step
  (s.tick + ticks) * f / 100 - s.tick * f / 100

/-- Reference ticks pass (R6); publications of TSFLOOR that fell due and were not taken happen (R228), drains that
may start do so (R164), and power commands held in a hand-over go on (R28). -/
def State.pass (s : State) (ticks : Nat) : State :=
  let s := s.passLinks ticks
  let t := { s with tick := s.tick + ticks,
                    cores := (List.range 640).map (fun n =>
                      let c := s.core n
                      (n, if s.powered n then c.elapse ticks (s.cyclesIn (n / 8) ticks) (s.lateCause c) else c)) }
  ((t.publishFloor ((t.tick - 1) / 1000)).runDrains).takeHeldCmds

/-- One turn of the agenda; the agent in focus stays. -/
def State.takeTurn (s : State) : Turn → Out
  | .event i inp => if i.cls = 11 then exec i { s with inp := inp } else .next s
  | .agent a => andThen ({ s with focus := a }).agentStep (fun t => .next { t with focus := s.focus })
  | .pass n => .next (s.pass n)
  | .reload pb block => .next (s.reloadJigs pb block)

/-- The next turn of the agenda, or a step of the agent in focus. -/
def State.advanceMachine (s : State) : Out :=
  match s.agenda with
  | [] => s.agentStep
  | t :: ts => ({ s with agenda := ts }).takeTurn t

end Sys2Proof.Machine
end

