-- ==== Sys2Proof/Machine/Step.lean ====
section
/-! DEFINITION. One step of the machine, and the placing of one instruction where the next step fetches
(log entry 3). -/

namespace Sys2Proof.Machine

open Sys2Proof.Bits

/-- One step: the next turn of the agenda, or a step of the agent in focus (log entry 1). -/
def step (s : State) : Host.Outcome State Fault Refusal := s.advanceMachine

/-- An instruction that issues in frame mode only (R287). -/
def frameOnly : Instr → Bool
  | .eret | .pinw .. | .unpinw .. | .tlbinv .. | .linkset .. | .dirtyh .. => true
  | _ => false

/-- An instruction of command programs only (R287). -/
def streamOnly : Instr → Bool
  | .job .. | .task .. | .opt .. | .depv .. | .tset .. | .launch .. | .jwait .. | .notify .. => true
  | .curveq .. | .caskout .. | .caskin .. => true
  | _ => false

/-- The words of a bundle that carries one instruction: a prefix needs an op that takes it (R278). -/
def bundleFor (nbits w : Nat) : List W32 :=
  let ws := tableWords nbits w
  let head := nth ws 0 0#32 ||| 0x80000000#32
  let own := if wordK head = 1 then [head, nth ws 1 0#32] else [head]
  match decodeTableWord nbits w with
  | some (.mod ..) => own ++ [0x00020000#32, fillWord]
  | some (.imm ..) => own ++ [0x00060000#32, fillWord]
  | _ => own ++ [fillWord]

/-- A sealed page of stack 0's memory at virtual address 0, its tables, and words at address 0x100. -/
def State.withImage (s : State) (ws : List W32) : State :=
  let put8 (m : List Host.Cell) (a v : Nat) : List Host.Cell := Memory.setAll m a (leBytes 8 v)
  let m := put8 s.mem 0 0x4001
  let m := put8 m 0x4000 0x6001
  let m := put8 m 0x6000 0x6201
  let m := put8 m 0x6200 0x2000000008001F
  let m := Memory.setAll m 0x80100 (ws.flatMap (fun w => leBytes 4 w.toNat))
  let s := s.setCtx 0 { s.ctx 0 with root := 1#64, bufs := [] }
  { s with mem := m, sealSet := addOnce s.sealSet 1, tlb := [], agenda := [], bundle := {}, inp := {},
           health := {} }

/-- Core 0 holds a point and issues at address 0x100, in the given mode. -/
def State.readyCore (s : State) (frame : Bool) : State :=
  let s := s.setDie 0 { s.die 0 with power := .on, lost := false }
  let sc (r : Scalar) : Scalar := { r with pc := 0x100#52, pend := [], just := 0 }
  s.modCore 0 (fun c => { c with
    point := some (0, [0, 0, 0, 0]), stream := 0, frame := frame, frozen := false, rotate := false, async := [],
    wait := .none, withheld := [], nr := [], pt := { c.pt with sc := sc c.pt.sc },
    peg := { c.peg with sc := sc c.peg.sc }, fr := sc c.fr, mx := { c.mx with call := none, queued := none } })

/-- A state whose next step fetches and runs the instruction whose bits are `w`, numbered as the opcode
table numbers them: a program word on core 0 or on stream 0's sequencer, a micro-word in core 0's jig. -/
def State.withFetchWord (s : State) (nbits w : Nat) : State :=
  match decodeTableWord nbits w with
  | some i =>
    if i.cls = 10 then
      let s := (s.withImage []).readyCore false
      let s := s.modCore 0 (fun c => { c with
        jigs := put c.jigs 0 { depth := 65536, words := [BitVec.ofNat 32 w] },
        mx := { c.mx with call := some { jig := 0, jp := Vector.replicate 8 0#64, mp := Vector.replicate 8 0#64, snap := s.mem } } })
      { s with focus := .jig 0 }
    else if streamOnly i then
      let s := s.withImage (bundleFor nbits w)
      let s := s.setSeq 0 { s.seq 0 with sc := { (s.seq 0).sc with pc := 0x100#52, pend := [] }, wait := .none, jwait := none }
      { s.modStrm 0 (fun x => { x with st := .run }) with focus := .seq 0 }
    else { ((s.withImage (bundleFor nbits w)).readyCore (frameOnly i)) with focus := .core 0 }
  | none => { ((s.withImage (bundleFor nbits w)).readyCore false) with focus := .core 0 }

end Sys2Proof.Machine
end

