-- ==== Sys2Proof/Safety.lean ====
section
/-! DEFINITION. The terms in which statements about the machine speak: the guard of an op, a bundle of
one op, what a step adds around it, results on their way, the bytes an agent reads. -/

namespace Sys2Proof.Machine

open Sys2Proof.Bits

/-- The guard field of an op or an XFER: bits [25:23] of its first word (R271, R277). -/
def guardOf (i : Instr) : BitVec 3 := (nth (encode false i) 0 0#32).extractLsb' 23 3

/-- The bundle being issued has met neither a trap nor a stall. -/
def State.clean (s : State) : Prop := s.bundle.trap = none ∧ s.bundle.stall = .none

/-- The number of an op's slot in a bundle of its own: S 0, V0 1, M 3, C0 4, an XFER 6 (R172). -/
def firstSlot (i : Instr) : Nat := nth [0, 1, 3, 4, 6] i.slotClass 6

/-- The bundle register as an op without prefixes finds it, alone in the bundle at the agent's pc whose
words `ws` the fetch gave. -/
def State.loneBundle (s : State) (i : Instr) (pegs first : Bool) : State :=
  { s with bundle := {
      pc := s.scalar.pc, peg := pegs, meets := s.bundle.meets, slot := firstSlot i, first := first && firstSlot i == 4,
      next := BitVec.ofNat 52 (s.nextStart (s.scalar.pc.toNat + 4 * (encode true i).length)) } }

/-- The words at the agent's pc are a bundle of one op: the op's words, then a word with B = 1 or none. -/
def State.atLone (s : State) (i : Instr) : Prop :=
  ∃ ws rest, s.fetch s.scalar.pc.toNat = .ok ws ∧ ws = encode true i ++ rest ∧
    (∀ w ∈ rest.head?, wordB w = true)

/-- The results of an agent that are due at its bundle have their data and no fault. -/
def State.dueReady (s : State) : Prop := ∀ p ∈ dueOf s.scalar.pend, p.arrived = true ∧ p.bad = none

/-- A result is the last of a list that writes an x register. -/
def lastX (ps : List Pending) (i : BitVec 5) : Option W64 :=
  ps.reverse.findSome? (fun p => match p.dest with
    | .x j v => if j = i then some v else none
    | .phase j v => if j = i then some v else none
    | _ => none)

/-- A result is the last of a list that writes a predicate. -/
def lastP (ps : List Pending) (i : BitVec 3) : Option Bool :=
  ps.reverse.findSome? (fun p => match p.dest with
    | .p j v => if j = i then some v else none
    | _ => none)

/-- A byte as the agent's own loads find it: in its newest withheld store, or in memory (R136). -/
def State.ownByte (s : State) (pa : Nat) : Byte :=
  match s.focus with
  | .seq _ => Memory.get s.mem pa
  | _ => (s.my.ownByte pa).getD (Memory.get s.mem pa)

/-! ### Operands as the encoding gives them -/

/-- A 7-bit immediate with the IMM prefix before the op, if there is one, as a 64-bit value (R276). -/
def State.imm7 (s : State) (i : BitVec 7) : W64 :=
  match s.bundle.imm with
  | none => i.signExtend 64
  | some p => (p ++ i).signExtend 64

/-- The value nearest to `v` between two bounds. -/
def clampTo (lo hi v : Int) : Int := if v < lo then lo else if hi < v then hi else v

/-- `v` is the 64-bit value of the exact result `e` under SAT 01 or 10 with the flags `fl` (R259): the nearest
value of the signed or unsigned range, and SAT exactly when it is not `e`. -/
def Saturates (sat : Nat) (e : Int) (v : W64) (fl : BitVec 6) : Prop :=
  (if sat = 1 then v.toInt else (v.toNat : Int)) =
    clampTo (if sat = 1 then -(2 ^ 63) else 0) (if sat = 1 then 2 ^ 63 - 1 else 2 ^ 64 - 1) e ∧
  fl = (if (if sat = 1 then v.toInt else (v.toNat : Int)) = e then 0#6 else flSAT)

/-- A register as the exact operand of an op under SAT 01 (signed) or 10 (unsigned) (R300). -/
def satOperand (sat : Nat) (v : W64) : Int := if sat = 1 then v.toInt else (v.toNat : Int)

/-! ### Accesses -/

/-- A line that the agent can access at once: no other core withholds a store to it; no request waits for it, and it
lies in a vault, or its home is idle with its bank free, or the core owns it (R218, R229 to R232); the core has no L1
copy of it but its own line. -/
structure State.Serves (s : State) (line : Nat) : Prop where
  free : s.holderOf line = none
  home : (s.owns line = true ∧ isTier (128 * line) = true) ∨
    ((s.line line).queue = [] ∧
      (isTier (128 * line) = false ∨ ((s.line line).home = .idle ∧ s.rowHeld line = false)))
  copy : s.mode ≠ .seq → ∀ k ∈ s.my.l1, k.line = line → k.own = true

/-- The data that an access of `n` bytes from cell `pa` on reads or merges with is good, and so is that of the
core's earlier stores (R219 to R223). -/
structure State.Good (s : State) (pa n : Nat) (leaf : Option Nat) : Prop where
  data : ∀ k, k < n → s.lineFault (pa + k) leaf = none
  merge : s.mergeFault pa n leaf = none
  stores : s.mode ≠ .seq → ∀ w ∈ s.my.withheld, w.bad = none

/-- An access of `n` bytes at `va` reaches the bytes from cell `pa` on, through the leaf at `leaf`, within one
line that the agent can access at once; where the line's bank could be held by a walk's own reads, the translation is in
the TLB (R204, R217, R218). -/
structure State.Reaches (s : State) (acc : Acc) (va n pa : Nat) (leaf : Option Nat) : Prop where
  space : va < 2 ^ 52
  window : va / 2 ^ 48 ≠ 13
  size : 0 < n
  line : va % 128 + n ≤ 128
  same : pa % 128 = va % 128
  cell : s.resolve s.view acc va = .ok (.cell pa leaf)
  serves : s.Serves (pa / 128)
  walked : s.owns (pa / 128) = true ∨ bankOfLine (pa / 128) = none ∨ s.noteTlb s.view va = s

/-- The little-endian value of `n` bytes as the agent reads them. -/
def State.ownValue (s : State) (pa n : Nat) : Nat := leNat ((List.range n).map (fun k => s.ownByte (pa + k)))

/-- What a store of the bytes `bs` at cell `pa` through the leaf at `leaf` leaves. In point mode, memory as it was
and the bytes in the agent's store buffer, every other byte reading as before (R136); in frame mode and on a
command sequencer, the bytes in memory and every other byte as it was, but for DIRTY of the leaf (R169). -/
def Stored (s t : State) (pa : Nat) (leaf : Option Nat) (bs : List Byte) : Prop :=
  (s.mode = .point → t.mem = s.mem ∧ (∀ x, x < pa ∨ pa + bs.length ≤ x → t.ownByte x = s.ownByte x) ∧
    ∀ k, (h : k < bs.length) → t.ownByte (pa + k) = bs[k]) ∧
  (s.mode ≠ .point → Memory.wf s.mem = true →
    (∀ x, x < pa ∨ pa + bs.length ≤ x → (∀ a, leaf = some a → x ≠ a + 6) → Memory.get t.mem x = Memory.get s.mem x) ∧
    ∀ k, (h : k < bs.length) → Memory.get t.mem (pa + k) = bs[k])

/-- A loaded value of `n` bytes in a register (R309). -/
def extended (n v : Nat) (signed : Bool) : W64 :=
  if signed then (BitVec.ofNat (8 * n) v).signExtend 64 else BitVec.ofNat 64 v

/-- What a scalar load of `n` bytes from cell `pa` for xd leaves: memory and the registers as they were, and the
extended value on its way, due `arr` bundles on, its data in time as the environment decides; nothing on its way for
x0 (R176, R179, R309). -/
def Loaded (s t : State) (d : BitVec 5) (n : Nat) (signed : Bool) (arr pa : Nat) : Prop :=
  t.mem = s.mem ∧ t.arith = s.arith ∧
  ∃ why, t.scalar = { s.scalar with pend := s.scalar.pend ++ if d = 0#5 then [] else
    [{ dest := .x d (extended n (s.ownValue pa n) signed), togo := arr, arrived := s.lateCode.1 == 0,
       slot := s.bundle.slot, why := why }] }

/-- What a returning atomic on the `n` bytes from cell `pa` on leaves: the word holds `new` of its old value, every
other byte is unchanged but for DIRTY of the leaf, and the old value is on its way to xd, for bundle n + 6 (R312). -/
def AtomicDone (s t : State) (d : BitVec 5) (n pa : Nat) (leaf : Option Nat) (unsigned : Bool)
    (new : BitVec (8 * n) → BitVec (8 * n)) : Prop :=
  let old := Memory.read s.mem pa n
  t.bundle = s.bundle ∧
  t.scalar = { s.scalar with pend := s.scalar.pend ++ if d = 0#5 then [] else
    [{ dest := .x d (extended n old (!unsigned)), togo := 6, slot := s.bundle.slot }] } ∧
  Memory.read t.mem pa n = (new (BitVec.ofNat (8 * n) old)).toNat ∧
  ∀ x, x < pa ∨ pa + n ≤ x → (∀ b, leaf = some b → x ≠ b + 6) → Memory.get t.mem x = Memory.get s.mem x

/-- What a no-return atomic of point mode leaves: memory and every result as they are, and the atomic queued for its home
at a time not before the core's (R229, R234). -/
def AtomicQueued (s t : State) (op : AtomOp) (pa n : Nat) (operand : W64) (leaf : Option Nat) : Prop :=
  t.bundle = s.bundle ∧ t.mem = s.mem ∧ t.scalar = s.scalar ∧
    ∃ pts, s.my.pts ≤ pts ∧ t.my.nr = s.my.nr ++ [⟨op, pa, n, operand.toNat, leaf, pts⟩]

/-- What a no-return atomic of frame mode leaves: the word holds `new` of its old value, every other byte is unchanged
but for DIRTY of the leaf, and no result is on its way (R298, R312). -/
def AtomicJoined (s t : State) (n pa : Nat) (leaf : Option Nat) (new : BitVec (8 * n) → BitVec (8 * n)) : Prop :=
  t.bundle = s.bundle ∧ t.scalar = s.scalar ∧ t.my.nr = s.my.nr ∧
  Memory.read t.mem pa n = (new (BitVec.ofNat (8 * n) (Memory.read s.mem pa n))).toNat ∧
  ∀ x, x < pa ∨ pa + n ≤ x → (∀ b, leaf = some b → x ≠ b + 6) → Memory.get t.mem x = Memory.get s.mem x

/-- A gauge or ticket word of `size` bytes at an operand's address is the cell `pa`: the core's no-return atomics
have been applied, the core can access its line at once and withholds no store to it, the word's data is good, and it
is aligned in the vault too (R219, R234, R241, R246). -/
structure State.WordReady (s : State) (va : W64) (size pa : Nat) : Prop where
  core : s.mode ≠ .seq
  jig : ∀ n, s.focus ≠ .jig n
  cell : s.wordCell s.view va size = .ok pa
  applied : s.my.nr = []
  serves : s.Serves (pa / 128)
  own : ∀ w ∈ s.my.withheld, w.line ≠ pa / 128
  good : ∀ k, k < size → s.dataFault (pa + k) none = none
  aligned : pa % size = 0

/-- Memory after an update of a range: the bytes from `pa` on, every other byte as it was. -/
def BytesAre (m m' : List Host.Cell) (pa : Nat) (bs : List Byte) : Prop :=
  (∀ k, (h : k < bs.length) → Memory.get m' (pa + k) = bs[k]) ∧
  ∀ x, x < pa ∨ pa + bs.length ≤ x → Memory.get m' x = Memory.get m x

/-- COUNT and GEN of a gauge word after an addition: COUNT counts modulo 2^64, and each time it passes TARGET, GEN
counts once modulo 2^16 and COUNT starts again (R242). -/
def GaugeAfter (count target gen n count' gen' : Nat) : Prop :=
  (target = 0 → count' = (count + n) % 2 ^ 64 ∧ gen' = gen) ∧
  (target ≠ 0 → count' < target ∧ ∃ q, (count + n) % 2 ^ 64 = q * target + count' ∧ gen' = (gen + q) % 2 ^ 16)

/-- A copy with the register fields a, b and e (its gauge) may issue: on a command sequencer it names no gauge and no
vault window, and is no CPYM and no CPYQ; on a core a CPYM names the own range and a gauge is a gauge word (R392). -/
def State.copyAllowed (s : State) (i : Instr) (a b e : BitVec 5) : Prop :=
  let window (r : BitVec 5) : Prop := 14 * 2 ^ 48 ≤ (s.xr r).toNat ∧ (s.xr r).toNat < 2 ^ 52
  let multi : Prop := match i with | .cpym .. => True | _ => False
  let queue : Prop := match i with | .cpyq .. => True | _ => False
  (s.mode = .seq → e = 0#5 ∧ ¬ window a ∧ ¬ window b ∧ ¬ multi ∧ ¬ queue) ∧
  (s.mode ≠ .seq → (multi → (s.xr b).toNat / 2 ^ 48 = 14) ∧
    (e ≠ 0#5 → ∃ pa, s.wordCell { s.view with engine := true } (s.xr e) 32 = .ok pa))

/-- What the issue of the copy `i` leaves: its command, with its words and operands, after those outstanding, under a
slot that is free and a handle of its own; memory and registers as they were, and the handle on its way to xd, for the
next bundle (R196, R197, R235). -/
def CopyIssued (s t : State) (i : Instr) (d a b l e : BitVec 5) : Prop :=
  ∃ k, t.bundle = s.bundle ∧ t.mem = s.mem ∧ t.scalar.x = s.scalar.x ∧
    t.eng.copies = s.eng.copies ++ [k] ∧ t.eng.seqNo = (s.eng.seqNo + 1) % 2048 ∧
    k.slot < 32 ∧ (∀ k' ∈ s.eng.copies, k'.slot ≠ k.slot) ∧ k.handle = s.eng.seqNo % 2048 * 32 + k.slot ∧
    [k.head, k.tail] = encode s.bundle.first i ∧ k.ra = s.xr a ∧ k.rb = s.xr b ∧ k.rl = s.xr l ∧ k.rg = s.xr e ∧
    (k.started = true ↔ s.mode ≠ .point) ∧ (k.sincePeg = true ↔ s.mode = .point) ∧ k.done = 0 ∧ k.ended = false ∧
    t.scalar.pend = s.scalar.pend ++ if d = 0#5 then [] else
      [{ dest := .x d (BitVec.ofNat 64 k.handle), togo := 1, slot := s.bundle.slot }]

/-! ### Vector results -/

/-- What an op finds of the LFSR at lane i: it steps once for each active lane below under stochastic rounding
(R257, R341). -/
def State.laneSr (s : State) (mode act i : Nat) : Nat :=
  (lfsrSteps (if mode = 5 then popCount i act else 0) s.arith.lfsr).toNat % 2 ^ 16

/-- An op's next state has as its only change a result of latency `lat` for vd: the bytes of the active lanes with the
values that `h` gives for a lane and its LFSR, the flags of the active lanes, and under stochastic rounding one step of
the LFSR a lane (R341, R342). -/
def VecWritten (s t : State) (d : BitVec 5) (lat act mode : Nat) (h : Nat → Nat → Nat × BitVec 6) : Prop :=
  ∃ (v : VReg) (m : BitVec 256),
    t = (s.stepLfsr mode (popCount 64 act)).putV d lat (v, m)
      ((List.range 64).foldl (fun f i => if bit act i then f ||| (h i (s.laneSr mode act i)).2 else f) 0#6) ∧
    ∀ i, i < 64 → (bit act i = true → lane v i = (h i (s.laneSr mode act i)).1 % 2 ^ 32) ∧
      ∀ b, b < 4 → m.getLsbD (4 * i + b) = bit act i

/-- An integer lane: the exact value wrapped, or under SAT the nearest value of the format with SAT when it differs,
in lane form (R259, R338, R343). -/
def laneInt (f sat : Nat) (v : Int) : Nat × BitVec 6 :=
  if sat = 0 then (laneForm f (wrapN v (fmtWidth f)), 0#6)
  else
    let u := clampTo (intRange f).1 (intRange f).2 v
    (laneForm f (wrapN u (fmtWidth f)), if u = v then 0#6 else flSAT)

/-- The tree of R267 over the elements from `lo` on, 2 to the power `n` of them. -/
def treeSum (add : Nat → Nat → Nat) (v : Nat → Option Nat) : Nat → Nat → Option Nat
  | 0, lo => v lo
  | n + 1, lo =>
    match treeSum add v n lo, treeSum add v n (lo + 2 ^ n) with
    | some x, some y => some (add x y)
    | some x, none => some x
    | none, r => r

/-- The active lanes of an op in ascending order. -/
def lanesUp (act : Nat) : List Nat := (List.range 64).filter (fun i => bit act i)

/-- The translation of an address is in the TLB, and what the TLB holds for it and for the live half of its swap buffer
agrees with the page table (R204, R236). -/
structure State.TlbHas (s : State) (va : Nat) : Prop where
  noted : s.noteTlb s.view va = s
  agrees : ∀ x ∈ [va, s.liveVa s.view.stream s.view.task va], ∀ e ∈ s.tlb, e.stream = s.stream →
    x / 2 ^ e.bits = e.base / 2 ^ e.bits → s.walk s.stream x = some ⟨e.at_, e.leaf, e.bits⟩

/-- The active lanes of a vector access reach the aligned words at the cells `pa`, through the leaves `leaf`, with
good data; their translations are in the TLB, and the L1 has room for their lines. Lanes on several lines of the HBM
tier find them owned by the core, so that no access of the op makes the next one wait for its bank (R209, R217, R218). -/
structure State.LanesReach (s : State) (acc : Acc) (act : Nat) (addr : Nat → W64) (pa : Nat → Nat)
    (leaf : Nat → Option Nat) : Prop where
  core : ∀ n, s.focus ≠ .jig n
  align : ∀ i ∈ lanesUp act, (addr i).toNat % 4 = 0
  reach : ∀ i ∈ lanesUp act, s.Reaches acc (addr i).toNat 4 (pa i) (leaf i)
  good : ∀ i ∈ lanesUp act, s.Good (pa i) 4 (leaf i)
  rows : ∀ i ∈ lanesUp act, s.owns (pa i / 128) = true ∨ bankOfLine (pa i / 128) = none ∨
    (s.hint ≠ 3 ∧ ∀ j ∈ lanesUp act, pa j / 128 = pa i / 128)
  tlb : ∀ i ∈ lanesUp act, (addr i).toNat < 13 * 2 ^ 48 → s.TlbHas (addr i).toNat
  room : s.my.l1.length + (lanesUp act).length ≤ l1Lines

/-- What a vector load leaves: its only result is the words of the active lanes for vd, due `arr` bundles on, their data
in time as the environment decides; memory and registers are as they were (R353 to R356, R176). -/
def VecLoaded (s t : State) (d : BitVec 5) (arr act : Nat) (pa : Nat → Nat) : Prop :=
  ∃ v m why, t.bundle = s.bundle ∧ t.mem = s.mem ∧ t.scalar.x = s.scalar.x ∧ t.regs.v = s.regs.v ∧
    t.scalar.pend = s.scalar.pend ++
      [{ dest := .v d v m, togo := arr, arrived := s.lateCode.1 == 0, slot := s.bundle.slot, why := why }] ∧
    ∀ i, i < 64 → (bit act i = true → lane v i = s.ownValue (pa i) 4) ∧ ∀ b, b < 4 → m.getLsbD (4 * i + b) = bit act i

/-- What a vector store leaves: each byte that an active lane covers is that of the highest lane that covers it,
every other byte reads as before, and no register changes (R353 to R356). -/
def VecStored (s t : State) (d : BitVec 5) (act : Nat) (pa : Nat → Nat) : Prop :=
  t.bundle = s.bundle ∧ t.mem = s.mem ∧ t.scalar = s.scalar ∧ t.regs = s.regs ∧
  (∀ x, (∀ i ∈ lanesUp act, x < pa i ∨ pa i + 4 ≤ x) → t.ownByte x = s.ownByte x) ∧
  ∀ i ∈ lanesUp act, ∀ k, k < 4 → (∀ j ∈ lanesUp act, i < j → pa i + k < pa j ∨ pa j + 4 ≤ pa i + k) →
    t.ownByte (pa i + k) = BitVec.ofNat 8 (fieldN (lane (s.vr d) i) (8 * k) 8)

/-! ### The matrix unit -/

/-- After a micro-word the running call is `c'`, and the rest of the matrix unit as `m` and the word's cycles of a shadow
load leave it (R190, R374, R375). -/
def MicroWent (s : State) (n : Nat) (c' : Call) (m : Matrix → Matrix) (t : State) : Prop :=
  (t.core n).mx = { (m (s.core n).mx).load (c'.cycles - ((s.core n).mx.call.map (·.cycles)).getD 0) with call := some c' } ∧ (t.core n).jigs = (s.core n).jigs ∧
    t.scalar = s.scalar ∧ ∀ k, k ≠ n → (t.core k).pt = (s.core k).pt

/-- What an op that writes registers only leaves as it was: memory, the host's memory, every other core, the
command sequencers, the tables, and of the agent's own core everything but results on their way and, under
stochastic rounding, its LFSR. -/
def RegisterFrame (s t : State) : Prop :=
  t.mem = s.mem ∧ t.host = s.host ∧ t.tab = s.tab ∧ t.pkg = s.pkg ∧ t.fab = s.fab ∧ t.pow = s.pow ∧
  t.lines = s.lines ∧ t.ctxs = s.ctxs ∧ t.focus = s.focus ∧ t.tick = s.tick ∧
  (∀ n, s.focus ≠ .core n → t.core n = s.core n) ∧ (∀ n, s.focus ≠ .seq n → t.seq n = s.seq n) ∧
  t.scalar.x = s.scalar.x ∧ t.scalar.p = s.scalar.p ∧ t.scalar.tb = s.scalar.tb ∧ t.scalar.pc = s.scalar.pc ∧
  t.arith.fflags = s.arith.fflags ∧ t.arith.frm = s.arith.frm ∧ t.arith.srseed = s.arith.srseed ∧
  t.regs.v = s.regs.v ∧ t.regs.k = s.regs.k ∧ t.regs.q = s.regs.q ∧ t.regs.mp = s.regs.mp ∧
  t.regs.lanes = s.regs.lanes ∧ t.regs.fmt = s.regs.fmt ∧
  t.my.peg = s.my.peg ∧ t.my.trapCause = s.my.trapCause ∧ t.my.trapAddr = s.my.trapAddr ∧
  t.my.trapInfo = s.my.trapInfo ∧ t.my.frameVec = s.my.frameVec ∧ t.my.withheld = s.my.withheld ∧
  t.my.mx = s.my.mx ∧ t.my.eng = s.my.eng

end Sys2Proof.Machine
end

