-- ==== Sys2Proof/Certificates/Slice0/Obligations.lean ====
section
/-! DEFINITION. The statements for the provers. -/

open Sys2Proof Sys2Proof.Bits Sys2Proof.Machine

/-! ### Encoding -/

/-- The words of R290's example, and one word or pair of words of each class SA, SM, SC, VA, VM, MX and CP, of the
prefixes MOD and IMM, of the transfers and of the micro-words, decode to the instructions that the encoding tables give; a
fill word and a word that breaks the form of a fill do not (R271 to R286, R377, R391). -/
def Obligations.DecodesWords : Prop :=
  decodeWords [0xA0407000#32, 0x72345678#32] = .ok (true, .movl 0#3 7#5 0#12 0x12345678#29, []) ∧
  decodeWords [0x800652FF#32] = .ok (true, .addi 0#3 5#5 5#5 0x7F#7, []) ∧
  decodeWords [0xA5169500#32, 0x60260015#32] = .ok (true, .ldl 2#3 9#5 10#5 1#8 1#3 2#2 21#16, []) ∧
  decodeWords [0x89010015#32] = .ok (true, .tprep 2#3 2#2 21#15, []) ∧
  decodeWords [0x0C00110D#32] = .ok (false, .vadd 0#3 1#5 2#5 3#5 1#2, []) ∧
  decodeWords [0x910C912E#32] = .ok (true, .vldq 2#3 9#5 2#4 11#5 2#2, []) ∧
  decodeWords [0x95069501#32] = .ok (true, .mldj 2#3 9#5 10#5 1#6, []) ∧
  decodeWords [0xB900952E#32, 0x6E7C0000#32] = .ok (true, .cpy 2#3 9#5 10#5 11#5 2#2 14#5 15#5 2#2, []) ∧
  decodeWords [0x4221A000#32] = .ok (false, .mod 4#3 1#2 0#2 6#4 1#1, []) ∧
  decodeWords [0xC4000055#32] = .ok (true, .imm 85#26, []) ∧
  decodeWords [0x49000000#32] = .ok (false, .xfer 2#3 0#2, []) ∧
  decodeWords [0xC8300000#32] = .ok (true, .xferLink 1#2, []) ∧
  decodeJig 0x62246A04#32 = .ok (.jRetire 2#3 2#4 0#1 4#3 1#2 21#5 2#8) ∧
  decodeWords [0xE0000000#32] = .error (0, .fillWord) ∧
  decodeWords [0xF2345678#32] = .error (0, .badFill)

/-- Decoding the words of a well-formed op of class SA, SM or SC gives back the op with every operand, its B bit, and
the words after it. Decoding the words of a well-formed op of class VA or VM gives back the op. Decoding the words of
a well-formed op of class MX or CP, of a MOD, an IMM or an XFER gives it back. Decoding the word of a well-formed
micro-word gives it back. -/
def Obligations.RoundTrip : Prop :=
  (∀ (b : Bool) (i : Instr) (rest : List W32), i.cls ≤ 2 → i.WellFormed →
     decodeWords (encode b i ++ rest) = .ok (b, i, rest)) ∧
  (∀ (b : Bool) (i : Instr) (rest : List W32), (i.cls = 3 ∨ i.cls = 4) → i.WellFormed →
     decodeWords (encode b i ++ rest) = .ok (b, i, rest)) ∧
  (∀ (b : Bool) (i : Instr) (rest : List W32), (i.cls = 5 ∨ i.cls = 6 ∨ i.cls = 8 ∨ i.cls = 9) → i.WellFormed →
     decodeWords (encode b i ++ rest) = .ok (b, i, rest)) ∧
  (∀ (i : Instr), i.cls = 10 → i.WellFormed → ∃ w, encode false i = [w] ∧ decodeJig w = .ok i)

/-- Whatever the decoder accepts is well-formed, and its words are the encoding of what it reads: no
reserved encoding is accepted and no two words have one meaning. -/
def Obligations.DecodeIsEncode : Prop :=
  ∀ (ws : List W32) (b : Bool) (i : Instr) (rest : List W32), decodeWords ws = .ok (b, i, rest) →
    i.WellFormed ∧ ws = encode b i ++ rest

/-- The ops that take no guard are PEG, HWIN, END, ERET and the command-sequencer ops, SC 0x20 to 0x2A; what decodes to one
of them, or to an XFER with its link bit set, has the G field 000 (R274). -/
def Obligations.GuardlessOps : Prop :=
  (∀ (i : Instr), i.WellFormed → (i.guardless = true ↔ i = .peg ∨ i = .hwin ∨ i = .endOp ∨ i = .eret ∨
    (i.cls = 2 ∧ 0x20 ≤ ((nth (encode true i) 0 0#32).extractLsb' 17 6).toNat ∧
      ((nth (encode true i) 0 0#32).extractLsb' 17 6).toNat ≤ 0x2A))) ∧
  (∀ (ws : List W32) (b : Bool) (i : Instr) (rest : List W32), decodeWords ws = .ok (b, i, rest) →
    (i.guardless = true ∨ ∃ t, i = .xferLink t) → ∃ w us, ws = w :: us ∧ w.extractLsb' 23 3 = 0#3)

/-! ### Steps -/

/-- A core's step runs the instruction that the words at its pc decode to, as exec says: when the core
issues, no trap or rotation asks for it, no result due is late, its fetch waits for no bank, and the words are a bundle
of one op that commits no peg or may commit one, the step is the meaning of the op in a bundle of its own, then the
retirement, stall or trap of the bundle; before an XFER stand the stall cycles that its TPREP still asks. -/
def Obligations.StepRunsDecoded : Prop :=
  ∀ (s : State) (n : Nat) (i : Instr),
    s.agenda = [] → s.focus = .core n → s.issuing n = true → (s.core n).requested = false →
    (s.core n).wait.asleep = false →
    let come := (s.meeting n).2.comeTo n false
    come.unlanded = none → come.fetchHeld n = none →
    let r := come.noteFetch n
    i.WellFormed → i.cls ≤ 6 → r.atLone i →
    ((r.core n).frame = false → (r.core n).pressed (storeLines i) = false) →
    ((r.core n).frame = false → commits i = true → r.pegGate n = .free) →
    let r := r.awaitTarget [i]
    ∃ first, step s =
      let pegs := !(r.core n).frame && commits i
      andThen (exec i ((if pegs then r.release n else r).loneBundle i pegs first))
        (fun t => .next (r.afterCore n t))

/-- A matrix sequencer's step runs the micro-word at the call's index; a turn of the agenda that is a step of
the device runs that step with its inputs, a turn of an agent is a step of that agent, and in a turn of time the
reference ticks pass. -/
def Obligations.StepRunsMicroWordOrEvent : Prop :=
  (∀ (s : State) (n : Nat) (k : Call) (j : Jig) (i : Instr),
    s.agenda = [] → s.focus = .jig n → s.clocked n = true → (s.core n).frame = false → (s.core n).wait ≠ .late →
    (s.core n).mx.call = some k → k.ending = none → find? (s.core n).jigs k.jig = some j → i.cls = 10 → i.WellFormed →
    encode false i = [nth j.words k.idx 0#32] →
    step s = exec i s) ∧
  (∀ (s : State) (i : Instr) (inp : EventIn) (ts : List Turn), s.agenda = .event i inp :: ts → i.cls = 11 →
    step s = exec i { s with agenda := ts, inp := inp }) ∧
  (∀ (s : State) (a : Agent) (ts : List Turn), s.agenda = .agent a :: ts →
    step s = andThen (State.agentStep { s with agenda := ts, focus := a }) (fun t => .next { t with focus := s.focus })) ∧
  (∀ (s : State) (k : Nat) (ts : List Turn), s.agenda = .pass k :: ts →
    step s = .next (State.pass { s with agenda := ts } k) ∧ (State.pass { s with agenda := ts } k).tick = s.tick + k)

/-- An op whose guard reads false has no effect at all (R273). -/
def Obligations.GuardFalseNoEffect : Prop :=
  ∀ (i : Instr) (s : State), i.cls ≤ 6 → i.guardless = false → s.pr (guardOf i) = false → exec i s = .next s

/-- Guards p0 and p1 (R273): p0 always holds and p1 never does; x0 reads 0 and k0 all ones (R178), whatever the
state, and results for x0, p0, p1 and k0 land without effect (R179). -/
def Obligations.HardWiredRegisters : Prop :=
  ∀ (s : State), s.xr 0#5 = 0#64 ∧ s.pr 0#3 = true ∧ s.pr 1#3 = false ∧ s.kr 0#3 = BitVec.allOnes 64 ∧
    (∀ v, s.landOne (.x 0#5 v) = s) ∧ (∀ v, s.landOne (.p 0#3 v) = s) ∧ (∀ v, s.landOne (.p 1#3 v) = s) ∧
    (∀ v, s.landOne (.k 0#3 v) = s) ∧
    (∀ lat v, s.putX 0#5 lat v = s) ∧ (∀ lat c, s.putPair 0#2 lat c = s)

/-! ### Landing of results -/

/-- Results land as R173 says: if every result due at a bundle has its data, each register takes the value of the last
result due for it, a register with none keeps its value, and the results not yet due stay; if one has not, nothing
lands. A retired bundle of a core brings every result one bundle nearer: a result of latency L that a bundle issues is
due at the L-th bundle after it, and is among the due ones at no earlier bundle (R173). Flags of the results that land
are ORed into FFLAGS, which nothing else of the landing clears (R182). -/
def Obligations.ResultsLand : Prop :=
  (∀ (s : State),
     (s.dueReady →
       (∀ i, i ≠ 0#5 → s.settle.xr i = (lastX (dueOf s.scalar.pend) i).getD (s.xr i)) ∧
       (∀ i, i ≠ 0#3 → i ≠ 1#3 → s.settle.pr i = (lastP (dueOf s.scalar.pend) i).getD (s.pr i)) ∧
       s.settle.scalar.pend = s.scalar.pend.filter (fun p => p.togo != 0) ∧ s.settle.mem = s.mem) ∧
     (¬ s.dueReady → s.settle = s)) ∧
  (∀ (s : State) (n : Nat), s.focus = .core n → (s.core n).frame = false → (s.core n).fr.pend = [] →
     let aged := s.scalar.pend.map (fun p => { p with togo := p.togo - 1 })
     s.advance.scalar.pend = aged ∨ s.advance.scalar.pend = aged.filter (fun p => p.togo != 0)) ∧
  (∀ (s : State), s.dueReady → (∀ p ∈ dueOf s.scalar.pend, ∀ n v, p.dest ≠ .csr n v) →
     s.settle.arith.fflags = (dueOf s.scalar.pend).foldl (fun f p => f ||| p.flags) s.arith.fflags)

/-! ### Traps and returning from them -/

/-- Taking a synchronous trap in point mode that no asynchronous trap meets (R141, R143): the core's registers, with
their pending results and flags, are those of the peg state; withheld stores are discarded; copies issued since the peg
are cancelled and no call is outstanding; no weight plane is latched and the accumulators read 0; TRAPCAUSE, TRAPADDR
and TRAPINFO are written; MODE.FRAME is 1; fetch continues at FRAMEVEC; PEGADDR is unchanged; memory and every other
core are unchanged. An asynchronous trap that arrives in the same cycle is taken in its place (R146). ERET in
frame mode runs, and as its bundle retires with no trap pending, no rotation asked for and no result of frame mode due for
the next bundle, the core returns to point mode at PEGADDR with its registers; frame mode's own x and p registers, its
target buffers and its results on their way are kept for the next trap (R144). -/
def Obligations.TrapEntryAndReturn : Prop :=
  (∀ (s : State) (n : Nat) (r : TrapRec) (addr : BitVec 52), s.focus = .core n → (s.core n).frame = false →
     (s.bundle.meets = false ∨ (s.core n).async = []) →
     let c := s.core n
     let t := s.takeTrap r addr
     let d := t.core n
     d.pt = c.peg ∧ d.peg = c.peg ∧ d.withheld = [] ∧ d.mx.call = none ∧ d.mx.queued = none ∧
     d.mx.cur = none ∧ d.mx.shadow = none ∧ d.mx.bank0.rows = [] ∧ d.mx.bank1.rows = [] ∧
     (∀ k ∈ d.eng.copies, k ∈ c.eng.copies ∧ k.sincePeg = false) ∧
     d.trapCause = r.cause ∧ d.trapInfo = r.info ∧ d.trapAddr = addr ∧ d.frame = true ∧ t.mode = .frame ∧
     t.scalar.pc = c.frameVec ∧ d.fr.x = c.fr.x ∧ t.mem = s.mem ∧ (∀ m, m ≠ n → t.core m = s.core m)) ∧
  (∀ (s : State) (n : Nat) (r : TrapRec) (addr : BitVec 52) (a : AsyncTrap), s.focus = .core n →
     (s.core n).frame = false → s.bundle.meets = true → (s.core n).firstAsync = some a →
     s.takeTrap r addr = s.takeAsync n a) ∧
  (∀ (s : State) (n : Nat), s.focus = .core n → (s.core n).frame = true → (s.core n).async = [] →
     (s.core n).rotate = false → (∀ p ∈ (s.core n).fr.pend, 1 < p.togo) → s.clean → s.bundle.ended = false →
     ∃ t, exec .eret s = .next t ∧ t.clean ∧
       let u := t.retireFrame n
       u.mode = .point ∧ (u.core n).frame = false ∧ (u.core n).pt = (s.core n).pt ∧
       u.scalar = (s.core n).pt.sc ∧ u.mem = s.mem ∧ (∀ m, m ≠ n → u.core m = s.core m) ∧
       (u.core n).fr.x = (s.core n).fr.x ∧ (u.core n).fr.p = (s.core n).fr.p ∧
       (∀ i, (h : i < 4) → ((u.core n).fr.tb[i]).addr = ((s.core n).fr.tb[i]).addr ∧
         ((u.core n).fr.tb[i]).prepared = ((s.core n).fr.tb[i]).prepared) ∧
       (u.core n).fr.pend = (s.core n).fr.pend.map (fun p => { p with togo := p.togo - 1 }))

/-- A synchronous trap of a command sequencer: STATE becomes FAULT, and nothing of the sequencer, of memory or of a
core changes (R59, R299). When several slots of a bundle trap, the trap recorded is that of the lowest slot: a trap
once met stays (R143). When several asynchronous traps are pending, CANCEL is taken first, then CURTAIL, PREEMPT and
LINK_EVENT (R147). -/
def Obligations.SequencerTrapsAndTrapOrder : Prop :=
  (∀ (s : State) (n : Nat) (r : TrapRec) (addr : BitVec 52), s.focus = .seq n →
     let t := s.takeTrap r addr
     (t.strm n).st = .fault ∧ t.seq n = s.seq n ∧ t.mem = s.mem ∧ t.cores = s.cores) ∧
  (∀ (s : State) (r q : TrapRec), s.bundle.trap = none →
     (s.trap r).bundle.trap = some r ∧ ((s.trap r).trap q).bundle.trap = some r) ∧
  (∀ (c : Core) (a : AsyncTrap), c.firstAsync = some a → a ∈ c.async ∧
     ((∃ b ∈ c.async, b.kind = .cancel) → a.kind = .cancel) ∧
     ((∃ b ∈ c.async, b.kind = .curtail) → a.kind = .cancel ∨ a.kind = .curtail) ∧
     ((∃ b ∈ c.async, b.kind = .preempt) → a.kind ≠ .linkEvent))

/-! ### Scalar results -/

/-- ADD, SUB, MUL, MADD and ADDI without saturation wrap modulo 2^64, and set no flag; the results come after 1
bundle, after 3 for MUL and MADD (R300, R301, R252). Under SAT 01 and 10 the results of ADD, SUB, MUL, MADD and ADDI
are the nearest values of the signed or the unsigned range, and SAT is set exactly when that is not the exact result;
ADDI's immediate stays signed (R259, R300, R301). -/
def Obligations.IntegerSums : Prop :=
  (∀ (s : State) (g : BitVec 3) (d a y : BitVec 5) (i : BitVec 7), s.pr g = true → s.modSat = 0 →
     exec (.add g d a y) s = .next (s.putX d 1 (s.xr a + s.xr y)) ∧
     exec (.sub g d a y) s = .next (s.putX d 1 (s.xr a - s.xr y)) ∧
     exec (.mul g d a y) s = .next (s.putX d 3 (s.xr a * s.xr y)) ∧
     exec (.madd g d a y) s = .next (s.putX d 3 (s.xr d + s.xr a * s.xr y)) ∧
     exec (.addi g d a i) s = .next (s.putX d 1 (s.xr a + s.imm7 i))) ∧
  (∀ (s : State) (g : BitVec 3) (d a y : BitVec 5) (i : BitVec 7), s.pr g = true → (s.modSat = 1 ∨ s.modSat = 2) →
     let m := s.modSat
     let x := satOperand m (s.xr a)
     let z := satOperand m (s.xr y)
     (∃ v fl, exec (.add g d a y) s = .next (s.putX d 1 v fl) ∧ Saturates m (x + z) v fl) ∧
     (∃ v fl, exec (.sub g d a y) s = .next (s.putX d 1 v fl) ∧ Saturates m (x - z) v fl) ∧
     (∃ v fl, exec (.mul g d a y) s = .next (s.putX d 3 v fl) ∧ Saturates m (x * z) v fl) ∧
     (∃ v fl, exec (.madd g d a y) s = .next (s.putX d 3 v fl) ∧ Saturates m (satOperand m (s.xr d) + x * z) v fl) ∧
     (∃ v fl, exec (.addi g d a i) s = .next (s.putX d 1 v fl) ∧ Saturates m (x + (s.imm7 i).toInt) v fl))

/-- MULH and MULHN give bits [127:64] of the signed and the unsigned product; a division by zero gives all ones as its
quotient and the dividend as its remainder, and else quotients round towards zero, signed or unsigned, the most
negative number divided by -1 giving itself (R253, R300). Logic, shifts by the low 6 bits of the amount, minimum and
maximum of signed and unsigned numbers, and the immediate forms, after 1 bundle (R253, R300, R301). -/
def Obligations.ProductsDivisionsLogicShifts : Prop :=
  (∀ (s : State) (g : BitVec 3) (d a y : BitVec 5), s.pr g = true →
     let x := s.xr a
     let z := s.xr y
     exec (.mulh g d a y) s = .next (s.putX d 3 ((x.signExtend 128 * z.signExtend 128).extractLsb' 64 64)) ∧
     exec (.mulhn g d a y) s = .next (s.putX d 3 ((x.setWidth 128 * z.setWidth 128).extractLsb' 64 64)) ∧
     exec (.div g d a y) s = .next (s.putX d 20 (if z = 0#64 then BitVec.allOnes 64 else x.sdiv z)) ∧
     exec (.divn g d a y) s = .next (s.putX d 20 (if z = 0#64 then BitVec.allOnes 64 else x / z)) ∧
     exec (.rem g d a y) s = .next (s.putX d 20 (if z = 0#64 then x else x.srem z)) ∧
     exec (.remn g d a y) s = .next (s.putX d 20 (if z = 0#64 then x else x % z))) ∧
  (∀ (s : State) (g : BitVec 3) (d a y : BitVec 5) (i : BitVec 7), s.pr g = true →
     let x := s.xr a
     let z := s.xr y
     exec (.andR g d a y) s = .next (s.putX d 1 (x &&& z)) ∧ exec (.orR g d a y) s = .next (s.putX d 1 (x ||| z)) ∧
     exec (.xorR g d a y) s = .next (s.putX d 1 (x ^^^ z)) ∧
     exec (.andi g d a i) s = .next (s.putX d 1 (x &&& s.imm7 i)) ∧
     exec (.ori g d a i) s = .next (s.putX d 1 (x ||| s.imm7 i)) ∧
     exec (.xori g d a i) s = .next (s.putX d 1 (x ^^^ s.imm7 i)) ∧
     exec (.shl g d a y) s = .next (s.putX d 1 (x <<< (z.extractLsb' 0 6).toNat)) ∧
     exec (.shr g d a y) s = .next (s.putX d 1 (x >>> (z.extractLsb' 0 6).toNat)) ∧
     exec (.sha g d a y) s = .next (s.putX d 1 (x.sshiftRight (z.extractLsb' 0 6).toNat)) ∧
     exec (.shli g d a i) s = .next (s.putX d 1 (x <<< ((s.imm7 i).extractLsb' 0 6).toNat)) ∧
     exec (.shri g d a i) s = .next (s.putX d 1 (x >>> ((s.imm7 i).extractLsb' 0 6).toNat)) ∧
     exec (.shai g d a i) s = .next (s.putX d 1 (x.sshiftRight ((s.imm7 i).extractLsb' 0 6).toNat)) ∧
     exec (.minS g d a y) s = .next (s.putX d 1 (if x.toInt ≤ z.toInt then x else z)) ∧
     exec (.maxS g d a y) s = .next (s.putX d 1 (if z.toInt ≤ x.toInt then x else z)) ∧
     exec (.minn g d a y) s = .next (s.putX d 1 (if x.toNat ≤ z.toNat then x else z)) ∧
     exec (.maxn g d a y) s = .next (s.putX d 1 (if z.toNat ≤ x.toNat then x else z)))

/-- CLZ counts the zero bits above the highest 1 and POPC the 1 bits; MOV, MOVI and MOVL move a register, a signed
12-bit immediate and a signed 41-bit one; BEXT and BINS move a field between a place of a register and bit 0, a
length of 0 meaning 64; NOP does nothing (R300, R302, R303). -/
def Obligations.MovesAndFields : Prop :=
  ∀ (s : State) (g : BitVec 3) (d a y : BitVec 5) (i hi : BitVec 12) (lo : BitVec 29), s.pr g = true →
    let x := s.xr a
    let z := s.xr y
    let pos := (z.extractLsb' 0 6).toNat
    let len := if z.extractLsb' 8 6 = 0#6 then 64 else (z.extractLsb' 8 6).toNat
    exec (.nop g) s = .next s ∧
    (∃ n, exec (.clz g d a) s = .next (s.putX d 1 (BitVec.ofNat 64 n)) ∧ n ≤ 64 ∧ x.toNat < 2 ^ (64 - n) ∧
      (n < 64 → 2 ^ (63 - n) ≤ x.toNat)) ∧
    exec (.popc g d a) s = .next (s.putX d 1 (BitVec.ofNat 64 ((List.range 64).filter (fun k => x.getLsbD k)).length)) ∧
    exec (.mov g d a) s = .next (s.putX d 1 x) ∧
    (s.bundle.imm = none → exec (.movi g d i) s = .next (s.putX d 1 (i.signExtend 64))) ∧
    (s.bundle.imm = none → exec (.movl g d hi lo) s = .next (s.putX d 1 ((hi ++ lo).signExtend 64))) ∧
    (∃ v : W64, exec (.bext g d a y) s = .next (s.putX d 1 v) ∧
      ∀ k, v.getLsbD k = (decide (k < len) && x.getLsbD (pos + k))) ∧
    (∃ v : W64, exec (.bins g d a y) s = .next (s.putX d 1 v) ∧
      ∀ k, k < 64 → v.getLsbD k = if pos ≤ k ∧ k < pos + len then x.getLsbD (k - pos) else (s.xr d).getLsbD k)

/-- A compare writes its truth value to the even predicate of its pair and the complement to the odd one after 1
bundle; the immediate forms compare with a sign-extended immediate (R304). The predicate ops; PMOVX packs p0 to p7
into bits 7 to 0, and XMOVP writes p2 to p7 from bits 7 to 2, as six results of one bundle (R305). -/
def Obligations.ComparesAndPredicates : Prop :=
  (∀ (s : State) (g : BitVec 3) (p : BitVec 2) (a y : BitVec 5) (i : BitVec 7), s.pr g = true →
     let x := s.xr a
     let z := s.xr y
     let n := s.imm7 i
     exec (.cmpeq g p a y) s = .next (s.putPair p 1 (decide (x = z))) ∧
     exec (.cmpne g p a y) s = .next (s.putPair p 1 (decide (x ≠ z))) ∧
     exec (.cmplt g p a y) s = .next (s.putPair p 1 (decide (x.toInt < z.toInt))) ∧
     exec (.cmple g p a y) s = .next (s.putPair p 1 (decide (x.toInt ≤ z.toInt))) ∧
     exec (.cmpltn g p a y) s = .next (s.putPair p 1 (decide (x.toNat < z.toNat))) ∧
     exec (.cmplen g p a y) s = .next (s.putPair p 1 (decide (x.toNat ≤ z.toNat))) ∧
     exec (.cmpeqi g p a i) s = .next (s.putPair p 1 (decide (x = n))) ∧
     exec (.cmplti g p a i) s = .next (s.putPair p 1 (decide (x.toInt < n.toInt))) ∧
     exec (.cmpgti g p a i) s = .next (s.putPair p 1 (decide (n.toInt < x.toInt)))) ∧
  (∀ (s : State) (g d a y : BitVec 3) (x : BitVec 5), s.pr g = true →
     exec (.pand g d a y) s = .next (s.putP d 1 (s.pr a && s.pr y)) ∧
     exec (.por g d a y) s = .next (s.putP d 1 (s.pr a || s.pr y)) ∧
     exec (.pxor g d a y) s = .next (s.putP d 1 (s.pr a != s.pr y)) ∧
     exec (.pandn g d a y) s = .next (s.putP d 1 (s.pr a && !s.pr y)) ∧
     (∃ v : W64, exec (.pmovx g x) s = .next (s.putX x 1 v) ∧
       ∀ k, v.getLsbD k = (decide (k < 8) && s.pr (BitVec.ofNat 3 k))) ∧
     exec (.xmovp g x) s = .next (s.issue ([2#3, 3#3, 4#3, 5#3, 6#3, 7#3].map (fun j =>
       { dest := .p j ((s.xr x).getLsbD j.toNat), togo := 1 }))))

/-- A result op adds to the results on their way and changes nothing else of the state: what ADD and the other ops
of these statements leave is the old state with one more result, or the old state where the destination is a
register that ignores writes. -/
def Obligations.ResultsOnly : Prop :=
  ∀ (s : State) (d : BitVec 5) (p : BitVec 2) (lat : Nat) (v : W64) (c : Bool),
    let sl := s.bundle.slot
    (d ≠ 0#5 → (s.putX d lat v).scalar =
      { s.scalar with pend := s.scalar.pend ++ [{ dest := .x d v, togo := lat, slot := sl }] }) ∧
    (p ≠ 0#2 → (s.putPair p lat c).scalar = { s.scalar with pend := s.scalar.pend ++
      [{ dest := .p (p ++ 0#1) c, togo := lat, slot := sl }, { dest := .p (p ++ 1#1) (!c), togo := lat, slot := sl }] }) ∧
    ((∀ n, s.focus ≠ .jig n) → RegisterFrame s (s.putX d lat v) ∧ RegisterFrame s (s.putPair p lat c))

/-! ### Scalar floating point -/

/-- FADD, FSUB, FMUL and FFMA complete with the sum, difference, product and sum with a product of the op's format under
its rounding mode and saturation, zero-extended, with the flags, after 4 bundles; under SR they step the LFSR once
(R257, R306). Of finite operands these are the exact value rounded once (R256). FMIN, FMAX, the floating-point compares,
FCLASS and FCVT, after 4 bundles: a minimum or maximum is one operand or the canonical NaN; a compare writes a predicate
pair; FCLASS sets one bit of ten; FCVT converts between any two scalar formats (R262, R263, R306 to R308). -/
def Obligations.FloatArithmetic : Prop :=
  (∀ (s : State) (g : BitVec 3) (d a y : BitVec 5), s.pr g = true →
     let f := s.fpFmt
     let c := s.roundCtl s.modRnd s.modSat
     let x (r : BitVec 5) : Nat := (s.xr r).toNat % 2 ^ fmtWidth f
     let result (r : Nat × BitVec 6) : State := (s.stepLfsr s.modRnd 1).putX d 4 (BitVec.ofNat 64 r.1) r.2
     exec (.fadd g d a y) s = .next (result (fAdd f c (x a) (x y))) ∧
     exec (.fsub g d a y) s = .next (result (fSub f c (x a) (x y))) ∧
     exec (.fmul g d a y) s = .next (result (fMul f c (x a) (x y))) ∧
     exec (.ffma g d a y) s = .next (result (fFma f c false (x d) (x a) (x y)))) ∧
  (∀ (f : Nat) (ff : FloatFmt) (c : RoundCtl) (x y z : Nat) (nx ny nz : Bool) (mx my mz : Nat) (ex ey ez : Int),
     floatFmt f = some ff → readElem f x = .fin nx mx ex → readElem f y = .fin ny my ey → readElem f z = .fin nz mz ez →
     let exact (n : Bool) (m : Nat) (e k : Int) : Int := (if n then -1 else 1) * (m : Int) * 2 ^ (e - k).toNat
     let rounded (v : Int) (k : Int) : Nat × BitVec 6 := packFloat ff c (decide (v < 0)) v.natAbs k false
     let k := min ex ey
     let l := min ez (ex + ey)
     (exact nx mx ex k + exact ny my ey k ≠ 0 → fAdd f c x y = rounded (exact nx mx ex k + exact ny my ey k) k) ∧
     (exact nx mx ex k - exact ny my ey k ≠ 0 → fSub f c x y = rounded (exact nx mx ex k - exact ny my ey k) k) ∧
     fMul f c x y = packFloat ff c (nx != ny) (mx * my) (ex + ey) false ∧
     (exact nz mz ez l + exact (nx != ny) (mx * my) (ex + ey) l ≠ 0 →
       fFma f c false z x y = rounded (exact nz mz ez l + exact (nx != ny) (mx * my) (ex + ey) l) l)) ∧
  (∀ (s : State) (g : BitVec 3) (d a y : BitVec 5) (p : BitVec 2) (sf df : BitVec 4) (r : BitVec 3) (t : BitVec 2),
     s.pr g = true →
     let f := s.fpFmt
     let x (k : BitVec 5) : Nat := (s.xr k).toNat % 2 ^ fmtWidth f
     let mm (b : Bool) := fMinMax f b (x a) (x y)
     let cmp (q : Rel) := compareElem f q (x a) (x y)
     let cv := convert sf.toNat df.toNat (s.roundCtl (s.roundMode r.toNat) t.toNat) ((s.xr a).toNat % 2 ^ fmtWidth sf.toNat)
     exec (.fmin g d a y) s = .next (s.putX d 4 (BitVec.ofNat 64 (mm false).1) (mm false).2) ∧
     exec (.fmax g d a y) s = .next (s.putX d 4 (BitVec.ofNat 64 (mm true).1) (mm true).2) ∧
     exec (.fcmpeq g p a y) s = .next (s.putPair p 4 (cmp .eq).1 (cmp .eq).2) ∧
     exec (.fcmplt g p a y) s = .next (s.putPair p 4 (cmp .lt).1 (cmp .lt).2) ∧
     exec (.fcmple g p a y) s = .next (s.putPair p 4 (cmp .le).1 (cmp .le).2) ∧
     (∀ b, (mm b).1 = canonNaN f % 2 ^ fmtWidth f ∨ (mm b).1 = x a ∨ (mm b).1 = x y) ∧
     (∃ k, k < 10 ∧ exec (.fclass g d a) s = .next (s.putX d 4 (BitVec.ofNat 64 (2 ^ k)))) ∧
     exec (.fcvt g d a sf df r t) s = .next ((s.stepLfsr (s.roundMode r.toNat) 1).putX d 4
       (if isSigned df.toNat then wrap64 (sextN cv.1 (fmtWidth df.toNat)) else BitVec.ofNat 64 cv.1) cv.2))

/-- A NaN operand of FADD, FSUB, FMUL or FFMA gives the canonical NaN of the format, and NV exactly when an operand is
signalling, but for FFMA with 0 and infinity as factors, which is invalid too (R260, R261). Rounding keeps a value
that the format holds: a finite nonzero value read from its bits packs to the same bits under every rounding mode,
with no flag, unless SAT 10 makes a negative one 0 (R250, R256). What FMIN, FMAX, VMIN and VMAX, and the floating-point
compares, answer: of one NaN the other operand, of two the canonical NaN, and NV for a signalling one; -0 is below +0; else
an operand that the other does not pass, and no flag; equality and inequality are quiet, the order compares set NV for a NaN
and are false; zeros are equal, and finite values compare as exact numbers, between the infinities (R262). What a
conversion makes of a NaN, of an infinity, of -0, and of an exact integer (R263). -/
def Obligations.FloatNaNAndRounding : Prop :=
  (∀ (f : Nat) (c : RoundCtl) (x y z : Nat), f ∈ fmtF →
     let n (v : Nat) : Bool := (readElem f v).isNaN
     let q (v : Nat) : Bool := (readElem f v).isSNaN
     ((n x || n y) = true → fAdd f c x y = (canonNaN f, flagIf (q x || q y) flNV) ∧
       fSub f c x y = (canonNaN f, flagIf (q x || q y) flNV) ∧ fMul f c x y = (canonNaN f, flagIf (q x || q y) flNV)) ∧
     ((n x || n y || n z) = true → (fFma f c false z x y).1 = canonNaN f ∧
       ((q x || q y || q z) = true → (fFma f c false z x y).2 = flNV))) ∧
  (∀ (f : Nat) (ff : FloatFmt) (c : RoundCtl) (bits : Nat) (neg : Bool) (m : Nat) (e : Int),
     floatFmt f = some ff → bits < 2 ^ ff.w → readFloat ff bits = .fin neg m e → m ≠ 0 → (c.sat = 2 → neg = false) →
     packFloat ff c neg m e false = (bits, 0#6)) ∧
  (∀ (f x y : Nat) (b : Bool), f ∈ fmtF → x < 2 ^ fmtWidth f → y < 2 ^ fmtWidth f →
     let n (v : Nat) : Bool := (readElem f v).isNaN
     let q (v : Nat) : Bool := (readElem f v).isSNaN
     (n x = true → n y = true → fMinMax f b x y = (canonNaN f, flagIf (q x || q y) flNV)) ∧
     (n x = true → n y = false → fMinMax f b x y = (y, flagIf (q x) flNV)) ∧
     (n x = false → n y = true → fMinMax f b x y = (x, flagIf (q y) flNV)) ∧
     (n x = false → n y = false → (fMinMax f b x y).2 = 0#6 ∧ ((fMinMax f b x y).1 = x ∨ (fMinMax f b x y).1 = y) ∧
       (∀ r, (fMinMax f false x y).1 = r → (compareElem f .le r x).1 = true ∧ (compareElem f .le r y).1 = true) ∧
       (∀ r, (fMinMax f true x y).1 = r → (compareElem f .le x r).1 = true ∧ (compareElem f .le y r).1 = true)) ∧
     (∀ e g, readElem f x = .fin true 0 e → readElem f y = .fin false 0 g →
       (fMinMax f false x y).1 = x ∧ (fMinMax f false y x).1 = x ∧ (fMinMax f true x y).1 = y ∧ (fMinMax f true y x).1 = y) ∧
     ((n x || n y) = true →
       compareElem f .eq x y = (false, flagIf (q x || q y) flNV) ∧ compareElem f .ne x y = (true, flagIf (q x || q y) flNV) ∧
       compareElem f .lt x y = (false, flNV) ∧ compareElem f .le x y = (false, flNV)) ∧
     (∀ nx mx ex ny my ey, readElem f x = .fin nx mx ex → readElem f y = .fin ny my ey →
       let exact (n : Bool) (m : Nat) (e : Int) : Int := (if n then -1 else 1) * (m : Int) * 2 ^ (e - min ex ey).toNat
       let u := exact nx mx ex
       let v := exact ny my ey
       compareElem f .eq x y = (decide (u = v), 0#6) ∧ compareElem f .ne x y = (decide (u ≠ v), 0#6) ∧
       compareElem f .lt x y = (decide (u < v), 0#6) ∧ compareElem f .le x y = (decide (u ≤ v), 0#6)) ∧
     (∀ neg, readElem f x = .inf neg → n y = false → readElem f y ≠ .inf neg →
       compareElem f .eq x y = (false, 0#6) ∧ compareElem f .lt x y = (neg, 0#6) ∧ compareElem f .lt y x = (!neg, 0#6))) ∧
  (∀ (sf df : Nat) (c : RoundCtl) (x : Nat),
     (∀ g, readElem sf x = .nan g → convert sf df c x = if isFloat df then (canonNaN df, flagIf g flNV) else (0, flNV)) ∧
     (∀ neg, readElem sf x = .inf neg → c.sat = 0 →
       (df ∈ fmtF → readElem df (convert sf df c x).1 = .inf neg ∧ (convert sf df c x).2 = 0#6) ∧
       (isFloat df = false → convert sf df c x = (0, flNV))) ∧
     (∀ neg, readElem sf x = .inf neg → c.sat ≠ 0 → isFloat df = false →
       (convert sf df c x).1 = (BitVec.ofInt (fmtWidth df) (if neg then (intRange df).1 else (intRange df).2)).toNat ∧
       (convert sf df c x).2 &&& (flNV ||| flSAT) = flNV ||| flSAT) ∧
     (∀ neg m e, readElem sf x = .fin neg m e → isFloat df = true → ∀ ff, floatFmt df = some ff →
       convert sf df c x = packFloat ff c neg m e false) ∧
     (∀ neg m e, readElem sf x = .fin neg m e → isFloat df = false → 0 ≤ e →
       let v : Int := (if neg then -1 else 1) * (m : Int) * 2 ^ e.toNat
       let u : Int := if c.sat = 0 then v else clampTo (intRange df).1 (intRange df).2 v
       (convert sf df c x).1 = (BitVec.ofInt (fmtWidth df) u).toNat ∧
       (isFloat sf = false → (convert sf df c x).2 = flagIf (u != v) flSAT)) ∧
     (∀ e, readElem sf x = .fin true 0 e → isFloat df = false → (convert sf df c x) = (0, 0#6)))

/-- FCLASS sets exactly one bit of xd[9:0] by the class of its operand, of which it reads the sign, the exponent field and
the fraction, clears xd[63:10] and sets no flag (R307). -/
def Obligations.FclassSetsOneBit : Prop :=
  ∀ (s : State) (g : BitVec 3) (d a : BitVec 5) (ff : FloatFmt), s.pr g = true → s.fpFmt ∈ fmtF →
    floatFmt s.fpFmt = some ff →
    let v := (s.xr a).toNat % 2 ^ ff.w
    let neg := v / 2 ^ (ff.w - 1) = 1
    let ex := v / 2 ^ ff.fb % 2 ^ ff.eb
    let fr := v % 2 ^ ff.fb
    let k :=
      if ex = 2 ^ ff.eb - 1 then
        if fr = 0 then (if neg then 0 else 7) else if fr < 2 ^ (ff.fb - 1) then 8 else 9
      else if ex = 0 then
        if fr = 0 then (if neg then 3 else 4) else if neg then 2 else 5
      else if neg then 1 else 6
    exec (.fclass g d a) s = .next (s.putX d 4 (BitVec.ofNat 64 (2 ^ k)))

/-! ### Loads, stores and atomics -/

/-- LDB, LDBS, LDH, LDHS, LDW, LDWS and LDD complete where their bytes are reached: a load reads its bytes
little-endian from its own withheld stores or memory, at xa plus the immediate times its size, extends the value, and
lands it for bundle n + 6 if the data is in time; memory is unchanged (R309, R176). LDL loads as its width code says, at
xa plus its signed offset, and lands at its declared arrival, 0 meaning 6 (R310). PFL completes whatever its address,
with no result and no fault; it changes no register, and no byte of memory unless a no-return atomic waits at a home for
its turn; of hint 3 it changes nothing at all (R210, R311). -/
def Obligations.LoadResults : Prop :=
  (∀ (s : State) (g : BitVec 3) (d a : BitVec 5) (i : BitVec 7) (pa : Nat) (leaf : Option Nat),
     s.pr g = true → (∀ n, s.focus ≠ .jig n) →
     let ea (n : Nat) : Nat := (s.xr a + s.imm7 i * BitVec.ofNat 64 n).toNat
     (s.Reaches .load (ea 1) 1 pa leaf → s.Good pa 1 leaf →
       (∃ t, exec (.ldb g d a i) s = .next t ∧ t.bundle = s.bundle ∧ Loaded s t d 1 false 6 pa) ∧
       (∃ t, exec (.ldbs g d a i) s = .next t ∧ t.bundle = s.bundle ∧ Loaded s t d 1 true 6 pa)) ∧
     (s.Reaches .load (ea 2) 2 pa leaf → s.Good pa 2 leaf →
       (∃ t, exec (.ldh g d a i) s = .next t ∧ t.bundle = s.bundle ∧ Loaded s t d 2 false 6 pa) ∧
       (∃ t, exec (.ldhs g d a i) s = .next t ∧ t.bundle = s.bundle ∧ Loaded s t d 2 true 6 pa)) ∧
     (s.Reaches .load (ea 4) 4 pa leaf → s.Good pa 4 leaf →
       (∃ t, exec (.ldw g d a i) s = .next t ∧ t.bundle = s.bundle ∧ Loaded s t d 4 false 6 pa) ∧
       (∃ t, exec (.ldws g d a i) s = .next t ∧ t.bundle = s.bundle ∧ Loaded s t d 4 true 6 pa)) ∧
     (s.Reaches .load (ea 8) 8 pa leaf → s.Good pa 8 leaf →
       (∃ t, exec (.ldd g d a i) s = .next t ∧ t.bundle = s.bundle ∧ Loaded s t d 8 false 6 pa))) ∧
  (∀ (s : State) (g : BitVec 3) (d a : BitVec 5) (m : BitVec 8) (w : BitVec 3) (h : BitVec 2) (o : BitVec 16)
       (pa : Nat) (leaf : Option Nat),
     let k : Nat × Bool := nth [(1, false), (1, true), (2, false), (2, true), (4, false), (4, true)] w.toNat (8, false)
     s.pr g = true → (∀ n, s.focus ≠ .jig n) → s.bundle.imm = none →
     s.Reaches .load (s.xr a + o.signExtend 64).toNat k.1 pa leaf → s.Good pa k.1 leaf →
     ∃ t, exec (.ldl g d a m w h o) s = .next t ∧ t.bundle = { s.bundle with hint := some h.toNat } ∧
       Loaded s t d k.1 k.2 (if m = 0#8 then 6 else m.toNat) pa) ∧
  (∀ (s : State) (g : BitVec 3) (a : BitVec 5) (i : BitVec 7), s.pr g = true →
     (∃ t, exec (.pfl g a i) s = .next t ∧ t.bundle = s.bundle ∧ t.scalar = s.scalar ∧ t.arith = s.arith ∧
       ((∀ l, ∀ q ∈ (s.line l).queue, q.kind ≠ .nr) → t.mem = s.mem)) ∧
     (s.hint = 3 → exec (.pfl g a i) s = .next s))

/-- STB, STH, STW and STD complete where their bytes are reached: a store puts the low bytes of xd, little-endian, at xa
plus the immediate times its size, and changes no other byte; no register changes (R309, R136). -/
def Obligations.StoreResults : Prop :=
  ∀ (s : State) (g : BitVec 3) (d a : BitVec 5) (i : BitVec 7) (pa : Nat) (leaf : Option Nat),
    s.pr g = true → (∀ n, s.focus ≠ .jig n) →
    let reached (n : Nat) : Prop :=
      s.Reaches .store (s.xr a + s.imm7 i * BitVec.ofNat 64 n).toNat n pa leaf ∧ s.Good pa n leaf
    let low (n : Nat) : List Byte := (List.range n).map (fun k => (s.xr d).extractLsb' (8 * k) 8)
    (reached 1 → ∃ t, exec (.stb g d a i) s = .next t ∧ t.bundle = s.bundle ∧ t.scalar = s.scalar ∧ t.arith = s.arith ∧
      Stored s t pa leaf (low 1)) ∧
    (reached 2 → ∃ t, exec (.sth g d a i) s = .next t ∧ t.bundle = s.bundle ∧ t.scalar = s.scalar ∧ t.arith = s.arith ∧
      Stored s t pa leaf (low 2)) ∧
    (reached 4 → ∃ t, exec (.stw g d a i) s = .next t ∧ t.bundle = s.bundle ∧ t.scalar = s.scalar ∧ t.arith = s.arith ∧
      Stored s t pa leaf (low 4)) ∧
    (reached 8 → ∃ t, exec (.std g d a i) s = .next t ∧ t.bundle = s.bundle ∧ t.scalar = s.scalar ∧ t.arith = s.arith ∧
      Stored s t pa leaf (low 8))

/-- A returning atomic whose line the agent can take completes: it replaces the aligned word at xa by the operation's
result and lands the old value, sign-extended but for AMMINN and AMMAXN, for bundle n + 6; every other byte is unchanged
but for DIRTY of the leaf; the operand is the low 4 or 8 bytes of xb (R312, R233). AMCAS whose comparison holds writes
the low bytes of xc, one whose comparison fails writes nothing and still returns the old value (R313). A no-return atomic
of point mode completes with memory and the results on their way as they are, queued for its home with its operand (R229,
R234); one of frame mode or of a command sequencer replaces the word at once, without a result (R298, R299). -/
def Obligations.AtomicResults : Prop :=
  (∀ (s : State) (g : BitVec 3) (d a y : BitVec 5) (w : BitVec 1) (pa : Nat) (leaf : Option Nat),
     let n := if w = 1#1 then 8 else 4
     s.pr g = true → (∀ k, s.focus ≠ .jig k) → Memory.wf s.mem = true →
     (s.xr a).toNat % n = 0 → s.Reaches .store (s.xr a).toNat n pa leaf → s.Good pa n leaf →
     s.resolve s.view .load (s.xr a).toNat = .ok (.cell pa leaf) → s.my.withheld = [] →
     (∀ x, leaf = some x → x + 6 < pa ∨ pa + n ≤ x + 6) →
     let x : BitVec (8 * n) := (s.xr y).setWidth (8 * n)
     (∃ t, exec (.amadd g d a y 0#1 w) s = .next t ∧ AtomicDone s t d n pa leaf false (fun o => o + x)) ∧
     (∃ t, exec (.ammin g d a y 0#1 w) s = .next t ∧ AtomicDone s t d n pa leaf false (fun o => if x.slt o then x else o)) ∧
     (∃ t, exec (.amminn g d a y 0#1 w) s = .next t ∧ AtomicDone s t d n pa leaf true (fun o => if x.ult o then x else o)) ∧
     (∃ t, exec (.ammax g d a y 0#1 w) s = .next t ∧ AtomicDone s t d n pa leaf false (fun o => if o.slt x then x else o)) ∧
     (∃ t, exec (.ammaxn g d a y 0#1 w) s = .next t ∧ AtomicDone s t d n pa leaf true (fun o => if o.ult x then x else o)) ∧
     (∃ t, exec (.amand g d a y 0#1 w) s = .next t ∧ AtomicDone s t d n pa leaf false (fun o => o &&& x)) ∧
     (∃ t, exec (.amor g d a y 0#1 w) s = .next t ∧ AtomicDone s t d n pa leaf false (fun o => o ||| x)) ∧
     (∃ t, exec (.amxor g d a y 0#1 w) s = .next t ∧ AtomicDone s t d n pa leaf false (fun o => o ^^^ x)) ∧
     (∃ t, exec (.amswp g d a y 0#1 w) s = .next t ∧ AtomicDone s t d n pa leaf false (fun _ => x)) ∧
     ∀ c : BitVec 5, ∃ t, exec (.amcas g d a y w c) s = .next t ∧
       AtomicDone s t d n pa leaf false (fun o => if o = x then (s.xr c).setWidth (8 * n) else o) ∧
       (BitVec.ofNat (8 * n) (Memory.read s.mem pa n) ≠ x → t.mem = s.mem)) ∧
  (∀ (s : State) (g : BitVec 3) (a y : BitVec 5) (w : BitVec 1) (m pa : Nat) (leaf : Option Nat),
     let n := if w = 1#1 then 8 else 4
     s.pr g = true → s.focus = .core m → s.mode = .point → (s.xr a).toNat < 2 ^ 52 → (s.xr a).toNat % n = 0 →
     s.resolve s.view .load (s.xr a).toNat = .ok (.cell pa leaf) →
     s.resolve s.view .store (s.xr a).toNat = .ok (.cell pa leaf) →
     (∃ t, exec (.amadd g 0#5 a y 1#1 w) s = .next t ∧ AtomicQueued s t .add pa n (s.xr y) leaf) ∧
     (∃ t, exec (.ammin g 0#5 a y 1#1 w) s = .next t ∧ AtomicQueued s t .smin pa n (s.xr y) leaf) ∧
     (∃ t, exec (.amminn g 0#5 a y 1#1 w) s = .next t ∧ AtomicQueued s t .umin pa n (s.xr y) leaf) ∧
     (∃ t, exec (.ammax g 0#5 a y 1#1 w) s = .next t ∧ AtomicQueued s t .smax pa n (s.xr y) leaf) ∧
     (∃ t, exec (.ammaxn g 0#5 a y 1#1 w) s = .next t ∧ AtomicQueued s t .umax pa n (s.xr y) leaf) ∧
     (∃ t, exec (.amand g 0#5 a y 1#1 w) s = .next t ∧ AtomicQueued s t .and pa n (s.xr y) leaf) ∧
     (∃ t, exec (.amor g 0#5 a y 1#1 w) s = .next t ∧ AtomicQueued s t .or pa n (s.xr y) leaf) ∧
     (∃ t, exec (.amxor g 0#5 a y 1#1 w) s = .next t ∧ AtomicQueued s t .xor pa n (s.xr y) leaf) ∧
     (∃ t, exec (.amswp g 0#5 a y 1#1 w) s = .next t ∧ AtomicQueued s t .swap pa n (s.xr y) leaf)) ∧
  (∀ (s : State) (g : BitVec 3) (a y : BitVec 5) (w : BitVec 1) (pa : Nat) (leaf : Option Nat),
     let n := if w = 1#1 then 8 else 4
     s.pr g = true → (∀ k, s.focus ≠ .jig k) → s.mode ≠ .point → Memory.wf s.mem = true →
     (s.xr a).toNat % n = 0 → s.Reaches .store (s.xr a).toNat n pa leaf → s.Good pa n leaf →
     s.resolve s.view .load (s.xr a).toNat = .ok (.cell pa leaf) → s.my.withheld = [] →
     (∀ x, leaf = some x → x + 6 < pa ∨ pa + n ≤ x + 6) →
     let x : BitVec (8 * n) := (s.xr y).setWidth (8 * n)
     (∃ t, exec (.amadd g 0#5 a y 1#1 w) s = .next t ∧ AtomicJoined s t n pa leaf (fun o => o + x)) ∧
     (∃ t, exec (.ammin g 0#5 a y 1#1 w) s = .next t ∧ AtomicJoined s t n pa leaf (fun o => if x.slt o then x else o)) ∧
     (∃ t, exec (.amminn g 0#5 a y 1#1 w) s = .next t ∧ AtomicJoined s t n pa leaf (fun o => if x.ult o then x else o)) ∧
     (∃ t, exec (.ammax g 0#5 a y 1#1 w) s = .next t ∧ AtomicJoined s t n pa leaf (fun o => if o.slt x then x else o)) ∧
     (∃ t, exec (.ammaxn g 0#5 a y 1#1 w) s = .next t ∧ AtomicJoined s t n pa leaf (fun o => if o.ult x then x else o)) ∧
     (∃ t, exec (.amand g 0#5 a y 1#1 w) s = .next t ∧ AtomicJoined s t n pa leaf (fun o => o &&& x)) ∧
     (∃ t, exec (.amor g 0#5 a y 1#1 w) s = .next t ∧ AtomicJoined s t n pa leaf (fun o => o ||| x)) ∧
     (∃ t, exec (.amxor g 0#5 a y 1#1 w) s = .next t ∧ AtomicJoined s t n pa leaf (fun o => o ^^^ x)) ∧
     (∃ t, exec (.amswp g 0#5 a y 1#1 w) s = .next t ∧ AtomicJoined s t n pa leaf (fun _ => x)))

/-- GINIT writes COUNT 0, TARGET and GEN from xb, and zeros; GSIG adds xb in one update; GREAD returns a word of the
gauge after 2 bundles; GWAIT and AWAIT complete at once when GEN differs from xb, with GEN in xd, and else the core
waits at the gauge (R242, R314 to R316). No byte outside the word changes. TKGET returns NEXT and increments it;
TKWAIT completes once its ticket is served and else the core waits; TKNEXT increments SERVING and tells it to every
core that waits at the word (R246, R317). FENCE completes when no started copy and no queued atomic that targets its
scope is outstanding, and the agent's logical time is then not before what its finished commands wrote in the scope; else
it waits (R240, R318). -/
def Obligations.GaugesTicketsFence : Prop :=
  (∀ (s : State) (g : BitVec 3) (d a y : BitVec 5) (k : BitVec 2) (pa : Nat),
     s.pr g = true → Memory.wf s.mem = true → s.WordReady (s.xr a) 32 pa →
     let count := Memory.read s.mem pa 8
     let target := Memory.read s.mem (pa + 8) 6
     let gen := Memory.read s.mem (pa + 14) 2
     let sl := s.bundle.slot
     (∃ t, exec (.ginit g a y) s = .next t ∧ t.bundle = s.bundle ∧ t.scalar = s.scalar ∧
       BytesAre s.mem t.mem pa (leBytes 8 0 ++ leBytes 6 ((s.xr y).extractLsb' 0 48).toNat ++
         leBytes 2 ((s.xr y).extractLsb' 48 16).toNat ++ List.replicate 16 0#8)) ∧
     (∃ t count' gen', exec (.gsig g a y) s = .next t ∧ t.bundle = s.bundle ∧ t.scalar = s.scalar ∧
       GaugeAfter count target gen (s.xr y).toNat count' gen' ∧
       BytesAre s.mem t.mem pa (leBytes 8 count' ++ leBytes 6 target ++ leBytes 2 gen')) ∧
     (∃ t, exec (.gread g d a k) s = .next t ∧ t.bundle = s.bundle ∧ t.mem = s.mem ∧
       t.scalar.pend = s.scalar.pend ++ if d = 0#5 then [] else
         [{ dest := .x d (BitVec.ofNat 64 (Memory.read s.mem (pa + 8 * k.toNat) 8)), togo := 2,
            arrived := s.lateCode.1 == 0, slot := sl }]) ∧
     (s.queueCopies = false → s.bundle.stall = .none →
       (gen ≠ (s.xr y).toNat % 2 ^ 16 →
         (∃ t, exec (.gwait g d a y) s = .next t ∧ t.bundle = s.bundle ∧ t.mem = s.mem ∧
           t.scalar.pend = s.scalar.pend ++ if d = 0#5 then [] else
             [{ dest := .x d (BitVec.ofNat 64 gen), togo := 1, slot := sl }]) ∧
         (∃ t, exec (.await g d a y) s = .next t ∧ t.bundle = s.bundle ∧ t.mem = s.mem ∧
           t.scalar.pend = s.scalar.pend ++ if d = 0#5 then [] else
             [{ dest := .x d (BitVec.ofNat 64 gen), togo := 1, slot := sl }])) ∧
       (gen = (s.xr y).toNat % 2 ^ 16 → s.my.woken = false → s.my.owed = false →
         (∃ t, exec (.gwait g d a y) s = .next t ∧ t.bundle.stall = .gauge pa false false ∧ t.mem = s.mem ∧
           t.scalar = s.scalar) ∧
         (∃ t, exec (.await g d a y) s = .next t ∧ t.bundle.stall = .gauge pa false true ∧ t.mem = s.mem ∧
           t.scalar = s.scalar)))) ∧
  (∀ (s : State) (g : BitVec 3) (d a y : BitVec 5) (pa : Nat),
     s.pr g = true → Memory.wf s.mem = true → s.WordReady (s.xr a) 16 pa → s.bundle.stall = .none →
     let next := Memory.read s.mem pa 4
     let serving := Memory.read s.mem (pa + 4) 4
     let served := (BitVec.ofNat 32 serving - (s.xr y).setWidth 32).toNat < 2 ^ 31
     (∃ t, exec (.tkget g d a) s = .next t ∧ t.bundle = s.bundle ∧
       (t.scalar.pend = s.scalar.pend ++ if d = 0#5 then [] else
         [{ dest := .x d (BitVec.ofNat 64 next), togo := 6, slot := s.bundle.slot }]) ∧
       BytesAre s.mem t.mem pa (leBytes 4 (next + 1))) ∧
     (served → ∃ t, exec (.tkwait g a y) s = .next t ∧ t.bundle = s.bundle ∧ t.mem = s.mem ∧ t.scalar = s.scalar) ∧
     (¬ served → ∃ t, exec (.tkwait g a y) s = .next t ∧ t.bundle.stall = .ticket pa false ∧ t.mem = s.mem) ∧
     (∃ t, exec (.tknext g a) s = .next t ∧ t.bundle = s.bundle ∧ BytesAre s.mem t.mem (pa + 4) (leBytes 4 (serving + 1)) ∧
       ∀ e ∈ t.cores, ∀ b, e.2.wait = .ticket pa b → b = true)) ∧
  (∀ (s : State) (g c : BitVec 3), s.pr g = true → (∀ n, s.focus ≠ .jig n) →
     let busy : Prop := (∃ k ∈ s.eng.copies, k.started = true ∧ s.targets c.toNat k = true) ∨
       (s.mode ≠ .seq ∧ ∃ x ∈ s.my.nr, scopeCovers c.toNat s.me x.pa = true)
     (¬ busy → exec (.fence g c) s = .next (s.setPts (s.wroteIn c.toNat)) ∧
       s.wroteIn c.toNat ≤ (s.setPts (s.wroteIn c.toNat)).pts) ∧
     (busy → s.bundle.stall = .none → ∃ t, exec (.fence g c) s = .next t ∧ t.bundle.stall = .fence ∧ t.mem = s.mem ∧
       t.scalar = s.scalar))

/-- A queue handle becomes empty by QINIT, for the next bundle; QWAITF and QWAITE complete when as many slots are
filled or free; QADVH and QADVT move HEAD and TAIL modulo twice the size; QSTAT returns the counts; slots that a jig has
freed count as free from the next peg on (R136). An uninitialised handle, a misaligned base, or a handle that a copy
outstanding names raises QUEUE_PROTOCOL (R185 to R187, R319, R320). -/
def Obligations.QueueOps : Prop :=
  ∀ (s : State) (g : BitVec 3) (q : BitVec 4) (d a y : BitVec 5), s.pr g = true → s.mode ≠ .seq → s.clean →
    let h := s.qr q
    let n := (s.xr y).toNat
    let head := if h.consEngine then (if h.fresh then 0 else (s.my.peg.q[q.toNat]'(q.isLt)).head) else h.head
    let filled := (h.tail + 2 * h.size - head) % (2 * h.size)
    let proto (o : Out) := ∃ t, o = .next t ∧ t.bundle.trap = some ⟨0x40#8, BitVec.ofNat 64 (s.bundle.slot * 2 ^ 52 + q.toNat)⟩ ∧
      t.mem = s.mem ∧ t.scalar = s.scalar
    (∀ size, ∀ pe ce : Bool, (s.xr a).toNat % 256 = 0 → 1 ≤ size → size ≤ 1024 → (s.xr a).toNat + 256 * size ≤ 2 ^ 18 →
      n = size + (if pe then 2 ^ 16 else 0) + (if ce then 2 ^ 17 else 0) → (pe && ce) = false → s.copyNames q = false →
      exec (.qinit g q a y) s = .next (s.issue [{ dest := .q q ⟨(s.xr a).toNat, size, 0, 0, pe, ce, true⟩, togo := 1 }])) ∧
    (((s.xr a).toNat % 256 ≠ 0 ∨ s.copyNames q = true) → proto (exec (.qinit g q a y) s)) ∧
    (h.size ≠ 0 → 0 < n → n ≤ filled → n ≤ h.size → exec (.qwaitf g q y) s = .next s) ∧
    (h.size ≠ 0 → 0 < n → n ≤ h.size - filled → exec (.qwaite g q y) s = .next s) ∧
    (h.size ≠ 0 → h.consEngine = false → n ≤ filled →
      exec (.qadvh g q y) s = .next (s.issue [{ dest := .qHead q ((h.head + n) % (2 * h.size)), togo := 1 }])) ∧
    (h.size ≠ 0 → h.prodEngine = false → n ≤ h.size - filled →
      exec (.qadvt g q y) s = .next (s.issue [{ dest := .qTail q ((h.tail + n) % (2 * h.size)), togo := 1 }])) ∧
    (h.size ≠ 0 → ∃ v : W64, exec (.qstat g d q) s = .next (s.putX d 2 v) ∧
      (h.size ≤ 1024 → filled ≤ h.size → v.extractLsb' 0 16 = BitVec.ofNat 16 filled ∧
        v.extractLsb' 16 16 = BitVec.ofNat 16 (h.size - filled) ∧ v.extractLsb' 32 16 = BitVec.ofNat 16 h.size ∧
        v.getLsbD 48 = h.prodEngine ∧ v.getLsbD 49 = h.consEngine ∧ v.getLsbD 63 = true)) ∧
    (h.size = 0 → proto (exec (.qwaitf g q y) s) ∧ proto (exec (.qwaite g q y) s) ∧ proto (exec (.qadvh g q y) s) ∧
      proto (exec (.qadvt g q y) s) ∧ proto (exec (.qstat g d q) s))

/-! ### Control -/

/-- TPREP and TPREPX prepare a target relative to the bundle's address or to x30, TREAD reads it after 2 bundles; an
XFER through a prepared entry transfers, through another raises TB_EMPTY; the linking form puts the next sequential
address into x30; MOD and IMM stand for the next op (R183, R275 to R277, R321). -/
def Obligations.TransferOps : Prop :=
  ∀ (s : State) (g : BitVec 3) (n : BitVec 2) (d : BitVec 5) (o : BitVec 15), s.pr g = true → s.bundle.imm = none →
    s.bundle.trap = none →
    let e := s.tbr n
    let off : BitVec 52 := o.signExtend 52 * 4#52
    exec (.tprep g n o) s = .next (s.setScalar { s.scalar with tb := s.scalar.tb.set n.toNat ⟨s.bundle.pc + off, true, 3⟩ n.isLt }) ∧
    exec (.tprepx g n o) s = .next (s.setScalar { s.scalar with
      tb := s.scalar.tb.set n.toNat ⟨(s.xr 30#5).setWidth 52 + off, true, 3⟩ n.isLt }) ∧
    exec (.tread g d n) s = .next (s.putX d 2 (e.addr.setWidth 64 ||| (BitVec.ofBool e.prepared).setWidth 64)) ∧
    (e.prepared = true → exec (.xfer g n) s = .next { s with bundle := { s.bundle with xfer := some e.addr } } ∧
      ∃ t, exec (.xferLink n) s = .next t ∧ t.bundle = { s.bundle with xfer := some e.addr } ∧
        t.scalar.pend = s.scalar.pend ++ [{ dest := .x 30#5 (s.bundle.next.setWidth 64), togo := 1 }]) ∧
    (e.prepared = false → exec (.xfer g n) s = .next { s with bundle := { s.bundle with trap := some ⟨0x03#8, 0#64⟩ } }) ∧
    (∀ (r : BitVec 3) (t h : BitVec 2) (f : BitVec 4) (m : BitVec 1), exec (.mod r t h f m) s =
      .next { s with bundle := { s.bundle with mod := some ⟨r, t, h, f, m == 1#1⟩ } }) ∧
    (∀ i : BitVec 26, exec (.imm i) s = .next { s with bundle := { s.bundle with imm := some i } })

/-- Reads and writes of the control registers: CSRR returns the register after 2 bundles; CSRW, CSRS and CSRC write,
set and clear it for the next bundle; a write that would place a reserved value in a field is discarded; in point mode
a write of a register numbered 0x100 or above raises PRIVILEGE (R9, R144, R180, R322). What a landed write of a
control register is read as by the next bundle: the written fields of VTYPE, FFLAGS, FRM, SRSEED, the trap registers,
WDOG, FRAMEVEC and LINKSUB (R145, R181, R182, R50). -/
def Obligations.ControlRegisters : Prop :=
  (∀ (s : State) (g : BitVec 3) (d : BitVec 5) (c : BitVec 12), s.pr g = true → s.bundle.trap = none → s.mode ≠ .seq →
     let n := c.toNat
     let old : W64 := BitVec.ofNat 64 (s.csr n)
     let written (v : W64) : State := s.issue [{ dest := .csr n v, togo := 1 }]
     exec (.csrr g d c) s = .next (s.putX d 2 old) ∧
     ((s.mode = .frame ∨ n < 0x100) →
       (csrReserved n (s.xr d).toNat = false → exec (.csrw g d c) s = .next (written (s.xr d))) ∧
       (csrReserved n (s.xr d).toNat = true → exec (.csrw g d c) s = .next s) ∧
       (d ≠ 0#5 → csrReserved n (old ||| s.xr d).toNat = false → exec (.csrs g d c) s = .next (written (old ||| s.xr d))) ∧
       (d ≠ 0#5 → csrReserved n (old &&& ~~~s.xr d).toNat = false →
         exec (.csrc g d c) s = .next (written (old &&& ~~~s.xr d))) ∧
       (d = 0#5 → exec (.csrs g d c) s = .next s ∧ exec (.csrc g d c) s = .next s)) ∧
     (s.mode = .point → 0x100 ≤ n → ∃ t, exec (.csrw g d c) s = .next t ∧ t.mem = s.mem ∧ t.scalar = s.scalar ∧
       t.bundle.trap = some ⟨0x15#8, BitVec.ofNat 64 (s.bundle.slot * 2 ^ 52 + 0x04)⟩)) ∧
  (∀ (s : State) (n : Nat) (v : W64), s.focus = .core n →
     (s.setCsr 0x020 v).csr 0x020 = (v.extractLsb' 0 11).toNat ∧ (s.setCsr 0x021 v).csr 0x021 = (v.extractLsb' 0 6).toNat ∧
     (s.setCsr 0x022 v).csr 0x022 = (v.extractLsb' 0 3).toNat ∧ (s.setCsr 0x023 v).csr 0x023 = (v.extractLsb' 0 32).toNat ∧
     (s.setCsr 0x023 v).arith.lfsr = v.extractLsb' 0 32 ∧
     (s.setCsr 0x100 v).csr 0x100 = (v.extractLsb' 0 8).toNat ∧ (s.setCsr 0x101 v).csr 0x101 = (v.extractLsb' 0 52).toNat ∧
     (s.setCsr 0x102 v).csr 0x102 = v.toNat ∧ (s.setCsr 0x103 v).csr 0x103 = (v.extractLsb' 2 50).toNat * 4 ∧
     (s.setCsr 0x105 v).csr 0x105 = (v.extractLsb' 5 47).toNat * 32 ∧
     (s.setCsr 0x104 v).csr 0x104 = (v.extractLsb' 8 16).toNat * 256 + (if (s.core n).frame then 1 else 0) ∧
     (s.setCsr 0x120 v).csr 0x120 = (v.extractLsb' 0 32).toNat ∧
     (∀ k, 0x001 ≤ k → k ≤ 0x013 → s.setCsr k v = s))

/-- PEG makes its bundle a peg in point mode and does nothing elsewhere; END ends the point, abandons it or ends the
program as its bundle retires; TRAP and BRK raise their causes with the immediate in TRAPINFO; HWIN of an empty group
applies at once, one of a group that holds writes waits, and one whose group has been applied completes; each that
completes leaves the group's number and size in HWINST (R63, R64, R138, R323, R324). -/
def Obligations.PegEndTrapHwin : Prop :=
  ∀ (s : State) (g : BitVec 3) (i : BitVec 7), s.pr g = true → s.clean → s.bundle.imm = none →
    (s.mode = .point → exec .peg s = .next { s with bundle := { s.bundle with peg := true } }) ∧
    (s.mode ≠ .point → exec .peg s = .next s) ∧
    (∃ t, exec .endOp s = .next t ∧ t.clean ∧ t.bundle.ended = true ∧ (s.mode = .point → t.bundle.peg = true) ∧
      t.mem = s.mem ∧ t.cores = s.cores ∧ t.seqs = s.seqs) ∧
    exec (.trap g i) s = .next { s with bundle := { s.bundle with trap := some ⟨0x70#8, ((i.signExtend 33 : BitVec 33).setWidth 64)⟩ } } ∧
    exec (.brk g i) s = .next { s with bundle := { s.bundle with trap := some ⟨0x71#8, ((i.signExtend 33 : BitVec 33).setWidth 64)⟩ } } ∧
    (s.cutOf = none → (s.strm s.stream).ingress = [] → ∃ t, exec .hwin s = .next t ∧ t.bundle = s.bundle ∧ t.mem = s.mem ∧
      (t.strm s.stream).groupSeq = ((s.strm s.stream).groupSeq + 1) % 2 ^ 16 ∧
      (s.mode ≠ .seq → (∀ n, s.focus ≠ .jig n) →
        t.regs.hwinst = BitVec.ofNat 64 (((s.strm s.stream).groupSeq + 1) % 2 ^ 16 * 2 ^ 48 + s.stream * 2 ^ 32))) ∧
    (s.cutOf = none → (s.strm s.stream).ingress ≠ [] → ∃ t, exec .hwin s = .next t ∧ t.bundle.stall = .hwin ∧ t.mem = s.mem) ∧
    (∀ c, s.cutOf = some c →
      (c.applied = false → ∃ t, exec .hwin s = .next t ∧ t.bundle.stall = .hwin ∧ t.mem = s.mem) ∧
      (c.applied = true → ∃ t, exec .hwin s = .next t ∧ t.bundle = s.bundle ∧ t.mem = s.mem ∧
        t.host.cuts = s.host.cuts.filter (fun k => k != c) ∧
        (s.mode ≠ .seq → (∀ n, s.focus ≠ .jig n) → t.regs.hwinst =
          BitVec.ofNat 64 (c.seq * 2 ^ 48 + c.stream * 2 ^ 32 + (c.tlps.foldl (fun n x => n + x.bytes.length) 0) % 2 ^ 32))))

/-! ### System operations -/

/-- SPAWN reads the record at xa and answers with the submission's status and TASKID, FULL where no entry is free; one
that is accepted enters the table for the point's job. CANCELJ answers 0 and marks an incomplete job of the stream
cancelled, and 1 for another (R79, R89, R325, R326). PHASE answers 2 while a conversion runs, 1 at once where a slice to
raise holds pinned lines, and else changes the slices at once, at most to eight, and ends the conversion as its 0 lands; OPREQ
sets or clears the hint of the task of the core's point (R120, R207, R327, R328). -/
def Obligations.SpawnCancelPhaseOpreq : Prop :=
  (∀ (s : State) (g : BitVec 3) (d a : BitVec 5), s.pr g = true → s.mode ≠ .seq →
     (∀ s1 bs, (s.xr a).toNat % 256 = 0 → (s.xr a).toNat < 2 ^ 52 →
       s.load s.view (s.xr a).toNat 256 = .ok s1 (bs, none) →
       let r := s1.submit s1.stream s1.my.job (BitVec.ofNat 2048 (leNat bs)) true
       (∀ s' status id, r = some (s', status, id) →
         exec (.spawn g d a) s = .next (s'.putX d 6 (BitVec.ofNat 64 (status + id * 2 ^ 32))) ∧
         (status = 0 → ∃ k ∈ s'.tab.tasks, k.id = id ∧ k.stream = s1.stream ∧ k.job = s1.my.job)) ∧
       (r = none → exec (.spawn g d a) s = .next (s1.putX d 6 2#64))) ∧
     (let j := ((s.xr a).extractLsb' 0 13).toNat
      ∃ t l, exec (.cancelj g d a) s = .next t ∧ t.bundle = s.bundle ∧
       (t.scalar.pend = l ++ if d = 0#5 then [] else
         [{ dest := .x d (if (s.job s.stream j).isSome then 0#64 else 1#64), togo := 6, slot := s.bundle.slot }]) ∧
       ((s.job s.stream j).isSome = true → ∃ b, t.job s.stream j = some b ∧ b.cancelled = true))) ∧
  (∀ (s : State) (g : BitVec 3) (d a : BitVec 5) (n : BitVec 4) (m : BitVec 8), s.pr g = true → s.mode ≠ .seq →
     (∀ k, s.focus ≠ .jig k) →
     let c := s.my
     let arr := if m = 0#8 then 255 else m.toNat
     let pinned : Bool := (List.range 8).any (fun i => decide (c.pt.dslices ≤ i) && decide (i < min n.toNat 8) && s.slicePinned s.me i)
     (c.pt.phaseBusy = true → exec (.phase g d n m) s = .next (s.putX d arr 2#64)) ∧
     (c.pt.phaseBusy = false → pinned = true → exec (.phase g d n m) s = .next (s.putX d 1 1#64)) ∧
     (c.pt.phaseBusy = false → pinned = false → ∃ t, exec (.phase g d n m) s = .next t ∧ t.bundle = s.bundle ∧
       t.my.pt.dslices = min n.toNat 8 ∧ t.my.pt.phaseBusy = true ∧
       t.scalar.pend = s.scalar.pend ++
         [{ dest := .phase d 0#64, togo := arr, arrived := s.lateCode.1 == 0, slot := s.bundle.slot }] ∧
       (t.landOne (.phase d 0#64)).my.pt.phaseBusy = false) ∧
     (∀ id p u, c.point = some (id, p) → s.task id = some u → ∃ t u', exec (.opreq g a) s = .next t ∧ t.bundle = s.bundle ∧
       t.task id = some u' ∧ u' = { u with
         hint := if (s.xr a).getLsbD 3 = true ∧ ((s.xr a).extractLsb' 0 3).toNat < u.opts.length then some ((s.xr a).extractLsb' 0 3).toNat else none }))

/-- PINW answers 0 and pins every line of its window, each into a selected cache slice of the home die with no slice
beyond 3,584 lines, and counts them in PINUSE, where the window lies in HBM on one stack, within PINLIM and the room of
the slices; else it pins nothing and answers 1 for a misaligned base or a page that is not mapped in HBM, 2 for several
stacks, 3 beyond PINLIM, 4 without room, in this order. UNPINW releases the pins of the context on the lines of its
window, each of them and no other, lowers PINUSE by their number and answers with it (R211, R329). TLBINV drops the
entries of a page, of a context, or of the context whose root it writes, and no other, and refuses a root that is no
valid table; its unseal takes the granules of the page out of the seal set, clears the leaf's SEAL bit and drops the
lines from every instruction cache, and of an address that is not mapped changes nothing and answers 1 (R203, R330). -/
def Obligations.PinningAndTlbInvalidate : Prop :=
  (∀ (s : State) (g : BitVec 3) (d a y : BitVec 5), s.pr g = true → s.mode = .frame →
     let va := (s.xr a).toNat
     let lines := (s.xr (a + 1#5)).toNat
     let c := s.ctx s.stream
     let ends (t : State) (n : Nat) : Prop := t.bundle = s.bundle ∧ t.mem = s.mem ∧ (∀ m, m ≠ s.stream → t.ctx m = s.ctx m) ∧
       t.scalar.pend = s.scalar.pend ++ if d = 0#5 then [] else
         [{ dest := .x d (BitVec.ofNat 64 n), togo := 6, slot := s.bundle.slot }]
     let refused (n : Nat) : Prop := exec (.pinw g d a y) s = .next (s.putX d 6 (BitVec.ofNat 64 n))
     let inHbm (i : Nat) (l : Leaf) : Prop :=
       va + 128 * i < 13 * 2 ^ 48 ∧ s.walk s.stream (va + 128 * i) = some l ∧ fieldN l.val 58 2 = 0
     let lineOf (i : Nat) (l : Leaf) : Nat := (entryBase l.val + (va + 128 * i) % 2 ^ l.bits) / 128
     (va % 128 ≠ 0 → refused 1) ∧
     (∀ i, i < lines → va % 128 = 0 → (∀ l, ¬ inHbm i l) → refused 1) ∧
     (∀ leaf : Nat → Leaf, va % 128 = 0 → (∀ i, i < lines → inHbm i (leaf i)) →
       ((∃ i j, i < lines ∧ j < lines ∧ fieldN (leaf i).val 54 4 ≠ fieldN (leaf j).val 54 4) → refused 2) ∧
       (∀ home, 0 < lines → (∀ i, i < lines → fieldN (leaf i).val 54 4 = home) →
         let slices := s.cacheSlices home (s.xr y).toNat
         let room := (slices.map (fun k => 3584 - s.pinnedIn k)).sum
         (c.pinLim.toNat < c.pinUse.toNat + lines → refused 3) ∧
         (c.pinUse.toNat + lines ≤ c.pinLim.toNat → room < lines → refused 4) ∧
         (c.pinUse.toNat + lines ≤ c.pinLim.toNat → lines ≤ room → ∃ t pins, exec (.pinw g d a y) s = .next t ∧ ends t 0 ∧
           t.ctx s.stream = { c with pins := c.pins ++ pins, pinUse := c.pinUse + BitVec.ofNat 32 lines } ∧
           pins.map (·.1) = (List.range lines).map (fun i => lineOf i (leaf i)) ∧
           (∀ p ∈ pins, p.2 ∈ slices) ∧
           ∀ k, (pins.filter (fun p => p.2 == k)).length ≤ 3584 - s.pinnedIn k))) ∧
     (let covered (p : Nat × Nat) : Prop := ∃ i l, i < lines ∧ s.walk s.stream (va + 128 * i) = some l ∧ p.1 = lineOf i l
      ∃ t n, exec (.unpinw g d a) s = .next t ∧ ends t n ∧
       (t.ctx s.stream).pinUse = c.pinUse - BitVec.ofNat 32 n ∧
       t.ctx s.stream = { c with pins := (t.ctx s.stream).pins, pinUse := (t.ctx s.stream).pinUse } ∧
       (t.ctx s.stream).pins.length + n = c.pins.length ∧ List.Sublist (t.ctx s.stream).pins c.pins ∧
       (∀ p, covered p → p ∉ (t.ctx s.stream).pins) ∧
       ∀ p, ¬ covered p → (t.ctx s.stream).pins.count p = c.pins.count p)) ∧
  (∀ (s : State) (g : BitVec 3) (d a y : BitVec 5), s.pr g = true → s.mode = .frame →
     let va := (s.xr a).toNat
     let n := s.stream
     let ctx := ((s.xr y).extractLsb' 0 3).toNat
     let ends (t : State) (v : W64) : Prop := t.bundle = s.bundle ∧
       t.scalar.pend = s.scalar.pend ++ if d = 0#5 then [] else [{ dest := .x d v, togo := 6, slot := s.bundle.slot }]
     (∃ t, exec (.tlbinv g d a y 0#2) s = .next t ∧ ends t 0#64 ∧ t.mem = s.mem ∧
       ∀ e, e ∈ t.tlb ↔ e ∈ s.tlb ∧ ¬ (e.stream = n ∧ va / 2 ^ e.bits = e.base / 2 ^ e.bits)) ∧
     (∃ t, exec (.tlbinv g d a y 1#2) s = .next t ∧ ends t 0#64 ∧ t.mem = s.mem ∧
       ∀ e, e ∈ t.tlb ↔ e ∈ s.tlb ∧ e.stream ≠ n) ∧
     (rootOk va = true → (s.xr a).getLsbD 0 = true ∧ (s.xr a).getLsbD 1 = false ∧ entryBase va % 2 ^ 14 = 0 ∧
       ∃ t, exec (.tlbinv g d a y 2#2) s = .next t ∧ ends t 0#64 ∧ t.mem = s.mem ∧
       t.ctx ctx = { s.ctx ctx with root := s.xr a } ∧ (∀ m, m ≠ ctx → t.ctx m = s.ctx m) ∧
       ∀ e, e ∈ t.tlb ↔ e ∈ s.tlb ∧ e.stream ≠ ctx) ∧
     (rootOk va = false → exec (.tlbinv g d a y 2#2) s = .next (s.putX d 6 1#64)) ∧
     ((13 * 2 ^ 48 ≤ va ∨ s.walk n va = none) → exec (.tlbinv g d a y 3#2) s = .next (s.putX d 6 1#64)) ∧
     (∀ l, va < 13 * 2 ^ 48 → s.walk n va = some l → Memory.wf s.mem = true →
       let under (k : Nat) : Prop := entryBase l.val / 2 ^ 19 ≤ k ∧ k < entryBase l.val / 2 ^ 19 + 2 ^ (l.bits - 19)
       ∃ t, exec (.tlbinv g d a y 3#2) s = .next t ∧ ends t 0#64 ∧
         (∀ k, k ∈ t.sealSet ↔ k ∈ s.sealSet ∧ ¬ under k) ∧ (∀ e, e ∈ t.tlb ↔ e ∈ s.tlb ∧ e.at_ ≠ l.at_) ∧
         (∀ m, ∀ k ∈ (t.core m).ic, ¬ under (k / 4096)) ∧
         BytesAre s.mem t.mem (l.at_ + 6) [Memory.get s.mem (l.at_ + 6) &&& 0xDF#8]))

/-- DIRTYH of a misaligned range or map raises ALIGNMENT, whose TRAPINFO names the misaligned address, and of no granule or
more than 65,536 answers all ones and changes nothing; of a range no page of which is mapped it stores zeros and answers 0;
of a range within one mapped page it stores a bit for each granule and answers 1 and clears DIRTY where it was set, answers 0
where it was not, and changes no other byte (R170, R331). LINKQ answers with the register read; LINKSET clears latched bits
of a link and then submits its request: 0 where a retrain begins or the request is held, 1 where it is refused, 2 where the
step is unchanged, and 3, with nothing changed, where there is no such link (R32, R332, R333). -/
def Obligations.DirtyHarvestAndLinks : Prop :=
  ∀ (s : State) (g : BitVec 3) (d a y : BitVec 5), s.pr g = true →
    let va := (s.xr a).toNat
    let map := (s.xr (a + 1#5)).toNat
    let n := (s.xr y).toNat
    let link := ((s.xr a).extractLsb' 0 5).toNat
    let step := ((s.xr a).extractLsb' 8 3).toNat
    let answers (t : State) (v : W64) : Prop := t.bundle = s.bundle ∧
      t.scalar.pend = s.scalar.pend ++ if d = 0#5 then [] else [{ dest := .x d v, togo := 6, slot := s.bundle.slot }]
    let misaligned (x : Nat) : Prop := ∃ t r, exec (.dirtyh g d a y) s = .next t ∧ t.bundle.trap = some r ∧ r.cause = 0x12#8 ∧
      r.info.extractLsb' 0 52 = BitVec.ofNat 52 x ∧ t.mem = s.mem ∧ t.scalar = s.scalar
    (s.mode ≠ .point → va % 2 ^ 19 = 0 → map % 8 = 0 → (n = 0 ∨ 65536 < n) →
      exec (.dirtyh g d a y) s = .next (s.putX d 6 (BitVec.allOnes 64))) ∧
    (s.mode ≠ .point → s.bundle.trap = none → va % 2 ^ 19 ≠ 0 → misaligned va) ∧
    (s.mode ≠ .point → s.bundle.trap = none → va % 2 ^ 19 = 0 → map % 8 ≠ 0 → misaligned map) ∧
    (∀ pa leaf, s.mode ≠ .point → va % 2 ^ 19 = 0 → map % 8 = 0 → 0 < n → n ≤ 64 → (∀ k, k < n → s.walk s.stream (va + k * 2 ^ 19) = none) →
      s.Reaches .store map 8 pa leaf → s.Good pa 8 leaf → Memory.wf s.mem = true → (∀ m, s.focus ≠ .jig m) →
      ∃ t, exec (.dirtyh g d a y) s = .next t ∧ answers t 0#64 ∧ (∀ k, k < 8 → Memory.get t.mem (pa + k) = 0#8)) ∧
    (∀ pa l, s.mode = .frame → va % 2 ^ 19 = 0 → map % 8 = 0 → 14 * 2 ^ 48 ≤ map → 0 < n → n ≤ 64 →
      (∀ k, k < n → va + k * 2 ^ 19 < 13 * 2 ^ 48 ∧ s.walk s.stream (va + k * 2 ^ 19) = some l) →
      s.Reaches .store map 8 pa none → s.Good pa 8 none → Memory.wf s.mem = true → (∀ m, s.focus ≠ .jig m) →
      (l.at_ + 6 < pa ∨ pa + 8 ≤ l.at_ + 6) →
      let dirty : Bool := (BitVec.ofNat 64 l.val).getLsbD 52
      ∃ t, exec (.dirtyh g d a y) s = .next t ∧ answers t (if dirty then 1#64 else 0#64) ∧
        Memory.read t.mem pa 8 = (if dirty then 2 ^ n - 1 else 0) ∧
        Memory.get t.mem (l.at_ + 6) = Memory.get s.mem (l.at_ + 6) &&& 0xEF#8 ∧
        (∀ x, x ≠ l.at_ + 6 → (x < pa ∨ pa + 8 ≤ x) → Memory.get t.mem x = Memory.get s.mem x) ∧
        (dirty = true → ∀ e ∈ t.tlb, e.at_ ≠ l.at_)) ∧
    exec (.linkq g d a) s = .next (s.putX d 6 (BitVec.ofNat 64 (s.linkRead (s.xr a).toNat))) ∧
    (s.mode = .frame → 24 ≤ link → exec (.linkset g d a) s = .next (s.putX d 6 3#64)) ∧
    (s.mode = .frame → link < 24 →
      let l := s.link link
      let cleared : Link := { l with
        refused := l.refused && !(s.xr a).getLsbD 16, evHalf := l.evHalf && !(s.xr a).getLsbD 17,
        evReplay := l.evReplay && !(s.xr a).getLsbD 18, evTrain := l.evTrain && !(s.xr a).getLsbD 19 }
      let left (v : W64) (l' : Link) : Prop := ∃ t, exec (.linkset g d a) s = .next t ∧ answers t v ∧ t.mem = s.mem ∧
        t.link link = l' ∧ ∀ m, m ≠ link → t.link m = s.link m
      ((s.xr a).getLsbD 20 = false → left 0#64 cleared) ∧
      ((s.xr a).getLsbD 20 = true →
        ((5 ≤ step ∨ l.maxStep < step) → left 1#64 { cleared with refused := true }) ∧
        (step ≤ 4 → step ≤ l.maxStep →
          (l.st = .up → step ≠ l.rate → left 0#64 { cleared with
            st := .retrain, step := step, target := step, second := false, go := true, retrains := (l.retrains + 1) % 2 ^ 64 }) ∧
          (l.st = .up → step = l.rate → left 2#64 { cleared with step := step, go := false }) ∧
          (l.st = .retrain → left 0#64 { cleared with step := step, go := true, held := some step }) ∧
          (l.st = .down ∨ l.st = .gated → left 1#64 { cleared with step := step, refused := true }))))

/-! ### Command programs -/

/-- JOB opens the first job number, from the counter on modulo 8,192, that no incomplete job uses, and waits while 256 are
incomplete; TASK, OPT, DEPV and TSET write the staging record, each only its own bits; CURVEQ reads an energy register
(R73, R334, R335). LAUNCH answers with the status and TASKID of the submission of the staging record, and holds the stream
while no entry is free; JWAIT of a job that is not incomplete gives 0xFF, of another closes it and holds the stream in
WAIT; NOTIFY of an incomplete job closes it and keeps the request until its completion, with the program's host egress
that is outstanding, and of another forms a record of code 0xFF (R66, R79, R335). -/
def Obligations.JobsAndStaging : Prop :=
  (∀ (s : State) (n : Nat) (d a y : BitVec 5) (i : BitVec 2), s.focus = .seq n →
     let w := (s.seq n).staging
     let x := s.strm n
     let only (t : State) (lo len : Nat) (v : W64) : Prop := t.bundle = s.bundle ∧ t.scalar = s.scalar ∧
       t.mem = s.mem ∧ ∀ k, k < 2048 → (t.seq n).staging.getLsbD k =
         if lo ≤ k ∧ k < lo + len then v.getLsbD (k - lo) else w.getLsbD k
     (256 ≤ x.jobs.length → exec (.job d) s = .next (s.stall .table)) ∧
     (x.jobs.length < 256 → ∃ t j k, exec (.job d) s = .next t ∧ t.bundle = s.bundle ∧ t.mem = s.mem ∧
       j = (x.jobCtr + k) % 8192 ∧ s.job n j = none ∧ (∀ i, i < k → s.job n ((x.jobCtr + i) % 8192) ≠ none) ∧
       t.job n j = some {} ∧ (∀ i, i ≠ j → t.job n i = s.job n i) ∧ (t.strm n).jobCtr = (j + 1) % 8192 ∧
       t.scalar.pend = s.scalar.pend ++ if d = 0#5 then [] else
         [{ dest := .x d (BitVec.ofNat 64 j), togo := 1, slot := s.bundle.slot }]) ∧
     (∃ t, exec (.task 0#5) s = .next t ∧ only t 0 2048 0#64) ∧
     (∀ s1 bs, a ≠ 0#5 → (s.xr a).toNat % 256 = 0 → (s.xr a).toNat < 2 ^ 52 → s.load s.view (s.xr a).toNat 256 = .ok s1 (bs, none) →
       ∃ t, exec (.task a) s = .next t ∧ t.bundle = s1.bundle ∧ (t.seq n).staging = BitVec.ofNat 2048 (leNat bs)) ∧
     (∃ t, exec (.opt a y) s = .next t ∧ t.bundle = s.bundle ∧ t.scalar = s.scalar ∧ t.mem = s.mem ∧
       (t.seq n).staging.extractLsb' (8 * 0x28) 64 = s.xr a ∧ (t.seq n).staging.extractLsb' 38 4 = (s.xr y).setWidth 4 ∧
       ∀ k, (k < 38 ∨ 42 ≤ k) → (k < 8 * 0x28 ∨ 8 * 0x30 ≤ k) → (t.seq n).staging.getLsbD k = w.getLsbD k) ∧
     (∃ t, exec (.depv i a) s = .next t ∧ only t (8 * (0x18 + 2 * i.toNat)) 16 (s.xr a)) ∧
     (∃ t, exec (.tset y a) s = .next t ∧ only t (64 * y.toNat) 64 (s.xr a)) ∧
     exec (.curveq d a) s = .next (s.putX d 1 (BitVec.ofNat 64 (s.pow.item ((s.xr a).extractLsb' 0 4).toNat)))) ∧
  (∀ (s : State) (n : Nat) (d a y : BitVec 5), s.focus = .seq n → s.bundle.stall = .none →
     let j := ((s.xr a).extractLsb' 0 13).toNat
     (∀ s' st id, s.submit n j (s.seq n).staging false = some (s', st, id) →
       exec (.launch d a) s = .next (s'.putX d 1 (BitVec.ofNat 64 (st + id * 2 ^ 32)))) ∧
     (s.submit n j (s.seq n).staging false = none → exec (.launch d a) s = .next { s with bundle := { s.bundle with stall := .table } }) ∧
     (s.job n j = none → exec (.jwait d a) s = .next (s.putX d 1 0xFF#64)) ∧
     (∀ b, s.job n j = some b → (∃ t ∈ s.tab.tasks, t.stream = n ∧ t.job = j) →
       (∃ t, exec (.jwait d a) s = .next t ∧ t.bundle = s.bundle ∧ t.mem = s.mem ∧ (t.strm n).st = .wait ∧
         (t.seq n).jwait = some j ∧ t.scalar.pend = s.scalar.pend ++
           [{ dest := .x d 0#64, togo := 1, arrived := false, awaits := .job, slot := s.bundle.slot }] ∧
         ∃ b', t.job n j = some b' ∧ b'.closed = true) ∧
       ((s.strm n).backlog.length < 256 → ∃ t b', exec (.notify a y) s = .next t ∧ t.bundle = s.bundle ∧ t.mem = s.mem ∧
         t.job n j = some b' ∧ b'.closed = true ∧
         b'.notes = b.notes ++ [((s.xr y).toNat, ((s.xr a).extractLsb' 16 6).toNat, s.egress n)])) ∧
     (s.job n j = none → (s.strm n).backlog.length < 256 → exec (.notify a y) s =
       .next (s.formRecord n ⟨(s.xr y).toNat, 0xFF, n, ((s.xr a).extractLsb' 16 6).toNat, 0⟩ (s.egress n))) ∧
     (256 ≤ (s.strm n).backlog.length → exec (.notify a y) s = .next { s with bundle := { s.bundle with stall := .table } }))

/-- CASKOUT of a task that is not the stream's answers NO_TASK, 0x28; of a placed task of the stream whose points have
not all completed it begins a freeze whose end brings the result; of a parked one it writes the cask and answers at once;
of one in another state it answers 0x29. CASKIN answers with the status of the cask's check, and an accepted cask is a
task of the job (R336, R337; what a task answers whose points have all completed is the model's choice, log entry 104). -/
def Obligations.CaskOutIn : Prop :=
  ∀ (s : State) (n : Nat) (d a y c : BitVec 5) (fl : BitVec 2), s.focus = .seq n →
    let id := ((s.xr a).extractLsb' 0 32).toNat
    ((s.xr y).toNat % 128 = 0 → s.task id = none → exec (.caskout d a y c fl) s = .next (s.putX d 6 0x28#64)) ∧
    (∀ k, (s.xr y).toNat % 128 = 0 → s.task id = some k → k.stream = n → k.st = .placed → k.freeze = none →
      k.finished = false →
      ∃ t l, exec (.caskout d a y c fl) s = .next t ∧ t.bundle = s.bundle ∧
        t.scalar.pend = l ++
          [{ dest := .x d 0#64, togo := 6, arrived := false, awaits := .freeze id 0, slot := s.bundle.slot }] ∧
        ∃ k', t.task id = some k' ∧ k'.freeze.isSome = true) ∧
    (∀ k, (s.xr y).toNat % 128 = 0 → s.task id = some k → k.stream = n → k.st = .parked →
      let r := s.writeCask n id (s.xr y).toNat (s.xr c).toNat fl.toNat
      exec (.caskout d a y c fl) s = .next (r.1.putX d 6 (BitVec.ofNat 64 (r.2.1 + r.2.2 * 2 ^ 8)))) ∧
    (∀ k, (s.xr y).toNat % 128 = 0 → s.task id = some k → k.stream = n →
      (k.st = .ready ∨ k.st = .held ∨ k.finished = true) →
      exec (.caskout d a y c fl) s = .next (s.putX d 6 0x29#64)) ∧
    (let j := ((s.xr y).extractLsb' 0 13).toNat
     let len := (s.xr c).toNat
     let va := (s.xr a).toNat
     ∀ head, va < 2 ^ 52 → s.readCask va (min len 128) = .ok head →
      let answered (t : State) (st : Nat) : Prop := t.bundle = s.bundle ∧ t.mem = s.mem ∧ t.tab = s.tab ∧
        t.scalar.pend = s.scalar.pend ++ if d = 0#5 then [] else
          [{ dest := .x d (BitVec.ofNat 64 st), togo := 6, slot := s.bundle.slot }]
      let s1 := s.touchRead s.view va len
      (∀ st, s.caskinStatus n j len head = st → st ≠ 0 → ∃ t, exec (.caskin d a y c fl) s = .next t ∧ answered t st) ∧
      (∀ bs st, s.caskinStatus n j len head = 0 → s1.readCask va len = .ok bs → s1.checkCask n j bs (fl.getLsbD 1) = .error st →
        ∃ t, exec (.caskin d a y c fl) s = .next t ∧ answered t st) ∧
      (∀ bs x, s.caskinStatus n j len head = 0 → s1.readCask va len = .ok bs → s1.checkCask n j bs (fl.getLsbD 1) = .ok x →
        s.entryFree n = true → ∃ t id l, exec (.caskin d a y c fl) s = .next t ∧ t.bundle = s.bundle ∧
          (∃ k ∈ t.tab.tasks, k.id = id ∧ k.stream = n ∧ k.cask = some x.cask) ∧
          t.scalar.pend = l ++ if d = 0#5 then [] else
            [{ dest := .x d (BitVec.ofNat 64 (id * 2 ^ 32)), togo := 6, slot := s.bundle.slot }]))

/-! ### Copies -/

/-- A copy that may issue, with a command slot free, joins the agent's outstanding commands with its words and
operands, not started in point mode before the next peg; its handle, the issue sequence number times 32 plus the slot,
lands for the next bundle; no byte of memory changes (R196, R197, R235, R392). CCAN of an outstanding command marks it
for cancelling and answers as the engine acknowledges, of another answers 1; CQRY answers with bits 63 and 62 set and
the bytes done while a command is outstanding, and 0 for a handle that was never issued; BDEF defines a buffer whose
halves are aligned, in range and clear of every other, and removes one that is neither renamed nor held; halves that
are not in range are answered 4 (R403, R405, R406). -/
def Obligations.CopiesIssueAndControl : Prop :=
  (∀ (s : State) (g : BitVec 3) (d a y l e : BitVec 5) (f h q : BitVec 2) (ty : BitVec 4) (m : BitVec 8)
     (dir tgt : BitVec 1) (port rs : BitVec 3),
     s.pr g = true → (∀ n, s.focus ≠ .jig n) → s.eng.copies.length < 32 →
     (s.copyAllowed (.cpy g d a y f l e h) a y e →
       ∃ t, exec (.cpy g d a y f l e h) s = .next t ∧ CopyIssued s t (.cpy g d a y f l e h) d a y l e) ∧
     (s.copyAllowed (.cpyt g d a y f l e h) a y e →
       ∃ t, exec (.cpyt g d a y f l e h) s = .next t ∧ CopyIssued s t (.cpyt g d a y f l e h) d a y l e) ∧
     (s.copyAllowed (.cpyg g d a y f l e h) a y e →
       ∃ t, exec (.cpyg g d a y f l e h) s = .next t ∧ CopyIssued s t (.cpyg g d a y f l e h) d a y l e) ∧
     (s.copyAllowed (.cpys g d a y f l e h) a y e →
       ∃ t, exec (.cpys g d a y f l e h) s = .next t ∧ CopyIssued s t (.cpys g d a y f l e h) d a y l e) ∧
     (s.copyAllowed (.cpym g d a y f l e m) a y e →
       ∃ t, exec (.cpym g d a y f l e m) s = .next t ∧ CopyIssued s t (.cpym g d a y f l e m) d a y l e) ∧
     (s.copyAllowed (.cpyq g d a y f l e) a y e →
       ∃ t, exec (.cpyq g d a y f l e) s = .next t ∧ CopyIssued s t (.cpyq g d a y f l e) d a y l e) ∧
     (s.copyAllowed (.cpya g d a y f l e ty) a y e →
       ∃ t, exec (.cpya g d a y f l e ty) s = .next t ∧ CopyIssued s t (.cpya g d a y f l e ty) d a y l e) ∧
     (s.copyAllowed (.cpf g d a f l e q) a 0#5 e →
       ∃ t, exec (.cpf g d a f l e q) s = .next t ∧ CopyIssued s t (.cpf g d a f l e q) d a 0#5 l e) ∧
     (s.copyAllowed (.cph g d a y f l e dir tgt port rs) a y e → (tgt = 1#1 → s.mode ≠ .point) →
       ∃ t, exec (.cph g d a y f l e dir tgt port rs) s = .next t ∧
         CopyIssued s t (.cph g d a y f l e dir tgt port rs) d a y l e) ∧
     (s.copyAllowed (.cpub g d a f e) a 0#5 e →
       ∃ t, exec (.cpub g d a f e) s = .next t ∧ CopyIssued s t (.cpub g d a f e) d a 0#5 0#5 e)) ∧
  (∀ (s : State) (g : BitVec 3) (d a y l : BitVec 5), s.pr g = true → (∀ n, s.focus ≠ .jig n) →
     let h := ((s.xr a).extractLsb' 0 16).toNat
     let sl := s.bundle.slot
     (s.eng.copies.find? (fun k => k.handle == h) = none →
       exec (.ccan g d a) s = .next (if d = 0#5 then s else s.issue [{ dest := .x d 1#64, togo := 6 }])) ∧
     (∀ k, s.eng.copies.find? (fun k => k.handle == h) = some k → ∃ t, exec (.ccan g d a) s = .next t ∧ t.bundle = s.bundle ∧
       t.mem = s.mem ∧ (∀ k' ∈ t.eng.copies, k'.slot = k.slot → k'.cancelling = true) ∧
       t.scalar.pend = s.scalar.pend ++ if d = 0#5 then [] else
         [{ dest := .x d 0#64, togo := 6, arrived := false, awaits := .cancel h, slot := sl }]) ∧
     (∃ (t : State) (v : W64), exec (.cqry g d a) s = .next t ∧ t.bundle = s.bundle ∧ t.mem = s.mem ∧
       (t.scalar.pend = s.scalar.pend ++ if d = 0#5 then [] else
         [{ dest := .x d v, togo := 6, arrived := s.lateCode.1 == 0, slot := sl }]) ∧
       (∀ k, s.eng.copies.find? (fun k => k.handle == h) = some k → v.getLsbD 63 = true ∧ v.getLsbD 62 = true ∧
         v.extractLsb' 0 40 = BitVec.ofNat 40 k.done) ∧
       (s.eng.copies = [] → find? s.eng.last (h % 32) = none → v = 0#64)) ∧
     (let bufs := (s.ctx s.stream).bufs
      let answered (t : State) (v : W64) (b : List SwapBuf) : Prop := t.bundle = s.bundle ∧ t.mem = s.mem ∧
       (t.ctx s.stream).bufs = b ∧ t.scalar.pend = s.scalar.pend ++ if d = 0#5 then [] else
         [{ dest := .x d v, togo := 6, arrived := s.lateCode.1 == 0, slot := sl }]
      let xa := (s.xr a).toNat
      let xb := (s.xr y).toNat
      let n := (s.xr l).toNat
      (xa + n ≤ 13 * 2 ^ 48 → xb + n ≤ 13 * 2 ^ 48 → xa % 128 = 0 → xb % 128 = 0 → n % 128 = 0 → 0 < n → n ≤ 2 ^ 39 →
         bufs = [] → (xa + n ≤ xb ∨ xb + n ≤ xa) →
         ∃ t, exec (.bdef g d a y l) s = .next t ∧ answered t 0#64 [{ a := xa, b := xb, units := n / 128 }]) ∧
      (0 < n → 2 ^ 52 ≤ xa → s.view.nlbay ≤ 128 → ∃ t, exec (.bdef g d a y l) s = .next t ∧ answered t 4#64 bufs) ∧
      (∀ x, n = 0 → bufs.find? (fun x => x.a == xa) = some x → x.renamed = none → s.heldHalf s.stream x.a false = false →
         s.heldHalf s.stream x.a true = false →
         ∃ t, exec (.bdef g d a y l) s = .next t ∧ answered t 0#64 (bufs.filter (fun x => x.a != xa)))))

/-! ### Vectors -/

/-- The lane arithmetic of class A in point mode: each active lane of vd takes the exact integer result, wrapped or
clamped, or the floating-point result rounded once; minimum, maximum, absolute value and negation; a format from VTYPE
that the op does not accept changes no register and sets NV where the result would land (R339, R341 to R343). -/
def Obligations.VectorArithmetic : Prop :=
  ∀ (s : State) (g : BitVec 3) (d a b : BitVec 5) (k : BitVec 2), s.pr g = true → s.mode = .point →
    let f := s.vecFmt
    let act := s.active k
    let x (i : Nat) : Nat := elem f (s.vr a) i
    let y (i : Nat) : Nat := elem f (s.vr b) i
    let z (i : Nat) : Nat := elem f (s.vr d) i
    let u : Nat := (s.xr b).toNat % 2 ^ fmtWidth f
    let top := 2 ^ (fmtWidth f - 1)
    let mode := if isFloat f then s.modRnd else 0
    let arith (exact : Nat → Int) (float : RoundCtl → Nat → Nat × BitVec 6) (i sr : Nat) : Nat × BitVec 6 :=
      if isFloat f then float ⟨mode, s.modSat, sr⟩ i else laneInt f s.modSat (exact i)
    (8 < f →
      exec (.vadd g d a b k) s = .next (s.flagsAt 2 flNV) ∧ exec (.vsub g d a b k) s = .next (s.flagsAt 2 flNV) ∧
      exec (.vmul g d a b k) s = .next (s.flagsAt 4 flNV) ∧ exec (.vfma g d a b k) s = .next (s.flagsAt 4 flNV) ∧
      exec (.vfms g d a b k) s = .next (s.flagsAt 4 flNV) ∧ exec (.vaddx g d a b k) s = .next (s.flagsAt 2 flNV) ∧
      exec (.vmulx g d a b k) s = .next (s.flagsAt 4 flNV) ∧ exec (.vfmax g d a b k) s = .next (s.flagsAt 4 flNV)) ∧
    (f ≤ 8 →
      (∃ t, exec (.vadd g d a b k) s = .next t ∧ VecWritten s t d 2 act mode
        (arith (fun i => intOf f (x i) + intOf f (y i)) (fun c i => fAdd f c (x i) (y i)))) ∧
      (∃ t, exec (.vsub g d a b k) s = .next t ∧ VecWritten s t d 2 act mode
        (arith (fun i => intOf f (x i) - intOf f (y i)) (fun c i => fSub f c (x i) (y i)))) ∧
      (∃ t, exec (.vmul g d a b k) s = .next t ∧ VecWritten s t d 4 act mode
        (arith (fun i => intOf f (x i) * intOf f (y i)) (fun c i => fMul f c (x i) (y i)))) ∧
      (∃ t, exec (.vfma g d a b k) s = .next t ∧ VecWritten s t d 4 act mode
        (arith (fun i => intOf f (z i) + intOf f (x i) * intOf f (y i)) (fun c i => fFma f c false (z i) (x i) (y i)))) ∧
      (∃ t, exec (.vfms g d a b k) s = .next t ∧ VecWritten s t d 4 act mode
        (arith (fun i => intOf f (z i) - intOf f (x i) * intOf f (y i)) (fun c i => fFma f c true (z i) (x i) (y i)))) ∧
      (∃ t, exec (.vaddx g d a b k) s = .next t ∧ VecWritten s t d 2 act mode
        (arith (fun i => intOf f (x i) + intOf f u) (fun c i => fAdd f c (x i) u))) ∧
      (∃ t, exec (.vmulx g d a b k) s = .next t ∧ VecWritten s t d 4 act mode
        (arith (fun i => intOf f (x i) * intOf f u) (fun c i => fMul f c (x i) u))) ∧
      (∃ t, exec (.vfmax g d a b k) s = .next t ∧ VecWritten s t d 4 act mode
        (arith (fun i => intOf f (z i) + intOf f (x i) * intOf f u) (fun c i => fFma f c false (z i) (x i) u))) ∧
      (∃ t, exec (.vmin g d a b k) s = .next t ∧ VecWritten s t d 2 act 0 (fun i _ =>
        if isFloat f then fMinMax f false (x i) (y i)
        else (laneForm f (if intOf f (x i) < intOf f (y i) then x i else y i), 0#6))) ∧
      (∃ t, exec (.vmax g d a b k) s = .next t ∧ VecWritten s t d 2 act 0 (fun i _ =>
        if isFloat f then fMinMax f true (x i) (y i)
        else (laneForm f (if intOf f (x i) < intOf f (y i) then y i else x i), 0#6))) ∧
      (∃ t, exec (.vabs g d a k) s = .next t ∧ VecWritten s t d 2 act 0 (fun i _ => if isFloat f then (x i % top, 0#6)
        else laneInt f s.modSat (intOf f (x i)).natAbs)) ∧
      (∃ t, exec (.vneg g d a k) s = .next t ∧ VecWritten s t d 2 act 0 (fun i _ =>
        if isFloat f then ((x i + top) % (2 * top), 0#6) else laneInt f s.modSat (-(intOf f (x i))))))

/-- The bitwise ops and VSEL on whole lanes, the shifts by an amount modulo the width, the high half of a product, and
the floating-point ops of one operand in class F (R253, R343 to R345, R347). -/
def Obligations.VectorBitsAndFunctions : Prop :=
  ∀ (s : State) (g : BitVec 3) (d a b : BitVec 5) (k : BitVec 2), s.pr g = true → s.mode = .point →
    let f := s.vecFmt
    let w := fmtWidth f
    let act := s.active k
    let la := lane (s.vr a)
    let lb := lane (s.vr b)
    let x (i : Nat) := BitVec.ofNat w (la i)
    let n (i : Nat) := lb i % w
    let bits (t : State) (h : Nat → Nat) : Prop := VecWritten s t d 2 act 0 (fun i _ => (h i, 0#6))
    (∃ t, exec (.vand g d a b k) s = .next t ∧ bits t (fun i => la i &&& lb i)) ∧
    (∃ t, exec (.vor g d a b k) s = .next t ∧ bits t (fun i => la i ||| lb i)) ∧
    (∃ t, exec (.vxor g d a b k) s = .next t ∧ bits t (fun i => la i ^^^ lb i)) ∧
    (∃ t, exec (.vsel g d a b k) s = .next t ∧
      VecWritten s t d 2 s.allLanes 0 (fun i _ => (if (s.mask k).getLsbD i then la i else lb i, 0#6))) ∧
    (f ≤ 5 →
      (∃ t, exec (.vshl g d a b k) s = .next t ∧ bits t (fun i => laneForm f (x i <<< n i).toNat)) ∧
      (∃ t, exec (.vshr g d a b k) s = .next t ∧ bits t (fun i => laneForm f (x i >>> n i).toNat)) ∧
      (∃ t, exec (.vsha g d a b k) s = .next t ∧ bits t (fun i => laneForm f ((x i).sshiftRight (n i)).toNat)) ∧
      (∃ t, exec (.vmulh g d a b k) s = .next t ∧ VecWritten s t d 4 act 0 (fun i _ => (laneForm f
        ((BitVec.ofInt (2 * w) (intOf f (la i) * intOf f (lb i))).extractLsb' w w).toNat, 0#6)))) ∧
    (6 ≤ f → f ≤ 8 →
      let c (sr : Nat) : RoundCtl := ⟨s.modRnd, s.modSat, sr⟩
      let function (t : State) (q : Fn) : Prop :=
        VecWritten s t d 8 act s.modRnd (fun i sr => transcend q f (c sr) (elem f (s.vr a) i))
      (∃ t, exec (.vrndi g d a k) s = .next t ∧
        VecWritten s t d 2 act s.modRnd (fun i sr => roundIntegral f (c sr) (elem f (s.vr a) i))) ∧
      (∃ t, exec (.vclass g d a k) s = .next t ∧
        VecWritten s t d 2 act 0 (fun i _ => (classMask f (elem f (s.vr a) i), 0#6))) ∧
      (∃ t, exec (.vexp2 g d a k) s = .next t ∧ function t .exp2) ∧
      (∃ t, exec (.vlog2 g d a k) s = .next t ∧ function t .log2) ∧
      (∃ t, exec (.vrcp g d a k) s = .next t ∧ function t .rcp) ∧
      (∃ t, exec (.vrsqrt g d a k) s = .next t ∧ function t .rsqrt) ∧
      (∃ t, exec (.vtanh g d a k) s = .next t ∧ function t .tanh))

/-- A vector compare puts the truth values of the active lanes into the bits of kd and zeros into the others; VDOT4 adds
four products of bytes to each lane; the integer sum of a reduction is exact before it wraps or saturates, a float one
follows the tree of R267, and a minimum or maximum likewise; a scan leaves at each active lane the sum up to it (R267,
R346, R348, R349). Of a minimum or maximum that is a NaN the result is the canonical NaN (R261, R262). That a sum over one
active lane passes that lane's bits as they are is the model's reading (log entry 32). -/
def Obligations.VectorComparesAndReductions : Prop :=
  ∀ (s : State) (g : BitVec 3) (d a b : BitVec 5) (q : BitVec 3) (k : BitVec 2), s.pr g = true → s.mode = .point →
    let f := s.vecFmt
    let act := s.active k
    let x (i : Nat) := elem f (s.vr a) i
    let y (i : Nat) := elem f (s.vr b) i
    let mode := if isFloat f then s.modRnd else 0
    let c : RoundCtl := ⟨mode, s.modSat, s.arith.lfsr.toNat % 2 ^ 16⟩
    let only (i : Nat) : Option Nat := if bit act i then some (x i) else none
    let toX (bits : Nat) : W64 := if isFloat f then BitVec.ofNat 64 bits else BitVec.ofInt 64 (intOf f bits)
    let holds (v : W64) (r : Rel) : Prop := ∀ i, i < 64 → v.getLsbD i = (bit act i && (compareElem f r (x i) (y i)).1)
    let canon (r : Nat) : Nat := if isFloat f && (readElem f r).isNaN then canonNaN f else r
    let red (v : W64) (fl : BitVec 6) : State := (s.setArith s.arith).putX d 6 v fl
    (f ≤ 8 →
      (∃ v fl, exec (.vcmpeq g q a b k) s = .next (s.putK q 2 v fl) ∧ holds v .eq) ∧
      (∃ v fl, exec (.vcmplt g q a b k) s = .next (s.putK q 2 v fl) ∧ holds v .lt) ∧
      (∃ v fl, exec (.vcmple g q a b k) s = .next (s.putK q 2 v fl) ∧ holds v .le) ∧
      (∃ v fl, exec (.vcmpne g q a b k) s = .next (s.putK q 2 v fl) ∧ holds v .ne) ∧
      (f ≤ 5 → exec (.vredadd g d a k) s = .next (s.putX d 6
        (toX (fitInt f s.modSat (((lanesUp act).map (fun i => intOf f (x i))).foldl (· + ·) 0)).1)
        (flagIf (fitInt f s.modSat (((lanesUp act).map (fun i => intOf f (x i))).foldl (· + ·) 0)).2 flSAT))) ∧
      (6 ≤ f → mode ≠ 5 → ∃ fl, exec (.vredadd g d a k) s =
        .next (red (toX ((treeSum (fun u v => (fAdd f c u v).1) only 6 0).getD 0)) fl)) ∧
      (∃ (s' : State) (v : W64) (fl : BitVec 6), exec (.vredadd g d a k) s = .next (s'.putX d 6 v fl) ∧ s'.mem = s.mem) ∧
      (∃ fl, exec (.vredmax g d a k) s = .next (red (toX (canon ((treeSum (fun u v => (elemMinMax f true u v).1) only 6 0).getD
        (redEmpty f (some true))))) fl)) ∧
      (∃ fl, exec (.vredmin g d a k) s = .next (red (toX (canon ((treeSum (fun u v => (elemMinMax f false u v).1) only 6 0).getD
        (redEmpty f (some false))))) fl)) ∧
      (∃ (s' : State) (v : VReg) (m : BitVec 256) (fl : BitVec 6) (r : Nat → Nat),
        exec (.vscanadd g d a k) s = .next (s'.putV d 6 (v, m) fl) ∧ s'.mem = s.mem ∧
        (mode ≠ 5 → ∀ i ∈ lanesUp act, lane v i = laneForm f (r i) ∧
          ((∀ j ∈ lanesUp act, i ≤ j) → r i = x i) ∧
          ∀ j ∈ lanesUp act, j < i → (∀ l ∈ lanesUp act, l ≤ j ∨ i ≤ l) →
            r i = if isFloat f then (fAdd f c (r j) (x i)).1 else (fitInt f s.modSat (intOf f (r j) + intOf f (x i))).1))) ∧
    ((f ≤ 1 ∨ f = 9 ∨ f = 10) → ∃ t, exec (.vdot4 g d a b k) s = .next t ∧ VecWritten s t d 4 act mode (fun i sr =>
      let z := lane (s.vr d) i
      let u (j : Nat) := fieldN (lane (s.vr a) i) (8 * j) 8
      let v (j : Nat) := fieldN (lane (s.vr b) i) (8 * j) 8
      if isFloat f then dotFloat f ⟨mode, s.modSat, sr⟩ z (lane (s.vr a) i) (lane (s.vr b) i)
      else laneInt 4 s.modSat (intOf 4 z + (intOf f (u 0) * intOf f (v 0) + intOf f (u 1) * intOf f (v 1) +
        intOf f (u 2) * intOf f (v 2) + intOf f (u 3) * intOf f (v 3)))))

/-- VCVT converts each active element between the two layouts and changes only its bytes; VQNT writes the codes of two
blocks to bytes 0 to 31 of vd, block 0 to bytes 0 to 15 and block 1 to bytes 16 to 31, and their scale bytes to an x register; VDQNT gives each active lane the value of its code
under its block's scale (R255, R264, R350 to R352). -/
def Obligations.VectorConversions : Prop :=
  ∀ (s : State) (g : BitVec 3) (d a b xr : BitVec 5) (k : BitVec 2) (sf df : BitVec 4) (r : BitVec 3) (t n ty : BitVec 2)
    (au : BitVec 1), s.pr g = true → s.mode = .point →
    let act := s.active k
    let mode := s.roundMode r.toNat
    (Instr.WellFormed (.vcvt g d a k sf df r t n) →
      let sw := fmtWidth sf.toNat
      let dw := fmtWidth df.toNat
      let src (j : Nat) : Nat := if sw < dw then fieldN (s.vr a).toNat (8 * (8 * sw * n.toNat) + sw * j) sw
        else fieldN (s.vr a).toNat (32 * j) sw
      let conv (j : Nat) := convert sf.toNat df.toNat ⟨mode, t.toNat, s.laneSr mode act j⟩ (src j)
      ∃ (v : VReg) (m : BitVec 256) (fl : BitVec 6),
        exec (.vcvt g d a k sf df r t n) s = .next ((s.stepLfsr mode (popCount 64 act)).putV d 3 (v, m) fl) ∧
        (dw < sw → (∀ j ∈ lanesUp act, fieldN v.toNat (8 * (8 * dw * n.toNat) + dw * j) dw = (conv j).1 % 2 ^ dw) ∧
          ∀ x, x < 256 → m.getLsbD x = (decide (8 * dw * n.toNat ≤ x) && decide (x < 8 * dw * (n.toNat + 1)) &&
            bit act ((x - 8 * dw * n.toNat) / (dw / 8)))) ∧
        (sw ≤ dw → (∀ j ∈ lanesUp act, lane v j = laneForm df.toNat (conv j).1) ∧
          ∀ x, x < 256 → m.getLsbD x = bit act (x / 4))) ∧
    (6 ≤ s.vecFmt → s.vecFmt ≤ 8 →
      let el (i : Nat) : FVal := if bit act i then readElem s.vecFmt (elem s.vecFmt (s.vr a) i) else .fin false 0 0
      let q (o : Nat) (l : W32) := quantBlock (au == 1#1) ty.toNat mode ((List.range 32).map (fun i => el (o + i))) l
      let b0 := q 0 s.arith.lfsr
      let b1 := q 32 (if mode = 5 then lfsrSteps 32 s.arith.lfsr else s.arith.lfsr)
      ∃ v : VReg, exec (.vqnt g d a k ty au r xr) s = .next (((s.stepLfsr mode 64).putV d 6
          (v, BitVec.ofNat 256 (2 ^ 32 - 1)) (b0.2.2 ||| b1.2.2)).putX xr 6 (BitVec.ofNat 64 (b0.1 + 256 * b1.1))) ∧
        ∀ i, i < 32 → fieldN v.toNat (4 * i) 4 = nth b0.2.1 i 0 % 16 ∧
          fieldN v.toNat (128 + 4 * i) 4 = nth b1.2.1 i 0 % 16) ∧
    ((df.toNat = 6 ∨ df.toNat = 7 ∨ df.toNat = 8) → ∃ t, exec (.vdqnt g d a b k df) s = .next t ∧
      VecWritten s t d 6 act s.modRnd (fun i sr => convertVal df.toNat ⟨s.modRnd, s.modSat, sr⟩ false
        (q4Value (fieldN (s.xr b).toNat (8 * (i / 32)) 8) (fieldN (s.vr a).toNat (4 * i) 4))))

/-- Vector loads and stores in point mode whose active lanes reach memory: unit stride of 4 from xa plus the immediate
times 256, a stride from a register, and an index vector; the lanes land at bundle n + 8, or at the arrival VLDS
declares; stores take effect lane by lane upwards (R353 to R356). VLDQ reads the active lanes of the slot at HEAD + i
and VSTQ writes those of the slot at TAIL + i, of a handle that holds so many filled or free slots, and moves neither
end; VAMADD and VAMMIN queue one no-return atomic for each active lane in ascending order, without a register result,
at times not before the core's (R187, R234, R357, R358). That VSTQ's write is withheld until the peg like a store is the
model's reading (log entry 46). -/
def Obligations.VectorMemory : Prop :=
  (∀ (s : State) (g : BitVec 3) (d a b x : BitVec 5) (k : BitVec 2) (i : BitVec 7) (m : BitVec 8) (o : BitVec 16)
     (pa : Nat → Nat) (leaf : Nat → Option Nat), s.pr g = true → s.mode = .point →
     let unit (j : Nat) : W64 := s.xr a + s.imm7 i * 256#64 + BitVec.ofNat 64 (4 * j)
     let stride (j : Nat) : W64 := s.xr a + o.signExtend 64 + BitVec.ofNat 64 j * s.xr x
     let index (j : Nat) : W64 := s.xr a + (BitVec.ofNat 32 (lane (s.vr b) j)).signExtend 64
     let act := s.active k
     (s.LanesReach .load s.allLanes unit pa leaf →
       ∃ t, exec (.vld g d a i) s = .next t ∧ VecLoaded s t d 8 s.allLanes pa) ∧
     (s.LanesReach .store s.allLanes unit pa leaf →
       ∃ t, exec (.vst g d a i) s = .next t ∧ VecStored s t d s.allLanes pa) ∧
     (s.bundle.imm = none → s.LanesReach .load act stride pa leaf →
       ∃ t, exec (.vlds g d a k x m o) s = .next t ∧ VecLoaded s t d (if m = 0#8 then 8 else m.toNat) act pa) ∧
     (s.bundle.imm = none → s.LanesReach .store act stride pa leaf →
       ∃ t, exec (.vsts g d a k x o) s = .next t ∧ VecStored s t d act pa) ∧
     (s.LanesReach .load act index pa leaf →
       ∃ t, exec (.vgath g d a b k) s = .next t ∧ VecLoaded s t d 8 act pa) ∧
     (s.LanesReach .store act index pa leaf →
       ∃ t, exec (.vscat g d a b k) s = .next t ∧ VecStored s t d act pa)) ∧
  (∀ (s : State) (n : Nat) (g : BitVec 3) (d a y : BitVec 5) (q : BitVec 4) (k : BitVec 2), s.pr g = true → s.focus = .core n →
     s.mode = .point →
     let h := s.qr q
     let act := s.active k
     let head := if h.consEngine then (if h.fresh then 0 else ((s.core n).peg.q[q.toNat]'(q.isLt)).head) else h.head
     let filled := (h.tail + 2 * h.size - head) % (2 * h.size)
     let slot (i : Nat) : Nat := queueCell n (h.base + 256 * (i % h.size))
     (h.size ≠ 0 → h.consEngine = false → y.toNat < filled → (∀ c ∈ s.my.l1, isTier (128 * c.line) = true) →
       ∃ t v m, exec (.vldq g d q y k) s = .next t ∧ t.bundle = s.bundle ∧ t.mem = s.mem ∧ t.regs.q = s.regs.q ∧
         t.scalar.pend = s.scalar.pend ++
           [{ dest := .v d v m, togo := 3, arrived := s.lateCode.1 == 0, slot := s.bundle.slot }] ∧
         ∀ i ∈ lanesUp act, lane v i = s.ownValue (slot (h.head + y.toNat) + 4 * i) 4) ∧
     (h.size ≠ 0 → h.prodEngine = false → y.toNat < h.size - filled → h.base % 256 = 0 →
       ∃ t, exec (.vstq g d q y k) s = .next t ∧ t.bundle = s.bundle ∧ t.mem = s.mem ∧ t.regs = s.regs ∧
         (∀ i ∈ lanesUp act, t.ownValue (slot (h.tail + y.toNat) + 4 * i) 4 = lane (s.vr d) i) ∧
         ∀ x, (∀ i ∈ lanesUp act, x < slot (h.tail + y.toNat) + 4 * i ∨ slot (h.tail + y.toNat) + 4 * i + 4 ≤ x) →
           t.ownByte x = s.ownByte x) ∧
     (∀ (pa : Nat → Nat) (leaf : Nat → Option Nat), (s.vecFmt = 4 ∨ s.vecFmt = 5 ∨ s.vecFmt = 6) →
       let index (j : Nat) : W64 := s.xr a + (BitVec.ofNat 32 (lane (s.vr y) j)).signExtend 64
       s.LanesReach .load act index pa leaf → s.LanesReach .store act index pa leaf →
       let queued (t : State) (op : AtomOp) : Prop := t.bundle = s.bundle ∧ t.mem = s.mem ∧ t.scalar = s.scalar ∧
         ∃ pts : Nat → Nat, (∀ i, s.my.pts ≤ pts i) ∧
           t.my.nr = s.my.nr ++ (lanesUp act).map (fun i => ⟨op, pa i, 4, lane (s.vr d) i, leaf i, pts i⟩)
       (∃ t, exec (.vamadd g d a y k) s = .next t ∧ queued t (if s.vecFmt = 6 then .fadd else .add)) ∧
       (∃ t, exec (.vammin g d a y k) s = .next t ∧
         queued t (if s.vecFmt = 6 then .fmin else if s.vecFmt = 4 then .smin else .umin))))

/-- Vector moves and permutations: a copy, a broadcast, one lane read or written whatever the mask, the permutations
that read every lane, the counts of active lanes below, and compression and expansion by the mask; lanes that an op
does not write keep their values (R359 to R361). The lane-mask ops work on all 64 bits; KFIRST of an empty mask is 64;
VSETT sets VTYPE for the next bundle to at most 64 lanes and a format, and of no lanes or a format it does not know
gives 0 and leaves VTYPE (R362, R363). -/
def Obligations.VectorMovesMasksVtype : Prop :=
  (∀ (s : State) (g : BitVec 3) (d a b : BitVec 5) (k : BitVec 2), s.pr g = true → s.mode = .point →
     let act := s.active k
     let la := lane (s.vr a)
     let lb := lane (s.vr b)
     let z := s.xr b
     let one := ((s.xr b).extractLsb' 0 6).toNat
     let below (i : Nat) : Nat := ((lanesUp act).filter (fun j => decide (j < i))).length
     let moved (t : State) (h : Nat → Nat) : Prop := VecWritten s t d 2 act 0 (fun i _ => (h i, 0#6))
     (∃ t, exec (.vmov g d a k) s = .next t ∧ moved t la) ∧
     (∃ t, exec (.vbcx g d a k) s = .next t ∧ moved t (fun _ => ((s.xr a).setWidth 32).toNat)) ∧
     exec (.vextx g d a b) s = .next (s.putX d 2 (BitVec.ofNat 64 (la one))) ∧
     (∃ t, exec (.vinsx g d a b) s = .next t ∧
       VecWritten s t d 2 (2 ^ one) 0 (fun _ _ => (((s.xr a).setWidth 32).toNat, 0#6))) ∧
     (∃ t, exec (.vperm g d a b k) s = .next t ∧ moved t (fun i => la (lb i % 64))) ∧
     (∃ t, exec (.vzip g d a b k) s = .next t ∧ moved t (fun i => if i % 2 = 0 then la (i / 2) else lb (i / 2))) ∧
     (∃ t, exec (.vunzip g d a b k) s = .next t ∧ moved t (fun i => if i < 32 then la (2 * i) else lb (2 * (i - 32)))) ∧
     (∃ t, exec (.vslide g d a b k) s = .next t ∧ moved t (fun i =>
       if 0 ≤ (i : Int) + z.toInt ∧ (i : Int) + z.toInt < 64 then la ((i : Int) + z.toInt).toNat else 0)) ∧
     (∃ t, exec (.viota g d k) s = .next t ∧ moved t below) ∧
     (∃ t, exec (.vcompress g d a k) s = .next t ∧ VecWritten s t d 2 (2 ^ (lanesUp act).length - 1) 0
       (fun j _ => (la (nth (lanesUp act) j 0), 0#6))) ∧
     (∃ t, exec (.vexpand g d a k) s = .next t ∧ moved t (fun i => la (below i)))) ∧
  (∀ (s : State) (g q u v : BitVec 3) (d a b : BitVec 5), s.pr g = true → s.mode = .point →
     let n := (s.xr a).toNat
     let f := ((s.xr b).extractLsb' 0 4).toNat
     exec (.kand g q u v) s = .next (s.putK q 2 (s.kr u &&& s.kr v)) ∧ exec (.kor g q u v) s = .next (s.putK q 2 (s.kr u ||| s.kr v)) ∧
     exec (.kxor g q u v) s = .next (s.putK q 2 (s.kr u ^^^ s.kr v)) ∧ exec (.knot g q u) s = .next (s.putK q 2 (~~~ s.kr u)) ∧
     exec (.kpopc g d u) s = .next (s.putX d 2 (BitVec.ofNat 64 ((List.range 64).filter (fun i => (s.kr u).getLsbD i)).length)) ∧
     exec (.kfirst g d u) s = .next (s.putX d 2 (BitVec.ofNat 64
       (((List.range 64).find? (fun i => (s.kr u).getLsbD i)).getD 64))) ∧
     exec (.kmovx g d u) s = .next (s.putX d 2 (s.kr u)) ∧ exec (.xmovk g q a) s = .next (s.putK q 2 (s.xr a)) ∧
     ((n = 0 ∨ 12 ≤ f) → exec (.vsett g d a b) s = .next (s.putX d 2 0#64)) ∧
     (n ≠ 0 → f < 12 → ∃ w : W64, exec (.vsett g d a b) s =
         .next ((s.issue [{ dest := .csr 0x020 w, togo := 1 }]).putX d 2 (BitVec.ofNat 64 (min n 64))) ∧
       w.extractLsb' 0 4 = BitVec.ofNat 4 f ∧ w.extractLsb' 4 7 = BitVec.ofNat 7 (min n 64 % 64)))

/-! ### The matrix unit -/

/-- MCALL captures the parameters and starts the call at the first word, or queues it behind one that runs, once its
operands can be read, and an empty jig ends it with code 0x000B; MPARW writes the live or the shadow set for the next
bundle and MPARR reads the live one; MRETIRE, MFENCE, MROT and MLDJ wait for the calls and then read the last code,
release the holds, set MROT and load a jig from a block on sealed pages; MSTAT returns and clears flags (R237, R365 to
R372). That the operands are those the jig's words name from the pointers as captured, and that another core's withheld
store to one of their vault lines makes the issue wait, is the model's reading (log entry 48). -/
def Obligations.MatrixOps : Prop :=
  ∀ (s : State) (n : Nat) (g q : BitVec 3) (d a : BitVec 5) (j : BitVec 6), s.pr g = true → s.focus = .core n →
    s.mode = .point → s.clean →
    let m := s.my.mx
    let set := if s.my.pt.mpFilled then s.my.pt.mpNext else s.my.pt.mp
    let waiting : State := { s with bundle := { s.bundle with stall := .call } }
    (∀ pa, s.wordCell { s.view with engine := true } (set.get 7) 32 = .ok pa →
      (m.queued = none → (m.call ≠ none ∨ find? s.my.jigs j.toNat ≠ none) →
        (∀ r ∈ s.callReads j.toNat, ∀ l ∈ s.callLines (s.callNow j.toNat) r.1 r.2,
          s.holderOf l = none ∧ (s.owns l = true ∨ (s.line l).queue = [])) →
        ∃ t c, exec (.mcall g j) s = .next t ∧
          t.bundle = s.bundle ∧ t.mem = s.mem ∧ t.scalar = s.scalar ∧
          (if m.call = none then t.my.mx.call else t.my.mx.queued) = some c ∧ (m.call ≠ none → t.my.mx.call = m.call) ∧
          c.jig = j.toNat ∧ c.idx = 0 ∧ c.jp = set ∧ c.mp = set ∧ c.cycles = 0 ∧ c.bias = none ∧ c.snap = s.seenBy n) ∧
      (find? s.my.jigs j.toNat = none → m.call = none → m.queued = none → s.gaugeBusy (some n) pa = false →
        ∃ t, exec (.mcall g j) s = .next t ∧ t.bundle = s.bundle ∧ t.my.mx.call = none ∧ t.my.mx.lastCode = 0x0B) ∧
      (m.queued ≠ none → exec (.mcall g j) s = .next waiting)) ∧
    exec (.mparw g q a) s = .next (s.issue
      [{ dest := if m.call.isSome || m.queued.isSome then .mpShadow q (s.xr a) else .mp q (s.xr a), togo := 1 }]) ∧
    exec (.mparr g d q) s = .next (s.putX d 2 (s.my.pt.mp[q.toNat]'(q.isLt))) ∧
    (∃ t : State, exec (.mstat g d a) s = .next (t.putX d 2 (m.mstat.setWidth 64)) ∧ t.mem = s.mem ∧
      t.my.mx = { m with mstat := m.mstat &&& ~~~((s.xr a).extractLsb' 0 9) } ∧ t.scalar = s.scalar) ∧
    (m.call ≠ none ∨ m.queued ≠ none → exec (.mretire g d) s = .next waiting ∧ exec (.mfence g) s = .next waiting ∧
      exec (.mrot g a) s = .next waiting ∧ exec (.mldj g d a j) s = .next waiting) ∧
    (m.call = none → m.queued = none →
      exec (.mretire g d) s = .next (s.putX d 1 (BitVec.ofNat 64 m.lastCode)) ∧
      (∃ t, exec (.mfence g) s = .next t ∧ t.my.mx = { m with kept := [] } ∧ t.mem = s.mem ∧ t.bundle = s.bundle ∧ t.scalar = s.scalar) ∧
      (∃ t, exec (.mrot g a) s = .next t ∧ t.my.mx = { m with mrot := ((s.xr a).extractLsb' 0 7).toNat } ∧ t.mem = s.mem ∧
        t.bundle = s.bundle ∧ t.scalar = s.scalar) ∧
      (∀ ps s1 bs, let va := (s.xr a).toNat
        va < 2 ^ 52 → va % 32 = 0 → va / 2 ^ 48 ≠ 13 → s.resolveAll s.view .load (segments 10 va 1056) = .ok ps →
        (s.atAccess s.view va 1056).readParts va ps = .ok s1 (bs, none) → s1.blockSealed va = true →
        let field (o k : Nat) : Nat := leNat ((bs.drop o).take k)
        ∃ t, exec (.mldj g d a j) s = .next t ∧ t.bundle = s.bundle ∧ t.mem = s.mem ∧
          (∀ i, i ≠ j.toNat → find? t.my.jigs i = find? s.my.jigs i) ∧
          ((field 0 4 = 0xEB1A0001 ∧ field 8 1 = j.toNat ∧ ∃ g, find? t.my.jigs j.toNat = some g ∧ g.depth = field 12 4 ∧
              g.words.length = field 4 2 ∧ ∀ i, i < field 4 2 → nth g.words i 0#32 = BitVec.ofNat 32 (leNat ((bs.drop (32 + 4 * i)).take 4))) ∨
            (¬ (field 0 4 = 0xEB1A0001 ∧ field 8 1 = j.toNat) ∧ t.my.jigs = s.my.jigs)) ∧
          ∃ late, t.scalar.pend = s.scalar.pend ++ if d = 0#5 then [] else
            [{ dest := .x d (if field 0 4 ≠ 0xEB1A0001 then 1#64 else if field 8 1 ≠ j.toNat then 2#64 else 0#64),
               togo := 6, arrived := !late, slot := s.bundle.slot }]))

/-- The micro-words on planes and banks: J.LDW latches a tile into the shadow plane, whose load goes on for as many cycles
as 512 bytes a cycle take, or 256 where a byte lies in another slice, J.SWAPW exchanges the planes when it is over,
J.SKIPMAP sets the shadow plane's map, J.ACCZ clears one bank and sets its type, and J.STRM adds the products of its rows
to rows 8 times ORG and up of a bank of its type, with or without an activation map, every other row as it was, each
block of 8 rows taking its cycles of R193 (R190, R193, R378 to R380). That the cycles of a word count when it ends, and that
the environment gives the cycles of slice conflicts, is the model's (log entries 49 and 90). -/
def Obligations.JigPlanesAndStreams : Prop :=
  ∀ (s : State) (n : Nat) (c : Call) (p q : BitVec 3) (f : BitVec 4) (k ty e : BitVec 1) (r : BitVec 8) (o : BitVec 5),
    s.focus = .jig n → (s.core n).mx.call = some c → c.cycles + 1 ≤ (s.core n).depthOf c →
    let m := (s.core n).mx
    let ptr (x : BitVec 3) : W64 := c.jp[x.toNat]'(x.isLt)
    let c0 : Call := { c with cycles := c.cycles + 1, stuck := none }
    let c' : Call := { c0 with idx := c.idx + 1 }
    let sound (x : BitVec 3) : Prop := c.spoilt.contains x.toNat = false
    (∀ bs, m.loading = false → m.loaded = false → sound p → s.callRead c (ptr p) (tileSize f.toNat) 128 = .ok bs →
      ∃ t left, exec (.jLdw p f) s = .next t ∧ t.mem = s.mem ∧
        (left = (tileSize f.toNat + 511) / 512 ∨ left = (tileSize f.toNat + 255) / 256) ∧
        MicroWent s n c' (fun m => { m with shadow := some ⟨f.toNat, bs, 0⟩, loading := true, loadLeft := left }) t) ∧
    (m.loading = true ∨ m.loaded = true → c.cycles + 1 < (s.core n).depthOf c →
      ∃ t, exec (.jLdw p f) s = .next t ∧ t.mem = s.mem ∧ MicroWent s n c0 id t) ∧
    (m.loading = false → ∃ t, exec .jSwapw s = .next t ∧ t.mem = s.mem ∧
      MicroWent s n c' (fun m => { m with cur := m.shadow, shadow := m.cur, loaded := false }) t) ∧
    (m.loading = true → c.cycles + 1 < (s.core n).depthOf c →
      ∃ t, exec .jSwapw s = .next t ∧ t.mem = s.mem ∧ MicroWent s n c0 id t) ∧
    (∀ w bs, m.shadow = some w → sound p → s.callRead c (ptr p) (if w.fmt = 11 then 32 else 16) 16 = .ok bs →
      ∃ t, exec (.jSkipmap p) s = .next t ∧ t.mem = s.mem ∧
        MicroWent s n c' (fun m => { m with shadow := some { w with skip := leNat bs } }) t) ∧
    (∃ t, exec (.jAccz k ty) s = .next t ∧ t.mem = s.mem ∧
      MicroWent s n c' (fun m => if k = 1#1 then { m with bank1 := ⟨ty == 1#1, []⟩ }
        else { m with bank0 := ⟨ty == 1#1, []⟩ }) t) ∧
    (∀ w data map, m.cur = some w → (m.bank k).int = accumulatesInt w.fmt f.toNat → sound p → (e = 1#1 → sound q) →
      s.streamRead c (ptr p) (streamSize f.toNat (planeK w.fmt) (r.toNat + 1)) = .ok data →
      (e = 0#1 → map = []) →
      (e = 1#1 → s.callRead c (ptr q) (8 * ((planeK w.fmt / 8 * ((r.toNat + 8) / 8) + 63) / 64)) 8 = .ok map) →
      s.health.checkBad = [] →
      let groups := planeK w.fmt / 8
      let cost := s.retireCuts.headD 0 + ((List.range ((r.toNat + 8) / 8)).map (fun i =>
        max 1 ((min 8 (r.toNat + 1 - 8 * i) * (activeGroups w.skip (leNat map) groups i).length + groups - 1) / groups) *
          (if fmtWidth w.fmt = 16 ∨ fmtWidth f.toNat = 16 then 2 else 1))).sum
      c.cycles + cost ≤ (s.core n).depthOf c →
      ∃ t c1 b fl, exec (.jStrm p f k r o e q) s = .next t ∧ t.mem = s.mem ∧
        MicroWent s n c1 (fun m => { m.setBank k b with mstat := m.mstat ||| fl }) t ∧
        c1.idx = c.idx + 1 ∧ c1.jp = c.jp ∧ c1.passes = c.passes + r.toNat + 1 ∧ c1.cycles = c.cycles + cost ∧
        b.int = (m.bank k).int ∧ ∀ x, b.row x = if 8 * o.toNat ≤ x ∧ x ≤ 8 * o.toNat + r.toNat then
          (passRow b.int w (fun i => operandElem f.toNat data ((r.toNat + 1) * planeK w.fmt / 2)
            ((x - 8 * o.toNat) * planeK w.fmt + i))
            (activeGroups w.skip (leNat map) (planeK w.fmt / 8) ((x - 8 * o.toNat) / 8)) ((m.bank k).row x)).1
          else (m.bank k).row x)

/-- The micro-words of flow, queues, bias and scale: J.LOOP goes back while its counter has passes left, J.ADDP adds to a
pointer, J.WAITQ waits for slots, J.ADVQ moves the end that the engine owns, J.BIAS and J.SCALE set what a retirement
uses; a word that uses a pointer whose queue reference has lost its form ends the call with code 0x000E (R381 to R384,
R387). That a word's cycles count when it ends is the model's reading (log entry 49). -/
def Obligations.JigFlow : Prop :=
  ∀ (s : State) (n : Nat) (c : Call) (p q : BitVec 3) (k : BitVec 2) (h : BitVec 4) (e : BitVec 1) (tg ex : BitVec 8)
    (cnt : BitVec 16) (im : BitVec 23) (sl : BitVec 10),
    s.focus = .jig n → (s.core n).mx.call = some c → c.cycles + 1 ≤ (s.core n).depthOf c →
    let ptr (x : BitVec 3) : W64 := c.jp[x.toNat]'(x.isLt)
    let c0 : Call := { c with cycles := c.cycles + 1, stuck := none }
    let c' : Call := { c0 with idx := c.idx + 1 }
    let went (t : State) (c1 : Call) : Prop := MicroWent s n c1 id t ∧ t.mem = s.mem ∧ (t.core n).pt = (s.core n).pt
    let looped (times : Nat) : Call :=
      let left := ((c.lc[k.toNat]'(k.isLt)).getD times) - 1
      if 0 < left then { c0 with idx := tg.toNat, lc := c.lc.set k.toNat (some left) k.isLt }
      else { c' with lc := c.lc.set k.toNat none k.isLt }
    let qu := (s.core n).offeredQueue h
    let count := sl.toNat + 1
    let filled := (qu.tail + 2 * qu.size - qu.head) % (2 * qu.size)
    let there := if e = 0#1 then filled else qu.size - filled
    let mine := qu.size ≠ 0 ∧ (if e = 0#1 then qu.consEngine else qu.prodEngine) = true ∧ count ≤ qu.size
    (∃ t, exec (.jLoop tg k cnt) s = .next t ∧ went t (looped (cnt.toNat + 1))) ∧
    (∃ t, exec (.jLoopReg tg k q) s = .next t ∧
      went t (looped (if ((ptr q).extractLsb' 0 16) = 0#16 then 65536 else ((ptr q).extractLsb' 0 16).toNat))) ∧
    let sound (x : BitVec 3) : Prop := c.spoilt.contains x.toNat = false
    let added (t : State) (v : W64) : Prop :=
      let x := ptr p + v
      let form := x.getLsbD 63 = true ∧ x.extractLsb' 36 27 = 0#27 ∧ x.extractLsb' 10 22 = 0#22
      ∃ sp, went t { c' with jp := c.jp.set p.toNat x p.isLt, spoilt := sp } ∧ (∀ i, i ≠ p.toNat → (i ∈ sp ↔ i ∈ c.spoilt)) ∧
        (p.toNat ∈ sp ↔ ((ptr p).getLsbD 63 = true ∨ p.toNat ∈ c.spoilt) ∧ ¬ form)
    (∃ t, exec (.jAddp p im) s = .next t ∧ added t (im.signExtend 64)) ∧
    (∃ t, exec (.jAddpReg p q) s = .next t ∧ added t (ptr q)) ∧
    (mine → count ≤ there → ∃ t, exec (.jWaitq h e sl) s = .next t ∧ went t c') ∧
    (mine → there < count → c.cycles + 1 < (s.core n).depthOf c → ∃ t, exec (.jWaitq h e sl) s = .next t ∧ went t c0) ∧
    (mine → count ≤ there → ∃ t, exec (.jAdvq h e sl) s = .next t ∧ MicroWent s n c' id t ∧ t.mem = s.mem ∧
      (t.core n).pt.q[h.toNat]'(h.isLt) = (let u := (s.core n).pt.q[h.toNat]'(h.isLt)
        if e = 0#1 then { u with head := (u.head + count) % (2 * u.size) } else { u with tail := (u.tail + count) % (2 * u.size) }) ∧
      ∀ i, (hi : i < 16) → i ≠ h.toNat → (t.core n).pt.q[i] = (s.core n).pt.q[i]) ∧
    ((e = 1#1 → sound p) → ∃ t, exec (.jBias e p) s = .next t ∧ went t { c' with bias := if e = 1#1 then some (ptr p) else none }) ∧
    (∃ t, exec (.jScale ex) s = .next t ∧ went t { c' with scale := .pow2 ex.toInt }) ∧
    (¬ sound p → (s.core n).mx.queued = none → (s.core n).ending = false →
      (∀ pa, s.wordCell { s.view with engine := true } (c.mp.get 7) 32 = .ok pa → s.gaugeBusy (some n) pa = false) →
      ∃ t, exec (.jScaleVec p) s = .next t ∧ (t.core n).mx.call = none ∧ (t.core n).mx.lastCode = 0x0E) ∧
    (∀ bs, sound p → s.callRead c (ptr p) 512 64 = .ok bs → ∃ t v, exec (.jScaleVec p) s = .next t ∧ went t { c' with scale := .vec v } ∧
      v.length = 128 ∧ ∀ i, i < 128 → nth v i 0#32 = BitVec.ofNat 32 (leNat ((bs.drop (4 * i)).take 4)))

/-- J.RETIRE writes each element of the bank, with bias and scale, rounded once to the format, in row order: to free slots
of a queue, from the slot at TAIL plus the offset on, into memory and nothing else, or to the own bay's vault, where it
withholds its bytes; under stochastic rounding the word may write them in several steps, the LFSR one step on for each and the rounding mode
that of its first.
J.SIG adds its number to a gauge in one update; J.END ends the call with code 0, clears the banks and adds 1 to the
call's gauge, when no other core withholds a store to the gauge's line (R238, R242, R257, R385 to R387). That the elements
under stochastic rounding may be written in several steps is the model's reading (log entry 90). -/
def Obligations.JigRetireSignalEnd : Prop :=
  ∀ (s : State) (n : Nat) (c : Call) (p rm : BitVec 3) (f : BitVec 4) (k : BitVec 1) (t2 : BitVec 2) (o : BitVec 5) (e : BitVec 8)
    (sn : BitVec 24),
    s.focus = .jig n → (s.core n).mx.call = some c → c.cycles + 1 ≤ (s.core n).depthOf c → Memory.wf s.mem = true →
    let m := (s.core n).mx
    let ptr (x : BitVec 3) : W64 := c.jp[x.toNat]'(x.isLt)
    let w := fmtWidth f.toNat / 8
    let count := 128 * (e.toNat + 1)
    let mode := c.rmode.getD (s.roundMode rm.toNat)
    let sound := c.spoilt.contains p.toNat = false
    let good (pa : Nat) : Prop := s.dataFault pa none = none ∧ s.dataFault (pa + 8) none = none
    let room := c.cycles + (count * w + 255) / 256 ≤ (s.core n).depthOf c
    let first := c.retired
    let part := if mode = 5 then min (count - first) (max 1 (s.retireCuts.headD count)) else count - first
    let value (bias : Option (List W32)) (j b : Nat) : Byte := BitVec.ofNat 8 (fieldN
      (retireElem f.toNat ⟨mode, t2.toNat, (lfsrSteps (if mode = 5 then j else 0) s.arith.lfsr).toNat % 2 ^ 16⟩ (m.bank k).int
        (nth ((m.bank k).row (8 * o.toNat + (first + j) / 128)) ((first + j) % 128) 0#32)
        (bias.map (fun v => nth v ((first + j) % 128) 0#32)) (c.scale.at ((first + j) % 128))).1 (8 * b) 8)
    let on (t : State) (c1 : Call) : Prop := (t.core n).mx.call = some c1 ∧ t.scalar = s.scalar ∧
      (first + part = count → c1.idx = c.idx + 1 ∧ c1.retired = 0 ∧ c1.rmode = none) ∧
      (first + part ≠ count → c1.idx = c.idx ∧ c1.retired = first + part ∧ c1.rmode = some mode) ∧
      t.arith.lfsr = lfsrSteps (if mode = 5 then part else 0) s.arith.lfsr
    (first < count → (mode ≠ 5 → first = 0) → 1 ≤ w → room → sound →
      (∀ (q : BitVec 4) (i : Nat) (bias : Option (List W32)), queueRef (ptr p) = some (.ok (q, i)) →
        let h := (s.core n).offeredQueue q
        let filled := (h.tail + 2 * h.size - h.head) % (2 * h.size)
        h.size ≠ 0 → h.prodEngine = true → h.base % 256 = 0 → h.base + 256 * h.size ≤ 2 ^ 18 →
        i + (count * w + 255) / 256 ≤ h.size - filled → s.biasOf c = .ok bias →
        ∃ t c1, exec (.jRetire p f k rm t2 o e) s = .next t ∧ on t c1 ∧
          let byte (x : Nat) : Nat := queueCell n (h.base + 256 * ((h.tail + i + x / 256) % h.size)) + x % 256
          (∀ x, (∀ y, first * w ≤ y → y < (first + part) * w → x ≠ byte y) → Memory.get t.mem x = Memory.get s.mem x) ∧
          ∀ j b, j < part → b < w → Memory.get t.mem (byte ((first + j) * w + b)) = value bias j b) ∧
      (∀ cells bias, s.retireTo (ptr p) (count * w) = .ok (.vault cells) → s.biasOf c = .ok bias →
        (∀ x ∈ cells, s.holderOf (x.1 / 128) = none ∧ (s.owns (x.1 / 128) = true ∨ (s.line (x.1 / 128)).queue = [])) →
        let all := cells.flatMap (fun x => (List.range x.2).map (x.1 + ·))
        all.Nodup →
        ∃ t c1, exec (.jRetire p f k rm t2 o e) s = .next t ∧ on t c1 ∧ t.mem = s.mem ∧
          (∀ x, (∀ y, first * w ≤ y → y < (first + part) * w → x ≠ nth all y 0) → t.ownByte x = s.ownByte x) ∧
          ∀ j b, j < part → b < w → t.ownByte (nth all ((first + j) * w + b) 0) = value bias j b)) ∧
    (∀ pa, sound → s.wordCell s.view (ptr p) 32 = .ok pa → s.gaugeBusy (some n) pa = false → good pa →
      ∃ t count' gen', exec (.jSig p sn) s = .next t ∧
        MicroWent s n { c with idx := c.idx + 1, cycles := c.cycles + 1, stuck := none } id t ∧
        GaugeAfter (Memory.read s.mem pa 8) (Memory.read s.mem (pa + 8) 6) (Memory.read s.mem (pa + 14) 2) sn.toNat count' gen' ∧
        BytesAre s.mem t.mem pa (leBytes 8 count' ++ leBytes 6 (Memory.read s.mem (pa + 8) 6) ++ leBytes 2 gen')) ∧
    (∀ pa, s.wordCell { s.view with engine := true } (c.mp.get 7) 32 = .ok pa → m.queued = none →
      s.gaugeBusy (some n) pa = false → good pa →
      (s.core n).ending = false →
      ∃ t count' gen', exec .jEnd s = .next t ∧ (t.core n).mx.call = none ∧ (t.core n).mx.lastCode = 0 ∧
        (t.core n).mx.bank0 = {} ∧ (t.core n).mx.bank1 = {} ∧ t.scalar = s.scalar ∧
        (t.core n).pt.mp = (if (s.core n).pt.mpFilled then (s.core n).pt.mpNext else (s.core n).pt.mp) ∧
        GaugeAfter (Memory.read s.mem pa 8) (Memory.read s.mem (pa + 8) 6) (Memory.read s.mem (pa + 14) 2) 1 count' gen' ∧
        BytesAre s.mem t.mem pa (leBytes 8 count' ++ leBytes 6 (Memory.read s.mem (pa + 8) 6) ++ leBytes 2 gen'))

/-! ### Device events: records, energy, power -/

/-- A device event writes one record of 32 bytes at its queue's next place in host memory and advances NQTAIL; where
the queue is full or disabled the record is dropped and OVF sets (R65, R66, R68). That bytes 14 and 15 hold NQTAIL before
its increment is the model's choice (log entry 92). -/
def Obligations.EventRecords : Prop :=
  ∀ (s : State) (vec code detail stream : Nat),
    let q := s.nq vec
    let size := 2 ^ (q.logSize + 4)
    let ready := q.en = true ∧ (q.tail + 2 ^ 32 - q.head) % 2 ^ 32 < size
    let t := s.event vec code detail stream
    (ready → Memory.wf s.host.mem = true → (q.window ≠ 0 ∨ (s.msix vec).masked = true) →
      BytesAre s.host.mem t.host.mem (q.base.toNat + q.tail % size * 32)
        (List.replicate 8 0#8 ++ leBytes 4 (code * 2 ^ 16 + detail % 2 ^ 16) ++ [BitVec.ofNat 8 (128 + stream), 0#8] ++
          leBytes 2 q.tail ++ leBytes 8 (s.tick / 100) ++ List.replicate 7 0#8 ++ [if q.tail / size % 2 = 0 then 1#8 else 0#8]) ∧
      t.host.messages = s.host.messages ∧ (q.window = 0 → (t.msix vec).pending = true)) ∧
    (ready → q.window = 0 → (s.msix vec).masked = false → t.host.messages = s.host.messages ++ [vec]) ∧
    (ready → t.nq vec = { q with tail := (q.tail + 1) % 2 ^ 32 }) ∧
    (¬ ready → t.host.mem = s.host.mem ∧ t.nq vec = { q with ovf := true } ∧ t.host.messages = s.host.messages) ∧
    t.mem = s.mem ∧ t.cores = s.cores ∧ t.pow = s.pow ∧ t.tab = s.tab

/-- Writes of DEFBUDGET, CURVECTL and THERMTAB, the end of a curve's verification, a pending curve's coming into
force, a curve's expiry, each a segment start with its grade, and the facility key's installation and lock (R113 to R118,
R131). A write of a rail's TARGET starts a ramp from the voltage it stands at, before a fall of which every bay on the rail stands
at a step that TARGET permits or at the slowest, or sets ERR for a voltage out of range; the
end of a ramp and of a frequency lock; a thermal poll updates every diode of a die that is not gated by its conversion,
with the hysteresis of its entries, and two invalid conversions in a row are a fault (R17, R18, R20, R25, R26, R125). -/
def Obligations.CurvesKeysRailsDiodes : Prop :=
  (∀ (s : State),
     let p := s.pow
     let w := (s.inp.v.extractLsb' 0 16).toNat
     let len := (s.inp.v.extractLsb' 0 14).toNat
     let free : Prop := s.host.full = false
     (free → 400 ≤ w → w ≤ 3300 → exec .defbudgetWrite s = .next { s with pow := { p with defBudget := w } }) ∧
     (w < 400 ∨ 3300 < w → exec .defbudgetWrite s = .next s) ∧
     (free → p.verifying = none → ∃ t bs, exec .curveGo s = .next t ∧ t.pow = { p with curveLen := len, verifying := some bs } ∧
       t.mem = s.mem ∧ bs.length = len ∧ ∀ i, i < len → nth bs i 0#8 = Memory.get p.curveBuf i) ∧
     (∀ bs, p.verifying = some bs → s.pkg.mgmt.moving = false →
       let code := p.curveCheck bs s.now
       let c := readCurve bs
       (code ≠ 0 → exec .curveVerifyDone s =
         .next (({ s with pow := { p with verifying := none, curveCode := code } }).post 0x0602 code)) ∧
       (code = 0 → p.maxSeq < c.seq ∧ p.fkey ≠ none ∧ (∀ i, i < fieldAt bs 6 2 → 400 ≤ (curvePoint bs i).2.1 ∧ (curvePoint bs i).2.1 ≤ 3300) ∧
         ∃ t : State, exec .curveVerifyDone s = .next (t.post 0x0601 0) ∧ t.mem = s.mem ∧ t.pow.verifying = none ∧
           t.pow.curveCode = 0 ∧ t.pow.maxSeq = c.seq ∧
           (c.vfrom ≤ s.now → t.pow.inForce = some c ∧ t.pow.pending = p.pending ∧
             t.pow.starts.getLast? = some (c.gradeOf (c.segmentAt s.now))) ∧
           (s.now < c.vfrom → t.pow.inForce = p.inForce ∧ t.pow.pending = some c))) ∧
     (∀ bs n, fieldAt bs 0 4 ≠ 0x43555256 → p.curveCheck bs n = 4) ∧
     (∀ c, p.pending = some c → c.vfrom ≤ s.now → ∃ t, exec .curveInForce s = .next t ∧ t.pow.inForce = some c ∧
       t.pow.pending = none ∧ t.pow.starts.getLast? = some (c.gradeOf (c.segmentAt s.now))) ∧
     (∀ c, p.pending = some c → s.now < c.vfrom → exec .curveInForce s = .next s) ∧
     (∀ c, p.inForce = some c → c.vto ≤ s.now → ∃ t : State, exec .curveExpire s = .next (t.post 0x0603 0) ∧
       t.pow.inForce = none ∧ t.budgetAt = p.defBudget ∧ t.pow.starts.getLast? = some 0) ∧
     (∀ c, p.inForce = some c → s.now < c.vto → exec .curveExpire s = .next s) ∧
     (free → p.fkeyLock = false → ∃ t, exec .fkeyInstall s = .next t ∧ t.pow.fkey = some p.fkeyBuf ∧ t.pow.maxSeq = 0 ∧ t.pow.pending = none ∧
       t.pow.inForce = p.inForce) ∧
     (p.fkeyLock = true → exec .fkeyInstall s = .next s) ∧
     (free → exec .fkeyLock s = .next { s with pow := { p with fkeyLock := true } }) ∧
     (∀ i, (h : i < 8) → s.inp.n1 = i →
       let e : Therm := {
         hyst := (s.inp.v.extractLsb' 40 8).toNat, temp := (s.inp.v.extractLsb' 16 16).toInt,
         param := (s.inp.v.extractLsb' 8 3).toNat, action := (s.inp.v.extractLsb' 0 3).toNat }
       let tb := p.therm.set i e h
       let good : Prop := e.action ≤ 4 ∧ tb[0].temp ≤ tb[1].temp ∧ tb[1].temp ≤ tb[2].temp ∧ tb[4].temp ≤ tb[5].temp ∧
         tb[5].temp ≤ tb[6].temp
       (free → good → ∃ t, exec .thermtabWrite s = .next t ∧ t.pow.therm = tb ∧
         ((∀ j, let d := s.diode j; d.advise = false ∧ d.hold = false ∧ d.park = false ∧ d.fault = false) →
           t = { s with pow := { p with therm := tb } })) ∧
       (¬ good → exec .thermtabWrite s = .next s))) ∧
  (∀ (s : State),
     let n := s.inp.n1
     let vl := n == 1
     let r := s.rail vl
     let mv := (s.inp.v.extractLsb' 0 10).toNat
     let inRange := if n = 1 then 550 ≤ mv ∧ mv ≤ 700 else 780 ≤ mv ∧ mv ≤ 920
     (s.host.full = false → n ≤ 1 → inRange → ∃ t, exec .railsetWrite s = .next t ∧ (t.rail vl).target = mv ∧ (t.rail vl).start_ = r.present s.now ∧
       (t.rail vl).since = s.now ∧ (t.rail vl).err = (r.err && !s.inp.v.getLsbD 30) ∧ t.rail (!vl) = s.rail (!vl) ∧ t.mem = s.mem ∧
       (r.target ≤ mv → t.pkg.bays = s.pkg.bays) ∧
       (mv < r.target → ∀ pb, pb < 80 → (t.bp pb).vl = vl →
         (t.bp pb).permits vl mv (t.bp pb).step = true ∨ (t.bp pb).step = 7)) ∧
     (s.host.full = false → n ≤ 1 → ¬ inRange → ∃ t, exec .railsetWrite s = .next t ∧ t.rail vl = { r with err := true } ∧ t.rail (!vl) = s.rail (!vl) ∧
       t.pkg.bays = s.pkg.bays) ∧
     (n ≤ 1 → r.present s.now = r.target → ∃ t, exec .railRampEnd s = .next t ∧ t.rail vl = { r with busy := false } ∧
       t.rail (!vl) = s.rail (!vl)) ∧
     (∀ st b, (s.bp n).lock = some (b, st) → ∃ t, exec .freqLockDone s = .next t ∧
       t.bp n = { s.bp n with vl := b, step := st, lock := none } ∧ ∀ m, m ≠ n → t.bp m = s.bp m) ∧
     ((s.bp n).lock = none → ∃ t, exec .freqLockDone s = .next t ∧ ∀ m, t.bp m = s.bp m) ∧
     (s.pkg.pollAt ≠ some (s.now / 100) → ∃ t, exec .thermalPoll s = .next t ∧ t.pkg.pollAt = some (s.now / 100) ∧
       ∀ i, i < 120 →
         let d := s.diode i
         let passed (was : Bool) (k : Fin 4) (v : Int) : Bool :=
           let e := s.thermEntry i k
           if was then decide (e.temp - (e.hyst : Int) ≤ v) else decide (e.temp ≤ v)
         ((s.die (if i < 80 then i / 8 else (i - 80) / 4)).power ≠ .gated → match nth s.inp.temps i none with
           | none => t.diode i = { d with invalid := d.invalid + 1, fault := d.fault || decide (1 ≤ d.invalid) }
           | some v => t.diode i = { reading := v, advise := passed d.advise 0 v, hold := passed d.hold 1 v, park := passed d.park 2 v }) ∧
         ((s.die (if i < 80 then i / 8 else (i - 80) / 4)).power = .gated → t.diode i = d)))

/-- A loop of the Maltster, at the time base's multiples of 10 µs, takes the budget of the moment and the measured power,
acts on every segment that has started, and counts into its window; the choice for one task never spends more over its floor
entry than is left, and is never below the floor (the model's reading, log entry 82); a window's mean above the band posts
BAND_MISS with the excess in W, one below it with bit 15 set and the shortfall, unless an event ran in the window or, below,
every placed task stood at its highest entry; an event ends when its interval has passed and the casks of its park are
written; a curve is constant after its last point (R113, R114, R121, R124, R126, R134). -/
def Obligations.BudgetLoop : Prop :=
  ∀ (s : State),
    let p := s.pow
    let m : Rat := (s.inp.n1 : Rat) / 1000
    (s.tick % 1000 = 0 → p.loopAt ≠ some (s.now / 10) → ∃ t, exec .maltsterLoop s = .next t ∧ t.pow.loopAt = some (s.now / 10) ∧
      t.pow.budget = s.budgetAt ∧ t.pow.base = m - (s.cntSum : Rat) ∧ t.pow.winLoops = p.winLoops + 1 ∧
      t.pow.winPower = p.winPower + m ∧ t.pow.winBudget = p.winBudget + s.budgetAt ∧ t.pow.starts = []) ∧
    (s.tick % 1000 ≠ 0 ∨ p.loopAt = some (s.now / 10) → exec .maltsterLoop s = .next s) ∧
    (∀ (u : Task) (b left : Rat), 0 ≤ left → 0 ≤ b →
      (oPwr (u.opt (s.chooseFor u b left)) : Rat) - (oPwr (u.opt (s.floorEnt u)) : Rat) ≤ left) ∧
    (∀ (u : Task) (b left : Rat), oPwr (u.opt (s.floorEnt u)) ≤ oPwr (u.opt (s.chooseFor u b left))) ∧
    (p.inForce = none → s.budgetAt = p.defBudget) ∧
    (∀ (c : Curve) (q : Nat × Nat × Nat), c.points.getLast? = some q → (∀ x ∈ c.points, c.vfrom + x.1 ≤ s.now) →
      c.valueAt s.now = q.2.1) ∧
    (∀ e, p.event = some e →
      (e.ends ≤ 20000 * s.tick → (e.deepest = 2 → ∀ id ∈ e.tried, s.freezing id = none) →
        exec .curtailmentEnd s = .next { s with pow := { p with event := none } }) ∧
      (20000 * s.tick < e.ends → exec .curtailmentEnd s = .next s) ∧
      (∀ id ∈ e.tried, e.deepest = 2 → s.freezing id ≠ none → exec .curtailmentEnd s = .next s)) ∧
    (p.bandAt < s.now / 10000 → p.winLoops ≠ 0 →
      let mean := p.winPower / (p.winLoops : Rat)
      let target := p.winBudget / (p.winLoops : Rat)
      let width := max (target / 50) 25
      ∃ t : State, t.pow.bandAt = s.now / 10000 ∧ t.pow.winLoops = 0 ∧ t.pow.winPower = 0 ∧ t.pow.winBudget = 0 ∧ t.mem = s.mem ∧
        t.host = s.host ∧
        ((target - width ≤ mean ∧ mean ≤ target + width) ∨ p.winEvent = true ∨ (mean < target - width ∧ p.winTop = true) →
          exec .bandCheck s = .next t) ∧
        (mean < target - width → p.winEvent = false → p.winTop = false →
          exec .bandCheck s = .next (t.post 0x0606 (2 ^ 15 + min (target - mean).floor.toNat 32767))) ∧
        (target + width < mean → p.winEvent = false →
          exec .bandCheck s = .next (t.post 0x0606 (min (mean - target).floor.toNat 32767))))

/-- Power commands (R133): with none in progress each is carried out or refused with its reason; while one is in progress
a command is only noted, and during a hand-over it is held. That PARKTASK of a task whose points have all completed is
refused with WRONG_STATE is the model's choice (log entry 104); that every command submitted with none in progress sets CODE
and REASON is its reading (log entry 67). -/
def Obligations.PowerCommands : Prop :=
  ∀ (s : State), s.host.full = false →
    let a := s.inp.n1 % 2 ^ 48
    let p := s.pow
    let x := s.die a
    let l := s.link a
    let refused (o : Out) (code reason : Nat) : Prop := o = .next { s with pow := { p with
      cmdCode := code, cmdArg := a, lastCode := code, reason := reason, refused := true } }
    let begun (t : State) (about : Option Nat) : Prop := t.pow.busy = true ∧ t.pow.drainDie = about ∧ t.pow.reason = 0
    (p.busy = false → s.pkg.mgmt.moving = false → s.pkg.mgmt.heldCmds = [] →
      (∀ k, a < 2 ^ 32 → s.task a = some k → k.st = .placed → k.code = none → k.finished = false →
        (k.freeze ≠ none ∨ s.areaUsed + k.largestCask ≤ areaBytes) →
        ∃ t k', exec .parktask s = .next t ∧ begun t none ∧ t.pow.waitTasks = [a] ∧ t.task a = some k' ∧ k'.freeze ≠ none) ∧
      (∀ k, a < 2 ^ 32 → s.task a = some k → (k.st ≠ .placed ∨ k.code ≠ none ∨ k.finished = true) →
        refused (exec .parktask s) 1 3) ∧
      (a < 2 ^ 32 → s.task a = none → refused (exec .parktask s) 1 2 ∧ refused (exec .resumetask s) 2 2) ∧
      (2 ^ 32 ≤ a → refused (exec .parktask s) 1 7 ∧ refused (exec .resumetask s) 2 7) ∧
      (∀ k, a < 2 ^ 32 → s.task a = some k → k.st = .parked → ∃ t k', exec .resumetask s = .next t ∧ t.task a = some k' ∧
        k' = { k with resumable := true, parkedByEvent := false } ∧ t.pow.refused = p.refused) ∧
      (10 ≤ a → refused (exec .gatedie s) 3 7 ∧ refused (exec .ungatedie s) 4 7 ∧ refused (exec .draindie s) 5 7 ∧
        refused (exec .repairdie s) 6 7) ∧
      (a < 10 → x.lost = true → refused (exec .gatedie s) 3 5 ∧ refused (exec .ungatedie s) 4 5 ∧ refused (exec .draindie s) 5 5) ∧
      (a < 10 → x.lost = false → x.power = .on → s.gateable a = false → refused (exec .gatedie s) 3 4) ∧
      (a < 10 → x.lost = false → x.power = .on → s.gateable a = true → s.gateTime = false → ∃ t, exec .gatedie s = .next t ∧
        begun t (some a) ∧ t.die a = { x with held := true } ∧ t.mem = s.mem) ∧
      (a < 10 → x.lost = false → x.power = .on → s.gateable a = true → s.gateTime = true → s.fab.drains = [] →
        (∀ e, (s.die e).power ≠ .gating) → ∃ t, exec .gatedie s = .next t ∧ (t.die a).power ≠ .on) ∧
      (a < 10 → x.lost = false → x.power = .gated → ∃ t, exec .ungatedie s = .next t ∧ begun t (some a) ∧
        t.die a = { x with power := .ungating } ∧ t.mem = s.mem) ∧
      (a < 10 → x.lost = false → x.power = .on → s.pagesFit a 0 = true → s.tasksOn a = [] → s.gateTime = false →
        ∃ t, exec .draindie s = .next t ∧ begun t (some a) ∧ (t.die a) = { x with held := true }) ∧
      (a < 10 → x.lost = false → x.power = .on → (∀ d ∈ s.fab.drains, d.gate ≠ some a) → s.tasksOn a ≠ [] →
        s.pagesFit a (((s.tasksOn a).filter (fun t => t.freeze.isNone && !t.finished)).map Task.largestCask).sum = true →
        ∃ t, exec .draindie s = .next t ∧ begun t (some a) ∧ t.pow.waitTasks = (s.tasksOn a).map (·.id)) ∧
      (a < 10 → x.power = .gated → s.gateable a = true → ∃ t, exec .repairdie s = .next t ∧ begun t (some a) ∧
        t.die a = { x with repair := true, power := .ungating } ∧ t.mem = s.mem) ∧
      (a < 24 → (l.st = .down ∨ l.st = .retrain ∨ (l.st = .up ∧ (l.half = true ∨ l.spares ≠ 0))) →
        ∃ t, exec .repairlink s = .next t ∧ begun t (some (100 + a)) ∧ (t.link a).st = .retrain ∧ (t.link a).spares = 0 ∧
          (t.link a).half = false ∧ t.mem = s.mem) ∧
      (a < 24 → (l.st = .gated ∨ (l.st = .up ∧ l.half = false ∧ l.spares = 0)) → refused (exec .repairlink s) 7 3) ∧
      (24 ≤ a → refused (exec .repairlink s) 7 7) ∧
      (s.inp.n2 % 256 = 0 ∨ 7 < s.inp.n2 % 256 → refused (exec .pwrcmdBadCode s) (s.inp.n2 % 256) 1)) ∧
    (∀ e ∈ [(exec .parktask s, 1), (exec .resumetask s, 2), (exec .gatedie s, 3), (exec .ungatedie s, 4), (exec .draindie s, 5),
        (exec .repairdie s, 6), (exec .repairlink s, 7)],
      (p.busy = true → e.1 = .next { s with pow := { p with cmdCode := e.2, cmdArg := a } }) ∧
      (p.busy = false → s.pkg.mgmt.moving = true → ∃ t, e.1 = .next t ∧ t.pow = { p with cmdCode := e.2, cmdArg := a } ∧
        t.pkg.mgmt.heldCmds = s.pkg.mgmt.heldCmds ++ [(e.2, a)]))

/-- A held gate command is carried out once 250 µs have passed since the last gating, if the die may still be gated; the
end of an ungating brings the die back with DIE_UNGATED or leaves it gated with SELFTEST_FAIL; the management cores' roles;
a retired HBM channel takes a spare (R22, R23, R27, R28). That nothing happens with all four spares in use is the model's
choice (log entry 102), that H0 takes the primary role back at its return the model's reading (log entry 36). -/
def Obligations.GatingAndManagement : Prop :=
  ∀ (s : State),
    let n := s.inp.n1
    let m := s.pkg.mgmt
    let x := s.die n
    (∀ d, (List.range 10).find? (fun d => (s.die d).held) = some d →
      (s.gateTime = false → exec .gateHeldRelease s = .next s) ∧
      (s.gateTime = true → s.pow.gateNext = [] → m.heldCmds = [] →
        (s.gateable d = true → ((s.die d).lost = true ∨ (s.die d).drained = true) → ∃ t, exec .gateHeldRelease s = .next t ∧
          (t.die d).power ≠ .on ∧ (t.die d).held = false ∧ t.pkg.lastGate = some s.tick) ∧
        (s.gateable d = false → (s.die d).power = .on → ∃ t, exec .gateHeldRelease s = .next t ∧
          (t.die d).power = .on ∧ (t.die d).held = false ∧ t.mem = s.mem ∧ t.pkg.lastGate = s.pkg.lastGate))) ∧
    ((List.range 10).find? (fun d => (s.die d).held) = none → exec .gateHeldRelease s = .next s) ∧
    (n < 10 → x.power = .ungating → s.pow.gateNext = [] → m.heldCmds = [] →
      (s.inp.ok = true → ∃ t : State, exec .ungateComplete s = .next t ∧ t.die n =
        { x with power := .on, repair := false, failed := false, lost := x.lost && !x.repair, missed := 0, beat := true } ∧ t.mem = s.mem) ∧
      (s.inp.ok = false → ∃ t, exec .ungateComplete s = .next t ∧ t.die n =
        { x with power := .gated, repair := false, failed := true } ∧ t.mem = s.mem ∧
        t.host = (s.post 0x0101 n).host)) ∧
    (m.out = none → n ≤ 1 → exec .mgmtFirmwareUpdate s = .next { s with pkg := { s.pkg with
      mgmt := { m with out := some n, moving := m.primary == n } } }) ∧
    (m.out ≠ none ∨ 1 < n → exec .mgmtFirmwareUpdate s = .next s) ∧
    (m.moving = true → m.heldCmds = [] → exec .handover s =
      .next (({ s with pkg := { s.pkg with mgmt := { m with primary := 1 - m.primary, moving := false } } }).post 0x0102 (1 - m.primary))) ∧
    (∀ h, m.out = some h → m.moving = false →
      (h = 0 ∧ m.primary ≠ 0 → exec .mgmtCoreReturn s =
        .next (({ s with pkg := { s.pkg with mgmt := { m with out := none, primary := 0 } } }).post 0x0102 0)) ∧
      (¬ (h = 0 ∧ m.primary ≠ 0) → exec .mgmtCoreReturn s = .next { s with pkg := { s.pkg with mgmt := { m with out := none } } })) ∧
    (n < 10 → s.inp.n2 < 384 → (s.stack n).spares < 4 → ∃ t r, exec .hbmChannelRetire s = .next t ∧ t.mem = s.mem ∧
      t.stack n = { s.stack n with spares := (s.stack n).spares + 1, retired := r } ∧
      find? r s.inp.n2 = some (s.stack n).spares ∧ ∀ c, c ≠ s.inp.n2 → find? r c = find? (s.stack n).retired c) ∧
    (4 ≤ (s.stack n).spares → exec .hbmChannelRetire s = .next s)

/-! ### The fabric -/

/-- A request for a rate step begins a training, is held during one, or is refused; a training ends at its step, or is
tried again, or the link goes DOWN; a failed lane takes a spare and the link trains; the peer ports' state, its
retrain and its loss (R32 to R34, R38 to R40, R51, R53). A marker is acknowledged once it has arrived and every earlier
message it follows has been delivered; a drain not complete in 10 ms posts DRAIN_TIMEOUT once; a consumer grants no more permits
than it has slots, those of a queue being its SIZE less what HEAD has not passed, and an audit of a die with power restores
their number (R42 to R45, R186). That the second attempt of a training does not count as another, and that a training which
no request started is tried once more too, is the model's choice (log entries 99 and 100), and so is the number that a swap
buffer declares, which the environment gives (log entry 91). -/
def Obligations.LinksPeersDrainsPermits : Prop :=
  (∀ (s : State),
     let n := s.inp.n1
     let l := s.link n
     let step := (s.inp.v.extractLsb' 0 3).toNat
     let others (t : State) : Prop := t.mem = s.mem ∧ t.cores = s.cores ∧ ∀ m, m ≠ n → t.link m = s.link m
     let free : Prop := s.host.full = false
     (free → n < 24 → 5 ≤ step ∨ l.maxStep < step → ∃ t, exec .linkctlGo s = .next t ∧ t.link n = { l with refused := true } ∧ others t) ∧
     (free → n < 24 → step ≤ 4 → step ≤ l.maxStep →
       (l.st = .up → step ≠ l.rate → ∃ t, exec .linkctlGo s = .next t ∧ others t ∧ t.link n = { l with
         st := .retrain, step := step, target := step, second := false, go := true, retrains := (l.retrains + 1) % 2 ^ 64 }) ∧
       (l.st = .up → step = l.rate → ∃ t, exec .linkctlGo s = .next t ∧ others t ∧ t.link n = { l with step := step, go := false }) ∧
       (l.st = .retrain → ∃ t, exec .linkctlGo s = .next t ∧ others t ∧ t.link n = { l with step := step, go := true, held := some step }) ∧
       (l.st = .down ∨ l.st = .gated → ∃ t, exec .linkctlGo s = .next t ∧ others t ∧ t.link n = { l with step := step, refused := true })) ∧
     (n < 24 → l.st = .retrain → s.inp.nums = [] → l.failed = [] → s.commandOn (100 + n) = false →
       (s.inp.ok = true → l.held = none → l.second = false → ∃ t, exec .linkTrainComplete s = .next t ∧ (t.link n).st = .up ∧
         (t.link n).rate = l.target ∧ (t.link n).go = false ∧ ∀ d, d < 2 → ((t.link n).dir d).wire = ((t.link n).dir d).sent ∧
           ((t.link n).dir d).wire.map (·.body) = ((l.dir d).sent.filter (l.dir d).unaccepted).map (·.body)) ∧
       (s.inp.ok = true → l.held = none → l.second = true → ∃ t, exec .linkTrainComplete s = .next t ∧ (t.link n).st = .up ∧
         (t.link n).rate = l.rate ∧ (t.link n).go = false ∧ (t.link n).evTrain = true) ∧
       (s.inp.ok = false → l.second = false → ∃ t, exec .linkTrainComplete s = .next t ∧ t.link n = { l with second := true }) ∧
       (s.inp.ok = false → l.second = true → ∃ t, exec .linkTrainComplete s = .next t ∧ (t.link n).st = .down ∧
         (t.link n).go = false ∧ (t.link n).evTrain = true ∧ (l.held ≠ none → (t.link n).refused = true))) ∧
     (n < 24 → s.inp.n2 < 64 → l.st = .up → l.laneThr.toNat < s.inp.n3 → l.spares < 4 → ∃ t, exec .laneRetire s = .next t ∧
       t.link n = { l with
         spares := l.spares + 1, st := .retrain, target := l.rate, second := false, retrains := (l.retrains + 1) % 2 ^ 64 }) ∧
     (let p := s.peer n
      (n < 8 → p.st ≠ 2 → ∃ t, exec .peerPortDown s = .next t ∧ (t.peer n).st = 2 ∧ (t.peer n).evDown = true) ∧
      (free → n < 8 → s.inp.v.getLsbD 28 = true → ∃ t, exec .peerstatWrite s = .next t ∧ others t ∧
        t.peer n = { p with evDown := false, st := if p.st = 2 then 1 else p.st }) ∧
      (n < 8 → p.st = 1 → ∃ t, exec .peerTrainComplete s = .next t ∧ others t ∧
        t.peer n = if s.inp.ok then { p with st := 0, id := s.inp.v } else { p with st := 2 }))) ∧
  (∀ (s : State),
     let n := s.inp.n1
     (∀ d rest, s.fab.drains = [d] → d.num = n → d.markers.filter (· != (s.inp.n2, s.inp.n3, s.inp.n4)) = rest →
       (s.inp.n2, s.inp.n3, s.inp.n4) ∈ d.markers → (s.inp.n2, s.inp.n3, s.inp.n4) ∈ d.arrived →
       (∀ f ∈ s.flitsLeft, ¬ (f.fromR = s.inp.n2 ∧ f.dst = s.inp.n3 ∧ f.chan = s.inp.n4 ∧ f.stamp < d.stamp)) → (∀ t ∈ s.tab.tasks, t.freeze = none) →
       (∀ i, i < 10 → (s.die i).power ≠ .gating) → s.pow.gateNext = [] → s.pkg.mgmt.heldCmds = [] → d.gate = none → d.task = none →
       ∃ t, exec .drainMarkerAck s = .next t ∧ t.mem = s.mem ∧ t.cores = s.cores ∧
         (rest ≠ [] → t.fab.drains = [{ d with markers := rest }]) ∧ (rest = [] → t.fab.drains = [])) ∧
     (∀ d, s.fab.drains.find? (fun d => d.num == n) = some d → (s.inp.n2, s.inp.n3, s.inp.n4) ∉ d.arrived →
       exec .drainMarkerAck s = .next s) ∧
     (∀ d, s.fab.drains.find? (fun d => d.num == n) = some d → d.timedOut = false → d.start_ + 10000 ≤ s.now → d.task = none →
       ∃ t : State, exec .drainTimeout s = .next (t.post 0x0702 n) ∧ t.mem = s.mem ∧ t.cores = s.cores ∧
         t.fab.drains = s.fab.drains.map (fun x => if x.num = n then { x with timedOut := true, task := none } else x)) ∧
     (let key := permitKey s.inp.n4 n
      let p := (find? s.fab.permits key).getD {}
      -- the permits of a consumer with what its queue declares and has consumed
      let counted (consumer : Nat) (p : Permit) : Permit :=
        if consumer < 10240 then
          let h := (s.core (consumer / 16)).offeredQueue (BitVec.ofNat 4 (consumer % 16))
          { p with slots := h.size, head := h.head, filled := p.filled -
              (if h.size = 0 then 0 else (h.head + 2 * h.size - p.head % (2 * h.size)) % (2 * h.size)) }
        else p
      (n < 2560 → ∃ t q, exec .permitGrant s = .next t ∧ find? t.fab.permits key = some q ∧ t.mem = s.mem ∧ t.cores = s.cores ∧
        (s.inp.n3 = 0 → s.inp.n4 < 10240 → let c := counted s.inp.n4 p
          q = { c with inFlight := if c.held + c.inFlight + c.filled < c.slots then p.inFlight + 1 else p.inFlight }) ∧
        (s.inp.n3 = 0 → 10240 ≤ s.inp.n4 → s.inp.ok = false → let more := p.held + p.inFlight + p.filled < s.inp.n2
          q = { p with slots := s.inp.n2, inFlight := if more then p.inFlight + 1 else p.inFlight }) ∧
        (s.inp.n3 = 1 → p.inFlight ≠ 0 → q = { p with inFlight := p.inFlight - 1, held := p.held + 1 })) ∧
      (n < 10 → ((s.die n).power = .on ∨ (s.die n).power = .gating) → (s.die n).auditAt + s.fab.auditMs * 1000 ≤ s.now →
        (s.fab.permits.map Prod.fst).Nodup →
        ∃ t, exec .permitAudit s = .next t ∧ t.die n = { s.die n with auditAt := s.now } ∧ t.mem = s.mem ∧ t.cores = s.cores ∧
          ∀ place p, find? s.fab.permits place = some p → find? t.fab.permits place = some
            (if place % 2560 / 256 = n then let c := counted (place / 2560) p
              { c with held := c.slots - c.filled, inFlight := 0 } else p))))

/-- A message that a die injects waits at its router with a stamp of its own; one that a hub sends takes the next sequence
number of the route's link, spends a credit and stays in the replay buffer until it is acknowledged; one received intact in
its turn is accepted, and at its end leaves the receive buffer, one with a bad CRC is counted and asked for again, one out
of turn is dropped; a replay sends again what has not been accepted; held flits go behind the last delivery on the old
route (R35 to R37, R41, R42, R44, R48). That the mesh is one of routers as R44 and R68 number them is the model's reading
(log entry 91), and that a replay window counts first transmissions its choice (log entry 101). -/
def Obligations.Flits : Prop :=
  ∀ (s : State),
    let n := s.inp.n1
    let d := s.inp.n2 % 2
    let l := s.link n
    let k := l.dir d
    let put (x : LinkDir) : State := s.setLink n (l.setDir d x)
    let same (t : State) : Prop := t.mem = s.mem ∧ t.cores = s.cores ∧ t.tab = s.tab
    -- a message of the event is data, and a permit's number on channel 2
    let message : Body := if s.inp.n2 = 2 then .grant s.inp.v.toNat else .data s.inp.v
    (n < 10 → s.inp.n2 < 4 → s.inp.n4 < 20 → s.inp.ok3 = false →
      let router := 64 * n + s.inp.nums.headD 0 % 64
      ∃ t f, exec .flitSend s = .next t ∧ same t ∧ t.meshAt (2560 + router) = s.meshAt (2560 + router) ++ [f] ∧
        f.chan = s.inp.n2 ∧ f.src = n ∧ f.dst = s.inp.n4 ∧ f.fromR = router ∧ f.toR = s.inp.n3 % 64 ∧ f.body = message ∧
        f.stamp = s.fab.stamps ∧ t.fab.stamps = s.fab.stamps + 1) ∧
    (∀ lk, (n = 10 ∨ n = 11) → s.inp.n2 < 4 → s.inp.n4 < 20 → n ≠ s.inp.n4 → s.inp.ok3 = false → s.fab.moves = [] →
      s.route n s.inp.n4 s.inp.n2 = some lk →
      let e := if (linkEnds lk).1 = n then 0 else 1
      let w := s.ldir lk e
      s.linkUp lk = true → w.sent.length < 512 → nth w.spent s.inp.n2 0 = 0 → ∃ t f, exec .flitSend s = .next t ∧ same t ∧
        f.seq = w.next ∧ f.chan = s.inp.n2 ∧ f.src = n ∧ f.dst = s.inp.n4 ∧ f.body = message ∧ f.stamp = s.fab.stamps ∧
        t.fab.stamps = s.fab.stamps + 1 ∧ t.ldir lk e = { w with
          next := (w.next + 1) % 4096, sent := w.sent ++ [f], wire := w.wire ++ [f], flits := (w.flits + 1) % 2 ^ 64,
          winFlits := w.winFlits + 1, spent := setNth w.spent s.inp.n2 1 }) ∧
    (∀ f v, 64 + 2560 ≤ n → n < 64 + 3200 →
      let key := n - 64
      (s.meshAt key).find? (fun f => f.chan == s.inp.n4) = some f → f.dst = (key - 2560) / 64 → f.toR = (key - 2560) % 64 →
      f.body = .data v → ∃ t, exec .flitReceive s = .next t ∧ same t ∧ t.meshAt key = (s.meshAt key).erase f) ∧
    (∀ f rest, n < 24 → s.inp.n3 ≠ 1 → l.st = .up → k.wire = f :: rest →
      let taken : LinkDir := { k with wire := rest, reject := false, expect := (k.expect + 1) % 4096 }
      let credit : LinkDir := { taken with spent := setNth k.spent f.chan (nth k.spent f.chan 0 - 1) }
      let x := if d = 0 then (linkEnds n).2 else (linkEnds n).1
      (s.inp.ok = true → f.seq = k.expect →
        (∀ v, s.inp.ok2 = true → (∀ q ∈ k.queued, q.chan ≠ f.chan) → f.dst = x → f.body = .data v →
          ∃ t, exec .flitReceive s = .next t ∧ same t ∧ t.ldir n d = credit ∧
            (x < 10 → ∀ p ps, meshPath x (edgeOf x (farEnd n x)) f.toR = p :: ps →
              t.meshAt p = s.meshAt p ++ [{ f with leaves := none }])) ∧
        (s.inp.ok2 = false ∨ (∃ q ∈ k.queued, q.chan = f.chan) →
          ∃ t, exec .flitReceive s = .next t ∧ same t ∧ t.ldir n d = { taken with queued := k.queued ++ [f] })) ∧
      (s.inp.ok = true → f.seq ≠ k.expect → exec .flitReceive s = .next (put { k with wire := rest })) ∧
      (s.inp.ok = false → k.reject = false → exec .flitReceive s =
        .next (put { k with wire := rest, crcerr := (k.crcerr + 1) % 2 ^ 64, reject := true, asked := true }))) ∧
    (n < 24 → l.st = .up → k.asked = true → exec .replayRequest s = .next (put { k with
      asked := false, wire := k.wire ++ k.sent.filter k.unaccepted, replays := (k.replays + 1) % 2 ^ 64,
      winReplays := k.winReplays + 1 })) ∧
    (n < 24 → exec .flitAck s = .next (put { k with sent := k.sent.filter k.unaccepted })) ∧
    (∀ m lk, s.fab.moves = [m] → m.src = n → m.dst = s.inp.n2 → m.chan = s.inp.n3 → m.old < 24 → (s.link m.old).st = .up →
      (∀ f ∈ s.onRoute m.src m.dst m.chan m.old, m.stamp ≤ f.stamp) → s.route m.src m.dst m.chan = some lk →
      let w := s.ldir lk (dirFrom lk m.src)
      s.linkUp lk = true → w.sent.length + m.held.length ≤ 512 → m.chan < 4 → w.spent.length = 4 →
      (∀ f ∈ m.held, f.chan = m.chan) → nth w.spent m.chan 0 + m.held.length ≤ Config.linkCredits m.chan →
      ∃ t, exec .routeRelease s = .next t ∧ same t ∧ t.fab.moves = [] ∧
        (t.ldir lk (dirFrom lk m.src)).sent.map (·.body) = w.sent.map (·.body) ++ m.held.map (·.body)) ∧
    (n < 24 → s.inp.n2 < 2 → (10 ^ 9 ≤ k.winFlits ∨ k.winSince + 10 ^ 6 ≤ s.now) → 10 ^ 6 ≤ k.winFlits →
      ((l.thr = 0xFFFFFFFF#32 ∨ k.winReplays * 10 ^ 9 ≤ l.thr.toNat * k.winFlits) →
        exec .replayWindowEnd s = .next (put { k with winSince := s.now, winFlits := 0, winReplays := 0 })) ∧
      (l.thr ≠ 0xFFFFFFFF#32 → l.thr.toNat * k.winFlits < k.winReplays * 10 ^ 9 → ∃ t, exec .replayWindowEnd s = .next t ∧
        (t.link n).evReplay = true ∧ (t.link n).st = l.st ∧ t.mem = s.mem))

/-! ### The host attachment -/

/-- A host write to a mailbox or an aperture is accepted whole into staging at its virtual address while 1 MiB has
room, else it waits with everything the host sends after it held, and it is dropped with WRERR where it crosses windows;
staged writes move in order to a stream's buffer of 4 MiB; a full buffer of 10 ms sets STALL; a reset of the link loses
what is pending; a cut group is applied to memory at one instant (R58, R60, R61, R63, R68). GO starts a stream at its
entry from IDLE or FAULT with its staging record zero, HALT stops it, its registers keep their values while it runs; the
registers of a notification queue; the close of a coalescing window and the unmasking of a vector send one message (R58,
R59, R65, R67); while staging is full no write to a register acts (R61). That the virtual address is formed at acceptance,
that a group once cut is still applied after a reset of the link, and the values a stream starts with beside its entry are
the model's choice (log entries 94, 95 and 59). -/
def Obligations.HostWritesAndStreams : Prop :=
  (∀ (s : State),
     let n := s.inp.n1
     let off := s.inp.n2
     let bs := s.inp.bytes
     let len := bs.length
     let x := s.strm n
     let room := groupBytes s.host.staging + len ≤ 2 ^ 20
     let staged (k va : Nat) : Out := .next { s with host := { s.host with staging := s.host.staging ++ [⟨k, va, bs⟩] } }
     let free : Prop := s.host.blocked = none
     (free → s.host.linkUp = true → 0 < len → room →
       (n = 2 → off < 2 ^ 26 → off % 2 ^ 23 + len ≤ 2 ^ 22 →
         exec .hostWriteTlp s = staged (off / 2 ^ 23) (((s.strm (off / 2 ^ 23)).mbx.toNat + off % 2 ^ 23) % 2 ^ 64)) ∧
       (n = 4 → off < 2 ^ 36 → off % 2 ^ 33 + len ≤ 2 ^ 33 →
         exec .hostWriteTlp s = staged (off / 2 ^ 33) (((s.strm (off / 2 ^ 33)).ap.toNat + off % 2 ^ 33) % 2 ^ 64)) ∧
       (n = 4 → off < 2 ^ 36 → 2 ^ 33 < off % 2 ^ 33 + len → ∃ t, exec .hostWriteTlp s = .next t ∧ t.mem = s.mem ∧
         (t.strm (off / 2 ^ 33)).wrerr = true ∧ t.host.staging = s.host.staging)) ∧
     (free → s.host.linkUp = true → 0 < len → ¬ room → n = 4 → off < 2 ^ 36 → off % 2 ^ 33 + len ≤ 2 ^ 33 →
       exec .hostWriteTlp s = .next { s with host := { s.host with
         blocked := some ⟨off / 2 ^ 33, ((s.strm (off / 2 ^ 33)).ap.toNat + off % 2 ^ 33) % 2 ^ 64, bs⟩ } }) ∧
     (s.host.linkUp = false → exec .hostWriteTlp s = .next s) ∧
     (s.host.blocked ≠ none → exec .hostWriteTlp s = .next s ∧ exec .hostRead s = .next s ∧ exec .registerWrite s = .next s) ∧
     (∀ w b, s.host.staging = [w] → s.host.blocked = some b → b.bytes.length ≤ 2 ^ 20 → w.stream = n →
       groupBytes x.ingress + w.bytes.length ≤ 2 ^ 22 → ∃ t, exec .ingressStagingMove s = .next t ∧ t.host.staging = [b] ∧
         t.host.blocked = none ∧ (t.strm n).ingress = x.ingress ++ [w]) ∧
     (∀ w rest, free → s.host.staging = w :: rest → w.stream = n → groupBytes x.ingress + w.bytes.length ≤ 2 ^ 22 →
       ∃ t, exec .ingressStagingMove s = .next t ∧ t.host.staging = rest ∧ (t.strm n).ingress = x.ingress ++ [w] ∧ t.mem = s.mem) ∧
     (∀ t0, x.fullSince = some t0 → (t0 + 10000 ≤ s.now → ∃ t : State, exec .ingressStall s = .next (t.postStream n 0x0304 0) ∧
         t.strm n = { x with stallBit := true, fullSince := none } ∧ t.mem = s.mem) ∧
       (s.now < t0 + 10000 → exec .ingressStall s = .next s)) ∧
     (∃ t, exec .pcieReset s = .next t ∧ t.host.staging = [] ∧ t.host.blocked = none ∧ t.host.linkUp = false ∧ t.mem = s.mem ∧
       t.host.cuts = s.host.cuts ∧ ∀ k, k < 8 → (t.strm k).ingress = [] ∧ ((t.strm k).lost = true ↔ (s.strm k).lost = true ∨ (s.strm k).ingress ≠ [] ∨
         ∃ w ∈ s.host.staging, w.stream = k)) ∧
     (s.host.linkUp = false → ∃ t, exec .pcieLinkUp s = .next t ∧ t.host.linkUp = true ∧ t.mem = s.mem ∧
       ∀ k, k < 8 → (t.strm k).tellLost = false) ∧
     (∀ c w pa leaf, s.host.cuts = [c] → c.who = s.inp.who → c.applied = false → c.tlps = [w] → 0 < w.bytes.length →
       w.va % 128 + w.bytes.length ≤ 128 → pa % 128 = w.va % 128 → (∀ i, i < w.bytes.length → s.hostStoreFault c.stream (w.va + i) = none) →
       s.resolve (hostView c.stream) .store w.va = .ok (.cell pa leaf) → Memory.wf s.mem = true →
       s.mergeFault pa w.bytes.length leaf = none → s.bankHeld (pa / 128) = false →
       (∀ a, leaf = some a → a + 6 < pa ∨ pa + w.bytes.length ≤ a + 6) →
       ∃ t, exec .hostGroupApplied s = .next t ∧ (∀ i, (h : i < w.bytes.length) → Memory.get t.mem (pa + i) = w.bytes[i]) ∧
         (∀ y, y < pa ∨ pa + w.bytes.length ≤ y → (∀ a, leaf = some a → y ≠ a + 6) → Memory.get t.mem y = Memory.get s.mem y) ∧
         (s.waitsHwin c.who = true → ∃ time, t.host.cuts = [{ c with applied := true, time := time }] ∧
           (s.line (pa / 128)).rts < time) ∧ (s.waitsHwin c.who = false → t.host.cuts = []))) ∧
  (∀ (s : State),
     let n := s.inp.n1
     let x := s.strm n
     let v := s.inp.v
     let q := s.nq n
     let m := s.msix n
     let put (y : Stream) : Out := .next (s.setStrm n y)
     let log := (v.extractLsb' 26 4).toNat
     let win := (v.extractLsb' 0 10).toNat
     let quiet := ∀ k, k < 8 → (s.strm k).backlog = []
     let free : Prop := s.host.full = false
     (s.host.full = true → ∀ i ∈ ([.registerWrite, .strmctlGo, .strmctlHalt, .streamRegWrite, .nqbaseWrite, .nqctlWrite, .nqheadWrite,
       .msixVectorUnmask] : List Instr), exec i s = .next s) ∧
     (free → (x.st = .idle ∨ x.st = .fault) → ∃ t, exec .strmctlGo s = .next t ∧ (t.strm n).st = .run ∧
       (t.seq n).sc.pc = x.entry.extractLsb' 0 52 ∧ (t.seq n).sc.pend = [] ∧ (t.seq n).staging = 0#2048 ∧
       (t.seq n).sc.x = (s.seq n).sc.x ∧ t.mem = s.mem) ∧
     (x.st = .run ∨ x.st = .wait → exec .strmctlGo s = .next s) ∧
     (free → ∃ t, exec .strmctlHalt s = .next t ∧ (t.strm n).st = .idle ∧ (t.seq n).sc.pc = (s.seq n).sc.pc ∧ t.mem = s.mem) ∧
     (free → (x.st = .idle ∨ x.st = .fault) →
       (s.inp.n2 = 0x08 → exec .streamRegWrite s = put { x with entry := v }) ∧
       (s.inp.n2 = 0x10 → v.extractLsb' 0 22 = 0#22 → exec .streamRegWrite s = put { x with mbx := v }) ∧
       (s.inp.n2 = 0x18 → v.extractLsb' 0 31 = 0#31 → exec .streamRegWrite s = put { x with ap := v })) ∧
     (free → (x.st = .run ∨ x.st = .wait) → s.inp.n2 = 0x08 ∨ s.inp.n2 = 0x10 ∨ s.inp.n2 = 0x18 →
       exec .streamRegWrite s = put { x with refused := true }) ∧
     (free → q.en = false → exec .nqbaseWrite s = .next (s.setNq n { q with base := v &&& ~~~0xFFF#64 })) ∧
     (q.en = true → exec .nqbaseWrite s = .next s) ∧
     (free → quiet → log ≤ 12 → win ≤ 1000 → (q.en = true → log = q.logSize) → exec .nqctlWrite s = .next (s.setNq n { q with
       en := v.getLsbD 31, ovf := q.ovf && !v.getLsbD 30, logSize := log, window := win })) ∧
     (13 ≤ log ∨ 1000 < win → exec .nqctlWrite s = .next s) ∧
     (free → quiet → let h := v.toNat % 2 ^ 32
       ((q.tail + 2 ^ 32 - h) % 2 ^ 32 ≤ 2 ^ (q.logSize + 4) → exec .nqheadWrite s = .next (s.setNq n { q with head := h })) ∧
       (2 ^ (q.logSize + 4) < (q.tail + 2 ^ 32 - h) % 2 ^ 32 → exec .nqheadWrite s = .next s)) ∧
     (∀ c, m.closes = some c → c ≤ s.now → ∃ t, exec .msixWindowClose s = .next t ∧ (t.msix n).closes = none ∧
       (m.masked = false → t.host.messages = s.host.messages ++ [n]) ∧ (m.masked = true → (t.msix n).pending = true ∧ t.host.messages = s.host.messages)) ∧
     (free → ∃ t, exec .msixVectorUnmask s = .next t ∧ (t.msix n).masked = false ∧ (t.msix n).pending = false ∧
       t.host.messages = if m.masked && m.pending then s.host.messages ++ [n] else s.host.messages))

/-- A host read answers with the bytes of memory or of the registers, and aborts where it crosses windows; writes of the
registers that have no event of their own take effect, and a reserved value is discarded (R8, R9, R56, R60), all while
staging is not full and no write waits for room in it (R61). -/
def Obligations.HostReadsAndRegisters : Prop :=
  ∀ (s : State), s.host.full = false →
    let n := s.inp.n1
    let off := s.inp.n2
    let len := s.inp.n3
    let v := s.inp.v
    (s.host.linkUp = false → exec .hostRead s = .next s) ∧
    (s.host.linkUp = true → n = 0 → off = 0 → len = 4 →
      exec .hostRead s = .next { s with host := { s.host with readOut := some [0x40#8, 0x06#8, 0x01#8, 0x01#8] } }) ∧
    (s.host.linkUp = true → n = 4 → off < 2 ^ 36 → 2 ^ 33 < off % 2 ^ 33 + len →
      exec .hostRead s = .next { s with host := { s.host with readOut := none } }) ∧
    (∀ va pa, s.host.linkUp = true → n = 4 → off < 2 ^ 36 → 0 < len → off % 2 ^ 33 + len ≤ 2 ^ 33 → s.host.staging = [] →
      s.host.cuts = [] → (s.strm (off / 2 ^ 33)).ingress = [] → va = ((s.strm (off / 2 ^ 33)).ap.toNat + off % 2 ^ 33) % 2 ^ 64 →
      (∀ i, i < len → va + i < 13 * 2 ^ 48 ∧ s.rowHeld ((pa + i) / 128) = false ∧
        ∃ leaf, s.resolve (hostView (off / 2 ^ 33)) .load (va + i) = .ok (.cell (pa + i) leaf) ∧ s.dataFault (pa + i) leaf = none) →
      ∃ t, exec .hostRead s = .next t ∧ t.mem = s.mem ∧ t.cores = s.cores ∧
        t.host.readOut = some ((List.range len).map (fun i => Memory.get s.mem (pa + i)))) ∧
    (n = 0 → off = 0x1008 → exec .registerWrite s = .next { s with host := { s.host with evtVec := v.setWidth 6 } }) ∧
    (n = 0 → off = 0x10108 → exec .registerWrite s = .next { s with pow := { s.pow with refused := s.pow.refused && !v.getLsbD 30 } }) ∧
    (n = 0 → off = 0x21800 → let ms := (v.extractLsb' 0 10).toNat
      (1 ≤ ms → ms ≤ 1000 → exec .registerWrite s = .next { s with fab := { s.fab with auditMs := ms } }) ∧
      (ms = 0 ∨ 1000 < ms → exec .registerWrite s = .next s)) ∧
    (n = 0 → off = 0 → exec .registerWrite s = .next s) ∧
    (∀ k, k < 8 → n = 2 → off = k * 2 ^ 23 + 0x400024 → exec .registerWrite s =
      .next (s.setStrm k { s.strm k with errVec := v.setWidth 6 }))

/-- SEAL_GO holds the pages of the image and begins its check, SEAL_COMPLETE answers with the refusal, or seals the leaves
and logs the image's hash; ATTEST_GO takes the nonce and the buffer, ATTEST_DONE writes the signed report (R71, R72, R203). Every
page that the image touches is held, and no other. That the image is read for its check at GO, and that an empty image, of
SEALLEN 0, holds no page, is the model's choice (log entries 37 and 123). -/
def Obligations.SealingAndAttestation : Prop :=
  ∀ (s : State),
    let q := s.host.sealer
    let a := s.host.att
    let free : Prop := s.host.full = false
    (free → q.req = none → ∃ t, exec .sealGo s = .next t ∧ t.mem = s.mem ∧ t.host.sealer.req = some (q.addr, q.len, q.ctx) ∧
      t.host.sealer.done = false ∧ t.sealSet = s.sealSet ∧
      let st := (q.ctx.extractLsb' 0 3).toNat
      ∀ k, k ∈ t.host.sealer.hold ↔
        ∃ i l, 2 ^ 19 * i < q.len.toNat ∧ t.leafFor [hubTlb st] st (q.addr.toNat + i * 2 ^ 19) = some l ∧ k ∈ l.granules) ∧
    (q.req ≠ none → exec .sealGo s = .next s) ∧
    (∀ addr len ctx code off, q.req = some (addr, len, ctx) → q.verdict = some (code, off) → ∃ t, exec .sealComplete s = .next t ∧
      t.mem = s.mem ∧ t.sealSet = s.sealSet ∧ t.host.sealer.code = code ∧ t.host.sealer.off = off ∧ t.host.sealer.done = true ∧
      t.host.sealer.hold = [] ∧ t.host.att = a) ∧
    (∀ addr len ctx, q.req = some (addr, len, ctx) → q.verdict = none →
      let st := (ctx.extractLsb' 0 3).toNat
      (s.imageBytes st addr.toNat len.toNat = q.seen → ∃ t, exec .sealComplete s = .next t ∧ t.host.sealer.code = q.code ∧
        t.host.sealer.done = true ∧ t.host.sealer.hash = Sha.sha256 q.seen ∧
        (∀ l ∈ s.imageLeaves st addr.toNat len.toNat, ∀ k ∈ l.granules, k ∈ t.sealSet) ∧
        t.host.att.chain = Sha.sha256 (a.chain ++ [if ctx.getLsbD 8 then 4#8 else 3#8, 0#8, 0#8, 0#8] ++ Sha.sha256 q.seen)) ∧
      (s.imageBytes st addr.toNat len.toNat ≠ q.seen → ∃ t, exec .sealComplete s = .next t ∧ t.host.sealer.code = 0x0E ∧
        t.sealSet = s.sealSet ∧ t.mem = s.mem)) ∧
    (free → a.req = none → exec .attestGo s = .next { s with host := { s.host with att := { a with req := some (a.nonce, a.buf) } } }) ∧
    (∀ nonce buf, a.req = some (nonce, buf) → ∃ t : State, exec .attestDone s = .next (t.post 0x0302 0) ∧ t.host.att = { a with req := none } ∧
      t.mem = s.mem ∧ (Memory.wf s.host.mem = true →
        BytesAre s.host.mem t.host.mem buf.toNat (s.report nonce ++ Config.sign (s.report nonce))))

/-- Boot goes on by phases: it fails where no firmware verifies, where H0 fails its self-test, and where a record it needs
is refused or missing; else it begins bring-up, in which the rails ramp, the links train, the dies that fail are gated and
the roots are written, and reaches READY once the rails stand and no link trains; the power inputs keep what the always-on
domain holds, casks and the context roots among it, and auxiliary power lost loses it (R16, R69, R70, R200, R215, R222). What
lost memory reads as afterwards, and the level from which a rail ramps at bring-up, are the model's choice (log entries 97
and 105). -/
def Obligations.BootAndPower : Prop :=
  ∀ (s : State),
    let b := s.host.boot
    let fails (code : Nat) : Prop := ∃ t, exec .deviceStart s = .next t ∧ t.host.boot.phase = 15 ∧ t.host.boot.fail = code ∧
      t.mem = s.mem
    (b.phase = 0 → b.aux = true →
      (b.fwA.ok = false → b.fwB.ok = false → fails 1) ∧
      ((b.fwA.ok = true ∨ b.fwB.ok = true) → s.inp.n1 = 1 → fails 5) ∧
      ((b.fwA.ok = true ∨ b.fwB.ok = true) → s.inp.n1 ≠ 1 → ∃ t, exec .deviceStart s = .next t ∧ t.host.boot.phase = 1 ∧
        t.host.boot.slotB = !b.fwA.ok ∧ t.host.boot.fail = 0 ∧ t.tick = 0 ∧ t.mem = s.mem)) ∧
    (b.phase = 1 → b.aux = true →
      (b.records = [] → fails 4) ∧
      (∀ r, b.records = [r] → recordKind r ∈ [1, 5, 6] → recordCode r ≠ 0 → fails (recordCode r)) ∧
      ((∀ k ∈ [1, 5, 6], (∃ r ∈ b.records, recordKind r = k) ∧ ∀ r ∈ b.records, recordKind r = k → recordCode r = 0) →
        ∃ t, exec .deviceStart s = .next t ∧ t.host.boot.phase = 2 ∧ t.mem = s.mem)) ∧
    (b.phase = 2 → b.aux = true → ∃ t, exec .deviceStart s = .next t ∧ t.host.boot.phase = 3 ∧ t.mem = s.mem ∧
      t.pkg.vh.busy = true ∧ t.pkg.vl.busy = true ∧ t.pkg.vh.present s.now = 0 ∧ t.pkg.vl.present s.now = 0 ∧
      780 ≤ t.pkg.vh.target ∧ t.pkg.vh.target ≤ 920 ∧ 550 ≤ t.pkg.vl.target ∧ t.pkg.vl.target ≤ 700 ∧
      (∀ d ∈ s.inp.nums, d < 10 → (t.die d).power = .gated) ∧
      (s.inp.nums = [] → ∀ l, l < 24 → (t.link l).st = if (usable b.records 3).isSome then .retrain else .down) ∧
      (s.inp.bytes.length = 64 → ∀ k, k < 8 → (t.ctx k).root = BitVec.ofNat 64 (fieldAt s.inp.bytes (8 * k) 8))) ∧
    (b.phase = 3 → s.broughtUp = true → ∃ t, exec .bootReady s = .next t ∧ t.host.boot.phase = 4 ∧ t.mem = s.mem ∧
      t.host.att.log ≠ []) ∧
    (b.phase = 3 → s.broughtUp = false → exec .bootReady s = .next s) ∧
    (b.aux = false → ∃ t, exec .auxPowerOn s = .next t ∧ t.host.boot.aux = true ∧ t.mem = s.mem ∧
      ∀ e ∈ s.health.keys, e.1 ∈ t.health.tagBad) ∧
    (∃ t, exec .auxPowerOff s = .next t ∧ t.host.boot.aux = false ∧ t.pow.fkey = none ∧ t.pow.fkeyLock = false ∧ t.pow.maxSeq = 0 ∧
      t.kept = [] ∧ (∀ k, (t.ctx k).root = 0#64) ∧ (∀ k ∈ t.tab.tasks, ∀ c, k.cask = some c → c.area = false) ∧
      (∀ x, 16 * 2 ^ 40 ≤ x → x < 20 * 2 ^ 40 → Memory.get t.mem x = 0#8) ∧
      ∀ x, (x < 16 * 2 ^ 40 ∨ 20 * 2 ^ 40 ≤ x) → Memory.get t.mem x = Memory.get s.mem x) ∧
    (∃ t, exec .mainPowerOff s = .next t ∧ t.host.boot.phase = 0 ∧ t.host.boot.main = false ∧ t.host.boot.aux = b.aux ∧
      t.host.boot.records = b.records ∧ t.host.boot.fwA = b.fwA ∧ t.host.boot.fwB = b.fwB ∧ t.kept = s.kept ++ s.areaCasks ∧ (∀ k, (t.ctx k).root = (s.ctx k).root) ∧
      t.pow.fkey = s.pow.fkey ∧ t.pow.fkeyLock = s.pow.fkeyLock ∧ t.pow.maxSeq = s.pow.maxSeq ∧
      t.cores = State.reset.cores ∧ (∀ x, 16 * 2 ^ 40 ≤ x → x < 20 * 2 ^ 40 → Memory.get t.mem x = Memory.get s.mem x) ∧
      ∀ x, (x < 16 * 2 ^ 40 ∨ 20 * 2 ^ 40 ≤ x) → Memory.get t.mem x = 0#8)

/-! ### Tasks, cores, engines and homes -/

/-- A round of the dispatchers places the head of the ready order if it fits; a leader issues its next slab; a core fires
its next point at its image with its argument; a missing heartbeat counts, a die lost is fenced; a task that is over leaves
the table and its bays are free (R82, R85, R87, R88, R92, R100). -/
def Obligations.TasksAndDies : Prop :=
  ∀ (s : State),
    let d := s.inp.n1
    (∀ t rest, s.readyOrder = t :: rest → s.task t.id = some t → t.cask = none → s.fits t = true →
      (s.tab.drainRule = none ∨ s.tab.drainRule = some t.id) →
      ∃ u x, exec .dispatch s = .next u ∧ u.task t.id = some x ∧ x.st = .placed) ∧
    (∀ t, s.task d = some t → t.st = .placed → t.freeze = none → t.stop = false →
      let k := nextSlab t.slabs t.slabs.length t.next
      let l := k % rNlbay t.rcd
      k < slabCount t.rcd → (t.slabs.filter (fun sl => sl.k % rNlbay t.rcd == l && !sl.done)).length < 2 →
      ∃ u x, exec .slabIssue s = .next u ∧ u.task d = some x ∧ x.next = k + 1 ∧ u.mem = s.mem ∧ u.cores = s.cores ∧
        x.slabs = t.slabs ++ [{ k := k, die := (s.bayOf d l).map dieOfBay }]) ∧
    (∀ t p, s.firesNext d = some (t, p) → ∃ u x, exec .pointFire s = .next u ∧ (u.core d).point = some (t.id, p) ∧
      (u.core d).pt.sc.pc = BitVec.ofNat 52 (rVimg t.rcd (oVariant (t.opt t.ent))) ∧
      (u.core d).pt.sc.x = (Vector.replicate 32 0#64).set 1 (BitVec.ofNat 64 (rcdField t.rcd 0x98 8)) ∧
      (u.core d).frame = false ∧ (u.core d).peg = (u.core d).pt ∧ u.mem = s.mem ∧ (∀ m, m ≠ d → u.core m = s.core m) ∧
      u.task t.id = some x ∧ ∀ y ∈ t.fr.flight, y ∈ x.fr.flight) ∧
    (d < 10 → (s.die d).power = .on → (s.die d).lost = false →
      ((s.die d).beatAt ≠ some (s.now / 10) → ∃ u, exec .heartbeat s = .next u ∧ u.mem = s.mem ∧
        (u.die d).missed = (if (s.die d).beat then 0 else (s.die d).missed + 1) ∧ (u.die d).beat = false ∧ ∀ e, e ≠ d → u.die e = s.die e) ∧
      (3 ≤ (s.die d).missed → ∃ u, exec .dieLost s = .next u ∧ (u.die d).lost = true ∧ (u.die d).missed = 0 ∧
        ∀ e, e ≠ d → u.die e = s.die e)) ∧
    (∀ t, s.task d = some t → s.taskOver t = true → s.mayPublish t = true →
      s.pkg.mgmt.heldCmds = [] → s.pow.gateNext = [] → d ∉ s.pow.waitTasks →
      ∃ u, exec .taskComplete s = .next u ∧ u.task d = none ∧ ∀ pb, (u.bay pb).bound.map Prod.fst ≠ some d)

/-- An implicit peg commits the state of a core; a peg stalled for more than 1 ms traps with 0x50, but in step 2 of a freeze
the core stands at its previous peg; the watchdog abandons the point; a bay
whose quantum has ended is asked to leave, and leaves; a freeze that has come to its end parks its task with the cask; data
and answers that arrive, wake events and broadcasts end their waits (R139, R140, R148, R152, R164, R244, R246, R320). -/
def Obligations.CoreEvents : Prop :=
  ∀ (s : State),
    let n := s.inp.n1
    let c := s.core n
    -- a core's registers are those of its peg
    let atPegOf (c : Core) (g : Regs) : Prop := c.pt = { g with sc := { g.sc with just := 0 } }
    (s.issuing n = true → c.frame = false → s.pegGate n = .free →
      (c.async = [] → c.rotate = false → c.wait ≠ .hwin → c.pressed (((s.bundleOps n).map storeLines).sum) = true →
        ∃ u, exec .implicitPeg s = .next u ∧ (u.core n).withheld = [] ∧ (u.core n).peg = (u.core n).pt ∧
          (u.core n).wait = .none ∧ (u.core n).frozen = false ∧ (u.core n).point = c.point) ∧
      (c.async = [] → c.rotate = true →
        ∃ u, exec .implicitPeg s = .next u ∧ (u.core n).withheld = [] ∧ atPegOf (u.core n) (u.core n).peg ∧
          (u.core n).frozen = true ∧ (u.core n).point = c.point)) ∧
    (c.wait = .peg → 100000 < c.stallTicks →
      let inStep2 := s.inFreeze n && c.async.any (fun a => a.kind == .preempt || a.kind == .curtail)
      (inStep2 = false → ∃ u, exec .pegStall s = .next u ∧ (u.core n).trapCause = 0x50 ∧ (u.core n).frame = true ∧
        (u.core n).trapAddr = c.pt.sc.pc ∧ atPegOf (u.core n) c.peg ∧ (u.core n).withheld = [] ∧ u.mem = s.mem) ∧
      (inStep2 = true → (∀ a ∈ c.async, a.kind ≠ .cancel) → ∃ u, exec .pegStall s = .next u ∧ (u.core n).frozen = true ∧
        atPegOf (u.core n) c.peg ∧ (u.core n).withheld = [] ∧ u.mem = s.mem)) ∧
    (c.wait ≠ .peg ∨ c.stallTicks ≤ 100000 → exec .pegStall s = .next s) ∧
    (∀ id p t, s.issuing n = true → c.wdog.toNat * 100000 ≤ c.wdogTicks → c.point = some (id, p) → s.task id = some t →
      ∃ u x, exec .watchdogExpire s = .next u ∧ (u.core n).point = none ∧ u.task id = some x ∧ x.stop = true ∧
        x.code = some (t.code.getD 4) ∧ u.mem = s.mem) ∧
    (∀ id l t, (s.bay n).bound = some (id, l) → s.task id = some t → t.freeze = none →
      (t.st = .placed → (s.surplus t).contains n = false → ((s.bay n).since + rRotq t.rcd ≤ s.now ∨ s.bayAwaits n = true) →
        (s.nextIn t).isSome = true → ∃ u, exec .rotationQuantumEnd s = .next u ∧ ∀ m ∈ coresOfBay n, (u.core m).rotate = true) ∧
      ((∀ m ∈ coresOfBay n, (s.core m).rotate = true) → s.mayLeave n = true →
        ((s.surplus t).contains n = true → ∃ u, exec .bayRotateComplete s = .next u ∧ (u.bay n).bound = none ∧
          ∃ r ∈ u.rotated, r.task = id ∧ r.lbay = l) ∧
        ((s.surplus t).contains n = false → ∃ u, exec .bayRotateComplete s = .next u ∧
          ((u.bay n).bound = none ∨ ∃ k, (u.bay n).bound = some (id, k) ∧ t.hasWork k = true)))) ∧
    (∀ t f, s.task n = some t → t.freeze = some f → s.freezeReady t f = true → t.cancelled = false → t.code = none →
      f.outs = [] → s.pkg.mgmt.heldCmds = [] → s.fab.drains = [] → s.pow.waitTasks = [] → s.pow.gateNext = [] →
      (∀ y ∈ s.tab.tasks, y.id ≠ n → y.freeze = none) → (∀ d, d < 10 → (s.die d).power ≠ .gating) →
      let h := s.harvestTask t
      let k := h.1.assemble t f h.2
      caskLen t k ≤ f.room → ∃ u x, exec .freezeComplete s = .next u ∧ u.task n = some x ∧ x.st = .parked ∧ x.cask = some k ∧
        x.freeze = none ∧ ∀ pb, (u.bay pb).bound.map Prod.fst ≠ some n) ∧
    (∃ u, exec .loadDataArrive s = .next u ∧ (u.core n).pt.sc.pend = arriveData c.pt.sc.pend ∧
      (u.core n).fr.pend = arriveData c.fr.pend ∧ (u.core n).wait = (if c.wait = .late then .none else c.wait) ∧
      u.mem = s.mem ∧ ∀ m, m ≠ n → u.core m = s.core m) ∧
    (∃ u, exec .remoteAnswerArrive s = .next u ∧ (u.seq n).sc.pend = arriveData (s.seq n).sc.pend ∧
      (u.seq n).wait = (if (s.seq n).wait = .late then .none else (s.seq n).wait) ∧ u.mem = s.mem ∧ u.cores = s.cores) ∧
    (∀ g y, (c.wait = .gauge g true y → ∃ u, exec .gaugeWake s = .next u ∧ (u.core n).wait = .none ∧ (u.core n).woken = true ∧
        u.mem = s.mem) ∧
      (c.wait = .gauge g false y → exec .gaugeWake s = .next s)) ∧
    (∀ g, (c.wait = .ticket g true → ∃ u, exec .ticketBroadcast s = .next u ∧ (u.core n).wait = .none ∧ u.mem = s.mem) ∧
      (c.wait = .ticket g false → exec .ticketBroadcast s = .next s)) ∧
    (c.wait = .queue → (∀ i ∈ s.bundleOps n, State.queueWaitMet { s with focus := .core n } i = true) →
      ∃ u, exec .queueWaitComplete s = .next u ∧ (u.core n).wait = .none ∧ u.mem = s.mem)

/-- The next unit of a CPY lands whole, from source units each read once, and is counted; a CPY that has moved all its bytes
ends with code 0, one of more than 2^40 bytes with DESC; a cancelled command ends with 0x8000 and writes nothing; a shadow
plane's load that its call has left running ends; a call whose cycles have reached its depth ends with DEPTH and its banks
cleared, but not before, nor while the core is frozen (R175, R190, R198, R224, R235, R375, R395, R403). -/
def Obligations.EngineEvents : Prop :=
  ∀ (s : State),
    let n := s.inp.n1
    let slotFree (u : State) (k : Copy) (code done : Nat) : Prop :=
      (∀ j ∈ (u.getEng s.inp.who []).copies, j.slot ≠ k.slot) ∧
      find? (u.getEng s.inp.who []).last k.slot = some ⟨k.handle, code, done⟩ ∧ u.mem = s.mem
    (∀ e k, s.inp.nums = [] → s.inpCopy = some (e, k) → (e.copies.map (·.slot)).Nodup → k.op = 0 → k.hasGauge = false →
      k.cancelling = false → k.failing = none → k.owed = 0 → k.shadowBytes = [] → (s.ctx k.stream).bufs = [] →
      let i := k.done
      let a := addr64 k.rb i
      let m := min (k.rl.toNat - i) (128 - a % 128)
      let srcs := (List.range m).map (fun j => addr64 k.ra (i + j : Nat))
      (∀ s1 k1 pa leaf, k.rl.toNat ≤ 2 ^ 40 → i < k.rl.toNat → s.fetchUnits k srcs = .ok (s1, k1) →
        (∀ x ∈ srcs, find? k1.bads x = none) → s1.engineWaits k.view a = false →
        s1.resolveRaw k.view .store a = .ok (.cell pa leaf) → s1.bankHeld (pa / 128) = false →
        s1.mergeFault pa m leaf = none → pa % 128 = a % 128 → Memory.wf s.mem = true →
        ∃ u, exec .destinationUnitWritten s = .next u ∧
          (∀ j, (h : j < srcs.length) → Memory.get u.mem (pa + j) = k1.byteAt srcs[j]) ∧
          (∀ x, (x < pa ∨ pa + m ≤ x) → leaf.map (· + 6) ≠ some x → Memory.get u.mem x = Memory.get s.mem x) ∧
          ∃ j ∈ (u.getEng s.inp.who []).copies, j.slot = k.slot ∧ j.done = k.done + m) ∧
      (k.rl.toNat ≤ 2 ^ 40 → i = k.rl.toNat → ∃ u, exec .copyComplete s = .next u ∧ slotFree u k 0 i) ∧
      (2 ^ 40 < k.rl.toNat → ∃ u, exec .copyComplete s = .next u ∧ slotFree u k ecDesc i)) ∧
    (∀ k, s.inp.nums = [] → k ∈ (s.getEng s.inp.who []).copies → ((s.getEng s.inp.who []).copies.map (·.slot)).Nodup →
      k.slot = n → k.cancelling = true → k.owed = 0 → ∃ u, exec .cancelAck s = .next u ∧ slotFree u k 0x8000 k.done) ∧
    ((s.core n).mx.loading = true → (s.core n).mx.call = none → (s.core n).wait ≠ .late → ∃ u, exec .shadowLoadDone s = .next u ∧ (u.core n).mx.loading = false ∧
      (u.core n).mx.loaded = true ∧ (u.core n).mx.loadLeft = 0 ∧ u.mem = s.mem) ∧
    (∀ c, (s.core n).mx.call = some c → (s.core n).mx.queued = none → c.ending = none → (s.core n).depthOf c ≤ c.cycles →
      (s.core n).wait ≠ .late → (s.core n).ending = false →
      (let j : State := { s with focus := .jig n }
       ∀ pa, j.wordCell { j.view with engine := true } (c.mp.get 7) 32 = .ok pa → j.gaugeBusy (some n) pa = false) →
      ∃ u, exec .jigDepthExpire s = .next u ∧
      (u.core n).mx.call = none ∧ (u.core n).mx.lastCode = ecDepth ∧ (u.core n).mx.bank0 = {} ∧ (u.core n).mx.bank1 = {} ∧
      u.focus = s.focus) ∧
    (∀ c, (s.core n).mx.call = some c → exec .shadowLoadDone s = .next s ∧
      (c.cycles < (s.core n).depthOf c → exec .jigDepthExpire s = .next s)) ∧
    ((s.core n).wait = .late → exec .shadowLoadDone s = .next s ∧ exec .jigDepthExpire s = .next s)

/-- A line's home serves reads, ownership and no-return atomics; the owner gives up a line forwarded for; a write-back or a
reply frees the home for its queue; a bank's hold ends; a cycle of waiting cores rolls back the one with the highest
timestamp; each publication of TSFLOOR gives the largest timestamp issued up to 10 µs before it (R218, R223, R228, R230, R232, R234).
The lower bits of the details with which a write-back reports an error are the model's reading (log entry 73). -/
def Obligations.HomeRequests : Prop :=
  ∀ (s : State),
    let q := s.inp.n1
    let line := s.inp.n2
    let r := s.line line
    (q < 640 → s.inp.pairs = [] → isTier (128 * line) = true → s.bankHeld line = false → r.queue = [] →
      s.heldBy q line = none →
      (r.home = .idle → (∃ u, exec .homeRd s = .next u ∧ (u.line line).home = .idle ∧ u.mem = s.mem ∧ r.rts ≤ (u.line line).rts ∧
          (u.line line).wts = r.wts ∧ ∃ k ∈ (u.core q).l1, k.line = line ∧ k.wts = r.wts ∧ k.rts = (u.line line).rts ∧ k.data = s.lineData line) ∧
        (∃ u, exec .homeEx s = .next u ∧ (u.line line).home = .excl q ∧ u.mem = s.mem) ∧
        (∃ u, exec .homeUp s = .next u ∧ (u.line line).home = .excl q ∧ u.mem = s.mem) ∧
        (∀ a, (s.core q).nr.find? (fun a => a.pa / 128 == line) = some a → a.leaf = none → a.pa % 128 + a.width ≤ 128 →
          s.mergeFault a.pa a.width none = none → s.sealSet.contains (a.pa / 2 ^ 19) = false → Memory.wf s.mem = true → ∃ u, exec .homeNr s = .next u ∧ (u.core q).nr = (s.core q).nr.erase a ∧
            (u.line line).home = .idle ∧
            BytesAre s.mem u.mem a.pa (leBytes a.width (a.op.apply a.width (Memory.read s.mem a.pa a.width) a.operand)))) ∧
      (∀ o, r.home = .excl o → o ≠ q → ∃ u, exec .homeEx s = .next u ∧ (u.line line).home = .fetch o ⟨.ex, q, 0, none⟩ ∧
        (u.line line).fwd = some o ∧ u.mem = s.mem)) ∧
    (r.home = .excl q → r.queue = [] → (∀ w ∈ (s.core q).withheld, w.line ≠ line) → ∃ u, exec .homeWb s = .next u ∧
      (u.line line).home = .idle ∧ u.mem = s.mem) ∧
    (∀ o c hint leaf, r.home = .fetch o ⟨.ex, c, hint, leaf⟩ → r.fwd = none → r.queue = [] → s.bankHeld line = false → s.heldBy c line = none →
      c < 640 → isTier (128 * line) = true →
      ∃ u, exec .homeData s = .next u ∧ (u.line line).home = .excl c ∧ u.mem = s.mem) ∧
    (∀ o k, r.fwd = some o → r.home = .fetch o k → (∀ w ∈ (s.core o).withheld, w.line ≠ line) →
      ∃ u, exec .ownerFwd s = .next u ∧ (u.line line).fwd = none ∧ (∀ e ∈ (u.core o).l1, e.line ≠ line) ∧ u.mem = s.mem) ∧
    (∀ b fin arrivals, (s.stack q).hold? line = some (b, fin, arrivals) →
      (s.ns < fin → exec .bankHoldEnd s = .next s) ∧
      (fin ≤ s.ns → (∀ e ∈ s.lines, bankOfLine e.1 = some (q, line) → e.2.queue = []) →
        ∃ u, exec .bankHoldEnd s = .next u ∧ (u.stack q).hold? line = none ∧ u.mem = s.mem ∧
          (u.stack q).backoffNs = ((s.stack q).backoffNs + (arrivals.map (fun a => fin - a)).sum) % 2 ^ 64)) ∧
    (isTier (128 * q) = true →
      (s.dataFault (128 * q) none = none → ∃ u, exec .cacheWriteback s = .next u ∧ u.mem = s.mem ∧ u.host = s.host ∧ u.cores = s.cores) ∧
      (s.dataFault (128 * q) none = some 0x30 → ∃ u : State, exec .cacheWriteback s = .next (u.post 0x0901 (2 * 2 ^ 14)) ∧ u.mem = s.mem) ∧
      (s.dataFault (128 * q) none = some 0x31 → ∃ u : State, exec .cacheWriteback s = .next (u.post 0x0902 (2 ^ 14)) ∧ u.mem = s.mem)) ∧
    (s.waitCycle s.inp.nums = true → ∃ v ∈ s.inp.nums, exec .conflictRollback s = .next (s.modCore v Core.rollback) ∧
      ∀ m ∈ s.inp.nums, (s.core m).oldestWts < (s.core v).oldestWts ∨ ((s.core m).oldestWts = (s.core v).oldestWts ∧ m ≤ v)) ∧
    (s.tick % 1000 = 0 → s.floorAt < s.tick / 1000 → ∃ u, exec .tsfloorPublish s = .next u ∧
      u.tsfloor = max s.tsfloor (if s.tick / 1000 = s.floorAt + 1 then s.floorNext else s.wtsTop) ∧ u.floorNext = s.wtsTop ∧ u.floorAt = s.tick / 1000 ∧ u.mem = s.mem ∧ u.cores = s.cores)

/-! ### The invariant -/

/-- Memory keeps its one canonical form through every step of the machine, whatever the state: an instruction, an event, a
trap, an implicit peg, a stall. -/
def Obligations.StepKeepsMemoryForm : Prop :=
  ∀ (s t : State), Memory.wf s.mem = true → step s = .next t → Memory.wf t.mem = true

/-- Reset leaves memory with nothing listed, and the registers for which the spec gives a reset value at it: RMTHR 1,024 on
every stack (R214), AGELIM 16 on every command sequencer (R75), FRAMEENTRY 0 for every stream (R58); a core's registers
are those with which a point starts but for x1 and the pc (R82, R181, R182). Other values of reset are the model's choice
(log entries 5 and 6). -/
def Obligations.ResetState : Prop :=
  State.reset.mem = [] ∧ Memory.wf State.reset.mem = true ∧
  (∀ n, (State.reset.stack n).rmThr = 1024) ∧ (∀ n, (State.reset.seq n).agelim = 16#8) ∧
  (∀ n, (State.reset.strm n).frameEntry = 0#64) ∧
  (∀ n, (State.reset.core n).pt.sc.x = Vector.replicate 32 0#64 ∧ (State.reset.core n).pt.ar.fflags = 0#6 ∧
    (State.reset.core n).pt.lanes = 0#7 ∧ (State.reset.core n).pt.fmt = 6#4)
end

