-- ==== Sys2Proof/Laws/Cask.lean ====
section
/-! SUPPORT. The lengths of a cask's sections and of a cask, and the check of its signature (spec/07_casks.md R154 to
R163, R166). -/

namespace Sys2Proof.Machine

open Sys2Proof.Bits

@[simp] theorem length_leBytes (n v : Nat) : (leBytes n v).length = n := by
  induction n generalizing v with
  | zero => rfl
  | succ n ih => simp [leBytes, ih]

@[simp] theorem length_zeros (n : Nat) : (zeros n).length = n := List.length_replicate

/-- A length rounded up to 64 bytes. -/
def up64 (n : Nat) : Nat := n + (64 - n % 64) % 64

@[simp] theorem length_padTo (bs : List Byte) : (padTo 64 bs).length = up64 bs.length := by
  simp [padTo, up64]

/-- Parts of one length each. -/
theorem length_flatMap_const {α : Type} (l : List α) (f : α → List Byte) (n : Nat) (h : ∀ a, (f a).length = n) :
    (l.flatMap f).length = n * l.length := by
  simp [List.length_flatMap, h, Nat.mul_comm]

/-- A record of a logical core is 9,216 bytes and 272 for each pending entry, rounded up (R157, R158). -/
theorem length_regsBytes (i : Nat) (r : Bool) (g : Regs) :
    (regsBytes i r g).length = up64 (9216 + ((sortPend g.sc.pend).flatMap Pending.entries).flatten.length) := by
  simp only [regsBytes, length_padTo, List.length_append, length_leBytes, length_zeros,
    length_flatMap_const _ (fun v : W64 => leBytes 8 v.toNat) 8 (fun _ => length_leBytes ..),
    length_flatMap_const _ (fun v : VReg => leBytes 256 v.toNat) 256 (fun _ => length_leBytes ..),
    length_flatMap_const _ (fun e : Target => leBytes 8 (e.addr.toNat + boolN e.prepared)) 8 (fun _ => length_leBytes ..),
    length_flatMap_const _ (fun h : Queue => leBytes 4 h.base ++ leBytes 4 (256 * h.size) ++ leBytes 4 (256 * h.head)
      ++ leBytes 4 (256 * h.tail)) 16 (fun _ => by simp), Vector.length_toList]

/-- Sections placed one after another. -/
theorem length_layOut (n : Nat) (xs : List (List Byte)) :
    (layOut n xs).1.length = 16 * xs.length ∧ (layOut n xs).2.length = (xs.map (fun x => up64 x.length)).sum := by
  induction xs generalizing n with
  | nil => simp [layOut]
  | cons x xs ih =>
    have h := ih (n + (padTo 64 x).length)
    simp only [layOut, List.length_append, length_leBytes, length_padTo, List.length_cons, List.map_cons, List.sum_cons]
      at h ⊢
    omega

/-- The length of section 4 (R157). -/
theorem length_coresBytes (c : Cask) : (coresBytes c).length =
    (c.cores.map (fun e => up64 (9216 + ((sortPend e.2.2.1.sc.pend).flatMap Pending.entries).flatten.length)
      + e.2.2.2.length)).sum := by
  simp [coresBytes, List.length_flatMap, length_regsBytes]

/-- The length of a cask: header, directory, and its nine sections, each rounded up to 64 bytes (R154, R155). -/
theorem caskLen_eq (t : Task) (c : Cask) : caskLen t c =
    320 + up64 (taskBytes t c).length + up64 (frontierBytes t.fr t.rcd).length + up64 (mapBytes c).length
      + up64 (c.cores.map (fun e => up64 (9216 + ((sortPend e.2.2.1.sc.pend).flatMap Pending.entries).flatten.length)
          + e.2.2.2.length)).sum
      + up64 c.vault.flatten.length + up64 (swapsBytes c).length + up64 (intentsBytes c).length
      + up64 (ticketsBytes c).length + up64 (dirtyBytes c).length := by
  have h := length_layOut 192 (sectionsOf t c)
  simp only [caskLen, bodyBytes, List.length_append, length_padTo, h.1, h.2]
  simp [sectionsOf, length_coresBytes, up64]
  omega

/-! ### Keys, signatures and hashes (R154) -/

@[simp] theorem length_bytesOf {w : Nat} (n : Nat) (v : BitVec w) : (Config.bytesOf n v).length = n := by
  simp [Config.bytesOf]
@[simp] theorem length_identityKey : Config.identityKey.length = 64 := length_bytesOf ..
@[simp] theorem length_sign (msg : List Byte) : (Config.sign msg).length = 29792 := length_bytesOf ..

/-- A signature under the identity key passes the check of its own message (R166). -/
theorem verify_sign (msg : List Byte) : Config.verify 29792 Config.identityKey msg (Config.sign msg) = true := by
  simp [Config.verify, Config.sign]

@[simp] theorem length_block (h : List W32) (b : List Byte) : (Sha.block h b).length = 8 := rfl
theorem length_blocks (n : Nat) (h : List W32) (bs : List Byte) (h8 : h.length = 8) : (Sha.blocks n h bs).length = 8 := by
  induction n generalizing h bs with
  | zero => exact h8
  | succ n ih => exact ih _ _ (length_block h _)
@[simp] theorem length_sha256 (m : List Byte) : (Sha.sha256 m).length = 32 := by
  simp only [Sha.sha256, length_flatMap_const _ (fun w : W32 => (leBytes 4 w.toNat).reverse) 4 (fun _ => by simp)]
  rw [length_blocks _ _ _ rfl]

/-- The bytes of a cask: 128 of header and its body, and 64 of key and 29,792 of signature where it is signed (R154). -/
theorem length_caskBytes (t : Task) (c : Cask) (sign : Bool) :
    (caskBytes t c sign).length = caskLen t c + (if sign then 29856 else 0) := by
  cases sign <;> simp [caskBytes, caskLen, idMeasBytes] <;> omega

/-! ### Fields of the front of a byte string -/

theorem fieldAt_append {a b : List Byte} {o n : Nat} (h : o + n ≤ a.length) : fieldAt (a ++ b) o n = fieldAt a o n := by
  simp only [fieldAt, List.drop_append_of_le_length (by omega : o ≤ a.length)]
  rw [List.take_append_of_le_length (by simp; omega)]
theorem zeroAt_append {a b : List Byte} {o n : Nat} (h : o + n ≤ a.length) : zeroAt (a ++ b) o n = zeroAt a o n := by
  simp only [zeroAt, List.drop_append_of_le_length (by omega : o ≤ a.length)]
  rw [List.take_append_of_le_length (by simp; omega)]

/-- A signature is good for the message that its holder signed (R70, R114, R154). -/
@[simp] theorem verify_signature (n : Nat) (key msg : List Byte) : Config.verify n key msg (Config.signature n key msg) = true := by
  simp [Config.verify]
@[simp] theorem length_signature (n : Nat) (key msg : List Byte) : (Config.signature n key msg).length = n := length_bytesOf ..

end Sys2Proof.Machine
end

