-- ==== Sys2Proof/Laws/PerInstr.lean ====
section
/-! SUPPORT. What holds of every instruction as syntax: the form of its words (R268, R271, R272, R275,
R377). -/

namespace Sys2Proof.Laws.Form

/-- The words of an instruction have the form its class gives them: a step of the device has none; a
single-word op or a prefix has one word, whose bit 31 is B and whose kind is 00 or 10; a double-word op a
head of kind 01 and a tail; a micro-word one word with bit 31 zero. -/
def Statement (i : Instr) : Prop :=
  ∀ b, match encode b i with
    | [] => i.cls = 11
    | [w] => (i.cls ≤ 5 ∧ wordB w = b ∧ wordK w = 0) ∨ ((i.cls = 8 ∨ i.cls = 9) ∧ wordB w = b ∧ wordK w = 2)
        ∨ (i.cls = 10 ∧ wordB w = false)
    | [w, t] => i.cls ≤ 6 ∧ wordB w = b ∧ wordK w = 1 ∧ isTail t = true
    | _ => False

/-- A field of a word that lies in the low part. -/
theorem extract_append_low {n m : Nat} (x : BitVec n) (y : BitVec m) (s l : Nat) (h : s + l ≤ m) :
    (x ++ y).extractLsb' s l = y.extractLsb' s l := by
  ext i hi
  have : s + i < m := by omega
  simp [BitVec.getElem_extractLsb', BitVec.getLsbD_append, this]

/-- A field of a word that lies in the high part. -/
theorem extract_append_high {n m : Nat} (x : BitVec n) (y : BitVec m) (s l : Nat) (h : m ≤ s) :
    (x ++ y).extractLsb' s l = x.extractLsb' (s - m) l := by
  ext i hi
  have : ¬ s + i < m := by omega
  have e : s + i - m = s - m + i := by omega
  simp [BitVec.getElem_extractLsb', BitVec.getLsbD_append, this, e]

/-- A field that is the whole. -/
theorem extract_all {n : Nat} (x : BitVec n) : x.extractLsb' 0 n = x := by
  ext i hi; simp

/-- Bit 31 of an op word is B. -/
theorem wordB_opWord (b : Bool) (k : BitVec 2) (cl g : BitVec 3) (op : BitVec 6) (r : BitVec 17) :
    wordB (opWord b k cl g op r) = b := by
  simp only [wordB, opWord, BitVec.getLsbD_append]
  simp

/-- Bits 30 and 29 of an op word are K. -/
theorem wordK_opWord (b : Bool) (k : BitVec 2) (cl g : BitVec 3) (op : BitVec 6) (r : BitVec 17) :
    wordK (opWord b k cl g op r) = k.toNat := by
  simp (disch := omega) only [wordK, opWord, extract_append_low, extract_append_high, Nat.reduceSub, extract_all]

/-- Bit 31 of a prefix word is B. -/
theorem wordB_prefixWord (b : Bool) (k : BitVec 3) (r : BitVec 26) : wordB (prefixWord b k r) = b := by
  simp only [wordB, prefixWord, BitVec.getLsbD_append]
  simp

/-- A prefix word is of kind 10. -/
theorem wordK_prefixWord (b : Bool) (k : BitVec 3) (r : BitVec 26) : wordK (prefixWord b k r) = 2 := by
  simp (disch := omega) only [wordK, prefixWord, extract_append_low, extract_append_high, Nat.reduceSub, extract_all]
  rfl

/-- A tail word has B = 0 and kind 11. -/
theorem isTail_tailWord (e : BitVec 29) : isTail (tailWord e) = true := by
  have hb : wordB (tailWord e) = false := by
    simp only [wordB, tailWord, BitVec.getLsbD_append]
    simp
  have hk : wordK (tailWord e) = 3 := by
    simp (disch := omega) only [wordK, tailWord, extract_append_low, extract_append_high, Nat.reduceSub, extract_all]
    rfl
  simp [isTail, hb, hk]

/-- A single-word op. -/
theorem single {i : Instr} {cl g : BitVec 3} {op : BitVec 6} {r : BitVec 17}
    (h : ∀ b, encode b i = [opWord b 0#2 cl g op r]) (hc : i.cls ≤ 5) : Statement i := by
  intro b
  simp only [h b]
  exact .inl ⟨hc, wordB_opWord .., wordK_opWord ..⟩

/-- A double-word op. -/
theorem double {i : Instr} {cl g : BitVec 3} {op : BitVec 6} {r : BitVec 17} {e : BitVec 29}
    (h : ∀ b, encode b i = [opWord b 1#2 cl g op r, tailWord e]) (hc : i.cls ≤ 6) : Statement i := by
  intro b
  simp only [h b]
  exact ⟨hc, wordB_opWord .., wordK_opWord .., isTail_tailWord e⟩

/-- A prefix. -/
theorem pref {i : Instr} {pk : BitVec 3} {r : BitVec 26}
    (h : ∀ b, encode b i = [prefixWord b pk r]) (hc : i.cls = 8 ∨ i.cls = 9) : Statement i := by
  intro b
  simp only [h b]
  exact .inr (.inl ⟨hc, wordB_prefixWord .., wordK_prefixWord ..⟩)

/-- A micro-word. -/
theorem micro {i : Instr} (c : BitVec 5) {r : BitVec 27} (hk : c.getLsbD 4 = false)
    (h : ∀ b, encode b i = [c ++ r]) (hc : i.cls = 10) : Statement i := by
  intro b
  simp only [h b]
  exact .inr (.inr ⟨hc, by simp only [wordB, BitVec.getLsbD_append]; exact hk⟩)

/-- A step of the device. -/
theorem device {i : Instr} (h : ∀ b, encode b i = []) (hc : i.cls = 11) : Statement i := by
  intro b
  simp only [h b, hc]

theorem nop (g : BitVec 3) : Statement (.nop g) := single (fun _ => rfl) (show 0 ≤ 5 by decide)
theorem add (g : BitVec 3) (d : BitVec 5) (a : BitVec 5) (b : BitVec 5) : Statement (.add g d a b) := single (fun _ => rfl) (show 0 ≤ 5 by decide)
theorem sub (g : BitVec 3) (d : BitVec 5) (a : BitVec 5) (b : BitVec 5) : Statement (.sub g d a b) := single (fun _ => rfl) (show 0 ≤ 5 by decide)
theorem addi (g : BitVec 3) (d : BitVec 5) (a : BitVec 5) (i : BitVec 7) : Statement (.addi g d a i) := single (fun _ => rfl) (show 0 ≤ 5 by decide)
theorem mul (g : BitVec 3) (d : BitVec 5) (a : BitVec 5) (b : BitVec 5) : Statement (.mul g d a b) := single (fun _ => rfl) (show 0 ≤ 5 by decide)
theorem mulh (g : BitVec 3) (d : BitVec 5) (a : BitVec 5) (b : BitVec 5) : Statement (.mulh g d a b) := single (fun _ => rfl) (show 0 ≤ 5 by decide)
theorem mulhn (g : BitVec 3) (d : BitVec 5) (a : BitVec 5) (b : BitVec 5) : Statement (.mulhn g d a b) := single (fun _ => rfl) (show 0 ≤ 5 by decide)
theorem madd (g : BitVec 3) (d : BitVec 5) (a : BitVec 5) (b : BitVec 5) : Statement (.madd g d a b) := single (fun _ => rfl) (show 0 ≤ 5 by decide)
theorem div (g : BitVec 3) (d : BitVec 5) (a : BitVec 5) (b : BitVec 5) : Statement (.div g d a b) := single (fun _ => rfl) (show 0 ≤ 5 by decide)
theorem divn (g : BitVec 3) (d : BitVec 5) (a : BitVec 5) (b : BitVec 5) : Statement (.divn g d a b) := single (fun _ => rfl) (show 0 ≤ 5 by decide)
theorem rem (g : BitVec 3) (d : BitVec 5) (a : BitVec 5) (b : BitVec 5) : Statement (.rem g d a b) := single (fun _ => rfl) (show 0 ≤ 5 by decide)
theorem remn (g : BitVec 3) (d : BitVec 5) (a : BitVec 5) (b : BitVec 5) : Statement (.remn g d a b) := single (fun _ => rfl) (show 0 ≤ 5 by decide)
theorem andR (g : BitVec 3) (d : BitVec 5) (a : BitVec 5) (b : BitVec 5) : Statement (.andR g d a b) := single (fun _ => rfl) (show 0 ≤ 5 by decide)
theorem orR (g : BitVec 3) (d : BitVec 5) (a : BitVec 5) (b : BitVec 5) : Statement (.orR g d a b) := single (fun _ => rfl) (show 0 ≤ 5 by decide)
theorem xorR (g : BitVec 3) (d : BitVec 5) (a : BitVec 5) (b : BitVec 5) : Statement (.xorR g d a b) := single (fun _ => rfl) (show 0 ≤ 5 by decide)
theorem andi (g : BitVec 3) (d : BitVec 5) (a : BitVec 5) (i : BitVec 7) : Statement (.andi g d a i) := single (fun _ => rfl) (show 0 ≤ 5 by decide)
theorem ori (g : BitVec 3) (d : BitVec 5) (a : BitVec 5) (i : BitVec 7) : Statement (.ori g d a i) := single (fun _ => rfl) (show 0 ≤ 5 by decide)
theorem xori (g : BitVec 3) (d : BitVec 5) (a : BitVec 5) (i : BitVec 7) : Statement (.xori g d a i) := single (fun _ => rfl) (show 0 ≤ 5 by decide)
theorem shl (g : BitVec 3) (d : BitVec 5) (a : BitVec 5) (b : BitVec 5) : Statement (.shl g d a b) := single (fun _ => rfl) (show 0 ≤ 5 by decide)
theorem shr (g : BitVec 3) (d : BitVec 5) (a : BitVec 5) (b : BitVec 5) : Statement (.shr g d a b) := single (fun _ => rfl) (show 0 ≤ 5 by decide)
theorem sha (g : BitVec 3) (d : BitVec 5) (a : BitVec 5) (b : BitVec 5) : Statement (.sha g d a b) := single (fun _ => rfl) (show 0 ≤ 5 by decide)
theorem shli (g : BitVec 3) (d : BitVec 5) (a : BitVec 5) (i : BitVec 7) : Statement (.shli g d a i) := single (fun _ => rfl) (show 0 ≤ 5 by decide)
theorem shri (g : BitVec 3) (d : BitVec 5) (a : BitVec 5) (i : BitVec 7) : Statement (.shri g d a i) := single (fun _ => rfl) (show 0 ≤ 5 by decide)
theorem shai (g : BitVec 3) (d : BitVec 5) (a : BitVec 5) (i : BitVec 7) : Statement (.shai g d a i) := single (fun _ => rfl) (show 0 ≤ 5 by decide)
theorem minS (g : BitVec 3) (d : BitVec 5) (a : BitVec 5) (b : BitVec 5) : Statement (.minS g d a b) := single (fun _ => rfl) (show 0 ≤ 5 by decide)
theorem maxS (g : BitVec 3) (d : BitVec 5) (a : BitVec 5) (b : BitVec 5) : Statement (.maxS g d a b) := single (fun _ => rfl) (show 0 ≤ 5 by decide)
theorem minn (g : BitVec 3) (d : BitVec 5) (a : BitVec 5) (b : BitVec 5) : Statement (.minn g d a b) := single (fun _ => rfl) (show 0 ≤ 5 by decide)
theorem maxn (g : BitVec 3) (d : BitVec 5) (a : BitVec 5) (b : BitVec 5) : Statement (.maxn g d a b) := single (fun _ => rfl) (show 0 ≤ 5 by decide)
theorem clz (g : BitVec 3) (d : BitVec 5) (a : BitVec 5) : Statement (.clz g d a) := single (fun _ => rfl) (show 0 ≤ 5 by decide)
theorem popc (g : BitVec 3) (d : BitVec 5) (a : BitVec 5) : Statement (.popc g d a) := single (fun _ => rfl) (show 0 ≤ 5 by decide)
theorem mov (g : BitVec 3) (d : BitVec 5) (a : BitVec 5) : Statement (.mov g d a) := single (fun _ => rfl) (show 0 ≤ 5 by decide)
theorem movi (g : BitVec 3) (d : BitVec 5) (i : BitVec 12) : Statement (.movi g d i) := single (fun _ => rfl) (show 0 ≤ 5 by decide)
theorem movl (g : BitVec 3) (d : BitVec 5) (hi : BitVec 12) (lo : BitVec 29) : Statement (.movl g d hi lo) := double (fun _ => rfl) (show 0 ≤ 6 by decide)
theorem bext (g : BitVec 3) (d : BitVec 5) (a : BitVec 5) (b : BitVec 5) : Statement (.bext g d a b) := single (fun _ => rfl) (show 0 ≤ 5 by decide)
theorem bins (g : BitVec 3) (d : BitVec 5) (a : BitVec 5) (b : BitVec 5) : Statement (.bins g d a b) := single (fun _ => rfl) (show 0 ≤ 5 by decide)
theorem cmpeq (g : BitVec 3) (p : BitVec 2) (a : BitVec 5) (b : BitVec 5) : Statement (.cmpeq g p a b) := single (fun _ => rfl) (show 0 ≤ 5 by decide)
theorem cmpne (g : BitVec 3) (p : BitVec 2) (a : BitVec 5) (b : BitVec 5) : Statement (.cmpne g p a b) := single (fun _ => rfl) (show 0 ≤ 5 by decide)
theorem cmplt (g : BitVec 3) (p : BitVec 2) (a : BitVec 5) (b : BitVec 5) : Statement (.cmplt g p a b) := single (fun _ => rfl) (show 0 ≤ 5 by decide)
theorem cmple (g : BitVec 3) (p : BitVec 2) (a : BitVec 5) (b : BitVec 5) : Statement (.cmple g p a b) := single (fun _ => rfl) (show 0 ≤ 5 by decide)
theorem cmpltn (g : BitVec 3) (p : BitVec 2) (a : BitVec 5) (b : BitVec 5) : Statement (.cmpltn g p a b) := single (fun _ => rfl) (show 0 ≤ 5 by decide)
theorem cmplen (g : BitVec 3) (p : BitVec 2) (a : BitVec 5) (b : BitVec 5) : Statement (.cmplen g p a b) := single (fun _ => rfl) (show 0 ≤ 5 by decide)
theorem cmpeqi (g : BitVec 3) (p : BitVec 2) (a : BitVec 5) (i : BitVec 7) : Statement (.cmpeqi g p a i) := single (fun _ => rfl) (show 0 ≤ 5 by decide)
theorem cmplti (g : BitVec 3) (p : BitVec 2) (a : BitVec 5) (i : BitVec 7) : Statement (.cmplti g p a i) := single (fun _ => rfl) (show 0 ≤ 5 by decide)
theorem cmpgti (g : BitVec 3) (p : BitVec 2) (a : BitVec 5) (i : BitVec 7) : Statement (.cmpgti g p a i) := single (fun _ => rfl) (show 0 ≤ 5 by decide)
theorem pand (g : BitVec 3) (d : BitVec 3) (a : BitVec 3) (b : BitVec 3) : Statement (.pand g d a b) := single (fun _ => rfl) (show 0 ≤ 5 by decide)
theorem por (g : BitVec 3) (d : BitVec 3) (a : BitVec 3) (b : BitVec 3) : Statement (.por g d a b) := single (fun _ => rfl) (show 0 ≤ 5 by decide)
theorem pxor (g : BitVec 3) (d : BitVec 3) (a : BitVec 3) (b : BitVec 3) : Statement (.pxor g d a b) := single (fun _ => rfl) (show 0 ≤ 5 by decide)
theorem pandn (g : BitVec 3) (d : BitVec 3) (a : BitVec 3) (b : BitVec 3) : Statement (.pandn g d a b) := single (fun _ => rfl) (show 0 ≤ 5 by decide)
theorem pmovx (g : BitVec 3) (d : BitVec 5) : Statement (.pmovx g d) := single (fun _ => rfl) (show 0 ≤ 5 by decide)
theorem xmovp (g : BitVec 3) (a : BitVec 5) : Statement (.xmovp g a) := single (fun _ => rfl) (show 0 ≤ 5 by decide)
theorem fadd (g : BitVec 3) (d : BitVec 5) (a : BitVec 5) (b : BitVec 5) : Statement (.fadd g d a b) := single (fun _ => rfl) (show 0 ≤ 5 by decide)
theorem fsub (g : BitVec 3) (d : BitVec 5) (a : BitVec 5) (b : BitVec 5) : Statement (.fsub g d a b) := single (fun _ => rfl) (show 0 ≤ 5 by decide)
theorem fmul (g : BitVec 3) (d : BitVec 5) (a : BitVec 5) (b : BitVec 5) : Statement (.fmul g d a b) := single (fun _ => rfl) (show 0 ≤ 5 by decide)
theorem ffma (g : BitVec 3) (d : BitVec 5) (a : BitVec 5) (b : BitVec 5) : Statement (.ffma g d a b) := single (fun _ => rfl) (show 0 ≤ 5 by decide)
theorem fmin (g : BitVec 3) (d : BitVec 5) (a : BitVec 5) (b : BitVec 5) : Statement (.fmin g d a b) := single (fun _ => rfl) (show 0 ≤ 5 by decide)
theorem fmax (g : BitVec 3) (d : BitVec 5) (a : BitVec 5) (b : BitVec 5) : Statement (.fmax g d a b) := single (fun _ => rfl) (show 0 ≤ 5 by decide)
theorem fcmpeq (g : BitVec 3) (p : BitVec 2) (a : BitVec 5) (b : BitVec 5) : Statement (.fcmpeq g p a b) := single (fun _ => rfl) (show 0 ≤ 5 by decide)
theorem fcmplt (g : BitVec 3) (p : BitVec 2) (a : BitVec 5) (b : BitVec 5) : Statement (.fcmplt g p a b) := single (fun _ => rfl) (show 0 ≤ 5 by decide)
theorem fcmple (g : BitVec 3) (p : BitVec 2) (a : BitVec 5) (b : BitVec 5) : Statement (.fcmple g p a b) := single (fun _ => rfl) (show 0 ≤ 5 by decide)
theorem fcvt (g : BitVec 3) (d : BitVec 5) (a : BitVec 5) (sf : BitVec 4) (df : BitVec 4) (r : BitVec 3) (t : BitVec 2) : Statement (.fcvt g d a sf df r t) := double (fun _ => rfl) (show 0 ≤ 6 by decide)
theorem fclass (g : BitVec 3) (d : BitVec 5) (a : BitVec 5) : Statement (.fclass g d a) := single (fun _ => rfl) (show 0 ≤ 5 by decide)
theorem ldb (g : BitVec 3) (d : BitVec 5) (a : BitVec 5) (i : BitVec 7) : Statement (.ldb g d a i) := single (fun _ => rfl) (show 1 ≤ 5 by decide)
theorem ldbs (g : BitVec 3) (d : BitVec 5) (a : BitVec 5) (i : BitVec 7) : Statement (.ldbs g d a i) := single (fun _ => rfl) (show 1 ≤ 5 by decide)
theorem ldh (g : BitVec 3) (d : BitVec 5) (a : BitVec 5) (i : BitVec 7) : Statement (.ldh g d a i) := single (fun _ => rfl) (show 1 ≤ 5 by decide)
theorem ldhs (g : BitVec 3) (d : BitVec 5) (a : BitVec 5) (i : BitVec 7) : Statement (.ldhs g d a i) := single (fun _ => rfl) (show 1 ≤ 5 by decide)
theorem ldw (g : BitVec 3) (d : BitVec 5) (a : BitVec 5) (i : BitVec 7) : Statement (.ldw g d a i) := single (fun _ => rfl) (show 1 ≤ 5 by decide)
theorem ldws (g : BitVec 3) (d : BitVec 5) (a : BitVec 5) (i : BitVec 7) : Statement (.ldws g d a i) := single (fun _ => rfl) (show 1 ≤ 5 by decide)
theorem ldd (g : BitVec 3) (d : BitVec 5) (a : BitVec 5) (i : BitVec 7) : Statement (.ldd g d a i) := single (fun _ => rfl) (show 1 ≤ 5 by decide)
theorem stb (g : BitVec 3) (d : BitVec 5) (a : BitVec 5) (i : BitVec 7) : Statement (.stb g d a i) := single (fun _ => rfl) (show 1 ≤ 5 by decide)
theorem sth (g : BitVec 3) (d : BitVec 5) (a : BitVec 5) (i : BitVec 7) : Statement (.sth g d a i) := single (fun _ => rfl) (show 1 ≤ 5 by decide)
theorem stw (g : BitVec 3) (d : BitVec 5) (a : BitVec 5) (i : BitVec 7) : Statement (.stw g d a i) := single (fun _ => rfl) (show 1 ≤ 5 by decide)
theorem std (g : BitVec 3) (d : BitVec 5) (a : BitVec 5) (i : BitVec 7) : Statement (.std g d a i) := single (fun _ => rfl) (show 1 ≤ 5 by decide)
theorem ldl (g : BitVec 3) (d : BitVec 5) (a : BitVec 5) (m : BitVec 8) (w : BitVec 3) (h : BitVec 2) (o : BitVec 16) : Statement (.ldl g d a m w h o) := double (fun _ => rfl) (show 1 ≤ 6 by decide)
theorem amadd (g : BitVec 3) (d : BitVec 5) (a : BitVec 5) (b : BitVec 5) (n : BitVec 1) (w : BitVec 1) : Statement (.amadd g d a b n w) := single (fun _ => rfl) (show 1 ≤ 5 by decide)
theorem ammin (g : BitVec 3) (d : BitVec 5) (a : BitVec 5) (b : BitVec 5) (n : BitVec 1) (w : BitVec 1) : Statement (.ammin g d a b n w) := single (fun _ => rfl) (show 1 ≤ 5 by decide)
theorem amminn (g : BitVec 3) (d : BitVec 5) (a : BitVec 5) (b : BitVec 5) (n : BitVec 1) (w : BitVec 1) : Statement (.amminn g d a b n w) := single (fun _ => rfl) (show 1 ≤ 5 by decide)
theorem ammax (g : BitVec 3) (d : BitVec 5) (a : BitVec 5) (b : BitVec 5) (n : BitVec 1) (w : BitVec 1) : Statement (.ammax g d a b n w) := single (fun _ => rfl) (show 1 ≤ 5 by decide)
theorem ammaxn (g : BitVec 3) (d : BitVec 5) (a : BitVec 5) (b : BitVec 5) (n : BitVec 1) (w : BitVec 1) : Statement (.ammaxn g d a b n w) := single (fun _ => rfl) (show 1 ≤ 5 by decide)
theorem amand (g : BitVec 3) (d : BitVec 5) (a : BitVec 5) (b : BitVec 5) (n : BitVec 1) (w : BitVec 1) : Statement (.amand g d a b n w) := single (fun _ => rfl) (show 1 ≤ 5 by decide)
theorem amor (g : BitVec 3) (d : BitVec 5) (a : BitVec 5) (b : BitVec 5) (n : BitVec 1) (w : BitVec 1) : Statement (.amor g d a b n w) := single (fun _ => rfl) (show 1 ≤ 5 by decide)
theorem amxor (g : BitVec 3) (d : BitVec 5) (a : BitVec 5) (b : BitVec 5) (n : BitVec 1) (w : BitVec 1) : Statement (.amxor g d a b n w) := single (fun _ => rfl) (show 1 ≤ 5 by decide)
theorem amswp (g : BitVec 3) (d : BitVec 5) (a : BitVec 5) (b : BitVec 5) (n : BitVec 1) (w : BitVec 1) : Statement (.amswp g d a b n w) := single (fun _ => rfl) (show 1 ≤ 5 by decide)
theorem amcas (g : BitVec 3) (d : BitVec 5) (a : BitVec 5) (b : BitVec 5) (w : BitVec 1) (c : BitVec 5) : Statement (.amcas g d a b w c) := double (fun _ => rfl) (show 1 ≤ 6 by decide)
theorem ginit (g : BitVec 3) (a : BitVec 5) (b : BitVec 5) : Statement (.ginit g a b) := single (fun _ => rfl) (show 1 ≤ 5 by decide)
theorem gsig (g : BitVec 3) (a : BitVec 5) (b : BitVec 5) : Statement (.gsig g a b) := single (fun _ => rfl) (show 1 ≤ 5 by decide)
theorem gwait (g : BitVec 3) (d : BitVec 5) (a : BitVec 5) (b : BitVec 5) : Statement (.gwait g d a b) := single (fun _ => rfl) (show 1 ≤ 5 by decide)
theorem gread (g : BitVec 3) (d : BitVec 5) (a : BitVec 5) (n : BitVec 2) : Statement (.gread g d a n) := single (fun _ => rfl) (show 1 ≤ 5 by decide)
theorem tkget (g : BitVec 3) (d : BitVec 5) (a : BitVec 5) : Statement (.tkget g d a) := single (fun _ => rfl) (show 1 ≤ 5 by decide)
theorem tkwait (g : BitVec 3) (a : BitVec 5) (b : BitVec 5) : Statement (.tkwait g a b) := single (fun _ => rfl) (show 1 ≤ 5 by decide)
theorem tknext (g : BitVec 3) (a : BitVec 5) : Statement (.tknext g a) := single (fun _ => rfl) (show 1 ≤ 5 by decide)
theorem fence (g : BitVec 3) (c : BitVec 3) : Statement (.fence g c) := single (fun _ => rfl) (show 1 ≤ 5 by decide)
theorem await (g : BitVec 3) (d : BitVec 5) (a : BitVec 5) (b : BitVec 5) : Statement (.await g d a b) := single (fun _ => rfl) (show 1 ≤ 5 by decide)
theorem qinit (g : BitVec 3) (q : BitVec 4) (a : BitVec 5) (b : BitVec 5) : Statement (.qinit g q a b) := single (fun _ => rfl) (show 1 ≤ 5 by decide)
theorem qwaitf (g : BitVec 3) (q : BitVec 4) (b : BitVec 5) : Statement (.qwaitf g q b) := single (fun _ => rfl) (show 1 ≤ 5 by decide)
theorem qwaite (g : BitVec 3) (q : BitVec 4) (b : BitVec 5) : Statement (.qwaite g q b) := single (fun _ => rfl) (show 1 ≤ 5 by decide)
theorem qadvh (g : BitVec 3) (q : BitVec 4) (b : BitVec 5) : Statement (.qadvh g q b) := single (fun _ => rfl) (show 1 ≤ 5 by decide)
theorem qadvt (g : BitVec 3) (q : BitVec 4) (b : BitVec 5) : Statement (.qadvt g q b) := single (fun _ => rfl) (show 1 ≤ 5 by decide)
theorem qstat (g : BitVec 3) (d : BitVec 5) (q : BitVec 4) : Statement (.qstat g d q) := single (fun _ => rfl) (show 1 ≤ 5 by decide)
theorem pfl (g : BitVec 3) (a : BitVec 5) (i : BitVec 7) : Statement (.pfl g a i) := single (fun _ => rfl) (show 1 ≤ 5 by decide)
theorem tprep (g : BitVec 3) (n : BitVec 2) (o : BitVec 15) : Statement (.tprep g n o) := single (fun _ => rfl) (show 2 ≤ 5 by decide)
theorem tprepx (g : BitVec 3) (n : BitVec 2) (o : BitVec 15) : Statement (.tprepx g n o) := single (fun _ => rfl) (show 2 ≤ 5 by decide)
theorem tread (g : BitVec 3) (d : BitVec 5) (n : BitVec 2) : Statement (.tread g d n) := single (fun _ => rfl) (show 2 ≤ 5 by decide)
theorem csrr (g : BitVec 3) (d : BitVec 5) (c : BitVec 12) : Statement (.csrr g d c) := single (fun _ => rfl) (show 2 ≤ 5 by decide)
theorem csrw (g : BitVec 3) (d : BitVec 5) (c : BitVec 12) : Statement (.csrw g d c) := single (fun _ => rfl) (show 2 ≤ 5 by decide)
theorem csrs (g : BitVec 3) (d : BitVec 5) (c : BitVec 12) : Statement (.csrs g d c) := single (fun _ => rfl) (show 2 ≤ 5 by decide)
theorem csrc (g : BitVec 3) (d : BitVec 5) (c : BitVec 12) : Statement (.csrc g d c) := single (fun _ => rfl) (show 2 ≤ 5 by decide)
theorem peg : Statement (.peg) := single (fun _ => rfl) (show 2 ≤ 5 by decide)
theorem hwin : Statement (.hwin) := single (fun _ => rfl) (show 2 ≤ 5 by decide)
theorem endOp : Statement (.endOp) := single (fun _ => rfl) (show 2 ≤ 5 by decide)
theorem trap (g : BitVec 3) (i : BitVec 7) : Statement (.trap g i) := single (fun _ => rfl) (show 2 ≤ 5 by decide)
theorem brk (g : BitVec 3) (i : BitVec 7) : Statement (.brk g i) := single (fun _ => rfl) (show 2 ≤ 5 by decide)
theorem eret : Statement (.eret) := single (fun _ => rfl) (show 2 ≤ 5 by decide)
theorem spawn (g : BitVec 3) (d : BitVec 5) (a : BitVec 5) : Statement (.spawn g d a) := single (fun _ => rfl) (show 2 ≤ 5 by decide)
theorem cancelj (g : BitVec 3) (d : BitVec 5) (a : BitVec 5) : Statement (.cancelj g d a) := single (fun _ => rfl) (show 2 ≤ 5 by decide)
theorem phase (g : BitVec 3) (d : BitVec 5) (n : BitVec 4) (m : BitVec 8) : Statement (.phase g d n m) := single (fun _ => rfl) (show 2 ≤ 5 by decide)
theorem pinw (g : BitVec 3) (d : BitVec 5) (a : BitVec 5) (b : BitVec 5) : Statement (.pinw g d a b) := single (fun _ => rfl) (show 2 ≤ 5 by decide)
theorem unpinw (g : BitVec 3) (d : BitVec 5) (a : BitVec 5) : Statement (.unpinw g d a) := single (fun _ => rfl) (show 2 ≤ 5 by decide)
theorem tlbinv (g : BitVec 3) (d : BitVec 5) (a : BitVec 5) (b : BitVec 5) (f : BitVec 2) : Statement (.tlbinv g d a b f) := single (fun _ => rfl) (show 2 ≤ 5 by decide)
theorem dirtyh (g : BitVec 3) (d : BitVec 5) (a : BitVec 5) (b : BitVec 5) : Statement (.dirtyh g d a b) := single (fun _ => rfl) (show 2 ≤ 5 by decide)
theorem linkq (g : BitVec 3) (d : BitVec 5) (a : BitVec 5) : Statement (.linkq g d a) := single (fun _ => rfl) (show 2 ≤ 5 by decide)
theorem linkset (g : BitVec 3) (d : BitVec 5) (a : BitVec 5) : Statement (.linkset g d a) := single (fun _ => rfl) (show 2 ≤ 5 by decide)
theorem opreq (g : BitVec 3) (a : BitVec 5) : Statement (.opreq g a) := single (fun _ => rfl) (show 2 ≤ 5 by decide)
theorem job (d : BitVec 5) : Statement (.job d) := single (fun _ => rfl) (show 2 ≤ 5 by decide)
theorem task (a : BitVec 5) : Statement (.task a) := single (fun _ => rfl) (show 2 ≤ 5 by decide)
theorem opt (a : BitVec 5) (b : BitVec 5) : Statement (.opt a b) := single (fun _ => rfl) (show 2 ≤ 5 by decide)
theorem depv (i : BitVec 2) (a : BitVec 5) : Statement (.depv i a) := single (fun _ => rfl) (show 2 ≤ 5 by decide)
theorem tset (k : BitVec 5) (a : BitVec 5) : Statement (.tset k a) := single (fun _ => rfl) (show 2 ≤ 5 by decide)
theorem launch (d : BitVec 5) (a : BitVec 5) : Statement (.launch d a) := single (fun _ => rfl) (show 2 ≤ 5 by decide)
theorem jwait (d : BitVec 5) (a : BitVec 5) : Statement (.jwait d a) := single (fun _ => rfl) (show 2 ≤ 5 by decide)
theorem notify (a : BitVec 5) (b : BitVec 5) : Statement (.notify a b) := single (fun _ => rfl) (show 2 ≤ 5 by decide)
theorem curveq (d : BitVec 5) (a : BitVec 5) : Statement (.curveq d a) := single (fun _ => rfl) (show 2 ≤ 5 by decide)
theorem caskout (d : BitVec 5) (a : BitVec 5) (b : BitVec 5) (c : BitVec 5) (fl : BitVec 2) : Statement (.caskout d a b c fl) := double (fun _ => rfl) (show 2 ≤ 6 by decide)
theorem caskin (d : BitVec 5) (a : BitVec 5) (b : BitVec 5) (c : BitVec 5) (fl : BitVec 2) : Statement (.caskin d a b c fl) := double (fun _ => rfl) (show 2 ≤ 6 by decide)
theorem vadd (g : BitVec 3) (d : BitVec 5) (a : BitVec 5) (b : BitVec 5) (k : BitVec 2) : Statement (.vadd g d a b k) := single (fun _ => rfl) (show 3 ≤ 5 by decide)
theorem vsub (g : BitVec 3) (d : BitVec 5) (a : BitVec 5) (b : BitVec 5) (k : BitVec 2) : Statement (.vsub g d a b k) := single (fun _ => rfl) (show 3 ≤ 5 by decide)
theorem vmul (g : BitVec 3) (d : BitVec 5) (a : BitVec 5) (b : BitVec 5) (k : BitVec 2) : Statement (.vmul g d a b k) := single (fun _ => rfl) (show 3 ≤ 5 by decide)
theorem vfma (g : BitVec 3) (d : BitVec 5) (a : BitVec 5) (b : BitVec 5) (k : BitVec 2) : Statement (.vfma g d a b k) := single (fun _ => rfl) (show 3 ≤ 5 by decide)
theorem vfms (g : BitVec 3) (d : BitVec 5) (a : BitVec 5) (b : BitVec 5) (k : BitVec 2) : Statement (.vfms g d a b k) := single (fun _ => rfl) (show 3 ≤ 5 by decide)
theorem vmin (g : BitVec 3) (d : BitVec 5) (a : BitVec 5) (b : BitVec 5) (k : BitVec 2) : Statement (.vmin g d a b k) := single (fun _ => rfl) (show 3 ≤ 5 by decide)
theorem vmax (g : BitVec 3) (d : BitVec 5) (a : BitVec 5) (b : BitVec 5) (k : BitVec 2) : Statement (.vmax g d a b k) := single (fun _ => rfl) (show 3 ≤ 5 by decide)
theorem vabs (g : BitVec 3) (d : BitVec 5) (a : BitVec 5) (k : BitVec 2) : Statement (.vabs g d a k) := single (fun _ => rfl) (show 3 ≤ 5 by decide)
theorem vneg (g : BitVec 3) (d : BitVec 5) (a : BitVec 5) (k : BitVec 2) : Statement (.vneg g d a k) := single (fun _ => rfl) (show 3 ≤ 5 by decide)
theorem vand (g : BitVec 3) (d : BitVec 5) (a : BitVec 5) (b : BitVec 5) (k : BitVec 2) : Statement (.vand g d a b k) := single (fun _ => rfl) (show 3 ≤ 5 by decide)
theorem vor (g : BitVec 3) (d : BitVec 5) (a : BitVec 5) (b : BitVec 5) (k : BitVec 2) : Statement (.vor g d a b k) := single (fun _ => rfl) (show 3 ≤ 5 by decide)
theorem vxor (g : BitVec 3) (d : BitVec 5) (a : BitVec 5) (b : BitVec 5) (k : BitVec 2) : Statement (.vxor g d a b k) := single (fun _ => rfl) (show 3 ≤ 5 by decide)
theorem vshl (g : BitVec 3) (d : BitVec 5) (a : BitVec 5) (b : BitVec 5) (k : BitVec 2) : Statement (.vshl g d a b k) := single (fun _ => rfl) (show 3 ≤ 5 by decide)
theorem vshr (g : BitVec 3) (d : BitVec 5) (a : BitVec 5) (b : BitVec 5) (k : BitVec 2) : Statement (.vshr g d a b k) := single (fun _ => rfl) (show 3 ≤ 5 by decide)
theorem vsha (g : BitVec 3) (d : BitVec 5) (a : BitVec 5) (b : BitVec 5) (k : BitVec 2) : Statement (.vsha g d a b k) := single (fun _ => rfl) (show 3 ≤ 5 by decide)
theorem vaddx (g : BitVec 3) (d : BitVec 5) (a : BitVec 5) (b : BitVec 5) (k : BitVec 2) : Statement (.vaddx g d a b k) := single (fun _ => rfl) (show 3 ≤ 5 by decide)
theorem vmulx (g : BitVec 3) (d : BitVec 5) (a : BitVec 5) (b : BitVec 5) (k : BitVec 2) : Statement (.vmulx g d a b k) := single (fun _ => rfl) (show 3 ≤ 5 by decide)
theorem vfmax (g : BitVec 3) (d : BitVec 5) (a : BitVec 5) (b : BitVec 5) (k : BitVec 2) : Statement (.vfmax g d a b k) := single (fun _ => rfl) (show 3 ≤ 5 by decide)
theorem vcmpeq (g : BitVec 3) (d : BitVec 3) (a : BitVec 5) (b : BitVec 5) (k : BitVec 2) : Statement (.vcmpeq g d a b k) := single (fun _ => rfl) (show 3 ≤ 5 by decide)
theorem vcmplt (g : BitVec 3) (d : BitVec 3) (a : BitVec 5) (b : BitVec 5) (k : BitVec 2) : Statement (.vcmplt g d a b k) := single (fun _ => rfl) (show 3 ≤ 5 by decide)
theorem vcmple (g : BitVec 3) (d : BitVec 3) (a : BitVec 5) (b : BitVec 5) (k : BitVec 2) : Statement (.vcmple g d a b k) := single (fun _ => rfl) (show 3 ≤ 5 by decide)
theorem vcmpne (g : BitVec 3) (d : BitVec 3) (a : BitVec 5) (b : BitVec 5) (k : BitVec 2) : Statement (.vcmpne g d a b k) := single (fun _ => rfl) (show 3 ≤ 5 by decide)
theorem vsel (g : BitVec 3) (d : BitVec 5) (a : BitVec 5) (b : BitVec 5) (k : BitVec 2) : Statement (.vsel g d a b k) := single (fun _ => rfl) (show 3 ≤ 5 by decide)
theorem vcvt (g : BitVec 3) (d : BitVec 5) (a : BitVec 5) (k : BitVec 2) (sf : BitVec 4) (df : BitVec 4) (r : BitVec 3) (t : BitVec 2) (n : BitVec 2) : Statement (.vcvt g d a k sf df r t n) := double (fun _ => rfl) (show 3 ≤ 6 by decide)
theorem vqnt (g : BitVec 3) (d : BitVec 5) (a : BitVec 5) (k : BitVec 2) (ty : BitVec 2) (au : BitVec 1) (r : BitVec 3) (x : BitVec 5) : Statement (.vqnt g d a k ty au r x) := double (fun _ => rfl) (show 3 ≤ 6 by decide)
theorem vdqnt (g : BitVec 3) (d : BitVec 5) (a : BitVec 5) (b : BitVec 5) (k : BitVec 2) (df : BitVec 4) : Statement (.vdqnt g d a b k df) := double (fun _ => rfl) (show 3 ≤ 6 by decide)
theorem vexp2 (g : BitVec 3) (d : BitVec 5) (a : BitVec 5) (k : BitVec 2) : Statement (.vexp2 g d a k) := single (fun _ => rfl) (show 3 ≤ 5 by decide)
theorem vlog2 (g : BitVec 3) (d : BitVec 5) (a : BitVec 5) (k : BitVec 2) : Statement (.vlog2 g d a k) := single (fun _ => rfl) (show 3 ≤ 5 by decide)
theorem vrcp (g : BitVec 3) (d : BitVec 5) (a : BitVec 5) (k : BitVec 2) : Statement (.vrcp g d a k) := single (fun _ => rfl) (show 3 ≤ 5 by decide)
theorem vrsqrt (g : BitVec 3) (d : BitVec 5) (a : BitVec 5) (k : BitVec 2) : Statement (.vrsqrt g d a k) := single (fun _ => rfl) (show 3 ≤ 5 by decide)
theorem vtanh (g : BitVec 3) (d : BitVec 5) (a : BitVec 5) (k : BitVec 2) : Statement (.vtanh g d a k) := single (fun _ => rfl) (show 3 ≤ 5 by decide)
theorem vdot4 (g : BitVec 3) (d : BitVec 5) (a : BitVec 5) (b : BitVec 5) (k : BitVec 2) : Statement (.vdot4 g d a b k) := single (fun _ => rfl) (show 3 ≤ 5 by decide)
theorem vredadd (g : BitVec 3) (d : BitVec 5) (a : BitVec 5) (k : BitVec 2) : Statement (.vredadd g d a k) := single (fun _ => rfl) (show 3 ≤ 5 by decide)
theorem vredmax (g : BitVec 3) (d : BitVec 5) (a : BitVec 5) (k : BitVec 2) : Statement (.vredmax g d a k) := single (fun _ => rfl) (show 3 ≤ 5 by decide)
theorem vredmin (g : BitVec 3) (d : BitVec 5) (a : BitVec 5) (k : BitVec 2) : Statement (.vredmin g d a k) := single (fun _ => rfl) (show 3 ≤ 5 by decide)
theorem vscanadd (g : BitVec 3) (d : BitVec 5) (a : BitVec 5) (k : BitVec 2) : Statement (.vscanadd g d a k) := single (fun _ => rfl) (show 3 ≤ 5 by decide)
theorem vclass (g : BitVec 3) (d : BitVec 5) (a : BitVec 5) (k : BitVec 2) : Statement (.vclass g d a k) := single (fun _ => rfl) (show 3 ≤ 5 by decide)
theorem vmulh (g : BitVec 3) (d : BitVec 5) (a : BitVec 5) (b : BitVec 5) (k : BitVec 2) : Statement (.vmulh g d a b k) := single (fun _ => rfl) (show 3 ≤ 5 by decide)
theorem vrndi (g : BitVec 3) (d : BitVec 5) (a : BitVec 5) (k : BitVec 2) : Statement (.vrndi g d a k) := single (fun _ => rfl) (show 3 ≤ 5 by decide)
theorem vld (g : BitVec 3) (d : BitVec 5) (a : BitVec 5) (i : BitVec 7) : Statement (.vld g d a i) := single (fun _ => rfl) (show 4 ≤ 5 by decide)
theorem vst (g : BitVec 3) (d : BitVec 5) (a : BitVec 5) (i : BitVec 7) : Statement (.vst g d a i) := single (fun _ => rfl) (show 4 ≤ 5 by decide)
theorem vlds (g : BitVec 3) (d : BitVec 5) (a : BitVec 5) (k : BitVec 2) (x : BitVec 5) (m : BitVec 8) (o : BitVec 16) : Statement (.vlds g d a k x m o) := double (fun _ => rfl) (show 4 ≤ 6 by decide)
theorem vsts (g : BitVec 3) (d : BitVec 5) (a : BitVec 5) (k : BitVec 2) (x : BitVec 5) (o : BitVec 16) : Statement (.vsts g d a k x o) := double (fun _ => rfl) (show 4 ≤ 6 by decide)
theorem vgath (g : BitVec 3) (d : BitVec 5) (a : BitVec 5) (b : BitVec 5) (k : BitVec 2) : Statement (.vgath g d a b k) := single (fun _ => rfl) (show 4 ≤ 5 by decide)
theorem vscat (g : BitVec 3) (d : BitVec 5) (a : BitVec 5) (b : BitVec 5) (k : BitVec 2) : Statement (.vscat g d a b k) := single (fun _ => rfl) (show 4 ≤ 5 by decide)
theorem vldq (g : BitVec 3) (d : BitVec 5) (q : BitVec 4) (b : BitVec 5) (k : BitVec 2) : Statement (.vldq g d q b k) := single (fun _ => rfl) (show 4 ≤ 5 by decide)
theorem vstq (g : BitVec 3) (d : BitVec 5) (q : BitVec 4) (b : BitVec 5) (k : BitVec 2) : Statement (.vstq g d q b k) := single (fun _ => rfl) (show 4 ≤ 5 by decide)
theorem vbcx (g : BitVec 3) (d : BitVec 5) (a : BitVec 5) (k : BitVec 2) : Statement (.vbcx g d a k) := single (fun _ => rfl) (show 4 ≤ 5 by decide)
theorem vextx (g : BitVec 3) (d : BitVec 5) (a : BitVec 5) (b : BitVec 5) : Statement (.vextx g d a b) := single (fun _ => rfl) (show 4 ≤ 5 by decide)
theorem vinsx (g : BitVec 3) (d : BitVec 5) (a : BitVec 5) (b : BitVec 5) : Statement (.vinsx g d a b) := single (fun _ => rfl) (show 4 ≤ 5 by decide)
theorem vperm (g : BitVec 3) (d : BitVec 5) (a : BitVec 5) (b : BitVec 5) (k : BitVec 2) : Statement (.vperm g d a b k) := single (fun _ => rfl) (show 4 ≤ 5 by decide)
theorem vslide (g : BitVec 3) (d : BitVec 5) (a : BitVec 5) (b : BitVec 5) (k : BitVec 2) : Statement (.vslide g d a b k) := single (fun _ => rfl) (show 4 ≤ 5 by decide)
theorem vzip (g : BitVec 3) (d : BitVec 5) (a : BitVec 5) (b : BitVec 5) (k : BitVec 2) : Statement (.vzip g d a b k) := single (fun _ => rfl) (show 4 ≤ 5 by decide)
theorem vunzip (g : BitVec 3) (d : BitVec 5) (a : BitVec 5) (b : BitVec 5) (k : BitVec 2) : Statement (.vunzip g d a b k) := single (fun _ => rfl) (show 4 ≤ 5 by decide)
theorem viota (g : BitVec 3) (d : BitVec 5) (k : BitVec 2) : Statement (.viota g d k) := single (fun _ => rfl) (show 4 ≤ 5 by decide)
theorem vmov (g : BitVec 3) (d : BitVec 5) (a : BitVec 5) (k : BitVec 2) : Statement (.vmov g d a k) := single (fun _ => rfl) (show 4 ≤ 5 by decide)
theorem kand (g : BitVec 3) (d : BitVec 3) (a : BitVec 3) (b : BitVec 3) : Statement (.kand g d a b) := single (fun _ => rfl) (show 4 ≤ 5 by decide)
theorem kor (g : BitVec 3) (d : BitVec 3) (a : BitVec 3) (b : BitVec 3) : Statement (.kor g d a b) := single (fun _ => rfl) (show 4 ≤ 5 by decide)
theorem kxor (g : BitVec 3) (d : BitVec 3) (a : BitVec 3) (b : BitVec 3) : Statement (.kxor g d a b) := single (fun _ => rfl) (show 4 ≤ 5 by decide)
theorem knot (g : BitVec 3) (d : BitVec 3) (a : BitVec 3) : Statement (.knot g d a) := single (fun _ => rfl) (show 4 ≤ 5 by decide)
theorem kpopc (g : BitVec 3) (d : BitVec 5) (a : BitVec 3) : Statement (.kpopc g d a) := single (fun _ => rfl) (show 4 ≤ 5 by decide)
theorem kfirst (g : BitVec 3) (d : BitVec 5) (a : BitVec 3) : Statement (.kfirst g d a) := single (fun _ => rfl) (show 4 ≤ 5 by decide)
theorem kmovx (g : BitVec 3) (d : BitVec 5) (a : BitVec 3) : Statement (.kmovx g d a) := single (fun _ => rfl) (show 4 ≤ 5 by decide)
theorem xmovk (g : BitVec 3) (d : BitVec 3) (a : BitVec 5) : Statement (.xmovk g d a) := single (fun _ => rfl) (show 4 ≤ 5 by decide)
theorem vamadd (g : BitVec 3) (d : BitVec 5) (a : BitVec 5) (b : BitVec 5) (k : BitVec 2) : Statement (.vamadd g d a b k) := single (fun _ => rfl) (show 4 ≤ 5 by decide)
theorem vammin (g : BitVec 3) (d : BitVec 5) (a : BitVec 5) (b : BitVec 5) (k : BitVec 2) : Statement (.vammin g d a b k) := single (fun _ => rfl) (show 4 ≤ 5 by decide)
theorem vcompress (g : BitVec 3) (d : BitVec 5) (a : BitVec 5) (k : BitVec 2) : Statement (.vcompress g d a k) := single (fun _ => rfl) (show 4 ≤ 5 by decide)
theorem vexpand (g : BitVec 3) (d : BitVec 5) (a : BitVec 5) (k : BitVec 2) : Statement (.vexpand g d a k) := single (fun _ => rfl) (show 4 ≤ 5 by decide)
theorem vsett (g : BitVec 3) (d : BitVec 5) (a : BitVec 5) (b : BitVec 5) : Statement (.vsett g d a b) := single (fun _ => rfl) (show 4 ≤ 5 by decide)
theorem mcall (g : BitVec 3) (j : BitVec 6) : Statement (.mcall g j) := single (fun _ => rfl) (show 5 ≤ 5 by decide)
theorem mparw (g : BitVec 3) (n : BitVec 3) (a : BitVec 5) : Statement (.mparw g n a) := single (fun _ => rfl) (show 5 ≤ 5 by decide)
theorem mparr (g : BitVec 3) (d : BitVec 5) (n : BitVec 3) : Statement (.mparr g d n) := single (fun _ => rfl) (show 5 ≤ 5 by decide)
theorem mldj (g : BitVec 3) (d : BitVec 5) (a : BitVec 5) (j : BitVec 6) : Statement (.mldj g d a j) := single (fun _ => rfl) (show 5 ≤ 5 by decide)
theorem mretire (g : BitVec 3) (d : BitVec 5) : Statement (.mretire g d) := single (fun _ => rfl) (show 5 ≤ 5 by decide)
theorem mfence (g : BitVec 3) : Statement (.mfence g) := single (fun _ => rfl) (show 5 ≤ 5 by decide)
theorem mrot (g : BitVec 3) (a : BitVec 5) : Statement (.mrot g a) := single (fun _ => rfl) (show 5 ≤ 5 by decide)
theorem mstat (g : BitVec 3) (d : BitVec 5) (a : BitVec 5) : Statement (.mstat g d a) := single (fun _ => rfl) (show 5 ≤ 5 by decide)
theorem cpy (g : BitVec 3) (d : BitVec 5) (a : BitVec 5) (b : BitVec 5) (f : BitVec 2) (l : BitVec 5) (e : BitVec 5) (h : BitVec 2) : Statement (.cpy g d a b f l e h) := double (fun _ => rfl) (show 6 ≤ 6 by decide)
theorem cpyt (g : BitVec 3) (d : BitVec 5) (a : BitVec 5) (b : BitVec 5) (f : BitVec 2) (l : BitVec 5) (e : BitVec 5) (h : BitVec 2) : Statement (.cpyt g d a b f l e h) := double (fun _ => rfl) (show 6 ≤ 6 by decide)
theorem cpyg (g : BitVec 3) (d : BitVec 5) (a : BitVec 5) (b : BitVec 5) (f : BitVec 2) (l : BitVec 5) (e : BitVec 5) (h : BitVec 2) : Statement (.cpyg g d a b f l e h) := double (fun _ => rfl) (show 6 ≤ 6 by decide)
theorem cpys (g : BitVec 3) (d : BitVec 5) (a : BitVec 5) (b : BitVec 5) (f : BitVec 2) (l : BitVec 5) (e : BitVec 5) (h : BitVec 2) : Statement (.cpys g d a b f l e h) := double (fun _ => rfl) (show 6 ≤ 6 by decide)
theorem cpym (g : BitVec 3) (d : BitVec 5) (a : BitVec 5) (b : BitVec 5) (f : BitVec 2) (l : BitVec 5) (e : BitVec 5) (m : BitVec 8) : Statement (.cpym g d a b f l e m) := double (fun _ => rfl) (show 6 ≤ 6 by decide)
theorem cpyq (g : BitVec 3) (d : BitVec 5) (a : BitVec 5) (b : BitVec 5) (f : BitVec 2) (l : BitVec 5) (e : BitVec 5) : Statement (.cpyq g d a b f l e) := double (fun _ => rfl) (show 6 ≤ 6 by decide)
theorem cpya (g : BitVec 3) (d : BitVec 5) (a : BitVec 5) (b : BitVec 5) (f : BitVec 2) (l : BitVec 5) (e : BitVec 5) (t : BitVec 4) : Statement (.cpya g d a b f l e t) := double (fun _ => rfl) (show 6 ≤ 6 by decide)
theorem cpf (g : BitVec 3) (d : BitVec 5) (a : BitVec 5) (f : BitVec 2) (l : BitVec 5) (e : BitVec 5) (q : BitVec 2) : Statement (.cpf g d a f l e q) := double (fun _ => rfl) (show 6 ≤ 6 by decide)
theorem cph (g : BitVec 3) (d : BitVec 5) (a : BitVec 5) (b : BitVec 5) (f : BitVec 2) (l : BitVec 5) (e : BitVec 5) (dir : BitVec 1) (tgt : BitVec 1) (port : BitVec 3) (rs : BitVec 3) : Statement (.cph g d a b f l e dir tgt port rs) := double (fun _ => rfl) (show 6 ≤ 6 by decide)
theorem ccan (g : BitVec 3) (d : BitVec 5) (a : BitVec 5) : Statement (.ccan g d a) := double (fun _ => rfl) (show 6 ≤ 6 by decide)
theorem cpub (g : BitVec 3) (d : BitVec 5) (a : BitVec 5) (f : BitVec 2) (e : BitVec 5) : Statement (.cpub g d a f e) := double (fun _ => rfl) (show 6 ≤ 6 by decide)
theorem cqry (g : BitVec 3) (d : BitVec 5) (a : BitVec 5) : Statement (.cqry g d a) := double (fun _ => rfl) (show 6 ≤ 6 by decide)
theorem bdef (g : BitVec 3) (d : BitVec 5) (a : BitVec 5) (b : BitVec 5) (l : BitVec 5) : Statement (.bdef g d a b l) := double (fun _ => rfl) (show 6 ≤ 6 by decide)
theorem mod (r : BitVec 3) (t : BitVec 2) (h : BitVec 2) (f : BitVec 4) (m : BitVec 1) : Statement (.mod r t h f m) := pref (fun _ => rfl) (.inl rfl)
theorem imm (i : BitVec 26) : Statement (.imm i) := pref (fun _ => rfl) (.inl rfl)
theorem xfer (g : BitVec 3) (t : BitVec 2) : Statement (.xfer g t) := pref (fun _ => rfl) (.inr rfl)
theorem xferLink (t : BitVec 2) : Statement (.xferLink t) := pref (fun _ => rfl) (.inr rfl)
theorem jLdw (p : BitVec 3) (f : BitVec 4) : Statement (.jLdw p f) := micro 1#5 (by decide) (fun _ => rfl) rfl
theorem jSwapw : Statement (.jSwapw) := micro 2#5 (by decide) (fun _ => rfl) rfl
theorem jSkipmap (p : BitVec 3) : Statement (.jSkipmap p) := micro 3#5 (by decide) (fun _ => rfl) rfl
theorem jStrm (p : BitVec 3) (f : BitVec 4) (k : BitVec 1) (r : BitVec 8) (o : BitVec 5) (e : BitVec 1) (m : BitVec 3) : Statement (.jStrm p f k r o e m) := micro 4#5 (by decide) (fun _ => rfl) rfl
theorem jAccz (k : BitVec 1) (t : BitVec 1) : Statement (.jAccz k t) := micro 5#5 (by decide) (fun _ => rfl) rfl
theorem jLoop (t : BitVec 8) (c : BitVec 2) (n : BitVec 16) : Statement (.jLoop t c n) := micro 6#5 (by decide) (fun _ => rfl) rfl
theorem jLoopReg (t : BitVec 8) (c : BitVec 2) (r : BitVec 3) : Statement (.jLoopReg t c r) := micro 6#5 (by decide) (fun _ => rfl) rfl
theorem jAddp (d : BitVec 3) (i : BitVec 23) : Statement (.jAddp d i) := micro 7#5 (by decide) (fun _ => rfl) rfl
theorem jAddpReg (d : BitVec 3) (a : BitVec 3) : Statement (.jAddpReg d a) := micro 7#5 (by decide) (fun _ => rfl) rfl
theorem jWaitq (q : BitVec 4) (k : BitVec 1) (n : BitVec 10) : Statement (.jWaitq q k n) := micro 8#5 (by decide) (fun _ => rfl) rfl
theorem jAdvq (q : BitVec 4) (e : BitVec 1) (n : BitVec 10) : Statement (.jAdvq q e n) := micro 9#5 (by decide) (fun _ => rfl) rfl
theorem jBias (e : BitVec 1) (p : BitVec 3) : Statement (.jBias e p) := micro 10#5 (by decide) (fun _ => rfl) rfl
theorem jScale (e : BitVec 8) : Statement (.jScale e) := micro 11#5 (by decide) (fun _ => rfl) rfl
theorem jScaleVec (p : BitVec 3) : Statement (.jScaleVec p) := micro 11#5 (by decide) (fun _ => rfl) rfl
theorem jRetire (p : BitVec 3) (f : BitVec 4) (k : BitVec 1) (r : BitVec 3) (t : BitVec 2) (o : BitVec 5) (n : BitVec 8) : Statement (.jRetire p f k r t o n) := micro 12#5 (by decide) (fun _ => rfl) rfl
theorem jSig (p : BitVec 3) (n : BitVec 24) : Statement (.jSig p n) := micro 13#5 (by decide) (fun _ => rfl) rfl
theorem jEnd : Statement (.jEnd) := micro 14#5 (by decide) (fun _ => rfl) rfl
theorem railsetWrite : Statement (.railsetWrite) := device (fun _ => rfl) rfl
theorem railRampEnd : Statement (.railRampEnd) := device (fun _ => rfl) rfl
theorem freqLockDone : Statement (.freqLockDone) := device (fun _ => rfl) rfl
theorem gateHeldRelease : Statement (.gateHeldRelease) := device (fun _ => rfl) rfl
theorem ungateComplete : Statement (.ungateComplete) := device (fun _ => rfl) rfl
theorem thermalPoll : Statement (.thermalPoll) := device (fun _ => rfl) rfl
theorem mgmtFirmwareUpdate : Statement (.mgmtFirmwareUpdate) := device (fun _ => rfl) rfl
theorem handover : Statement (.handover) := device (fun _ => rfl) rfl
theorem hbmChannelRetire : Statement (.hbmChannelRetire) := device (fun _ => rfl) rfl
theorem linkctlGo : Statement (.linkctlGo) := device (fun _ => rfl) rfl
theorem linkTrainComplete : Statement (.linkTrainComplete) := device (fun _ => rfl) rfl
theorem routeRelease : Statement (.routeRelease) := device (fun _ => rfl) rfl
theorem flitSend : Statement (.flitSend) := device (fun _ => rfl) rfl
theorem flitReceive : Statement (.flitReceive) := device (fun _ => rfl) rfl
theorem replayRequest : Statement (.replayRequest) := device (fun _ => rfl) rfl
theorem flitAck : Statement (.flitAck) := device (fun _ => rfl) rfl
theorem laneRetire : Statement (.laneRetire) := device (fun _ => rfl) rfl
theorem drainMarkerAck : Statement (.drainMarkerAck) := device (fun _ => rfl) rfl
theorem drainTimeout : Statement (.drainTimeout) := device (fun _ => rfl) rfl
theorem permitGrant : Statement (.permitGrant) := device (fun _ => rfl) rfl
theorem permitAudit : Statement (.permitAudit) := device (fun _ => rfl) rfl
theorem replayWindowEnd : Statement (.replayWindowEnd) := device (fun _ => rfl) rfl
theorem peerPortDown : Statement (.peerPortDown) := device (fun _ => rfl) rfl
theorem peerstatWrite : Statement (.peerstatWrite) := device (fun _ => rfl) rfl
theorem peerTrainComplete : Statement (.peerTrainComplete) := device (fun _ => rfl) rfl
theorem hostWriteTlp : Statement (.hostWriteTlp) := device (fun _ => rfl) rfl
theorem hostRead : Statement (.hostRead) := device (fun _ => rfl) rfl
theorem ingressStagingMove : Statement (.ingressStagingMove) := device (fun _ => rfl) rfl
theorem ingressStall : Statement (.ingressStall) := device (fun _ => rfl) rfl
theorem pcieReset : Statement (.pcieReset) := device (fun _ => rfl) rfl
theorem pcieLinkUp : Statement (.pcieLinkUp) := device (fun _ => rfl) rfl
theorem strmctlGo : Statement (.strmctlGo) := device (fun _ => rfl) rfl
theorem strmctlHalt : Statement (.strmctlHalt) := device (fun _ => rfl) rfl
theorem streamRegWrite : Statement (.streamRegWrite) := device (fun _ => rfl) rfl
theorem nqbaseWrite : Statement (.nqbaseWrite) := device (fun _ => rfl) rfl
theorem nqctlWrite : Statement (.nqctlWrite) := device (fun _ => rfl) rfl
theorem nqheadWrite : Statement (.nqheadWrite) := device (fun _ => rfl) rfl
theorem msixWindowClose : Statement (.msixWindowClose) := device (fun _ => rfl) rfl
theorem msixVectorUnmask : Statement (.msixVectorUnmask) := device (fun _ => rfl) rfl
theorem deviceStart : Statement (.deviceStart) := device (fun _ => rfl) rfl
theorem bootReady : Statement (.bootReady) := device (fun _ => rfl) rfl
theorem auxPowerOn : Statement (.auxPowerOn) := device (fun _ => rfl) rfl
theorem auxPowerOff : Statement (.auxPowerOff) := device (fun _ => rfl) rfl
theorem sealGo : Statement (.sealGo) := device (fun _ => rfl) rfl
theorem sealComplete : Statement (.sealComplete) := device (fun _ => rfl) rfl
theorem attestGo : Statement (.attestGo) := device (fun _ => rfl) rfl
theorem attestDone : Statement (.attestDone) := device (fun _ => rfl) rfl
theorem hostGroupApplied : Statement (.hostGroupApplied) := device (fun _ => rfl) rfl
theorem dispatch : Statement (.dispatch) := device (fun _ => rfl) rfl
theorem slabIssue : Statement (.slabIssue) := device (fun _ => rfl) rfl
theorem heartbeat : Statement (.heartbeat) := device (fun _ => rfl) rfl
theorem dieLost : Statement (.dieLost) := device (fun _ => rfl) rfl
theorem pointFire : Statement (.pointFire) := device (fun _ => rfl) rfl
theorem taskComplete : Statement (.taskComplete) := device (fun _ => rfl) rfl
theorem defbudgetWrite : Statement (.defbudgetWrite) := device (fun _ => rfl) rfl
theorem curveGo : Statement (.curveGo) := device (fun _ => rfl) rfl
theorem curveVerifyDone : Statement (.curveVerifyDone) := device (fun _ => rfl) rfl
theorem curveInForce : Statement (.curveInForce) := device (fun _ => rfl) rfl
theorem curveExpire : Statement (.curveExpire) := device (fun _ => rfl) rfl
theorem fkeyInstall : Statement (.fkeyInstall) := device (fun _ => rfl) rfl
theorem fkeyLock : Statement (.fkeyLock) := device (fun _ => rfl) rfl
theorem thermtabWrite : Statement (.thermtabWrite) := device (fun _ => rfl) rfl
theorem maltsterLoop : Statement (.maltsterLoop) := device (fun _ => rfl) rfl
theorem curtailmentEnd : Statement (.curtailmentEnd) := device (fun _ => rfl) rfl
theorem bandCheck : Statement (.bandCheck) := device (fun _ => rfl) rfl
theorem parktask : Statement (.parktask) := device (fun _ => rfl) rfl
theorem resumetask : Statement (.resumetask) := device (fun _ => rfl) rfl
theorem gatedie : Statement (.gatedie) := device (fun _ => rfl) rfl
theorem ungatedie : Statement (.ungatedie) := device (fun _ => rfl) rfl
theorem draindie : Statement (.draindie) := device (fun _ => rfl) rfl
theorem repairdie : Statement (.repairdie) := device (fun _ => rfl) rfl
theorem repairlink : Statement (.repairlink) := device (fun _ => rfl) rfl
theorem pwrcmdBadCode : Statement (.pwrcmdBadCode) := device (fun _ => rfl) rfl
theorem implicitPeg : Statement (.implicitPeg) := device (fun _ => rfl) rfl
theorem pegStall : Statement (.pegStall) := device (fun _ => rfl) rfl
theorem watchdogExpire : Statement (.watchdogExpire) := device (fun _ => rfl) rfl
theorem rotationQuantumEnd : Statement (.rotationQuantumEnd) := device (fun _ => rfl) rfl
theorem bayRotateComplete : Statement (.bayRotateComplete) := device (fun _ => rfl) rfl
theorem freezeComplete : Statement (.freezeComplete) := device (fun _ => rfl) rfl
theorem loadDataArrive : Statement (.loadDataArrive) := device (fun _ => rfl) rfl
theorem gaugeWake : Statement (.gaugeWake) := device (fun _ => rfl) rfl
theorem ticketBroadcast : Statement (.ticketBroadcast) := device (fun _ => rfl) rfl
theorem queueWaitComplete : Statement (.queueWaitComplete) := device (fun _ => rfl) rfl
theorem shadowLoadDone : Statement (.shadowLoadDone) := device (fun _ => rfl) rfl
theorem jigDepthExpire : Statement (.jigDepthExpire) := device (fun _ => rfl) rfl
theorem copyComplete : Statement (.copyComplete) := device (fun _ => rfl) rfl
theorem cancelAck : Statement (.cancelAck) := device (fun _ => rfl) rfl
theorem conflictRollback : Statement (.conflictRollback) := device (fun _ => rfl) rfl
theorem tsfloorPublish : Statement (.tsfloorPublish) := device (fun _ => rfl) rfl
theorem homeRd : Statement (.homeRd) := device (fun _ => rfl) rfl
theorem homeEx : Statement (.homeEx) := device (fun _ => rfl) rfl
theorem homeUp : Statement (.homeUp) := device (fun _ => rfl) rfl
theorem homeNr : Statement (.homeNr) := device (fun _ => rfl) rfl
theorem homeWb : Statement (.homeWb) := device (fun _ => rfl) rfl
theorem homeData : Statement (.homeData) := device (fun _ => rfl) rfl
theorem ownerFwd : Statement (.ownerFwd) := device (fun _ => rfl) rfl
theorem bankHoldEnd : Statement (.bankHoldEnd) := device (fun _ => rfl) rfl
theorem cacheWriteback : Statement (.cacheWriteback) := device (fun _ => rfl) rfl
theorem registerWrite : Statement (.registerWrite) := device (fun _ => rfl) rfl
theorem destinationUnitWritten : Statement (.destinationUnitWritten) := device (fun _ => rfl) rfl
theorem mgmtCoreReturn : Statement (.mgmtCoreReturn) := device (fun _ => rfl) rfl
theorem mainPowerOff : Statement (.mainPowerOff) := device (fun _ => rfl) rfl
theorem remoteAnswerArrive : Statement (.remoteAnswerArrive) := device (fun _ => rfl) rfl

end Sys2Proof.Laws.Form
end

