-- ==== Sys2Proof/Laws/Decode.lean ====
section
/-! SUPPORT. The fields of the words that the encoder builds, and what the decoder answers for a word
whose fields are known. -/

namespace Sys2Proof

open Sys2Proof.Laws.Form

/-- The class field of an op word. -/
theorem cl_opWord (b : Bool) (k : BitVec 2) (cl g : BitVec 3) (op : BitVec 6) (r : BitVec 17) :
    (opWord b k cl g op r).extractLsb' 26 3 = cl := by
  simp (disch := omega) only [opWord, extract_append_low, extract_append_high, Nat.reduceSub, extract_all]

/-- The guard field of an op word. -/
theorem g_opWord (b : Bool) (k : BitVec 2) (cl g : BitVec 3) (op : BitVec 6) (r : BitVec 17) :
    (opWord b k cl g op r).extractLsb' 23 3 = g := by
  simp (disch := omega) only [opWord, extract_append_low, extract_append_high, Nat.reduceSub, extract_all]

/-- The OP field of an op word. -/
theorem op_opWord (b : Bool) (k : BitVec 2) (cl g : BitVec 3) (op : BitVec 6) (r : BitVec 17) :
    (opWord b k cl g op r).extractLsb' 17 6 = op := by
  simp (disch := omega) only [opWord, extract_append_low, extract_append_high, Nat.reduceSub, extract_all]

/-- A field of the low 17 bits of an op word. -/
theorem low_opWord (b : Bool) (k : BitVec 2) (cl g : BitVec 3) (op : BitVec 6) (r : BitVec 17) (s l : Nat)
    (h : s + l ≤ 17) : (opWord b k cl g op r).extractLsb' s l = r.extractLsb' s l := by
  simp (disch := omega) only [opWord, extract_append_low]

/-- A field of a tail word. -/
theorem low_tailWord (e : BitVec 29) (s l : Nat) (h : s + l ≤ 29) :
    (tailWord e).extractLsb' s l = e.extractLsb' s l := by
  simp (disch := omega) only [tailWord, extract_append_low]

/-- The kind of prefix of a prefix word. -/
theorem pk_prefixWord (b : Bool) (pk : BitVec 3) (r : BitVec 26) : (prefixWord b pk r).extractLsb' 26 3 = pk := by
  simp (disch := omega) only [prefixWord, extract_append_low, extract_append_high, Nat.reduceSub, extract_all]

/-- A field of the low 26 bits of a prefix word. -/
theorem low_prefixWord (b : Bool) (pk : BitVec 3) (r : BitVec 26) (s l : Nat) (h : s + l ≤ 26) :
    (prefixWord b pk r).extractLsb' s l = r.extractLsb' s l := by
  simp (disch := omega) only [prefixWord, extract_append_low]

/-- The checks that a well-formed instruction passes. -/
theorem wellFormed_iff (i : Instr) : i.WellFormed ↔ i.fieldReserved = false ∧ i.formatReserved = false ∧
    i.roundingReserved = false ∧ i.mbzNonzero = false ∧ i.jigReserved = false := by
  unfold Instr.WellFormed Instr.check
  cases i.fieldReserved <;> cases i.formatReserved <;> cases i.roundingReserved <;> cases i.mbzNonzero <;>
    cases i.jigReserved <;> simp

/-- A single-word op is read back, if its class and OP select it. -/
theorem decodeWords_single {i : Instr} {cl g : BitVec 3} {op : BitVec 6} {r : BitVec 17} (b : Bool) (rest : List W32)
    (h : ∀ b, encode b i = [opWord b 0#2 cl g op r]) (hcl : cl.toNat ≠ 7)
    (hd : decodeSingle cl.toNat op.toNat (opWord b 0#2 cl g op r) = some i)
    (hg : i.guardless = true → g = 0#3) (hw : i.WellFormed) :
    decodeWords (encode b i ++ rest) = .ok (b, i, rest) := by
  rw [wellFormed_iff] at hw
  obtain ⟨h1, h2, h3, h4, h5⟩ := hw
  have hj : judgeSingle b i (opWord b 0#2 cl g op r) = .ok () := by
    unfold judgeSingle
    rw [h1, h3, h4, h b, g_opWord]
    cases hgl : i.guardless
    · simp
    · simp [hg hgl]
  rw [h b]
  simp only [List.cons_append, List.nil_append, decodeWords, wordK_opWord, cl_opWord, op_opWord, wordB_opWord]
  rw [show (0#2).toNat = 0 from rfl]
  simp only [hcl, if_false, hd, hj]

/-- A double-word op is read back, if its class and OP select it. -/
theorem decodeWords_double {i : Instr} {cl g : BitVec 3} {op : BitVec 6} {r : BitVec 17} {e : BitVec 29} (b : Bool)
    (rest : List W32) (h : ∀ b, encode b i = [opWord b 1#2 cl g op r, tailWord e]) (hcl : cl.toNat ≠ 7)
    (hd : decodeDouble cl.toNat op.toNat (opWord b 1#2 cl g op r) (tailWord e) = some i)
    (hg : i.guardless = true → g = 0#3) (hw : i.WellFormed) :
    decodeWords (encode b i ++ rest) = .ok (b, i, rest) := by
  rw [wellFormed_iff] at hw
  obtain ⟨h1, h2, h3, h4, h5⟩ := hw
  have hj : judgeDouble b i (opWord b 1#2 cl g op r) (tailWord e) = .ok () := by
    unfold judgeDouble
    rw [h1, h2, h3, h4, h b, g_opWord]
    cases hgl : i.guardless
    · simp
    · simp [hg hgl]
  rw [h b]
  simp only [List.cons_append, List.nil_append, decodeWords, wordK_opWord, cl_opWord, op_opWord, wordB_opWord,
    isTail_tailWord]
  rw [show (1#2).toNat = 1 from rfl]
  simp only [hcl, if_false, hd, hj, Bool.not_true, Bool.false_eq_true]

/-! ### Fields by layout, named by the widths of the parts and the place of the part -/

theorem field_1_4_5_5_2_0 (x0 : BitVec 1) (x1 : BitVec 4) (x2 : BitVec 5) (x3 : BitVec 5) (x4 : BitVec 2) :
    @BitVec.extractLsb' 17 16 1 (x0 ++ x1 ++ x2 ++ x3 ++ x4) = x0 := by
  show @BitVec.extractLsb' (1 + 4 + 5 + 5 + 2) 16 1 (x0 ++ x1 ++ x2 ++ x3 ++ x4) = x0
  simp (disch := omega) only [extract_append_low, extract_append_high, Nat.reduceSub, extract_all]
theorem field_1_4_5_5_2_1 (x0 : BitVec 1) (x1 : BitVec 4) (x2 : BitVec 5) (x3 : BitVec 5) (x4 : BitVec 2) :
    @BitVec.extractLsb' 17 12 4 (x0 ++ x1 ++ x2 ++ x3 ++ x4) = x1 := by
  show @BitVec.extractLsb' (1 + 4 + 5 + 5 + 2) 12 4 (x0 ++ x1 ++ x2 ++ x3 ++ x4) = x1
  simp (disch := omega) only [extract_append_low, extract_append_high, Nat.reduceSub, extract_all]
theorem field_1_4_5_5_2_2 (x0 : BitVec 1) (x1 : BitVec 4) (x2 : BitVec 5) (x3 : BitVec 5) (x4 : BitVec 2) :
    @BitVec.extractLsb' 17 7 5 (x0 ++ x1 ++ x2 ++ x3 ++ x4) = x2 := by
  show @BitVec.extractLsb' (1 + 4 + 5 + 5 + 2) 7 5 (x0 ++ x1 ++ x2 ++ x3 ++ x4) = x2
  simp (disch := omega) only [extract_append_low, extract_append_high, Nat.reduceSub, extract_all]
theorem field_1_4_5_5_2_3 (x0 : BitVec 1) (x1 : BitVec 4) (x2 : BitVec 5) (x3 : BitVec 5) (x4 : BitVec 2) :
    @BitVec.extractLsb' 17 2 5 (x0 ++ x1 ++ x2 ++ x3 ++ x4) = x3 := by
  show @BitVec.extractLsb' (1 + 4 + 5 + 5 + 2) 2 5 (x0 ++ x1 ++ x2 ++ x3 ++ x4) = x3
  simp (disch := omega) only [extract_append_low, extract_append_high, Nat.reduceSub, extract_all]
theorem field_1_4_5_5_2_4 (x0 : BitVec 1) (x1 : BitVec 4) (x2 : BitVec 5) (x3 : BitVec 5) (x4 : BitVec 2) :
    @BitVec.extractLsb' 17 0 2 (x0 ++ x1 ++ x2 ++ x3 ++ x4) = x4 := by
  show @BitVec.extractLsb' (1 + 4 + 5 + 5 + 2) 0 2 (x0 ++ x1 ++ x2 ++ x3 ++ x4) = x4
  simp (disch := omega) only [extract_append_low, extract_append_high, Nat.reduceSub, extract_all]
theorem field_2_3_2_3_2_3_2_0 (x0 : BitVec 2) (x1 : BitVec 3) (x2 : BitVec 2) (x3 : BitVec 3) (x4 : BitVec 2) (x5 : BitVec 3) (x6 : BitVec 2) :
    @BitVec.extractLsb' 17 15 2 (x0 ++ x1 ++ x2 ++ x3 ++ x4 ++ x5 ++ x6) = x0 := by
  show @BitVec.extractLsb' (2 + 3 + 2 + 3 + 2 + 3 + 2) 15 2 (x0 ++ x1 ++ x2 ++ x3 ++ x4 ++ x5 ++ x6) = x0
  simp (disch := omega) only [extract_append_low, extract_append_high, Nat.reduceSub, extract_all]
theorem field_2_3_2_3_2_3_2_1 (x0 : BitVec 2) (x1 : BitVec 3) (x2 : BitVec 2) (x3 : BitVec 3) (x4 : BitVec 2) (x5 : BitVec 3) (x6 : BitVec 2) :
    @BitVec.extractLsb' 17 12 3 (x0 ++ x1 ++ x2 ++ x3 ++ x4 ++ x5 ++ x6) = x1 := by
  show @BitVec.extractLsb' (2 + 3 + 2 + 3 + 2 + 3 + 2) 12 3 (x0 ++ x1 ++ x2 ++ x3 ++ x4 ++ x5 ++ x6) = x1
  simp (disch := omega) only [extract_append_low, extract_append_high, Nat.reduceSub, extract_all]
theorem field_2_3_2_3_2_3_2_2 (x0 : BitVec 2) (x1 : BitVec 3) (x2 : BitVec 2) (x3 : BitVec 3) (x4 : BitVec 2) (x5 : BitVec 3) (x6 : BitVec 2) :
    @BitVec.extractLsb' 17 10 2 (x0 ++ x1 ++ x2 ++ x3 ++ x4 ++ x5 ++ x6) = x2 := by
  show @BitVec.extractLsb' (2 + 3 + 2 + 3 + 2 + 3 + 2) 10 2 (x0 ++ x1 ++ x2 ++ x3 ++ x4 ++ x5 ++ x6) = x2
  simp (disch := omega) only [extract_append_low, extract_append_high, Nat.reduceSub, extract_all]
theorem field_2_3_2_3_2_3_2_3 (x0 : BitVec 2) (x1 : BitVec 3) (x2 : BitVec 2) (x3 : BitVec 3) (x4 : BitVec 2) (x5 : BitVec 3) (x6 : BitVec 2) :
    @BitVec.extractLsb' 17 7 3 (x0 ++ x1 ++ x2 ++ x3 ++ x4 ++ x5 ++ x6) = x3 := by
  show @BitVec.extractLsb' (2 + 3 + 2 + 3 + 2 + 3 + 2) 7 3 (x0 ++ x1 ++ x2 ++ x3 ++ x4 ++ x5 ++ x6) = x3
  simp (disch := omega) only [extract_append_low, extract_append_high, Nat.reduceSub, extract_all]
theorem field_2_3_2_3_2_3_2_4 (x0 : BitVec 2) (x1 : BitVec 3) (x2 : BitVec 2) (x3 : BitVec 3) (x4 : BitVec 2) (x5 : BitVec 3) (x6 : BitVec 2) :
    @BitVec.extractLsb' 17 5 2 (x0 ++ x1 ++ x2 ++ x3 ++ x4 ++ x5 ++ x6) = x4 := by
  show @BitVec.extractLsb' (2 + 3 + 2 + 3 + 2 + 3 + 2) 5 2 (x0 ++ x1 ++ x2 ++ x3 ++ x4 ++ x5 ++ x6) = x4
  simp (disch := omega) only [extract_append_low, extract_append_high, Nat.reduceSub, extract_all]
theorem field_2_3_2_3_2_3_2_5 (x0 : BitVec 2) (x1 : BitVec 3) (x2 : BitVec 2) (x3 : BitVec 3) (x4 : BitVec 2) (x5 : BitVec 3) (x6 : BitVec 2) :
    @BitVec.extractLsb' 17 2 3 (x0 ++ x1 ++ x2 ++ x3 ++ x4 ++ x5 ++ x6) = x5 := by
  show @BitVec.extractLsb' (2 + 3 + 2 + 3 + 2 + 3 + 2) 2 3 (x0 ++ x1 ++ x2 ++ x3 ++ x4 ++ x5 ++ x6) = x5
  simp (disch := omega) only [extract_append_low, extract_append_high, Nat.reduceSub, extract_all]
theorem field_2_3_2_3_2_3_2_6 (x0 : BitVec 2) (x1 : BitVec 3) (x2 : BitVec 2) (x3 : BitVec 3) (x4 : BitVec 2) (x5 : BitVec 3) (x6 : BitVec 2) :
    @BitVec.extractLsb' 17 0 2 (x0 ++ x1 ++ x2 ++ x3 ++ x4 ++ x5 ++ x6) = x6 := by
  show @BitVec.extractLsb' (2 + 3 + 2 + 3 + 2 + 3 + 2) 0 2 (x0 ++ x1 ++ x2 ++ x3 ++ x4 ++ x5 ++ x6) = x6
  simp (disch := omega) only [extract_append_low, extract_append_high, Nat.reduceSub, extract_all]
theorem field_2_3_2_3_7_0 (x0 : BitVec 2) (x1 : BitVec 3) (x2 : BitVec 2) (x3 : BitVec 3) (x4 : BitVec 7) :
    @BitVec.extractLsb' 17 15 2 (x0 ++ x1 ++ x2 ++ x3 ++ x4) = x0 := by
  show @BitVec.extractLsb' (2 + 3 + 2 + 3 + 7) 15 2 (x0 ++ x1 ++ x2 ++ x3 ++ x4) = x0
  simp (disch := omega) only [extract_append_low, extract_append_high, Nat.reduceSub, extract_all]
theorem field_2_3_2_3_7_1 (x0 : BitVec 2) (x1 : BitVec 3) (x2 : BitVec 2) (x3 : BitVec 3) (x4 : BitVec 7) :
    @BitVec.extractLsb' 17 12 3 (x0 ++ x1 ++ x2 ++ x3 ++ x4) = x1 := by
  show @BitVec.extractLsb' (2 + 3 + 2 + 3 + 7) 12 3 (x0 ++ x1 ++ x2 ++ x3 ++ x4) = x1
  simp (disch := omega) only [extract_append_low, extract_append_high, Nat.reduceSub, extract_all]
theorem field_2_3_2_3_7_2 (x0 : BitVec 2) (x1 : BitVec 3) (x2 : BitVec 2) (x3 : BitVec 3) (x4 : BitVec 7) :
    @BitVec.extractLsb' 17 10 2 (x0 ++ x1 ++ x2 ++ x3 ++ x4) = x2 := by
  show @BitVec.extractLsb' (2 + 3 + 2 + 3 + 7) 10 2 (x0 ++ x1 ++ x2 ++ x3 ++ x4) = x2
  simp (disch := omega) only [extract_append_low, extract_append_high, Nat.reduceSub, extract_all]
theorem field_2_3_2_3_7_3 (x0 : BitVec 2) (x1 : BitVec 3) (x2 : BitVec 2) (x3 : BitVec 3) (x4 : BitVec 7) :
    @BitVec.extractLsb' 17 7 3 (x0 ++ x1 ++ x2 ++ x3 ++ x4) = x3 := by
  show @BitVec.extractLsb' (2 + 3 + 2 + 3 + 7) 7 3 (x0 ++ x1 ++ x2 ++ x3 ++ x4) = x3
  simp (disch := omega) only [extract_append_low, extract_append_high, Nat.reduceSub, extract_all]
theorem field_2_3_2_3_7_4 (x0 : BitVec 2) (x1 : BitVec 3) (x2 : BitVec 2) (x3 : BitVec 3) (x4 : BitVec 7) :
    @BitVec.extractLsb' 17 0 7 (x0 ++ x1 ++ x2 ++ x3 ++ x4) = x4 := by
  show @BitVec.extractLsb' (2 + 3 + 2 + 3 + 7) 0 7 (x0 ++ x1 ++ x2 ++ x3 ++ x4) = x4
  simp (disch := omega) only [extract_append_low, extract_append_high, Nat.reduceSub, extract_all]
theorem field_2_3_5_5_2_0 (x0 : BitVec 2) (x1 : BitVec 3) (x2 : BitVec 5) (x3 : BitVec 5) (x4 : BitVec 2) :
    @BitVec.extractLsb' 17 15 2 (x0 ++ x1 ++ x2 ++ x3 ++ x4) = x0 := by
  show @BitVec.extractLsb' (2 + 3 + 5 + 5 + 2) 15 2 (x0 ++ x1 ++ x2 ++ x3 ++ x4) = x0
  simp (disch := omega) only [extract_append_low, extract_append_high, Nat.reduceSub, extract_all]
theorem field_2_3_5_5_2_1 (x0 : BitVec 2) (x1 : BitVec 3) (x2 : BitVec 5) (x3 : BitVec 5) (x4 : BitVec 2) :
    @BitVec.extractLsb' 17 12 3 (x0 ++ x1 ++ x2 ++ x3 ++ x4) = x1 := by
  show @BitVec.extractLsb' (2 + 3 + 5 + 5 + 2) 12 3 (x0 ++ x1 ++ x2 ++ x3 ++ x4) = x1
  simp (disch := omega) only [extract_append_low, extract_append_high, Nat.reduceSub, extract_all]
theorem field_2_3_5_5_2_2 (x0 : BitVec 2) (x1 : BitVec 3) (x2 : BitVec 5) (x3 : BitVec 5) (x4 : BitVec 2) :
    @BitVec.extractLsb' 17 7 5 (x0 ++ x1 ++ x2 ++ x3 ++ x4) = x2 := by
  show @BitVec.extractLsb' (2 + 3 + 5 + 5 + 2) 7 5 (x0 ++ x1 ++ x2 ++ x3 ++ x4) = x2
  simp (disch := omega) only [extract_append_low, extract_append_high, Nat.reduceSub, extract_all]
theorem field_2_3_5_5_2_3 (x0 : BitVec 2) (x1 : BitVec 3) (x2 : BitVec 5) (x3 : BitVec 5) (x4 : BitVec 2) :
    @BitVec.extractLsb' 17 2 5 (x0 ++ x1 ++ x2 ++ x3 ++ x4) = x3 := by
  show @BitVec.extractLsb' (2 + 3 + 5 + 5 + 2) 2 5 (x0 ++ x1 ++ x2 ++ x3 ++ x4) = x3
  simp (disch := omega) only [extract_append_low, extract_append_high, Nat.reduceSub, extract_all]
theorem field_2_3_5_5_2_4 (x0 : BitVec 2) (x1 : BitVec 3) (x2 : BitVec 5) (x3 : BitVec 5) (x4 : BitVec 2) :
    @BitVec.extractLsb' 17 0 2 (x0 ++ x1 ++ x2 ++ x3 ++ x4) = x4 := by
  show @BitVec.extractLsb' (2 + 3 + 5 + 5 + 2) 0 2 (x0 ++ x1 ++ x2 ++ x3 ++ x4) = x4
  simp (disch := omega) only [extract_append_low, extract_append_high, Nat.reduceSub, extract_all]
theorem field_2_3_5_7_0 (x0 : BitVec 2) (x1 : BitVec 3) (x2 : BitVec 5) (x3 : BitVec 7) :
    @BitVec.extractLsb' 17 15 2 (x0 ++ x1 ++ x2 ++ x3) = x0 := by
  show @BitVec.extractLsb' (2 + 3 + 5 + 7) 15 2 (x0 ++ x1 ++ x2 ++ x3) = x0
  simp (disch := omega) only [extract_append_low, extract_append_high, Nat.reduceSub, extract_all]
theorem field_2_3_5_7_1 (x0 : BitVec 2) (x1 : BitVec 3) (x2 : BitVec 5) (x3 : BitVec 7) :
    @BitVec.extractLsb' 17 12 3 (x0 ++ x1 ++ x2 ++ x3) = x1 := by
  show @BitVec.extractLsb' (2 + 3 + 5 + 7) 12 3 (x0 ++ x1 ++ x2 ++ x3) = x1
  simp (disch := omega) only [extract_append_low, extract_append_high, Nat.reduceSub, extract_all]
theorem field_2_3_5_7_2 (x0 : BitVec 2) (x1 : BitVec 3) (x2 : BitVec 5) (x3 : BitVec 7) :
    @BitVec.extractLsb' 17 7 5 (x0 ++ x1 ++ x2 ++ x3) = x2 := by
  show @BitVec.extractLsb' (2 + 3 + 5 + 7) 7 5 (x0 ++ x1 ++ x2 ++ x3) = x2
  simp (disch := omega) only [extract_append_low, extract_append_high, Nat.reduceSub, extract_all]
theorem field_2_3_5_7_3 (x0 : BitVec 2) (x1 : BitVec 3) (x2 : BitVec 5) (x3 : BitVec 7) :
    @BitVec.extractLsb' 17 0 7 (x0 ++ x1 ++ x2 ++ x3) = x3 := by
  show @BitVec.extractLsb' (2 + 3 + 5 + 7) 0 7 (x0 ++ x1 ++ x2 ++ x3) = x3
  simp (disch := omega) only [extract_append_low, extract_append_high, Nat.reduceSub, extract_all]
theorem field_2_3_12_0 (x0 : BitVec 2) (x1 : BitVec 3) (x2 : BitVec 12) :
    @BitVec.extractLsb' 17 15 2 (x0 ++ x1 ++ x2) = x0 := by
  show @BitVec.extractLsb' (2 + 3 + 12) 15 2 (x0 ++ x1 ++ x2) = x0
  simp (disch := omega) only [extract_append_low, extract_append_high, Nat.reduceSub, extract_all]
theorem field_2_3_12_1 (x0 : BitVec 2) (x1 : BitVec 3) (x2 : BitVec 12) :
    @BitVec.extractLsb' 17 12 3 (x0 ++ x1 ++ x2) = x1 := by
  show @BitVec.extractLsb' (2 + 3 + 12) 12 3 (x0 ++ x1 ++ x2) = x1
  simp (disch := omega) only [extract_append_low, extract_append_high, Nat.reduceSub, extract_all]
theorem field_2_3_12_2 (x0 : BitVec 2) (x1 : BitVec 3) (x2 : BitVec 12) :
    @BitVec.extractLsb' 17 0 12 (x0 ++ x1 ++ x2) = x2 := by
  show @BitVec.extractLsb' (2 + 3 + 12) 0 12 (x0 ++ x1 ++ x2) = x2
  simp (disch := omega) only [extract_append_low, extract_append_high, Nat.reduceSub, extract_all]
theorem field_2_15_0 (x0 : BitVec 2) (x1 : BitVec 15) :
    @BitVec.extractLsb' 17 15 2 (x0 ++ x1) = x0 := by
  show @BitVec.extractLsb' (2 + 15) 15 2 (x0 ++ x1) = x0
  simp (disch := omega) only [extract_append_low, extract_append_high, Nat.reduceSub, extract_all]
theorem field_2_15_1 (x0 : BitVec 2) (x1 : BitVec 15) :
    @BitVec.extractLsb' 17 0 15 (x0 ++ x1) = x1 := by
  show @BitVec.extractLsb' (2 + 15) 0 15 (x0 ++ x1) = x1
  simp (disch := omega) only [extract_append_low, extract_append_high, Nat.reduceSub, extract_all]
theorem field_3_2_5_5_2_0 (x0 : BitVec 3) (x1 : BitVec 2) (x2 : BitVec 5) (x3 : BitVec 5) (x4 : BitVec 2) :
    @BitVec.extractLsb' 17 14 3 (x0 ++ x1 ++ x2 ++ x3 ++ x4) = x0 := by
  show @BitVec.extractLsb' (3 + 2 + 5 + 5 + 2) 14 3 (x0 ++ x1 ++ x2 ++ x3 ++ x4) = x0
  simp (disch := omega) only [extract_append_low, extract_append_high, Nat.reduceSub, extract_all]
theorem field_3_2_5_5_2_1 (x0 : BitVec 3) (x1 : BitVec 2) (x2 : BitVec 5) (x3 : BitVec 5) (x4 : BitVec 2) :
    @BitVec.extractLsb' 17 12 2 (x0 ++ x1 ++ x2 ++ x3 ++ x4) = x1 := by
  show @BitVec.extractLsb' (3 + 2 + 5 + 5 + 2) 12 2 (x0 ++ x1 ++ x2 ++ x3 ++ x4) = x1
  simp (disch := omega) only [extract_append_low, extract_append_high, Nat.reduceSub, extract_all]
theorem field_3_2_5_5_2_2 (x0 : BitVec 3) (x1 : BitVec 2) (x2 : BitVec 5) (x3 : BitVec 5) (x4 : BitVec 2) :
    @BitVec.extractLsb' 17 7 5 (x0 ++ x1 ++ x2 ++ x3 ++ x4) = x2 := by
  show @BitVec.extractLsb' (3 + 2 + 5 + 5 + 2) 7 5 (x0 ++ x1 ++ x2 ++ x3 ++ x4) = x2
  simp (disch := omega) only [extract_append_low, extract_append_high, Nat.reduceSub, extract_all]
theorem field_3_2_5_5_2_3 (x0 : BitVec 3) (x1 : BitVec 2) (x2 : BitVec 5) (x3 : BitVec 5) (x4 : BitVec 2) :
    @BitVec.extractLsb' 17 2 5 (x0 ++ x1 ++ x2 ++ x3 ++ x4) = x3 := by
  show @BitVec.extractLsb' (3 + 2 + 5 + 5 + 2) 2 5 (x0 ++ x1 ++ x2 ++ x3 ++ x4) = x3
  simp (disch := omega) only [extract_append_low, extract_append_high, Nat.reduceSub, extract_all]
theorem field_3_2_5_5_2_4 (x0 : BitVec 3) (x1 : BitVec 2) (x2 : BitVec 5) (x3 : BitVec 5) (x4 : BitVec 2) :
    @BitVec.extractLsb' 17 0 2 (x0 ++ x1 ++ x2 ++ x3 ++ x4) = x4 := by
  show @BitVec.extractLsb' (3 + 2 + 5 + 5 + 2) 0 2 (x0 ++ x1 ++ x2 ++ x3 ++ x4) = x4
  simp (disch := omega) only [extract_append_low, extract_append_high, Nat.reduceSub, extract_all]
theorem field_3_2_5_7_0 (x0 : BitVec 3) (x1 : BitVec 2) (x2 : BitVec 5) (x3 : BitVec 7) :
    @BitVec.extractLsb' 17 14 3 (x0 ++ x1 ++ x2 ++ x3) = x0 := by
  show @BitVec.extractLsb' (3 + 2 + 5 + 7) 14 3 (x0 ++ x1 ++ x2 ++ x3) = x0
  simp (disch := omega) only [extract_append_low, extract_append_high, Nat.reduceSub, extract_all]
theorem field_3_2_5_7_1 (x0 : BitVec 3) (x1 : BitVec 2) (x2 : BitVec 5) (x3 : BitVec 7) :
    @BitVec.extractLsb' 17 12 2 (x0 ++ x1 ++ x2 ++ x3) = x1 := by
  show @BitVec.extractLsb' (3 + 2 + 5 + 7) 12 2 (x0 ++ x1 ++ x2 ++ x3) = x1
  simp (disch := omega) only [extract_append_low, extract_append_high, Nat.reduceSub, extract_all]
theorem field_3_2_5_7_2 (x0 : BitVec 3) (x1 : BitVec 2) (x2 : BitVec 5) (x3 : BitVec 7) :
    @BitVec.extractLsb' 17 7 5 (x0 ++ x1 ++ x2 ++ x3) = x2 := by
  show @BitVec.extractLsb' (3 + 2 + 5 + 7) 7 5 (x0 ++ x1 ++ x2 ++ x3) = x2
  simp (disch := omega) only [extract_append_low, extract_append_high, Nat.reduceSub, extract_all]
theorem field_3_2_5_7_3 (x0 : BitVec 3) (x1 : BitVec 2) (x2 : BitVec 5) (x3 : BitVec 7) :
    @BitVec.extractLsb' 17 0 7 (x0 ++ x1 ++ x2 ++ x3) = x3 := by
  show @BitVec.extractLsb' (3 + 2 + 5 + 7) 0 7 (x0 ++ x1 ++ x2 ++ x3) = x3
  simp (disch := omega) only [extract_append_low, extract_append_high, Nat.reduceSub, extract_all]
theorem field_5_1_4_5_2_0 (x0 : BitVec 5) (x1 : BitVec 1) (x2 : BitVec 4) (x3 : BitVec 5) (x4 : BitVec 2) :
    @BitVec.extractLsb' 17 12 5 (x0 ++ x1 ++ x2 ++ x3 ++ x4) = x0 := by
  show @BitVec.extractLsb' (5 + 1 + 4 + 5 + 2) 12 5 (x0 ++ x1 ++ x2 ++ x3 ++ x4) = x0
  simp (disch := omega) only [extract_append_low, extract_append_high, Nat.reduceSub, extract_all]
theorem field_5_1_4_5_2_1 (x0 : BitVec 5) (x1 : BitVec 1) (x2 : BitVec 4) (x3 : BitVec 5) (x4 : BitVec 2) :
    @BitVec.extractLsb' 17 11 1 (x0 ++ x1 ++ x2 ++ x3 ++ x4) = x1 := by
  show @BitVec.extractLsb' (5 + 1 + 4 + 5 + 2) 11 1 (x0 ++ x1 ++ x2 ++ x3 ++ x4) = x1
  simp (disch := omega) only [extract_append_low, extract_append_high, Nat.reduceSub, extract_all]
theorem field_5_1_4_5_2_2 (x0 : BitVec 5) (x1 : BitVec 1) (x2 : BitVec 4) (x3 : BitVec 5) (x4 : BitVec 2) :
    @BitVec.extractLsb' 17 7 4 (x0 ++ x1 ++ x2 ++ x3 ++ x4) = x2 := by
  show @BitVec.extractLsb' (5 + 1 + 4 + 5 + 2) 7 4 (x0 ++ x1 ++ x2 ++ x3 ++ x4) = x2
  simp (disch := omega) only [extract_append_low, extract_append_high, Nat.reduceSub, extract_all]
theorem field_5_1_4_5_2_3 (x0 : BitVec 5) (x1 : BitVec 1) (x2 : BitVec 4) (x3 : BitVec 5) (x4 : BitVec 2) :
    @BitVec.extractLsb' 17 2 5 (x0 ++ x1 ++ x2 ++ x3 ++ x4) = x3 := by
  show @BitVec.extractLsb' (5 + 1 + 4 + 5 + 2) 2 5 (x0 ++ x1 ++ x2 ++ x3 ++ x4) = x3
  simp (disch := omega) only [extract_append_low, extract_append_high, Nat.reduceSub, extract_all]
theorem field_5_1_4_5_2_4 (x0 : BitVec 5) (x1 : BitVec 1) (x2 : BitVec 4) (x3 : BitVec 5) (x4 : BitVec 2) :
    @BitVec.extractLsb' 17 0 2 (x0 ++ x1 ++ x2 ++ x3 ++ x4) = x4 := by
  show @BitVec.extractLsb' (5 + 1 + 4 + 5 + 2) 0 2 (x0 ++ x1 ++ x2 ++ x3 ++ x4) = x4
  simp (disch := omega) only [extract_append_low, extract_append_high, Nat.reduceSub, extract_all]
theorem field_5_1_4_7_0 (x0 : BitVec 5) (x1 : BitVec 1) (x2 : BitVec 4) (x3 : BitVec 7) :
    @BitVec.extractLsb' 17 12 5 (x0 ++ x1 ++ x2 ++ x3) = x0 := by
  show @BitVec.extractLsb' (5 + 1 + 4 + 7) 12 5 (x0 ++ x1 ++ x2 ++ x3) = x0
  simp (disch := omega) only [extract_append_low, extract_append_high, Nat.reduceSub, extract_all]
theorem field_5_1_4_7_1 (x0 : BitVec 5) (x1 : BitVec 1) (x2 : BitVec 4) (x3 : BitVec 7) :
    @BitVec.extractLsb' 17 11 1 (x0 ++ x1 ++ x2 ++ x3) = x1 := by
  show @BitVec.extractLsb' (5 + 1 + 4 + 7) 11 1 (x0 ++ x1 ++ x2 ++ x3) = x1
  simp (disch := omega) only [extract_append_low, extract_append_high, Nat.reduceSub, extract_all]
theorem field_5_1_4_7_2 (x0 : BitVec 5) (x1 : BitVec 1) (x2 : BitVec 4) (x3 : BitVec 7) :
    @BitVec.extractLsb' 17 7 4 (x0 ++ x1 ++ x2 ++ x3) = x2 := by
  show @BitVec.extractLsb' (5 + 1 + 4 + 7) 7 4 (x0 ++ x1 ++ x2 ++ x3) = x2
  simp (disch := omega) only [extract_append_low, extract_append_high, Nat.reduceSub, extract_all]
theorem field_5_1_4_7_3 (x0 : BitVec 5) (x1 : BitVec 1) (x2 : BitVec 4) (x3 : BitVec 7) :
    @BitVec.extractLsb' 17 0 7 (x0 ++ x1 ++ x2 ++ x3) = x3 := by
  show @BitVec.extractLsb' (5 + 1 + 4 + 7) 0 7 (x0 ++ x1 ++ x2 ++ x3) = x3
  simp (disch := omega) only [extract_append_low, extract_append_high, Nat.reduceSub, extract_all]
theorem field_5_2_3_7_0 (x0 : BitVec 5) (x1 : BitVec 2) (x2 : BitVec 3) (x3 : BitVec 7) :
    @BitVec.extractLsb' 17 12 5 (x0 ++ x1 ++ x2 ++ x3) = x0 := by
  show @BitVec.extractLsb' (5 + 2 + 3 + 7) 12 5 (x0 ++ x1 ++ x2 ++ x3) = x0
  simp (disch := omega) only [extract_append_low, extract_append_high, Nat.reduceSub, extract_all]
theorem field_5_2_3_7_1 (x0 : BitVec 5) (x1 : BitVec 2) (x2 : BitVec 3) (x3 : BitVec 7) :
    @BitVec.extractLsb' 17 10 2 (x0 ++ x1 ++ x2 ++ x3) = x1 := by
  show @BitVec.extractLsb' (5 + 2 + 3 + 7) 10 2 (x0 ++ x1 ++ x2 ++ x3) = x1
  simp (disch := omega) only [extract_append_low, extract_append_high, Nat.reduceSub, extract_all]
theorem field_5_2_3_7_2 (x0 : BitVec 5) (x1 : BitVec 2) (x2 : BitVec 3) (x3 : BitVec 7) :
    @BitVec.extractLsb' 17 7 3 (x0 ++ x1 ++ x2 ++ x3) = x2 := by
  show @BitVec.extractLsb' (5 + 2 + 3 + 7) 7 3 (x0 ++ x1 ++ x2 ++ x3) = x2
  simp (disch := omega) only [extract_append_low, extract_append_high, Nat.reduceSub, extract_all]
theorem field_5_2_3_7_3 (x0 : BitVec 5) (x1 : BitVec 2) (x2 : BitVec 3) (x3 : BitVec 7) :
    @BitVec.extractLsb' 17 0 7 (x0 ++ x1 ++ x2 ++ x3) = x3 := by
  show @BitVec.extractLsb' (5 + 2 + 3 + 7) 0 7 (x0 ++ x1 ++ x2 ++ x3) = x3
  simp (disch := omega) only [extract_append_low, extract_append_high, Nat.reduceSub, extract_all]
theorem field_5_3_2_7_0 (x0 : BitVec 5) (x1 : BitVec 3) (x2 : BitVec 2) (x3 : BitVec 7) :
    @BitVec.extractLsb' 17 12 5 (x0 ++ x1 ++ x2 ++ x3) = x0 := by
  show @BitVec.extractLsb' (5 + 3 + 2 + 7) 12 5 (x0 ++ x1 ++ x2 ++ x3) = x0
  simp (disch := omega) only [extract_append_low, extract_append_high, Nat.reduceSub, extract_all]
theorem field_5_3_2_7_1 (x0 : BitVec 5) (x1 : BitVec 3) (x2 : BitVec 2) (x3 : BitVec 7) :
    @BitVec.extractLsb' 17 9 3 (x0 ++ x1 ++ x2 ++ x3) = x1 := by
  show @BitVec.extractLsb' (5 + 3 + 2 + 7) 9 3 (x0 ++ x1 ++ x2 ++ x3) = x1
  simp (disch := omega) only [extract_append_low, extract_append_high, Nat.reduceSub, extract_all]
theorem field_5_3_2_7_2 (x0 : BitVec 5) (x1 : BitVec 3) (x2 : BitVec 2) (x3 : BitVec 7) :
    @BitVec.extractLsb' 17 7 2 (x0 ++ x1 ++ x2 ++ x3) = x2 := by
  show @BitVec.extractLsb' (5 + 3 + 2 + 7) 7 2 (x0 ++ x1 ++ x2 ++ x3) = x2
  simp (disch := omega) only [extract_append_low, extract_append_high, Nat.reduceSub, extract_all]
theorem field_5_3_2_7_3 (x0 : BitVec 5) (x1 : BitVec 3) (x2 : BitVec 2) (x3 : BitVec 7) :
    @BitVec.extractLsb' 17 0 7 (x0 ++ x1 ++ x2 ++ x3) = x3 := by
  show @BitVec.extractLsb' (5 + 3 + 2 + 7) 0 7 (x0 ++ x1 ++ x2 ++ x3) = x3
  simp (disch := omega) only [extract_append_low, extract_append_high, Nat.reduceSub, extract_all]
theorem field_5_4_8_0 (x0 : BitVec 5) (x1 : BitVec 4) (x2 : BitVec 8) :
    @BitVec.extractLsb' 17 12 5 (x0 ++ x1 ++ x2) = x0 := by
  show @BitVec.extractLsb' (5 + 4 + 8) 12 5 (x0 ++ x1 ++ x2) = x0
  simp (disch := omega) only [extract_append_low, extract_append_high, Nat.reduceSub, extract_all]
theorem field_5_4_8_1 (x0 : BitVec 5) (x1 : BitVec 4) (x2 : BitVec 8) :
    @BitVec.extractLsb' 17 8 4 (x0 ++ x1 ++ x2) = x1 := by
  show @BitVec.extractLsb' (5 + 4 + 8) 8 4 (x0 ++ x1 ++ x2) = x1
  simp (disch := omega) only [extract_append_low, extract_append_high, Nat.reduceSub, extract_all]
theorem field_5_4_8_2 (x0 : BitVec 5) (x1 : BitVec 4) (x2 : BitVec 8) :
    @BitVec.extractLsb' 17 0 8 (x0 ++ x1 ++ x2) = x2 := by
  show @BitVec.extractLsb' (5 + 4 + 8) 0 8 (x0 ++ x1 ++ x2) = x2
  simp (disch := omega) only [extract_append_low, extract_append_high, Nat.reduceSub, extract_all]
theorem field_5_5_1_6_0 (x0 : BitVec 5) (x1 : BitVec 5) (x2 : BitVec 1) (x3 : BitVec 6) :
    @BitVec.extractLsb' 17 12 5 (x0 ++ x1 ++ x2 ++ x3) = x0 := by
  show @BitVec.extractLsb' (5 + 5 + 1 + 6) 12 5 (x0 ++ x1 ++ x2 ++ x3) = x0
  simp (disch := omega) only [extract_append_low, extract_append_high, Nat.reduceSub, extract_all]
theorem field_5_5_1_6_1 (x0 : BitVec 5) (x1 : BitVec 5) (x2 : BitVec 1) (x3 : BitVec 6) :
    @BitVec.extractLsb' 17 7 5 (x0 ++ x1 ++ x2 ++ x3) = x1 := by
  show @BitVec.extractLsb' (5 + 5 + 1 + 6) 7 5 (x0 ++ x1 ++ x2 ++ x3) = x1
  simp (disch := omega) only [extract_append_low, extract_append_high, Nat.reduceSub, extract_all]
theorem field_5_5_1_6_2 (x0 : BitVec 5) (x1 : BitVec 5) (x2 : BitVec 1) (x3 : BitVec 6) :
    @BitVec.extractLsb' 17 6 1 (x0 ++ x1 ++ x2 ++ x3) = x2 := by
  show @BitVec.extractLsb' (5 + 5 + 1 + 6) 6 1 (x0 ++ x1 ++ x2 ++ x3) = x2
  simp (disch := omega) only [extract_append_low, extract_append_high, Nat.reduceSub, extract_all]
theorem field_5_5_1_6_3 (x0 : BitVec 5) (x1 : BitVec 5) (x2 : BitVec 1) (x3 : BitVec 6) :
    @BitVec.extractLsb' 17 0 6 (x0 ++ x1 ++ x2 ++ x3) = x3 := by
  show @BitVec.extractLsb' (5 + 5 + 1 + 6) 0 6 (x0 ++ x1 ++ x2 ++ x3) = x3
  simp (disch := omega) only [extract_append_low, extract_append_high, Nat.reduceSub, extract_all]
theorem field_5_5_5_1_1_0 (x0 : BitVec 5) (x1 : BitVec 5) (x2 : BitVec 5) (x3 : BitVec 1) (x4 : BitVec 1) :
    @BitVec.extractLsb' 17 12 5 (x0 ++ x1 ++ x2 ++ x3 ++ x4) = x0 := by
  show @BitVec.extractLsb' (5 + 5 + 5 + 1 + 1) 12 5 (x0 ++ x1 ++ x2 ++ x3 ++ x4) = x0
  simp (disch := omega) only [extract_append_low, extract_append_high, Nat.reduceSub, extract_all]
theorem field_5_5_5_1_1_1 (x0 : BitVec 5) (x1 : BitVec 5) (x2 : BitVec 5) (x3 : BitVec 1) (x4 : BitVec 1) :
    @BitVec.extractLsb' 17 7 5 (x0 ++ x1 ++ x2 ++ x3 ++ x4) = x1 := by
  show @BitVec.extractLsb' (5 + 5 + 5 + 1 + 1) 7 5 (x0 ++ x1 ++ x2 ++ x3 ++ x4) = x1
  simp (disch := omega) only [extract_append_low, extract_append_high, Nat.reduceSub, extract_all]
theorem field_5_5_5_1_1_2 (x0 : BitVec 5) (x1 : BitVec 5) (x2 : BitVec 5) (x3 : BitVec 1) (x4 : BitVec 1) :
    @BitVec.extractLsb' 17 2 5 (x0 ++ x1 ++ x2 ++ x3 ++ x4) = x2 := by
  show @BitVec.extractLsb' (5 + 5 + 5 + 1 + 1) 2 5 (x0 ++ x1 ++ x2 ++ x3 ++ x4) = x2
  simp (disch := omega) only [extract_append_low, extract_append_high, Nat.reduceSub, extract_all]
theorem field_5_5_5_1_1_3 (x0 : BitVec 5) (x1 : BitVec 5) (x2 : BitVec 5) (x3 : BitVec 1) (x4 : BitVec 1) :
    @BitVec.extractLsb' 17 1 1 (x0 ++ x1 ++ x2 ++ x3 ++ x4) = x3 := by
  show @BitVec.extractLsb' (5 + 5 + 5 + 1 + 1) 1 1 (x0 ++ x1 ++ x2 ++ x3 ++ x4) = x3
  simp (disch := omega) only [extract_append_low, extract_append_high, Nat.reduceSub, extract_all]
theorem field_5_5_5_1_1_4 (x0 : BitVec 5) (x1 : BitVec 5) (x2 : BitVec 5) (x3 : BitVec 1) (x4 : BitVec 1) :
    @BitVec.extractLsb' 17 0 1 (x0 ++ x1 ++ x2 ++ x3 ++ x4) = x4 := by
  show @BitVec.extractLsb' (5 + 5 + 5 + 1 + 1) 0 1 (x0 ++ x1 ++ x2 ++ x3 ++ x4) = x4
  simp (disch := omega) only [extract_append_low, extract_append_high, Nat.reduceSub, extract_all]
theorem field_5_5_5_2_0 (x0 : BitVec 5) (x1 : BitVec 5) (x2 : BitVec 5) (x3 : BitVec 2) :
    @BitVec.extractLsb' 17 12 5 (x0 ++ x1 ++ x2 ++ x3) = x0 := by
  show @BitVec.extractLsb' (5 + 5 + 5 + 2) 12 5 (x0 ++ x1 ++ x2 ++ x3) = x0
  simp (disch := omega) only [extract_append_low, extract_append_high, Nat.reduceSub, extract_all]
theorem field_5_5_5_2_1 (x0 : BitVec 5) (x1 : BitVec 5) (x2 : BitVec 5) (x3 : BitVec 2) :
    @BitVec.extractLsb' 17 7 5 (x0 ++ x1 ++ x2 ++ x3) = x1 := by
  show @BitVec.extractLsb' (5 + 5 + 5 + 2) 7 5 (x0 ++ x1 ++ x2 ++ x3) = x1
  simp (disch := omega) only [extract_append_low, extract_append_high, Nat.reduceSub, extract_all]
theorem field_5_5_5_2_2 (x0 : BitVec 5) (x1 : BitVec 5) (x2 : BitVec 5) (x3 : BitVec 2) :
    @BitVec.extractLsb' 17 2 5 (x0 ++ x1 ++ x2 ++ x3) = x2 := by
  show @BitVec.extractLsb' (5 + 5 + 5 + 2) 2 5 (x0 ++ x1 ++ x2 ++ x3) = x2
  simp (disch := omega) only [extract_append_low, extract_append_high, Nat.reduceSub, extract_all]
theorem field_5_5_5_2_3 (x0 : BitVec 5) (x1 : BitVec 5) (x2 : BitVec 5) (x3 : BitVec 2) :
    @BitVec.extractLsb' 17 0 2 (x0 ++ x1 ++ x2 ++ x3) = x3 := by
  show @BitVec.extractLsb' (5 + 5 + 5 + 2) 0 2 (x0 ++ x1 ++ x2 ++ x3) = x3
  simp (disch := omega) only [extract_append_low, extract_append_high, Nat.reduceSub, extract_all]
theorem field_5_5_7_0 (x0 : BitVec 5) (x1 : BitVec 5) (x2 : BitVec 7) :
    @BitVec.extractLsb' 17 12 5 (x0 ++ x1 ++ x2) = x0 := by
  show @BitVec.extractLsb' (5 + 5 + 7) 12 5 (x0 ++ x1 ++ x2) = x0
  simp (disch := omega) only [extract_append_low, extract_append_high, Nat.reduceSub, extract_all]
theorem field_5_5_7_1 (x0 : BitVec 5) (x1 : BitVec 5) (x2 : BitVec 7) :
    @BitVec.extractLsb' 17 7 5 (x0 ++ x1 ++ x2) = x1 := by
  show @BitVec.extractLsb' (5 + 5 + 7) 7 5 (x0 ++ x1 ++ x2) = x1
  simp (disch := omega) only [extract_append_low, extract_append_high, Nat.reduceSub, extract_all]
theorem field_5_5_7_2 (x0 : BitVec 5) (x1 : BitVec 5) (x2 : BitVec 7) :
    @BitVec.extractLsb' 17 0 7 (x0 ++ x1 ++ x2) = x2 := by
  show @BitVec.extractLsb' (5 + 5 + 7) 0 7 (x0 ++ x1 ++ x2) = x2
  simp (disch := omega) only [extract_append_low, extract_append_high, Nat.reduceSub, extract_all]
theorem field_5_10_2_0 (x0 : BitVec 5) (x1 : BitVec 10) (x2 : BitVec 2) :
    @BitVec.extractLsb' 17 12 5 (x0 ++ x1 ++ x2) = x0 := by
  show @BitVec.extractLsb' (5 + 10 + 2) 12 5 (x0 ++ x1 ++ x2) = x0
  simp (disch := omega) only [extract_append_low, extract_append_high, Nat.reduceSub, extract_all]
theorem field_5_10_2_1 (x0 : BitVec 5) (x1 : BitVec 10) (x2 : BitVec 2) :
    @BitVec.extractLsb' 17 2 10 (x0 ++ x1 ++ x2) = x1 := by
  show @BitVec.extractLsb' (5 + 10 + 2) 2 10 (x0 ++ x1 ++ x2) = x1
  simp (disch := omega) only [extract_append_low, extract_append_high, Nat.reduceSub, extract_all]
theorem field_5_10_2_2 (x0 : BitVec 5) (x1 : BitVec 10) (x2 : BitVec 2) :
    @BitVec.extractLsb' 17 0 2 (x0 ++ x1 ++ x2) = x2 := by
  show @BitVec.extractLsb' (5 + 10 + 2) 0 2 (x0 ++ x1 ++ x2) = x2
  simp (disch := omega) only [extract_append_low, extract_append_high, Nat.reduceSub, extract_all]
theorem field_5_12_0 (x0 : BitVec 5) (x1 : BitVec 12) :
    @BitVec.extractLsb' 17 12 5 (x0 ++ x1) = x0 := by
  show @BitVec.extractLsb' (5 + 12) 12 5 (x0 ++ x1) = x0
  simp (disch := omega) only [extract_append_low, extract_append_high, Nat.reduceSub, extract_all]
theorem field_5_12_1 (x0 : BitVec 5) (x1 : BitVec 12) :
    @BitVec.extractLsb' 17 0 12 (x0 ++ x1) = x1 := by
  show @BitVec.extractLsb' (5 + 12) 0 12 (x0 ++ x1) = x1
  simp (disch := omega) only [extract_append_low, extract_append_high, Nat.reduceSub, extract_all]
theorem field_10_7_0 (x0 : BitVec 10) (x1 : BitVec 7) :
    @BitVec.extractLsb' 17 7 10 (x0 ++ x1) = x0 := by
  show @BitVec.extractLsb' (10 + 7) 7 10 (x0 ++ x1) = x0
  simp (disch := omega) only [extract_append_low, extract_append_high, Nat.reduceSub, extract_all]
theorem field_10_7_1 (x0 : BitVec 10) (x1 : BitVec 7) :
    @BitVec.extractLsb' 17 0 7 (x0 ++ x1) = x1 := by
  show @BitVec.extractLsb' (10 + 7) 0 7 (x0 ++ x1) = x1
  simp (disch := omega) only [extract_append_low, extract_append_high, Nat.reduceSub, extract_all]
theorem field_11_6_0 (x0 : BitVec 11) (x1 : BitVec 6) :
    @BitVec.extractLsb' 17 6 11 (x0 ++ x1) = x0 := by
  show @BitVec.extractLsb' (11 + 6) 6 11 (x0 ++ x1) = x0
  simp (disch := omega) only [extract_append_low, extract_append_high, Nat.reduceSub, extract_all]
theorem field_11_6_1 (x0 : BitVec 11) (x1 : BitVec 6) :
    @BitVec.extractLsb' 17 0 6 (x0 ++ x1) = x1 := by
  show @BitVec.extractLsb' (11 + 6) 0 6 (x0 ++ x1) = x1
  simp (disch := omega) only [extract_append_low, extract_append_high, Nat.reduceSub, extract_all]
theorem field_3_2_1_20_0 (x0 : BitVec 3) (x1 : BitVec 2) (x2 : BitVec 1) (x3 : BitVec 20) :
    @BitVec.extractLsb' 26 23 3 (x0 ++ x1 ++ x2 ++ x3) = x0 := by
  show @BitVec.extractLsb' (3 + 2 + 1 + 20) 23 3 (x0 ++ x1 ++ x2 ++ x3) = x0
  simp (disch := omega) only [extract_append_low, extract_append_high, Nat.reduceSub, extract_all]
theorem field_3_2_1_20_1 (x0 : BitVec 3) (x1 : BitVec 2) (x2 : BitVec 1) (x3 : BitVec 20) :
    @BitVec.extractLsb' 26 21 2 (x0 ++ x1 ++ x2 ++ x3) = x1 := by
  show @BitVec.extractLsb' (3 + 2 + 1 + 20) 21 2 (x0 ++ x1 ++ x2 ++ x3) = x1
  simp (disch := omega) only [extract_append_low, extract_append_high, Nat.reduceSub, extract_all]
theorem field_3_2_1_20_2 (x0 : BitVec 3) (x1 : BitVec 2) (x2 : BitVec 1) (x3 : BitVec 20) :
    @BitVec.extractLsb' 26 20 1 (x0 ++ x1 ++ x2 ++ x3) = x2 := by
  show @BitVec.extractLsb' (3 + 2 + 1 + 20) 20 1 (x0 ++ x1 ++ x2 ++ x3) = x2
  simp (disch := omega) only [extract_append_low, extract_append_high, Nat.reduceSub, extract_all]
theorem field_3_2_1_20_3 (x0 : BitVec 3) (x1 : BitVec 2) (x2 : BitVec 1) (x3 : BitVec 20) :
    @BitVec.extractLsb' 26 0 20 (x0 ++ x1 ++ x2 ++ x3) = x3 := by
  show @BitVec.extractLsb' (3 + 2 + 1 + 20) 0 20 (x0 ++ x1 ++ x2 ++ x3) = x3
  simp (disch := omega) only [extract_append_low, extract_append_high, Nat.reduceSub, extract_all]
theorem field_3_2_2_1_4_1_13_0 (x0 : BitVec 3) (x1 : BitVec 2) (x2 : BitVec 2) (x3 : BitVec 1) (x4 : BitVec 4) (x5 : BitVec 1) (x6 : BitVec 13) :
    @BitVec.extractLsb' 26 23 3 (x0 ++ x1 ++ x2 ++ x3 ++ x4 ++ x5 ++ x6) = x0 := by
  show @BitVec.extractLsb' (3 + 2 + 2 + 1 + 4 + 1 + 13) 23 3 (x0 ++ x1 ++ x2 ++ x3 ++ x4 ++ x5 ++ x6) = x0
  simp (disch := omega) only [extract_append_low, extract_append_high, Nat.reduceSub, extract_all]
theorem field_3_2_2_1_4_1_13_1 (x0 : BitVec 3) (x1 : BitVec 2) (x2 : BitVec 2) (x3 : BitVec 1) (x4 : BitVec 4) (x5 : BitVec 1) (x6 : BitVec 13) :
    @BitVec.extractLsb' 26 21 2 (x0 ++ x1 ++ x2 ++ x3 ++ x4 ++ x5 ++ x6) = x1 := by
  show @BitVec.extractLsb' (3 + 2 + 2 + 1 + 4 + 1 + 13) 21 2 (x0 ++ x1 ++ x2 ++ x3 ++ x4 ++ x5 ++ x6) = x1
  simp (disch := omega) only [extract_append_low, extract_append_high, Nat.reduceSub, extract_all]
theorem field_3_2_2_1_4_1_13_2 (x0 : BitVec 3) (x1 : BitVec 2) (x2 : BitVec 2) (x3 : BitVec 1) (x4 : BitVec 4) (x5 : BitVec 1) (x6 : BitVec 13) :
    @BitVec.extractLsb' 26 19 2 (x0 ++ x1 ++ x2 ++ x3 ++ x4 ++ x5 ++ x6) = x2 := by
  show @BitVec.extractLsb' (3 + 2 + 2 + 1 + 4 + 1 + 13) 19 2 (x0 ++ x1 ++ x2 ++ x3 ++ x4 ++ x5 ++ x6) = x2
  simp (disch := omega) only [extract_append_low, extract_append_high, Nat.reduceSub, extract_all]
theorem field_3_2_2_1_4_1_13_3 (x0 : BitVec 3) (x1 : BitVec 2) (x2 : BitVec 2) (x3 : BitVec 1) (x4 : BitVec 4) (x5 : BitVec 1) (x6 : BitVec 13) :
    @BitVec.extractLsb' 26 18 1 (x0 ++ x1 ++ x2 ++ x3 ++ x4 ++ x5 ++ x6) = x3 := by
  show @BitVec.extractLsb' (3 + 2 + 2 + 1 + 4 + 1 + 13) 18 1 (x0 ++ x1 ++ x2 ++ x3 ++ x4 ++ x5 ++ x6) = x3
  simp (disch := omega) only [extract_append_low, extract_append_high, Nat.reduceSub, extract_all]
theorem field_3_2_2_1_4_1_13_4 (x0 : BitVec 3) (x1 : BitVec 2) (x2 : BitVec 2) (x3 : BitVec 1) (x4 : BitVec 4) (x5 : BitVec 1) (x6 : BitVec 13) :
    @BitVec.extractLsb' 26 14 4 (x0 ++ x1 ++ x2 ++ x3 ++ x4 ++ x5 ++ x6) = x4 := by
  show @BitVec.extractLsb' (3 + 2 + 2 + 1 + 4 + 1 + 13) 14 4 (x0 ++ x1 ++ x2 ++ x3 ++ x4 ++ x5 ++ x6) = x4
  simp (disch := omega) only [extract_append_low, extract_append_high, Nat.reduceSub, extract_all]
theorem field_3_2_2_1_4_1_13_5 (x0 : BitVec 3) (x1 : BitVec 2) (x2 : BitVec 2) (x3 : BitVec 1) (x4 : BitVec 4) (x5 : BitVec 1) (x6 : BitVec 13) :
    @BitVec.extractLsb' 26 13 1 (x0 ++ x1 ++ x2 ++ x3 ++ x4 ++ x5 ++ x6) = x5 := by
  show @BitVec.extractLsb' (3 + 2 + 2 + 1 + 4 + 1 + 13) 13 1 (x0 ++ x1 ++ x2 ++ x3 ++ x4 ++ x5 ++ x6) = x5
  simp (disch := omega) only [extract_append_low, extract_append_high, Nat.reduceSub, extract_all]
theorem field_3_2_2_1_4_1_13_6 (x0 : BitVec 3) (x1 : BitVec 2) (x2 : BitVec 2) (x3 : BitVec 1) (x4 : BitVec 4) (x5 : BitVec 1) (x6 : BitVec 13) :
    @BitVec.extractLsb' 26 0 13 (x0 ++ x1 ++ x2 ++ x3 ++ x4 ++ x5 ++ x6) = x6 := by
  show @BitVec.extractLsb' (3 + 2 + 2 + 1 + 4 + 1 + 13) 0 13 (x0 ++ x1 ++ x2 ++ x3 ++ x4 ++ x5 ++ x6) = x6
  simp (disch := omega) only [extract_append_low, extract_append_high, Nat.reduceSub, extract_all]
theorem field_1_1_25_0 (x0 : BitVec 1) (x1 : BitVec 1) (x2 : BitVec 25) :
    @BitVec.extractLsb' 27 26 1 (x0 ++ x1 ++ x2) = x0 := by
  show @BitVec.extractLsb' (1 + 1 + 25) 26 1 (x0 ++ x1 ++ x2) = x0
  simp (disch := omega) only [extract_append_low, extract_append_high, Nat.reduceSub, extract_all]
theorem field_1_1_25_1 (x0 : BitVec 1) (x1 : BitVec 1) (x2 : BitVec 25) :
    @BitVec.extractLsb' 27 25 1 (x0 ++ x1 ++ x2) = x1 := by
  show @BitVec.extractLsb' (1 + 1 + 25) 25 1 (x0 ++ x1 ++ x2) = x1
  simp (disch := omega) only [extract_append_low, extract_append_high, Nat.reduceSub, extract_all]
theorem field_1_1_25_2 (x0 : BitVec 1) (x1 : BitVec 1) (x2 : BitVec 25) :
    @BitVec.extractLsb' 27 0 25 (x0 ++ x1 ++ x2) = x2 := by
  show @BitVec.extractLsb' (1 + 1 + 25) 0 25 (x0 ++ x1 ++ x2) = x2
  simp (disch := omega) only [extract_append_low, extract_append_high, Nat.reduceSub, extract_all]
theorem field_1_3_23_0 (x0 : BitVec 1) (x1 : BitVec 3) (x2 : BitVec 23) :
    @BitVec.extractLsb' 27 26 1 (x0 ++ x1 ++ x2) = x0 := by
  show @BitVec.extractLsb' (1 + 3 + 23) 26 1 (x0 ++ x1 ++ x2) = x0
  simp (disch := omega) only [extract_append_low, extract_append_high, Nat.reduceSub, extract_all]
theorem field_1_3_23_1 (x0 : BitVec 1) (x1 : BitVec 3) (x2 : BitVec 23) :
    @BitVec.extractLsb' 27 23 3 (x0 ++ x1 ++ x2) = x1 := by
  show @BitVec.extractLsb' (1 + 3 + 23) 23 3 (x0 ++ x1 ++ x2) = x1
  simp (disch := omega) only [extract_append_low, extract_append_high, Nat.reduceSub, extract_all]
theorem field_1_3_23_2 (x0 : BitVec 1) (x1 : BitVec 3) (x2 : BitVec 23) :
    @BitVec.extractLsb' 27 0 23 (x0 ++ x1 ++ x2) = x2 := by
  show @BitVec.extractLsb' (1 + 3 + 23) 0 23 (x0 ++ x1 ++ x2) = x2
  simp (disch := omega) only [extract_append_low, extract_append_high, Nat.reduceSub, extract_all]
theorem field_1_8_18_0 (x0 : BitVec 1) (x1 : BitVec 8) (x2 : BitVec 18) :
    @BitVec.extractLsb' 27 26 1 (x0 ++ x1 ++ x2) = x0 := by
  show @BitVec.extractLsb' (1 + 8 + 18) 26 1 (x0 ++ x1 ++ x2) = x0
  simp (disch := omega) only [extract_append_low, extract_append_high, Nat.reduceSub, extract_all]
theorem field_1_8_18_1 (x0 : BitVec 1) (x1 : BitVec 8) (x2 : BitVec 18) :
    @BitVec.extractLsb' 27 18 8 (x0 ++ x1 ++ x2) = x1 := by
  show @BitVec.extractLsb' (1 + 8 + 18) 18 8 (x0 ++ x1 ++ x2) = x1
  simp (disch := omega) only [extract_append_low, extract_append_high, Nat.reduceSub, extract_all]
theorem field_1_8_18_2 (x0 : BitVec 1) (x1 : BitVec 8) (x2 : BitVec 18) :
    @BitVec.extractLsb' 27 0 18 (x0 ++ x1 ++ x2) = x2 := by
  show @BitVec.extractLsb' (1 + 8 + 18) 0 18 (x0 ++ x1 ++ x2) = x2
  simp (disch := omega) only [extract_append_low, extract_append_high, Nat.reduceSub, extract_all]
theorem field_3_1_3_20_0 (x0 : BitVec 3) (x1 : BitVec 1) (x2 : BitVec 3) (x3 : BitVec 20) :
    @BitVec.extractLsb' 27 24 3 (x0 ++ x1 ++ x2 ++ x3) = x0 := by
  show @BitVec.extractLsb' (3 + 1 + 3 + 20) 24 3 (x0 ++ x1 ++ x2 ++ x3) = x0
  simp (disch := omega) only [extract_append_low, extract_append_high, Nat.reduceSub, extract_all]
theorem field_3_1_3_20_1 (x0 : BitVec 3) (x1 : BitVec 1) (x2 : BitVec 3) (x3 : BitVec 20) :
    @BitVec.extractLsb' 27 23 1 (x0 ++ x1 ++ x2 ++ x3) = x1 := by
  show @BitVec.extractLsb' (3 + 1 + 3 + 20) 23 1 (x0 ++ x1 ++ x2 ++ x3) = x1
  simp (disch := omega) only [extract_append_low, extract_append_high, Nat.reduceSub, extract_all]
theorem field_3_1_3_20_2 (x0 : BitVec 3) (x1 : BitVec 1) (x2 : BitVec 3) (x3 : BitVec 20) :
    @BitVec.extractLsb' 27 20 3 (x0 ++ x1 ++ x2 ++ x3) = x2 := by
  show @BitVec.extractLsb' (3 + 1 + 3 + 20) 20 3 (x0 ++ x1 ++ x2 ++ x3) = x2
  simp (disch := omega) only [extract_append_low, extract_append_high, Nat.reduceSub, extract_all]
theorem field_3_1_3_20_3 (x0 : BitVec 3) (x1 : BitVec 1) (x2 : BitVec 3) (x3 : BitVec 20) :
    @BitVec.extractLsb' 27 0 20 (x0 ++ x1 ++ x2 ++ x3) = x3 := by
  show @BitVec.extractLsb' (3 + 1 + 3 + 20) 0 20 (x0 ++ x1 ++ x2 ++ x3) = x3
  simp (disch := omega) only [extract_append_low, extract_append_high, Nat.reduceSub, extract_all]
theorem field_3_1_23_0 (x0 : BitVec 3) (x1 : BitVec 1) (x2 : BitVec 23) :
    @BitVec.extractLsb' 27 24 3 (x0 ++ x1 ++ x2) = x0 := by
  show @BitVec.extractLsb' (3 + 1 + 23) 24 3 (x0 ++ x1 ++ x2) = x0
  simp (disch := omega) only [extract_append_low, extract_append_high, Nat.reduceSub, extract_all]
theorem field_3_1_23_1 (x0 : BitVec 3) (x1 : BitVec 1) (x2 : BitVec 23) :
    @BitVec.extractLsb' 27 23 1 (x0 ++ x1 ++ x2) = x1 := by
  show @BitVec.extractLsb' (3 + 1 + 23) 23 1 (x0 ++ x1 ++ x2) = x1
  simp (disch := omega) only [extract_append_low, extract_append_high, Nat.reduceSub, extract_all]
theorem field_3_1_23_2 (x0 : BitVec 3) (x1 : BitVec 1) (x2 : BitVec 23) :
    @BitVec.extractLsb' 27 0 23 (x0 ++ x1 ++ x2) = x2 := by
  show @BitVec.extractLsb' (3 + 1 + 23) 0 23 (x0 ++ x1 ++ x2) = x2
  simp (disch := omega) only [extract_append_low, extract_append_high, Nat.reduceSub, extract_all]
theorem field_3_4_1_3_2_5_8_1_0 (x0 : BitVec 3) (x1 : BitVec 4) (x2 : BitVec 1) (x3 : BitVec 3) (x4 : BitVec 2) (x5 : BitVec 5) (x6 : BitVec 8) (x7 : BitVec 1) :
    @BitVec.extractLsb' 27 24 3 (x0 ++ x1 ++ x2 ++ x3 ++ x4 ++ x5 ++ x6 ++ x7) = x0 := by
  show @BitVec.extractLsb' (3 + 4 + 1 + 3 + 2 + 5 + 8 + 1) 24 3 (x0 ++ x1 ++ x2 ++ x3 ++ x4 ++ x5 ++ x6 ++ x7) = x0
  simp (disch := omega) only [extract_append_low, extract_append_high, Nat.reduceSub, extract_all]
theorem field_3_4_1_3_2_5_8_1_1 (x0 : BitVec 3) (x1 : BitVec 4) (x2 : BitVec 1) (x3 : BitVec 3) (x4 : BitVec 2) (x5 : BitVec 5) (x6 : BitVec 8) (x7 : BitVec 1) :
    @BitVec.extractLsb' 27 20 4 (x0 ++ x1 ++ x2 ++ x3 ++ x4 ++ x5 ++ x6 ++ x7) = x1 := by
  show @BitVec.extractLsb' (3 + 4 + 1 + 3 + 2 + 5 + 8 + 1) 20 4 (x0 ++ x1 ++ x2 ++ x3 ++ x4 ++ x5 ++ x6 ++ x7) = x1
  simp (disch := omega) only [extract_append_low, extract_append_high, Nat.reduceSub, extract_all]
theorem field_3_4_1_3_2_5_8_1_2 (x0 : BitVec 3) (x1 : BitVec 4) (x2 : BitVec 1) (x3 : BitVec 3) (x4 : BitVec 2) (x5 : BitVec 5) (x6 : BitVec 8) (x7 : BitVec 1) :
    @BitVec.extractLsb' 27 19 1 (x0 ++ x1 ++ x2 ++ x3 ++ x4 ++ x5 ++ x6 ++ x7) = x2 := by
  show @BitVec.extractLsb' (3 + 4 + 1 + 3 + 2 + 5 + 8 + 1) 19 1 (x0 ++ x1 ++ x2 ++ x3 ++ x4 ++ x5 ++ x6 ++ x7) = x2
  simp (disch := omega) only [extract_append_low, extract_append_high, Nat.reduceSub, extract_all]
theorem field_3_4_1_3_2_5_8_1_3 (x0 : BitVec 3) (x1 : BitVec 4) (x2 : BitVec 1) (x3 : BitVec 3) (x4 : BitVec 2) (x5 : BitVec 5) (x6 : BitVec 8) (x7 : BitVec 1) :
    @BitVec.extractLsb' 27 16 3 (x0 ++ x1 ++ x2 ++ x3 ++ x4 ++ x5 ++ x6 ++ x7) = x3 := by
  show @BitVec.extractLsb' (3 + 4 + 1 + 3 + 2 + 5 + 8 + 1) 16 3 (x0 ++ x1 ++ x2 ++ x3 ++ x4 ++ x5 ++ x6 ++ x7) = x3
  simp (disch := omega) only [extract_append_low, extract_append_high, Nat.reduceSub, extract_all]
theorem field_3_4_1_3_2_5_8_1_4 (x0 : BitVec 3) (x1 : BitVec 4) (x2 : BitVec 1) (x3 : BitVec 3) (x4 : BitVec 2) (x5 : BitVec 5) (x6 : BitVec 8) (x7 : BitVec 1) :
    @BitVec.extractLsb' 27 14 2 (x0 ++ x1 ++ x2 ++ x3 ++ x4 ++ x5 ++ x6 ++ x7) = x4 := by
  show @BitVec.extractLsb' (3 + 4 + 1 + 3 + 2 + 5 + 8 + 1) 14 2 (x0 ++ x1 ++ x2 ++ x3 ++ x4 ++ x5 ++ x6 ++ x7) = x4
  simp (disch := omega) only [extract_append_low, extract_append_high, Nat.reduceSub, extract_all]
theorem field_3_4_1_3_2_5_8_1_5 (x0 : BitVec 3) (x1 : BitVec 4) (x2 : BitVec 1) (x3 : BitVec 3) (x4 : BitVec 2) (x5 : BitVec 5) (x6 : BitVec 8) (x7 : BitVec 1) :
    @BitVec.extractLsb' 27 9 5 (x0 ++ x1 ++ x2 ++ x3 ++ x4 ++ x5 ++ x6 ++ x7) = x5 := by
  show @BitVec.extractLsb' (3 + 4 + 1 + 3 + 2 + 5 + 8 + 1) 9 5 (x0 ++ x1 ++ x2 ++ x3 ++ x4 ++ x5 ++ x6 ++ x7) = x5
  simp (disch := omega) only [extract_append_low, extract_append_high, Nat.reduceSub, extract_all]
theorem field_3_4_1_3_2_5_8_1_6 (x0 : BitVec 3) (x1 : BitVec 4) (x2 : BitVec 1) (x3 : BitVec 3) (x4 : BitVec 2) (x5 : BitVec 5) (x6 : BitVec 8) (x7 : BitVec 1) :
    @BitVec.extractLsb' 27 1 8 (x0 ++ x1 ++ x2 ++ x3 ++ x4 ++ x5 ++ x6 ++ x7) = x6 := by
  show @BitVec.extractLsb' (3 + 4 + 1 + 3 + 2 + 5 + 8 + 1) 1 8 (x0 ++ x1 ++ x2 ++ x3 ++ x4 ++ x5 ++ x6 ++ x7) = x6
  simp (disch := omega) only [extract_append_low, extract_append_high, Nat.reduceSub, extract_all]
theorem field_3_4_1_3_2_5_8_1_7 (x0 : BitVec 3) (x1 : BitVec 4) (x2 : BitVec 1) (x3 : BitVec 3) (x4 : BitVec 2) (x5 : BitVec 5) (x6 : BitVec 8) (x7 : BitVec 1) :
    @BitVec.extractLsb' 27 0 1 (x0 ++ x1 ++ x2 ++ x3 ++ x4 ++ x5 ++ x6 ++ x7) = x7 := by
  show @BitVec.extractLsb' (3 + 4 + 1 + 3 + 2 + 5 + 8 + 1) 0 1 (x0 ++ x1 ++ x2 ++ x3 ++ x4 ++ x5 ++ x6 ++ x7) = x7
  simp (disch := omega) only [extract_append_low, extract_append_high, Nat.reduceSub, extract_all]
theorem field_3_4_1_8_5_1_3_2_0 (x0 : BitVec 3) (x1 : BitVec 4) (x2 : BitVec 1) (x3 : BitVec 8) (x4 : BitVec 5) (x5 : BitVec 1) (x6 : BitVec 3) (x7 : BitVec 2) :
    @BitVec.extractLsb' 27 24 3 (x0 ++ x1 ++ x2 ++ x3 ++ x4 ++ x5 ++ x6 ++ x7) = x0 := by
  show @BitVec.extractLsb' (3 + 4 + 1 + 8 + 5 + 1 + 3 + 2) 24 3 (x0 ++ x1 ++ x2 ++ x3 ++ x4 ++ x5 ++ x6 ++ x7) = x0
  simp (disch := omega) only [extract_append_low, extract_append_high, Nat.reduceSub, extract_all]
theorem field_3_4_1_8_5_1_3_2_1 (x0 : BitVec 3) (x1 : BitVec 4) (x2 : BitVec 1) (x3 : BitVec 8) (x4 : BitVec 5) (x5 : BitVec 1) (x6 : BitVec 3) (x7 : BitVec 2) :
    @BitVec.extractLsb' 27 20 4 (x0 ++ x1 ++ x2 ++ x3 ++ x4 ++ x5 ++ x6 ++ x7) = x1 := by
  show @BitVec.extractLsb' (3 + 4 + 1 + 8 + 5 + 1 + 3 + 2) 20 4 (x0 ++ x1 ++ x2 ++ x3 ++ x4 ++ x5 ++ x6 ++ x7) = x1
  simp (disch := omega) only [extract_append_low, extract_append_high, Nat.reduceSub, extract_all]
theorem field_3_4_1_8_5_1_3_2_2 (x0 : BitVec 3) (x1 : BitVec 4) (x2 : BitVec 1) (x3 : BitVec 8) (x4 : BitVec 5) (x5 : BitVec 1) (x6 : BitVec 3) (x7 : BitVec 2) :
    @BitVec.extractLsb' 27 19 1 (x0 ++ x1 ++ x2 ++ x3 ++ x4 ++ x5 ++ x6 ++ x7) = x2 := by
  show @BitVec.extractLsb' (3 + 4 + 1 + 8 + 5 + 1 + 3 + 2) 19 1 (x0 ++ x1 ++ x2 ++ x3 ++ x4 ++ x5 ++ x6 ++ x7) = x2
  simp (disch := omega) only [extract_append_low, extract_append_high, Nat.reduceSub, extract_all]
theorem field_3_4_1_8_5_1_3_2_3 (x0 : BitVec 3) (x1 : BitVec 4) (x2 : BitVec 1) (x3 : BitVec 8) (x4 : BitVec 5) (x5 : BitVec 1) (x6 : BitVec 3) (x7 : BitVec 2) :
    @BitVec.extractLsb' 27 11 8 (x0 ++ x1 ++ x2 ++ x3 ++ x4 ++ x5 ++ x6 ++ x7) = x3 := by
  show @BitVec.extractLsb' (3 + 4 + 1 + 8 + 5 + 1 + 3 + 2) 11 8 (x0 ++ x1 ++ x2 ++ x3 ++ x4 ++ x5 ++ x6 ++ x7) = x3
  simp (disch := omega) only [extract_append_low, extract_append_high, Nat.reduceSub, extract_all]
theorem field_3_4_1_8_5_1_3_2_4 (x0 : BitVec 3) (x1 : BitVec 4) (x2 : BitVec 1) (x3 : BitVec 8) (x4 : BitVec 5) (x5 : BitVec 1) (x6 : BitVec 3) (x7 : BitVec 2) :
    @BitVec.extractLsb' 27 6 5 (x0 ++ x1 ++ x2 ++ x3 ++ x4 ++ x5 ++ x6 ++ x7) = x4 := by
  show @BitVec.extractLsb' (3 + 4 + 1 + 8 + 5 + 1 + 3 + 2) 6 5 (x0 ++ x1 ++ x2 ++ x3 ++ x4 ++ x5 ++ x6 ++ x7) = x4
  simp (disch := omega) only [extract_append_low, extract_append_high, Nat.reduceSub, extract_all]
theorem field_3_4_1_8_5_1_3_2_5 (x0 : BitVec 3) (x1 : BitVec 4) (x2 : BitVec 1) (x3 : BitVec 8) (x4 : BitVec 5) (x5 : BitVec 1) (x6 : BitVec 3) (x7 : BitVec 2) :
    @BitVec.extractLsb' 27 5 1 (x0 ++ x1 ++ x2 ++ x3 ++ x4 ++ x5 ++ x6 ++ x7) = x5 := by
  show @BitVec.extractLsb' (3 + 4 + 1 + 8 + 5 + 1 + 3 + 2) 5 1 (x0 ++ x1 ++ x2 ++ x3 ++ x4 ++ x5 ++ x6 ++ x7) = x5
  simp (disch := omega) only [extract_append_low, extract_append_high, Nat.reduceSub, extract_all]
theorem field_3_4_1_8_5_1_3_2_6 (x0 : BitVec 3) (x1 : BitVec 4) (x2 : BitVec 1) (x3 : BitVec 8) (x4 : BitVec 5) (x5 : BitVec 1) (x6 : BitVec 3) (x7 : BitVec 2) :
    @BitVec.extractLsb' 27 2 3 (x0 ++ x1 ++ x2 ++ x3 ++ x4 ++ x5 ++ x6 ++ x7) = x6 := by
  show @BitVec.extractLsb' (3 + 4 + 1 + 8 + 5 + 1 + 3 + 2) 2 3 (x0 ++ x1 ++ x2 ++ x3 ++ x4 ++ x5 ++ x6 ++ x7) = x6
  simp (disch := omega) only [extract_append_low, extract_append_high, Nat.reduceSub, extract_all]
theorem field_3_4_1_8_5_1_3_2_7 (x0 : BitVec 3) (x1 : BitVec 4) (x2 : BitVec 1) (x3 : BitVec 8) (x4 : BitVec 5) (x5 : BitVec 1) (x6 : BitVec 3) (x7 : BitVec 2) :
    @BitVec.extractLsb' 27 0 2 (x0 ++ x1 ++ x2 ++ x3 ++ x4 ++ x5 ++ x6 ++ x7) = x7 := by
  show @BitVec.extractLsb' (3 + 4 + 1 + 8 + 5 + 1 + 3 + 2) 0 2 (x0 ++ x1 ++ x2 ++ x3 ++ x4 ++ x5 ++ x6 ++ x7) = x7
  simp (disch := omega) only [extract_append_low, extract_append_high, Nat.reduceSub, extract_all]
theorem field_3_4_20_0 (x0 : BitVec 3) (x1 : BitVec 4) (x2 : BitVec 20) :
    @BitVec.extractLsb' 27 24 3 (x0 ++ x1 ++ x2) = x0 := by
  show @BitVec.extractLsb' (3 + 4 + 20) 24 3 (x0 ++ x1 ++ x2) = x0
  simp (disch := omega) only [extract_append_low, extract_append_high, Nat.reduceSub, extract_all]
theorem field_3_4_20_1 (x0 : BitVec 3) (x1 : BitVec 4) (x2 : BitVec 20) :
    @BitVec.extractLsb' 27 20 4 (x0 ++ x1 ++ x2) = x1 := by
  show @BitVec.extractLsb' (3 + 4 + 20) 20 4 (x0 ++ x1 ++ x2) = x1
  simp (disch := omega) only [extract_append_low, extract_append_high, Nat.reduceSub, extract_all]
theorem field_3_4_20_2 (x0 : BitVec 3) (x1 : BitVec 4) (x2 : BitVec 20) :
    @BitVec.extractLsb' 27 0 20 (x0 ++ x1 ++ x2) = x2 := by
  show @BitVec.extractLsb' (3 + 4 + 20) 0 20 (x0 ++ x1 ++ x2) = x2
  simp (disch := omega) only [extract_append_low, extract_append_high, Nat.reduceSub, extract_all]
theorem field_3_24_0 (x0 : BitVec 3) (x1 : BitVec 24) :
    @BitVec.extractLsb' 27 24 3 (x0 ++ x1) = x0 := by
  show @BitVec.extractLsb' (3 + 24) 24 3 (x0 ++ x1) = x0
  simp (disch := omega) only [extract_append_low, extract_append_high, Nat.reduceSub, extract_all]
theorem field_3_24_1 (x0 : BitVec 3) (x1 : BitVec 24) :
    @BitVec.extractLsb' 27 0 24 (x0 ++ x1) = x1 := by
  show @BitVec.extractLsb' (3 + 24) 0 24 (x0 ++ x1) = x1
  simp (disch := omega) only [extract_append_low, extract_append_high, Nat.reduceSub, extract_all]
theorem field_4_1_10_12_0 (x0 : BitVec 4) (x1 : BitVec 1) (x2 : BitVec 10) (x3 : BitVec 12) :
    @BitVec.extractLsb' 27 23 4 (x0 ++ x1 ++ x2 ++ x3) = x0 := by
  show @BitVec.extractLsb' (4 + 1 + 10 + 12) 23 4 (x0 ++ x1 ++ x2 ++ x3) = x0
  simp (disch := omega) only [extract_append_low, extract_append_high, Nat.reduceSub, extract_all]
theorem field_4_1_10_12_1 (x0 : BitVec 4) (x1 : BitVec 1) (x2 : BitVec 10) (x3 : BitVec 12) :
    @BitVec.extractLsb' 27 22 1 (x0 ++ x1 ++ x2 ++ x3) = x1 := by
  show @BitVec.extractLsb' (4 + 1 + 10 + 12) 22 1 (x0 ++ x1 ++ x2 ++ x3) = x1
  simp (disch := omega) only [extract_append_low, extract_append_high, Nat.reduceSub, extract_all]
theorem field_4_1_10_12_2 (x0 : BitVec 4) (x1 : BitVec 1) (x2 : BitVec 10) (x3 : BitVec 12) :
    @BitVec.extractLsb' 27 12 10 (x0 ++ x1 ++ x2 ++ x3) = x2 := by
  show @BitVec.extractLsb' (4 + 1 + 10 + 12) 12 10 (x0 ++ x1 ++ x2 ++ x3) = x2
  simp (disch := omega) only [extract_append_low, extract_append_high, Nat.reduceSub, extract_all]
theorem field_4_1_10_12_3 (x0 : BitVec 4) (x1 : BitVec 1) (x2 : BitVec 10) (x3 : BitVec 12) :
    @BitVec.extractLsb' 27 0 12 (x0 ++ x1 ++ x2 ++ x3) = x3 := by
  show @BitVec.extractLsb' (4 + 1 + 10 + 12) 0 12 (x0 ++ x1 ++ x2 ++ x3) = x3
  simp (disch := omega) only [extract_append_low, extract_append_high, Nat.reduceSub, extract_all]
theorem field_8_2_1_3_13_0 (x0 : BitVec 8) (x1 : BitVec 2) (x2 : BitVec 1) (x3 : BitVec 3) (x4 : BitVec 13) :
    @BitVec.extractLsb' 27 19 8 (x0 ++ x1 ++ x2 ++ x3 ++ x4) = x0 := by
  show @BitVec.extractLsb' (8 + 2 + 1 + 3 + 13) 19 8 (x0 ++ x1 ++ x2 ++ x3 ++ x4) = x0
  simp (disch := omega) only [extract_append_low, extract_append_high, Nat.reduceSub, extract_all]
theorem field_8_2_1_3_13_1 (x0 : BitVec 8) (x1 : BitVec 2) (x2 : BitVec 1) (x3 : BitVec 3) (x4 : BitVec 13) :
    @BitVec.extractLsb' 27 17 2 (x0 ++ x1 ++ x2 ++ x3 ++ x4) = x1 := by
  show @BitVec.extractLsb' (8 + 2 + 1 + 3 + 13) 17 2 (x0 ++ x1 ++ x2 ++ x3 ++ x4) = x1
  simp (disch := omega) only [extract_append_low, extract_append_high, Nat.reduceSub, extract_all]
theorem field_8_2_1_3_13_2 (x0 : BitVec 8) (x1 : BitVec 2) (x2 : BitVec 1) (x3 : BitVec 3) (x4 : BitVec 13) :
    @BitVec.extractLsb' 27 16 1 (x0 ++ x1 ++ x2 ++ x3 ++ x4) = x2 := by
  show @BitVec.extractLsb' (8 + 2 + 1 + 3 + 13) 16 1 (x0 ++ x1 ++ x2 ++ x3 ++ x4) = x2
  simp (disch := omega) only [extract_append_low, extract_append_high, Nat.reduceSub, extract_all]
theorem field_8_2_1_3_13_3 (x0 : BitVec 8) (x1 : BitVec 2) (x2 : BitVec 1) (x3 : BitVec 3) (x4 : BitVec 13) :
    @BitVec.extractLsb' 27 13 3 (x0 ++ x1 ++ x2 ++ x3 ++ x4) = x3 := by
  show @BitVec.extractLsb' (8 + 2 + 1 + 3 + 13) 13 3 (x0 ++ x1 ++ x2 ++ x3 ++ x4) = x3
  simp (disch := omega) only [extract_append_low, extract_append_high, Nat.reduceSub, extract_all]
theorem field_8_2_1_3_13_4 (x0 : BitVec 8) (x1 : BitVec 2) (x2 : BitVec 1) (x3 : BitVec 3) (x4 : BitVec 13) :
    @BitVec.extractLsb' 27 0 13 (x0 ++ x1 ++ x2 ++ x3 ++ x4) = x4 := by
  show @BitVec.extractLsb' (8 + 2 + 1 + 3 + 13) 0 13 (x0 ++ x1 ++ x2 ++ x3 ++ x4) = x4
  simp (disch := omega) only [extract_append_low, extract_append_high, Nat.reduceSub, extract_all]
theorem field_8_2_1_16_0 (x0 : BitVec 8) (x1 : BitVec 2) (x2 : BitVec 1) (x3 : BitVec 16) :
    @BitVec.extractLsb' 27 19 8 (x0 ++ x1 ++ x2 ++ x3) = x0 := by
  show @BitVec.extractLsb' (8 + 2 + 1 + 16) 19 8 (x0 ++ x1 ++ x2 ++ x3) = x0
  simp (disch := omega) only [extract_append_low, extract_append_high, Nat.reduceSub, extract_all]
theorem field_8_2_1_16_1 (x0 : BitVec 8) (x1 : BitVec 2) (x2 : BitVec 1) (x3 : BitVec 16) :
    @BitVec.extractLsb' 27 17 2 (x0 ++ x1 ++ x2 ++ x3) = x1 := by
  show @BitVec.extractLsb' (8 + 2 + 1 + 16) 17 2 (x0 ++ x1 ++ x2 ++ x3) = x1
  simp (disch := omega) only [extract_append_low, extract_append_high, Nat.reduceSub, extract_all]
theorem field_8_2_1_16_2 (x0 : BitVec 8) (x1 : BitVec 2) (x2 : BitVec 1) (x3 : BitVec 16) :
    @BitVec.extractLsb' 27 16 1 (x0 ++ x1 ++ x2 ++ x3) = x2 := by
  show @BitVec.extractLsb' (8 + 2 + 1 + 16) 16 1 (x0 ++ x1 ++ x2 ++ x3) = x2
  simp (disch := omega) only [extract_append_low, extract_append_high, Nat.reduceSub, extract_all]
theorem field_8_2_1_16_3 (x0 : BitVec 8) (x1 : BitVec 2) (x2 : BitVec 1) (x3 : BitVec 16) :
    @BitVec.extractLsb' 27 0 16 (x0 ++ x1 ++ x2 ++ x3) = x3 := by
  show @BitVec.extractLsb' (8 + 2 + 1 + 16) 0 16 (x0 ++ x1 ++ x2 ++ x3) = x3
  simp (disch := omega) only [extract_append_low, extract_append_high, Nat.reduceSub, extract_all]
theorem field_2_1_3_5_18_0 (x0 : BitVec 2) (x1 : BitVec 1) (x2 : BitVec 3) (x3 : BitVec 5) (x4 : BitVec 18) :
    @BitVec.extractLsb' 29 27 2 (x0 ++ x1 ++ x2 ++ x3 ++ x4) = x0 := by
  show @BitVec.extractLsb' (2 + 1 + 3 + 5 + 18) 27 2 (x0 ++ x1 ++ x2 ++ x3 ++ x4) = x0
  simp (disch := omega) only [extract_append_low, extract_append_high, Nat.reduceSub, extract_all]
theorem field_2_1_3_5_18_1 (x0 : BitVec 2) (x1 : BitVec 1) (x2 : BitVec 3) (x3 : BitVec 5) (x4 : BitVec 18) :
    @BitVec.extractLsb' 29 26 1 (x0 ++ x1 ++ x2 ++ x3 ++ x4) = x1 := by
  show @BitVec.extractLsb' (2 + 1 + 3 + 5 + 18) 26 1 (x0 ++ x1 ++ x2 ++ x3 ++ x4) = x1
  simp (disch := omega) only [extract_append_low, extract_append_high, Nat.reduceSub, extract_all]
theorem field_2_1_3_5_18_2 (x0 : BitVec 2) (x1 : BitVec 1) (x2 : BitVec 3) (x3 : BitVec 5) (x4 : BitVec 18) :
    @BitVec.extractLsb' 29 23 3 (x0 ++ x1 ++ x2 ++ x3 ++ x4) = x2 := by
  show @BitVec.extractLsb' (2 + 1 + 3 + 5 + 18) 23 3 (x0 ++ x1 ++ x2 ++ x3 ++ x4) = x2
  simp (disch := omega) only [extract_append_low, extract_append_high, Nat.reduceSub, extract_all]
theorem field_2_1_3_5_18_3 (x0 : BitVec 2) (x1 : BitVec 1) (x2 : BitVec 3) (x3 : BitVec 5) (x4 : BitVec 18) :
    @BitVec.extractLsb' 29 18 5 (x0 ++ x1 ++ x2 ++ x3 ++ x4) = x3 := by
  show @BitVec.extractLsb' (2 + 1 + 3 + 5 + 18) 18 5 (x0 ++ x1 ++ x2 ++ x3 ++ x4) = x3
  simp (disch := omega) only [extract_append_low, extract_append_high, Nat.reduceSub, extract_all]
theorem field_2_1_3_5_18_4 (x0 : BitVec 2) (x1 : BitVec 1) (x2 : BitVec 3) (x3 : BitVec 5) (x4 : BitVec 18) :
    @BitVec.extractLsb' 29 0 18 (x0 ++ x1 ++ x2 ++ x3 ++ x4) = x4 := by
  show @BitVec.extractLsb' (2 + 1 + 3 + 5 + 18) 0 18 (x0 ++ x1 ++ x2 ++ x3 ++ x4) = x4
  simp (disch := omega) only [extract_append_low, extract_append_high, Nat.reduceSub, extract_all]
theorem field_4_4_3_2_2_14_0 (x0 : BitVec 4) (x1 : BitVec 4) (x2 : BitVec 3) (x3 : BitVec 2) (x4 : BitVec 2) (x5 : BitVec 14) :
    @BitVec.extractLsb' 29 25 4 (x0 ++ x1 ++ x2 ++ x3 ++ x4 ++ x5) = x0 := by
  show @BitVec.extractLsb' (4 + 4 + 3 + 2 + 2 + 14) 25 4 (x0 ++ x1 ++ x2 ++ x3 ++ x4 ++ x5) = x0
  simp (disch := omega) only [extract_append_low, extract_append_high, Nat.reduceSub, extract_all]
theorem field_4_4_3_2_2_14_1 (x0 : BitVec 4) (x1 : BitVec 4) (x2 : BitVec 3) (x3 : BitVec 2) (x4 : BitVec 2) (x5 : BitVec 14) :
    @BitVec.extractLsb' 29 21 4 (x0 ++ x1 ++ x2 ++ x3 ++ x4 ++ x5) = x1 := by
  show @BitVec.extractLsb' (4 + 4 + 3 + 2 + 2 + 14) 21 4 (x0 ++ x1 ++ x2 ++ x3 ++ x4 ++ x5) = x1
  simp (disch := omega) only [extract_append_low, extract_append_high, Nat.reduceSub, extract_all]
theorem field_4_4_3_2_2_14_2 (x0 : BitVec 4) (x1 : BitVec 4) (x2 : BitVec 3) (x3 : BitVec 2) (x4 : BitVec 2) (x5 : BitVec 14) :
    @BitVec.extractLsb' 29 18 3 (x0 ++ x1 ++ x2 ++ x3 ++ x4 ++ x5) = x2 := by
  show @BitVec.extractLsb' (4 + 4 + 3 + 2 + 2 + 14) 18 3 (x0 ++ x1 ++ x2 ++ x3 ++ x4 ++ x5) = x2
  simp (disch := omega) only [extract_append_low, extract_append_high, Nat.reduceSub, extract_all]
theorem field_4_4_3_2_2_14_3 (x0 : BitVec 4) (x1 : BitVec 4) (x2 : BitVec 3) (x3 : BitVec 2) (x4 : BitVec 2) (x5 : BitVec 14) :
    @BitVec.extractLsb' 29 16 2 (x0 ++ x1 ++ x2 ++ x3 ++ x4 ++ x5) = x3 := by
  show @BitVec.extractLsb' (4 + 4 + 3 + 2 + 2 + 14) 16 2 (x0 ++ x1 ++ x2 ++ x3 ++ x4 ++ x5) = x3
  simp (disch := omega) only [extract_append_low, extract_append_high, Nat.reduceSub, extract_all]
theorem field_4_4_3_2_2_14_4 (x0 : BitVec 4) (x1 : BitVec 4) (x2 : BitVec 3) (x3 : BitVec 2) (x4 : BitVec 2) (x5 : BitVec 14) :
    @BitVec.extractLsb' 29 14 2 (x0 ++ x1 ++ x2 ++ x3 ++ x4 ++ x5) = x4 := by
  show @BitVec.extractLsb' (4 + 4 + 3 + 2 + 2 + 14) 14 2 (x0 ++ x1 ++ x2 ++ x3 ++ x4 ++ x5) = x4
  simp (disch := omega) only [extract_append_low, extract_append_high, Nat.reduceSub, extract_all]
theorem field_4_4_3_2_2_14_5 (x0 : BitVec 4) (x1 : BitVec 4) (x2 : BitVec 3) (x3 : BitVec 2) (x4 : BitVec 2) (x5 : BitVec 14) :
    @BitVec.extractLsb' 29 0 14 (x0 ++ x1 ++ x2 ++ x3 ++ x4 ++ x5) = x5 := by
  show @BitVec.extractLsb' (4 + 4 + 3 + 2 + 2 + 14) 0 14 (x0 ++ x1 ++ x2 ++ x3 ++ x4 ++ x5) = x5
  simp (disch := omega) only [extract_append_low, extract_append_high, Nat.reduceSub, extract_all]
theorem field_4_4_3_2_16_0 (x0 : BitVec 4) (x1 : BitVec 4) (x2 : BitVec 3) (x3 : BitVec 2) (x4 : BitVec 16) :
    @BitVec.extractLsb' 29 25 4 (x0 ++ x1 ++ x2 ++ x3 ++ x4) = x0 := by
  show @BitVec.extractLsb' (4 + 4 + 3 + 2 + 16) 25 4 (x0 ++ x1 ++ x2 ++ x3 ++ x4) = x0
  simp (disch := omega) only [extract_append_low, extract_append_high, Nat.reduceSub, extract_all]
theorem field_4_4_3_2_16_1 (x0 : BitVec 4) (x1 : BitVec 4) (x2 : BitVec 3) (x3 : BitVec 2) (x4 : BitVec 16) :
    @BitVec.extractLsb' 29 21 4 (x0 ++ x1 ++ x2 ++ x3 ++ x4) = x1 := by
  show @BitVec.extractLsb' (4 + 4 + 3 + 2 + 16) 21 4 (x0 ++ x1 ++ x2 ++ x3 ++ x4) = x1
  simp (disch := omega) only [extract_append_low, extract_append_high, Nat.reduceSub, extract_all]
theorem field_4_4_3_2_16_2 (x0 : BitVec 4) (x1 : BitVec 4) (x2 : BitVec 3) (x3 : BitVec 2) (x4 : BitVec 16) :
    @BitVec.extractLsb' 29 18 3 (x0 ++ x1 ++ x2 ++ x3 ++ x4) = x2 := by
  show @BitVec.extractLsb' (4 + 4 + 3 + 2 + 16) 18 3 (x0 ++ x1 ++ x2 ++ x3 ++ x4) = x2
  simp (disch := omega) only [extract_append_low, extract_append_high, Nat.reduceSub, extract_all]
theorem field_4_4_3_2_16_3 (x0 : BitVec 4) (x1 : BitVec 4) (x2 : BitVec 3) (x3 : BitVec 2) (x4 : BitVec 16) :
    @BitVec.extractLsb' 29 16 2 (x0 ++ x1 ++ x2 ++ x3 ++ x4) = x3 := by
  show @BitVec.extractLsb' (4 + 4 + 3 + 2 + 16) 16 2 (x0 ++ x1 ++ x2 ++ x3 ++ x4) = x3
  simp (disch := omega) only [extract_append_low, extract_append_high, Nat.reduceSub, extract_all]
theorem field_4_4_3_2_16_4 (x0 : BitVec 4) (x1 : BitVec 4) (x2 : BitVec 3) (x3 : BitVec 2) (x4 : BitVec 16) :
    @BitVec.extractLsb' 29 0 16 (x0 ++ x1 ++ x2 ++ x3 ++ x4) = x4 := by
  show @BitVec.extractLsb' (4 + 4 + 3 + 2 + 16) 0 16 (x0 ++ x1 ++ x2 ++ x3 ++ x4) = x4
  simp (disch := omega) only [extract_append_low, extract_append_high, Nat.reduceSub, extract_all]
theorem field_4_25_0 (x0 : BitVec 4) (x1 : BitVec 25) :
    @BitVec.extractLsb' 29 25 4 (x0 ++ x1) = x0 := by
  show @BitVec.extractLsb' (4 + 25) 25 4 (x0 ++ x1) = x0
  simp (disch := omega) only [extract_append_low, extract_append_high, Nat.reduceSub, extract_all]
theorem field_4_25_1 (x0 : BitVec 4) (x1 : BitVec 25) :
    @BitVec.extractLsb' 29 0 25 (x0 ++ x1) = x1 := by
  show @BitVec.extractLsb' (4 + 25) 0 25 (x0 ++ x1) = x1
  simp (disch := omega) only [extract_append_low, extract_append_high, Nat.reduceSub, extract_all]
theorem field_5_2_22_0 (x0 : BitVec 5) (x1 : BitVec 2) (x2 : BitVec 22) :
    @BitVec.extractLsb' 29 24 5 (x0 ++ x1 ++ x2) = x0 := by
  show @BitVec.extractLsb' (5 + 2 + 22) 24 5 (x0 ++ x1 ++ x2) = x0
  simp (disch := omega) only [extract_append_low, extract_append_high, Nat.reduceSub, extract_all]
theorem field_5_2_22_1 (x0 : BitVec 5) (x1 : BitVec 2) (x2 : BitVec 22) :
    @BitVec.extractLsb' 29 22 2 (x0 ++ x1 ++ x2) = x1 := by
  show @BitVec.extractLsb' (5 + 2 + 22) 22 2 (x0 ++ x1 ++ x2) = x1
  simp (disch := omega) only [extract_append_low, extract_append_high, Nat.reduceSub, extract_all]
theorem field_5_2_22_2 (x0 : BitVec 5) (x1 : BitVec 2) (x2 : BitVec 22) :
    @BitVec.extractLsb' 29 0 22 (x0 ++ x1 ++ x2) = x2 := by
  show @BitVec.extractLsb' (5 + 2 + 22) 0 22 (x0 ++ x1 ++ x2) = x2
  simp (disch := omega) only [extract_append_low, extract_append_high, Nat.reduceSub, extract_all]
theorem field_5_5_1_1_3_3_11_0 (x0 : BitVec 5) (x1 : BitVec 5) (x2 : BitVec 1) (x3 : BitVec 1) (x4 : BitVec 3) (x5 : BitVec 3) (x6 : BitVec 11) :
    @BitVec.extractLsb' 29 24 5 (x0 ++ x1 ++ x2 ++ x3 ++ x4 ++ x5 ++ x6) = x0 := by
  show @BitVec.extractLsb' (5 + 5 + 1 + 1 + 3 + 3 + 11) 24 5 (x0 ++ x1 ++ x2 ++ x3 ++ x4 ++ x5 ++ x6) = x0
  simp (disch := omega) only [extract_append_low, extract_append_high, Nat.reduceSub, extract_all]
theorem field_5_5_1_1_3_3_11_1 (x0 : BitVec 5) (x1 : BitVec 5) (x2 : BitVec 1) (x3 : BitVec 1) (x4 : BitVec 3) (x5 : BitVec 3) (x6 : BitVec 11) :
    @BitVec.extractLsb' 29 19 5 (x0 ++ x1 ++ x2 ++ x3 ++ x4 ++ x5 ++ x6) = x1 := by
  show @BitVec.extractLsb' (5 + 5 + 1 + 1 + 3 + 3 + 11) 19 5 (x0 ++ x1 ++ x2 ++ x3 ++ x4 ++ x5 ++ x6) = x1
  simp (disch := omega) only [extract_append_low, extract_append_high, Nat.reduceSub, extract_all]
theorem field_5_5_1_1_3_3_11_2 (x0 : BitVec 5) (x1 : BitVec 5) (x2 : BitVec 1) (x3 : BitVec 1) (x4 : BitVec 3) (x5 : BitVec 3) (x6 : BitVec 11) :
    @BitVec.extractLsb' 29 18 1 (x0 ++ x1 ++ x2 ++ x3 ++ x4 ++ x5 ++ x6) = x2 := by
  show @BitVec.extractLsb' (5 + 5 + 1 + 1 + 3 + 3 + 11) 18 1 (x0 ++ x1 ++ x2 ++ x3 ++ x4 ++ x5 ++ x6) = x2
  simp (disch := omega) only [extract_append_low, extract_append_high, Nat.reduceSub, extract_all]
theorem field_5_5_1_1_3_3_11_3 (x0 : BitVec 5) (x1 : BitVec 5) (x2 : BitVec 1) (x3 : BitVec 1) (x4 : BitVec 3) (x5 : BitVec 3) (x6 : BitVec 11) :
    @BitVec.extractLsb' 29 17 1 (x0 ++ x1 ++ x2 ++ x3 ++ x4 ++ x5 ++ x6) = x3 := by
  show @BitVec.extractLsb' (5 + 5 + 1 + 1 + 3 + 3 + 11) 17 1 (x0 ++ x1 ++ x2 ++ x3 ++ x4 ++ x5 ++ x6) = x3
  simp (disch := omega) only [extract_append_low, extract_append_high, Nat.reduceSub, extract_all]
theorem field_5_5_1_1_3_3_11_4 (x0 : BitVec 5) (x1 : BitVec 5) (x2 : BitVec 1) (x3 : BitVec 1) (x4 : BitVec 3) (x5 : BitVec 3) (x6 : BitVec 11) :
    @BitVec.extractLsb' 29 14 3 (x0 ++ x1 ++ x2 ++ x3 ++ x4 ++ x5 ++ x6) = x4 := by
  show @BitVec.extractLsb' (5 + 5 + 1 + 1 + 3 + 3 + 11) 14 3 (x0 ++ x1 ++ x2 ++ x3 ++ x4 ++ x5 ++ x6) = x4
  simp (disch := omega) only [extract_append_low, extract_append_high, Nat.reduceSub, extract_all]
theorem field_5_5_1_1_3_3_11_5 (x0 : BitVec 5) (x1 : BitVec 5) (x2 : BitVec 1) (x3 : BitVec 1) (x4 : BitVec 3) (x5 : BitVec 3) (x6 : BitVec 11) :
    @BitVec.extractLsb' 29 11 3 (x0 ++ x1 ++ x2 ++ x3 ++ x4 ++ x5 ++ x6) = x5 := by
  show @BitVec.extractLsb' (5 + 5 + 1 + 1 + 3 + 3 + 11) 11 3 (x0 ++ x1 ++ x2 ++ x3 ++ x4 ++ x5 ++ x6) = x5
  simp (disch := omega) only [extract_append_low, extract_append_high, Nat.reduceSub, extract_all]
theorem field_5_5_1_1_3_3_11_6 (x0 : BitVec 5) (x1 : BitVec 5) (x2 : BitVec 1) (x3 : BitVec 1) (x4 : BitVec 3) (x5 : BitVec 3) (x6 : BitVec 11) :
    @BitVec.extractLsb' 29 0 11 (x0 ++ x1 ++ x2 ++ x3 ++ x4 ++ x5 ++ x6) = x6 := by
  show @BitVec.extractLsb' (5 + 5 + 1 + 1 + 3 + 3 + 11) 0 11 (x0 ++ x1 ++ x2 ++ x3 ++ x4 ++ x5 ++ x6) = x6
  simp (disch := omega) only [extract_append_low, extract_append_high, Nat.reduceSub, extract_all]
theorem field_5_5_2_17_0 (x0 : BitVec 5) (x1 : BitVec 5) (x2 : BitVec 2) (x3 : BitVec 17) :
    @BitVec.extractLsb' 29 24 5 (x0 ++ x1 ++ x2 ++ x3) = x0 := by
  show @BitVec.extractLsb' (5 + 5 + 2 + 17) 24 5 (x0 ++ x1 ++ x2 ++ x3) = x0
  simp (disch := omega) only [extract_append_low, extract_append_high, Nat.reduceSub, extract_all]
theorem field_5_5_2_17_1 (x0 : BitVec 5) (x1 : BitVec 5) (x2 : BitVec 2) (x3 : BitVec 17) :
    @BitVec.extractLsb' 29 19 5 (x0 ++ x1 ++ x2 ++ x3) = x1 := by
  show @BitVec.extractLsb' (5 + 5 + 2 + 17) 19 5 (x0 ++ x1 ++ x2 ++ x3) = x1
  simp (disch := omega) only [extract_append_low, extract_append_high, Nat.reduceSub, extract_all]
theorem field_5_5_2_17_2 (x0 : BitVec 5) (x1 : BitVec 5) (x2 : BitVec 2) (x3 : BitVec 17) :
    @BitVec.extractLsb' 29 17 2 (x0 ++ x1 ++ x2 ++ x3) = x2 := by
  show @BitVec.extractLsb' (5 + 5 + 2 + 17) 17 2 (x0 ++ x1 ++ x2 ++ x3) = x2
  simp (disch := omega) only [extract_append_low, extract_append_high, Nat.reduceSub, extract_all]
theorem field_5_5_2_17_3 (x0 : BitVec 5) (x1 : BitVec 5) (x2 : BitVec 2) (x3 : BitVec 17) :
    @BitVec.extractLsb' 29 0 17 (x0 ++ x1 ++ x2 ++ x3) = x3 := by
  show @BitVec.extractLsb' (5 + 5 + 2 + 17) 0 17 (x0 ++ x1 ++ x2 ++ x3) = x3
  simp (disch := omega) only [extract_append_low, extract_append_high, Nat.reduceSub, extract_all]
theorem field_5_5_4_15_0 (x0 : BitVec 5) (x1 : BitVec 5) (x2 : BitVec 4) (x3 : BitVec 15) :
    @BitVec.extractLsb' 29 24 5 (x0 ++ x1 ++ x2 ++ x3) = x0 := by
  show @BitVec.extractLsb' (5 + 5 + 4 + 15) 24 5 (x0 ++ x1 ++ x2 ++ x3) = x0
  simp (disch := omega) only [extract_append_low, extract_append_high, Nat.reduceSub, extract_all]
theorem field_5_5_4_15_1 (x0 : BitVec 5) (x1 : BitVec 5) (x2 : BitVec 4) (x3 : BitVec 15) :
    @BitVec.extractLsb' 29 19 5 (x0 ++ x1 ++ x2 ++ x3) = x1 := by
  show @BitVec.extractLsb' (5 + 5 + 4 + 15) 19 5 (x0 ++ x1 ++ x2 ++ x3) = x1
  simp (disch := omega) only [extract_append_low, extract_append_high, Nat.reduceSub, extract_all]
theorem field_5_5_4_15_2 (x0 : BitVec 5) (x1 : BitVec 5) (x2 : BitVec 4) (x3 : BitVec 15) :
    @BitVec.extractLsb' 29 15 4 (x0 ++ x1 ++ x2 ++ x3) = x2 := by
  show @BitVec.extractLsb' (5 + 5 + 4 + 15) 15 4 (x0 ++ x1 ++ x2 ++ x3) = x2
  simp (disch := omega) only [extract_append_low, extract_append_high, Nat.reduceSub, extract_all]
theorem field_5_5_4_15_3 (x0 : BitVec 5) (x1 : BitVec 5) (x2 : BitVec 4) (x3 : BitVec 15) :
    @BitVec.extractLsb' 29 0 15 (x0 ++ x1 ++ x2 ++ x3) = x3 := by
  show @BitVec.extractLsb' (5 + 5 + 4 + 15) 0 15 (x0 ++ x1 ++ x2 ++ x3) = x3
  simp (disch := omega) only [extract_append_low, extract_append_high, Nat.reduceSub, extract_all]
theorem field_5_5_8_11_0 (x0 : BitVec 5) (x1 : BitVec 5) (x2 : BitVec 8) (x3 : BitVec 11) :
    @BitVec.extractLsb' 29 24 5 (x0 ++ x1 ++ x2 ++ x3) = x0 := by
  show @BitVec.extractLsb' (5 + 5 + 8 + 11) 24 5 (x0 ++ x1 ++ x2 ++ x3) = x0
  simp (disch := omega) only [extract_append_low, extract_append_high, Nat.reduceSub, extract_all]
theorem field_5_5_8_11_1 (x0 : BitVec 5) (x1 : BitVec 5) (x2 : BitVec 8) (x3 : BitVec 11) :
    @BitVec.extractLsb' 29 19 5 (x0 ++ x1 ++ x2 ++ x3) = x1 := by
  show @BitVec.extractLsb' (5 + 5 + 8 + 11) 19 5 (x0 ++ x1 ++ x2 ++ x3) = x1
  simp (disch := omega) only [extract_append_low, extract_append_high, Nat.reduceSub, extract_all]
theorem field_5_5_8_11_2 (x0 : BitVec 5) (x1 : BitVec 5) (x2 : BitVec 8) (x3 : BitVec 11) :
    @BitVec.extractLsb' 29 11 8 (x0 ++ x1 ++ x2 ++ x3) = x2 := by
  show @BitVec.extractLsb' (5 + 5 + 8 + 11) 11 8 (x0 ++ x1 ++ x2 ++ x3) = x2
  simp (disch := omega) only [extract_append_low, extract_append_high, Nat.reduceSub, extract_all]
theorem field_5_5_8_11_3 (x0 : BitVec 5) (x1 : BitVec 5) (x2 : BitVec 8) (x3 : BitVec 11) :
    @BitVec.extractLsb' 29 0 11 (x0 ++ x1 ++ x2 ++ x3) = x3 := by
  show @BitVec.extractLsb' (5 + 5 + 8 + 11) 0 11 (x0 ++ x1 ++ x2 ++ x3) = x3
  simp (disch := omega) only [extract_append_low, extract_append_high, Nat.reduceSub, extract_all]
theorem field_5_5_19_0 (x0 : BitVec 5) (x1 : BitVec 5) (x2 : BitVec 19) :
    @BitVec.extractLsb' 29 24 5 (x0 ++ x1 ++ x2) = x0 := by
  show @BitVec.extractLsb' (5 + 5 + 19) 24 5 (x0 ++ x1 ++ x2) = x0
  simp (disch := omega) only [extract_append_low, extract_append_high, Nat.reduceSub, extract_all]
theorem field_5_5_19_1 (x0 : BitVec 5) (x1 : BitVec 5) (x2 : BitVec 19) :
    @BitVec.extractLsb' 29 19 5 (x0 ++ x1 ++ x2) = x1 := by
  show @BitVec.extractLsb' (5 + 5 + 19) 19 5 (x0 ++ x1 ++ x2) = x1
  simp (disch := omega) only [extract_append_low, extract_append_high, Nat.reduceSub, extract_all]
theorem field_5_5_19_2 (x0 : BitVec 5) (x1 : BitVec 5) (x2 : BitVec 19) :
    @BitVec.extractLsb' 29 0 19 (x0 ++ x1 ++ x2) = x2 := by
  show @BitVec.extractLsb' (5 + 5 + 19) 0 19 (x0 ++ x1 ++ x2) = x2
  simp (disch := omega) only [extract_append_low, extract_append_high, Nat.reduceSub, extract_all]
theorem field_5_8_16_0 (x0 : BitVec 5) (x1 : BitVec 8) (x2 : BitVec 16) :
    @BitVec.extractLsb' 29 24 5 (x0 ++ x1 ++ x2) = x0 := by
  show @BitVec.extractLsb' (5 + 8 + 16) 24 5 (x0 ++ x1 ++ x2) = x0
  simp (disch := omega) only [extract_append_low, extract_append_high, Nat.reduceSub, extract_all]
theorem field_5_8_16_1 (x0 : BitVec 5) (x1 : BitVec 8) (x2 : BitVec 16) :
    @BitVec.extractLsb' 29 16 8 (x0 ++ x1 ++ x2) = x1 := by
  show @BitVec.extractLsb' (5 + 8 + 16) 16 8 (x0 ++ x1 ++ x2) = x1
  simp (disch := omega) only [extract_append_low, extract_append_high, Nat.reduceSub, extract_all]
theorem field_5_8_16_2 (x0 : BitVec 5) (x1 : BitVec 8) (x2 : BitVec 16) :
    @BitVec.extractLsb' 29 0 16 (x0 ++ x1 ++ x2) = x2 := by
  show @BitVec.extractLsb' (5 + 8 + 16) 0 16 (x0 ++ x1 ++ x2) = x2
  simp (disch := omega) only [extract_append_low, extract_append_high, Nat.reduceSub, extract_all]
theorem field_5_24_0 (x0 : BitVec 5) (x1 : BitVec 24) :
    @BitVec.extractLsb' 29 24 5 (x0 ++ x1) = x0 := by
  show @BitVec.extractLsb' (5 + 24) 24 5 (x0 ++ x1) = x0
  simp (disch := omega) only [extract_append_low, extract_append_high, Nat.reduceSub, extract_all]
theorem field_5_24_1 (x0 : BitVec 5) (x1 : BitVec 24) :
    @BitVec.extractLsb' 29 0 24 (x0 ++ x1) = x1 := by
  show @BitVec.extractLsb' (5 + 24) 0 24 (x0 ++ x1) = x1
  simp (disch := omega) only [extract_append_low, extract_append_high, Nat.reduceSub, extract_all]
theorem field_8_3_2_16_0 (x0 : BitVec 8) (x1 : BitVec 3) (x2 : BitVec 2) (x3 : BitVec 16) :
    @BitVec.extractLsb' 29 21 8 (x0 ++ x1 ++ x2 ++ x3) = x0 := by
  show @BitVec.extractLsb' (8 + 3 + 2 + 16) 21 8 (x0 ++ x1 ++ x2 ++ x3) = x0
  simp (disch := omega) only [extract_append_low, extract_append_high, Nat.reduceSub, extract_all]
theorem field_8_3_2_16_1 (x0 : BitVec 8) (x1 : BitVec 3) (x2 : BitVec 2) (x3 : BitVec 16) :
    @BitVec.extractLsb' 29 18 3 (x0 ++ x1 ++ x2 ++ x3) = x1 := by
  show @BitVec.extractLsb' (8 + 3 + 2 + 16) 18 3 (x0 ++ x1 ++ x2 ++ x3) = x1
  simp (disch := omega) only [extract_append_low, extract_append_high, Nat.reduceSub, extract_all]
theorem field_8_3_2_16_2 (x0 : BitVec 8) (x1 : BitVec 3) (x2 : BitVec 2) (x3 : BitVec 16) :
    @BitVec.extractLsb' 29 16 2 (x0 ++ x1 ++ x2 ++ x3) = x2 := by
  show @BitVec.extractLsb' (8 + 3 + 2 + 16) 16 2 (x0 ++ x1 ++ x2 ++ x3) = x2
  simp (disch := omega) only [extract_append_low, extract_append_high, Nat.reduceSub, extract_all]
theorem field_8_3_2_16_3 (x0 : BitVec 8) (x1 : BitVec 3) (x2 : BitVec 2) (x3 : BitVec 16) :
    @BitVec.extractLsb' 29 0 16 (x0 ++ x1 ++ x2 ++ x3) = x3 := by
  show @BitVec.extractLsb' (8 + 3 + 2 + 16) 0 16 (x0 ++ x1 ++ x2 ++ x3) = x3
  simp (disch := omega) only [extract_append_low, extract_append_high, Nat.reduceSub, extract_all]

end Sys2Proof
end

