-- ==== Sys2Proof/Laws/Memory.lean ====
section
/-! SUPPORT. The keyed lists and the bytes of memory: reading after writing, and the canonical form,
which every operation on bytes keeps. -/

namespace Sys2Proof.Machine

open Sys2Proof.Bits

/-! ### Keyed lists -/

/-- What has been put is found. -/
@[simp] theorem find?_put_self {α : Type} (l : List (Nat × α)) (k : Nat) (v : α) : find? (put l k v) k = some v := by
  induction l with
  | nil => simp [put, find?]
  | cons e l ih =>
    obtain ⟨j, u⟩ := e
    simp only [put]
    split
    · simp [find?]
    · split
      · simp [find?]
      · simp only [find?]
        rw [if_neg (by omega), ih]

/-- Putting an entry leaves the entries of other keys. -/
theorem find?_put_ne {α : Type} (l : List (Nat × α)) {k i : Nat} (v : α) (h : i ≠ k) :
    find? (put l k v) i = find? l i := by
  induction l with
  | nil => simp [put, find?, Ne.symm h]
  | cons e l ih =>
    obtain ⟨j, u⟩ := e
    simp only [put]
    split
    · simp [find?, Ne.symm h]
    · split
      · next hk => subst hk; simp [find?, Ne.symm h]
      · simp only [find?, ih]

/-! ### The canonical form -/

/-- The canonical form as a chain: every listed byte is not 0, and addresses rise. -/
theorem Memory.wf_iff (m : List Host.Cell) :
    Memory.wf m = true ↔ (∀ c ∈ m, c.2 ≠ 0#8) ∧ m.Pairwise (fun c d => c.1 < d.1) := by
  induction m with
  | nil => simp [Memory.wf]
  | cons c m ih =>
    obtain ⟨a, v⟩ := c
    cases m with
    | nil => simp [Memory.wf]
    | cons d m =>
      obtain ⟨b, u⟩ := d
      simp only [Memory.wf, Bool.and_eq_true, bne_iff_ne, ne_eq, decide_eq_true_eq, ih]
      constructor
      · rintro ⟨⟨hv, hab⟩, hm, hp⟩
        refine ⟨by simpa [hv] using hm, List.pairwise_cons.2 ⟨?_, hp⟩⟩
        intro e he
        rcases List.mem_cons.1 he with rfl | he
        · exact hab
        · exact Nat.lt_trans hab ((List.pairwise_cons.1 hp).1 e he)
      · rintro ⟨hm, hp⟩
        obtain ⟨h1, h2⟩ := List.pairwise_cons.1 hp
        exact ⟨⟨hm (a, v) (by simp), h1 (b, u) (by simp)⟩, fun e he => hm e (by simp [he]), h2⟩

/-- The bytes of a canonical memory after its first are canonical. -/
theorem Memory.wf_tail {c : Host.Cell} {m : List Host.Cell} (h : Memory.wf (c :: m) = true) : Memory.wf m = true := by
  rw [Memory.wf_iff] at h ⊢
  exact ⟨fun e he => h.1 e (by simp [he]), (List.pairwise_cons.1 h.2).2⟩

/-- Keeping some of the bytes keeps the canonical form. -/
theorem Memory.wf_filter {m : List Host.Cell} (h : Memory.wf m = true) (p : Host.Cell → Bool) :
    Memory.wf (m.filter p) = true := by
  rw [Memory.wf_iff] at h ⊢
  exact ⟨fun e he => h.1 e (List.mem_of_mem_filter he), h.2.filter p⟩

/-- Clearing a range keeps the canonical form. -/
theorem Memory.wf_clear {m : List Host.Cell} (h : Memory.wf m = true) (a n : Nat) : Memory.wf (Memory.clear m a n) = true :=
  Memory.wf_filter h _

/-- A cell of a written memory is the byte written or was there. -/
theorem Memory.mem_set {m : List Host.Cell} {a : Nat} {v : Byte} {c : Host.Cell} (h : c ∈ Memory.set m a v) :
    (c = (a, v) ∧ v ≠ 0#8) ∨ c ∈ m := by
  induction m with
  | nil =>
    simp only [Memory.set] at h
    split at h
    · simp at h
    · simp only [List.mem_singleton] at h; exact .inl ⟨h, by assumption⟩
  | cons e m ih =>
    obtain ⟨b, u⟩ := e
    simp only [Memory.set] at h
    split at h
    · split at h
      · exact .inr h
      · rcases List.mem_cons.1 h with h | h
        · exact .inl ⟨h, by assumption⟩
        · exact .inr h
    · split at h
      · split at h
        · exact .inr (by simp [h])
        · rcases List.mem_cons.1 h with h | h
          · exact .inl ⟨h, by assumption⟩
          · exact .inr (by simp [h])
      · rcases List.mem_cons.1 h with h | h
        · exact .inr (by simp [h])
        · rcases ih h with h | h
          · exact .inl h
          · exact .inr (by simp [h])

/-- Writing a byte keeps the canonical form. -/
theorem Memory.wf_set {m : List Host.Cell} (h : Memory.wf m = true) (a : Nat) (v : Byte) :
    Memory.wf (Memory.set m a v) = true := by
  induction m with
  | nil =>
    simp only [Memory.set]
    split
    · rfl
    · simpa [Memory.wf] using ‹_›
  | cons e m ih =>
    obtain ⟨b, u⟩ := e
    have ht := Memory.wf_tail h
    rw [Memory.wf_iff] at h
    obtain ⟨hu, hp⟩ := List.pairwise_cons.1 h.2
    simp only [Memory.set]
    split
    · next hab =>
      split
      · rw [Memory.wf_iff]; exact h
      · next hv =>
        rw [Memory.wf_iff]
        refine ⟨fun e he => ?_, List.pairwise_cons.2 ⟨fun e he => ?_, h.2⟩⟩
        · rcases List.mem_cons.1 he with rfl | he
          · exact hv
          · exact h.1 e he
        · rcases List.mem_cons.1 he with rfl | he
          · exact hab
          · exact Nat.lt_trans hab (hu e he)
    · split
      · next hab =>
        split
        · exact ht
        · next hv =>
          subst hab
          rw [Memory.wf_iff]
          refine ⟨fun e he => ?_, List.pairwise_cons.2 ⟨hu, hp⟩⟩
          rcases List.mem_cons.1 he with rfl | he
          · exact hv
          · exact h.1 e (by simp [he])
      · next h1 h2 =>
        have hs := ih ht
        rw [Memory.wf_iff] at hs ⊢
        refine ⟨fun e he => ?_, List.pairwise_cons.2 ⟨fun e he => ?_, hs.2⟩⟩
        · rcases List.mem_cons.1 he with rfl | he
          · exact h.1 _ (by simp)
          · exact hs.1 e he
        · rcases Memory.mem_set he with ⟨rfl, -⟩ | he
          · simp only; omega
          · exact hu e he

/-- Writing bytes keeps the canonical form. -/
theorem Memory.wf_setAll {m : List Host.Cell} (h : Memory.wf m = true) (a : Nat) (vs : List Byte) :
    Memory.wf (Memory.setAll m a vs) = true := by
  induction vs generalizing m a with
  | nil => exact h
  | cons v vs ih => exact ih (Memory.wf_set h a v) (a + 1)

/-- A run of writes, clearings or both keeps the canonical form if each does. -/
theorem Memory.wf_foldl {β : Type} {f : List Host.Cell → β → List Host.Cell}
    (hf : ∀ m b, Memory.wf m = true → Memory.wf (f m b) = true) (l : List β) {m : List Host.Cell}
    (h : Memory.wf m = true) : Memory.wf (l.foldl f m) = true := by
  induction l generalizing m with
  | nil => exact h
  | cons b l ih => exact ih (hf m b h)

/-- Nothing is listed at reset. -/
theorem Memory.wf_reset : Memory.wf State.reset.mem = true := rfl

/-! ### Reading after writing -/

/-- An address no cell has reads 0. -/
theorem Memory.get_absent {m : List Host.Cell} {a : Nat} (h : ∀ c ∈ m, c.1 ≠ a) : Memory.get m a = 0#8 := by
  induction m with
  | nil => rfl
  | cons e m ih =>
    obtain ⟨b, u⟩ := e
    simp only [Memory.get]
    rw [if_neg (h (b, u) (by simp)), ih (fun c hc => h c (by simp [hc]))]

/-- A byte written is read. -/
theorem Memory.get_set_self {m : List Host.Cell} (h : Memory.wf m = true) (a : Nat) (v : Byte) :
    Memory.get (Memory.set m a v) a = v := by
  induction m with
  | nil =>
    simp only [Memory.set]
    split
    · next hv => simp [Memory.get, hv]
    · simp [Memory.get]
  | cons e m ih =>
    obtain ⟨b, u⟩ := e
    have ht := Memory.wf_tail h
    rw [Memory.wf_iff] at h
    obtain ⟨hu, hp⟩ := List.pairwise_cons.1 h.2
    simp only [Memory.set]
    split
    · next hab =>
      split
      · next hv =>
        rw [hv]
        refine Memory.get_absent fun c hc => ?_
        rcases List.mem_cons.1 hc with rfl | hc
        · simp only; omega
        · have := hu c hc; simp only at this; omega
      · simp [Memory.get]
    · split
      · next hab =>
        split
        · next hv =>
          rw [hv]
          refine Memory.get_absent fun c hc => ?_
          have := hu c hc; simp only at this; omega
        · simp [Memory.get]
      · next h1 h2 =>
        simp only [Memory.get]
        rw [if_neg (by omega), ih ht]

/-- Writing a byte leaves every other address. -/
theorem Memory.get_set_ne (m : List Host.Cell) {a x : Nat} (v : Byte) (h : x ≠ a) :
    Memory.get (Memory.set m a v) x = Memory.get m x := by
  induction m with
  | nil =>
    simp only [Memory.set]
    split <;> simp [Memory.get, Ne.symm h]
  | cons e m ih =>
    obtain ⟨b, u⟩ := e
    simp only [Memory.set]
    split
    · split <;> simp [Memory.get, Ne.symm h]
    · split
      · next hab => subst hab; split <;> simp [Memory.get, Ne.symm h]
      · simp only [Memory.get, ih]

/-- Writing bytes leaves every address outside their range. -/
theorem Memory.get_setAll_out (m : List Host.Cell) {a x : Nat} (vs : List Byte) (h : x < a ∨ a + vs.length ≤ x) :
    Memory.get (Memory.setAll m a vs) x = Memory.get m x := by
  induction vs generalizing m a with
  | nil => rfl
  | cons v vs ih =>
    simp only [List.length_cons] at h
    rw [Memory.setAll, ih _ (by omega), Memory.get_set_ne _ _ (by omega)]

/-- Bytes written are read. -/
theorem Memory.get_setAll_in {m : List Host.Cell} (hm : Memory.wf m = true) {a i : Nat} {vs : List Byte} (h : i < vs.length) :
    Memory.get (Memory.setAll m a vs) (a + i) = vs[i] := by
  induction vs generalizing m a i with
  | nil => simp at h
  | cons v vs ih =>
    rw [Memory.setAll]
    cases i with
    | zero => rw [Memory.get_setAll_out _ _ (by omega)]; exact Memory.get_set_self hm a v
    | succ i =>
      have := ih (Memory.wf_set hm a v) (a := a + 1) (i := i) (by simpa using h)
      rw [show a + (i + 1) = a + 1 + i by omega, this]
      rfl

/-- A cleared range reads 0. -/
theorem Memory.get_clear_in (m : List Host.Cell) {a n x : Nat} (h : a ≤ x ∧ x < a + n) :
    Memory.get (Memory.clear m a n) x = 0#8 := by
  refine Memory.get_absent fun c hc => ?_
  have := (List.mem_filter.1 hc).2
  simp at this
  omega

/-- Clearing a range leaves every other address. -/
theorem Memory.get_clear_out (m : List Host.Cell) {a n x : Nat} (h : x < a ∨ a + n ≤ x) :
    Memory.get (Memory.clear m a n) x = Memory.get m x := by
  induction m with
  | nil => rfl
  | cons e m ih =>
    obtain ⟨b, u⟩ := e
    simp only [Memory.clear, List.filter_cons] at ih ⊢
    by_cases hb : b = x
    · subst hb
      rw [if_pos (by simp; omega)]
      simp [Memory.get]
    · split
      · simp only [Memory.get, if_neg hb]; exact ih
      · simp only [Memory.get, if_neg hb]; exact ih

end Sys2Proof.Machine
end

