-- ==== Sys2Proof/Laws/State.lean ====
section
/-! SUPPORT. What each update of the state leaves as it was, field by field, and what the accessors read
after an update. -/

namespace Sys2Proof.Machine

open Sys2Proof.Bits

/-! ### setCore -/

@[simp] theorem State.setCore_agenda (s : State) (n : Nat) (c : Core) : (s.setCore n c).agenda = s.agenda := rfl
@[simp] theorem State.setCore_focus (s : State) (n : Nat) (c : Core) : (s.setCore n c).focus = s.focus := rfl
@[simp] theorem State.setCore_inp (s : State) (n : Nat) (c : Core) : (s.setCore n c).inp = s.inp := rfl
@[simp] theorem State.setCore_bundle (s : State) (n : Nat) (c : Core) : (s.setCore n c).bundle = s.bundle := rfl
@[simp] theorem State.setCore_tick (s : State) (n : Nat) (c : Core) : (s.setCore n c).tick = s.tick := rfl
@[simp] theorem State.setCore_free (s : State) (n : Nat) (c : Core) : (s.setCore n c).free = s.free := rfl
@[simp] theorem State.setCore_late (s : State) (n : Nat) (c : Core) : (s.setCore n c).late = s.late := rfl
@[simp] theorem State.setCore_meet (s : State) (n : Nat) (c : Core) : (s.setCore n c).meet = s.meet := rfl
@[simp] theorem State.setCore_retireCuts (s : State) (n : Nat) (c : Core) : (s.setCore n c).retireCuts = s.retireCuts := rfl
@[simp] theorem State.setCore_tsfloor (s : State) (n : Nat) (c : Core) : (s.setCore n c).tsfloor = s.tsfloor := rfl
@[simp] theorem State.setCore_wtsTop (s : State) (n : Nat) (c : Core) : (s.setCore n c).wtsTop = s.wtsTop := rfl
@[simp] theorem State.setCore_floorNext (s : State) (n : Nat) (c : Core) : (s.setCore n c).floorNext = s.floorNext := rfl
@[simp] theorem State.setCore_floorAt (s : State) (n : Nat) (c : Core) : (s.setCore n c).floorAt = s.floorAt := rfl
@[simp] theorem State.setCore_seqs (s : State) (n : Nat) (c : Core) : (s.setCore n c).seqs = s.seqs := rfl
@[simp] theorem State.setCore_mem (s : State) (n : Nat) (c : Core) : (s.setCore n c).mem = s.mem := rfl
@[simp] theorem State.setCore_lines (s : State) (n : Nat) (c : Core) : (s.setCore n c).lines = s.lines := rfl
@[simp] theorem State.setCore_msc (s : State) (n : Nat) (c : Core) : (s.setCore n c).msc = s.msc := rfl
@[simp] theorem State.setCore_tlb (s : State) (n : Nat) (c : Core) : (s.setCore n c).tlb = s.tlb := rfl
@[simp] theorem State.setCore_sealSet (s : State) (n : Nat) (c : Core) : (s.setCore n c).sealSet = s.sealSet := rfl
@[simp] theorem State.setCore_health (s : State) (n : Nat) (c : Core) : (s.setCore n c).health = s.health := rfl
@[simp] theorem State.setCore_ctxs (s : State) (n : Nat) (c : Core) : (s.setCore n c).ctxs = s.ctxs := rfl
@[simp] theorem State.setCore_bays (s : State) (n : Nat) (c : Core) : (s.setCore n c).bays = s.bays := rfl
@[simp] theorem State.setCore_rotated (s : State) (n : Nat) (c : Core) : (s.setCore n c).rotated = s.rotated := rfl
@[simp] theorem State.setCore_hbm (s : State) (n : Nat) (c : Core) : (s.setCore n c).hbm = s.hbm := rfl
@[simp] theorem State.setCore_hubCounters (s : State) (n : Nat) (c : Core) : (s.setCore n c).hubCounters = s.hubCounters := rfl
@[simp] theorem State.setCore_kept (s : State) (n : Nat) (c : Core) : (s.setCore n c).kept = s.kept := rfl
@[simp] theorem State.setCore_frames (s : State) (n : Nat) (c : Core) : (s.setCore n c).frames = s.frames := rfl
@[simp] theorem State.setCore_pkg (s : State) (n : Nat) (c : Core) : (s.setCore n c).pkg = s.pkg := rfl
@[simp] theorem State.setCore_fab (s : State) (n : Nat) (c : Core) : (s.setCore n c).fab = s.fab := rfl
@[simp] theorem State.setCore_host (s : State) (n : Nat) (c : Core) : (s.setCore n c).host = s.host := rfl
@[simp] theorem State.setCore_tab (s : State) (n : Nat) (c : Core) : (s.setCore n c).tab = s.tab := rfl
@[simp] theorem State.setCore_pow (s : State) (n : Nat) (c : Core) : (s.setCore n c).pow = s.pow := rfl

/-! ### modCore -/

@[simp] theorem State.modCore_agenda (s : State) (n : Nat) (f : Core → Core) : (s.modCore n f).agenda = s.agenda := rfl
@[simp] theorem State.modCore_focus (s : State) (n : Nat) (f : Core → Core) : (s.modCore n f).focus = s.focus := rfl
@[simp] theorem State.modCore_inp (s : State) (n : Nat) (f : Core → Core) : (s.modCore n f).inp = s.inp := rfl
@[simp] theorem State.modCore_bundle (s : State) (n : Nat) (f : Core → Core) : (s.modCore n f).bundle = s.bundle := rfl
@[simp] theorem State.modCore_tick (s : State) (n : Nat) (f : Core → Core) : (s.modCore n f).tick = s.tick := rfl
@[simp] theorem State.modCore_free (s : State) (n : Nat) (f : Core → Core) : (s.modCore n f).free = s.free := rfl
@[simp] theorem State.modCore_late (s : State) (n : Nat) (f : Core → Core) : (s.modCore n f).late = s.late := rfl
@[simp] theorem State.modCore_meet (s : State) (n : Nat) (f : Core → Core) : (s.modCore n f).meet = s.meet := rfl
@[simp] theorem State.modCore_retireCuts (s : State) (n : Nat) (f : Core → Core) : (s.modCore n f).retireCuts = s.retireCuts := rfl
@[simp] theorem State.modCore_tsfloor (s : State) (n : Nat) (f : Core → Core) : (s.modCore n f).tsfloor = s.tsfloor := rfl
@[simp] theorem State.modCore_wtsTop (s : State) (n : Nat) (f : Core → Core) : (s.modCore n f).wtsTop = s.wtsTop := rfl
@[simp] theorem State.modCore_floorNext (s : State) (n : Nat) (f : Core → Core) : (s.modCore n f).floorNext = s.floorNext := rfl
@[simp] theorem State.modCore_floorAt (s : State) (n : Nat) (f : Core → Core) : (s.modCore n f).floorAt = s.floorAt := rfl
@[simp] theorem State.modCore_seqs (s : State) (n : Nat) (f : Core → Core) : (s.modCore n f).seqs = s.seqs := rfl
@[simp] theorem State.modCore_mem (s : State) (n : Nat) (f : Core → Core) : (s.modCore n f).mem = s.mem := rfl
@[simp] theorem State.modCore_lines (s : State) (n : Nat) (f : Core → Core) : (s.modCore n f).lines = s.lines := rfl
@[simp] theorem State.modCore_msc (s : State) (n : Nat) (f : Core → Core) : (s.modCore n f).msc = s.msc := rfl
@[simp] theorem State.modCore_tlb (s : State) (n : Nat) (f : Core → Core) : (s.modCore n f).tlb = s.tlb := rfl
@[simp] theorem State.modCore_sealSet (s : State) (n : Nat) (f : Core → Core) : (s.modCore n f).sealSet = s.sealSet := rfl
@[simp] theorem State.modCore_health (s : State) (n : Nat) (f : Core → Core) : (s.modCore n f).health = s.health := rfl
@[simp] theorem State.modCore_ctxs (s : State) (n : Nat) (f : Core → Core) : (s.modCore n f).ctxs = s.ctxs := rfl
@[simp] theorem State.modCore_bays (s : State) (n : Nat) (f : Core → Core) : (s.modCore n f).bays = s.bays := rfl
@[simp] theorem State.modCore_rotated (s : State) (n : Nat) (f : Core → Core) : (s.modCore n f).rotated = s.rotated := rfl
@[simp] theorem State.modCore_hbm (s : State) (n : Nat) (f : Core → Core) : (s.modCore n f).hbm = s.hbm := rfl
@[simp] theorem State.modCore_hubCounters (s : State) (n : Nat) (f : Core → Core) : (s.modCore n f).hubCounters = s.hubCounters := rfl
@[simp] theorem State.modCore_kept (s : State) (n : Nat) (f : Core → Core) : (s.modCore n f).kept = s.kept := rfl
@[simp] theorem State.modCore_frames (s : State) (n : Nat) (f : Core → Core) : (s.modCore n f).frames = s.frames := rfl
@[simp] theorem State.modCore_pkg (s : State) (n : Nat) (f : Core → Core) : (s.modCore n f).pkg = s.pkg := rfl
@[simp] theorem State.modCore_fab (s : State) (n : Nat) (f : Core → Core) : (s.modCore n f).fab = s.fab := rfl
@[simp] theorem State.modCore_host (s : State) (n : Nat) (f : Core → Core) : (s.modCore n f).host = s.host := rfl
@[simp] theorem State.modCore_tab (s : State) (n : Nat) (f : Core → Core) : (s.modCore n f).tab = s.tab := rfl
@[simp] theorem State.modCore_pow (s : State) (n : Nat) (f : Core → Core) : (s.modCore n f).pow = s.pow := rfl

/-! ### modMy -/

@[simp] theorem State.modMy_agenda (s : State) (f : Core → Core) : (s.modMy f).agenda = s.agenda := rfl
@[simp] theorem State.modMy_focus (s : State) (f : Core → Core) : (s.modMy f).focus = s.focus := rfl
@[simp] theorem State.modMy_inp (s : State) (f : Core → Core) : (s.modMy f).inp = s.inp := rfl
@[simp] theorem State.modMy_bundle (s : State) (f : Core → Core) : (s.modMy f).bundle = s.bundle := rfl
@[simp] theorem State.modMy_tick (s : State) (f : Core → Core) : (s.modMy f).tick = s.tick := rfl
@[simp] theorem State.modMy_free (s : State) (f : Core → Core) : (s.modMy f).free = s.free := rfl
@[simp] theorem State.modMy_late (s : State) (f : Core → Core) : (s.modMy f).late = s.late := rfl
@[simp] theorem State.modMy_meet (s : State) (f : Core → Core) : (s.modMy f).meet = s.meet := rfl
@[simp] theorem State.modMy_retireCuts (s : State) (f : Core → Core) : (s.modMy f).retireCuts = s.retireCuts := rfl
@[simp] theorem State.modMy_tsfloor (s : State) (f : Core → Core) : (s.modMy f).tsfloor = s.tsfloor := rfl
@[simp] theorem State.modMy_wtsTop (s : State) (f : Core → Core) : (s.modMy f).wtsTop = s.wtsTop := rfl
@[simp] theorem State.modMy_floorNext (s : State) (f : Core → Core) : (s.modMy f).floorNext = s.floorNext := rfl
@[simp] theorem State.modMy_floorAt (s : State) (f : Core → Core) : (s.modMy f).floorAt = s.floorAt := rfl
@[simp] theorem State.modMy_seqs (s : State) (f : Core → Core) : (s.modMy f).seqs = s.seqs := rfl
@[simp] theorem State.modMy_mem (s : State) (f : Core → Core) : (s.modMy f).mem = s.mem := rfl
@[simp] theorem State.modMy_lines (s : State) (f : Core → Core) : (s.modMy f).lines = s.lines := rfl
@[simp] theorem State.modMy_msc (s : State) (f : Core → Core) : (s.modMy f).msc = s.msc := rfl
@[simp] theorem State.modMy_tlb (s : State) (f : Core → Core) : (s.modMy f).tlb = s.tlb := rfl
@[simp] theorem State.modMy_sealSet (s : State) (f : Core → Core) : (s.modMy f).sealSet = s.sealSet := rfl
@[simp] theorem State.modMy_health (s : State) (f : Core → Core) : (s.modMy f).health = s.health := rfl
@[simp] theorem State.modMy_ctxs (s : State) (f : Core → Core) : (s.modMy f).ctxs = s.ctxs := rfl
@[simp] theorem State.modMy_bays (s : State) (f : Core → Core) : (s.modMy f).bays = s.bays := rfl
@[simp] theorem State.modMy_rotated (s : State) (f : Core → Core) : (s.modMy f).rotated = s.rotated := rfl
@[simp] theorem State.modMy_hbm (s : State) (f : Core → Core) : (s.modMy f).hbm = s.hbm := rfl
@[simp] theorem State.modMy_hubCounters (s : State) (f : Core → Core) : (s.modMy f).hubCounters = s.hubCounters := rfl
@[simp] theorem State.modMy_kept (s : State) (f : Core → Core) : (s.modMy f).kept = s.kept := rfl
@[simp] theorem State.modMy_frames (s : State) (f : Core → Core) : (s.modMy f).frames = s.frames := rfl
@[simp] theorem State.modMy_pkg (s : State) (f : Core → Core) : (s.modMy f).pkg = s.pkg := rfl
@[simp] theorem State.modMy_fab (s : State) (f : Core → Core) : (s.modMy f).fab = s.fab := rfl
@[simp] theorem State.modMy_host (s : State) (f : Core → Core) : (s.modMy f).host = s.host := rfl
@[simp] theorem State.modMy_tab (s : State) (f : Core → Core) : (s.modMy f).tab = s.tab := rfl
@[simp] theorem State.modMy_pow (s : State) (f : Core → Core) : (s.modMy f).pow = s.pow := rfl

/-! ### modRegs -/

@[simp] theorem State.modRegs_agenda (s : State) (f : Regs → Regs) : (s.modRegs f).agenda = s.agenda := rfl
@[simp] theorem State.modRegs_focus (s : State) (f : Regs → Regs) : (s.modRegs f).focus = s.focus := rfl
@[simp] theorem State.modRegs_inp (s : State) (f : Regs → Regs) : (s.modRegs f).inp = s.inp := rfl
@[simp] theorem State.modRegs_bundle (s : State) (f : Regs → Regs) : (s.modRegs f).bundle = s.bundle := rfl
@[simp] theorem State.modRegs_tick (s : State) (f : Regs → Regs) : (s.modRegs f).tick = s.tick := rfl
@[simp] theorem State.modRegs_free (s : State) (f : Regs → Regs) : (s.modRegs f).free = s.free := rfl
@[simp] theorem State.modRegs_late (s : State) (f : Regs → Regs) : (s.modRegs f).late = s.late := rfl
@[simp] theorem State.modRegs_meet (s : State) (f : Regs → Regs) : (s.modRegs f).meet = s.meet := rfl
@[simp] theorem State.modRegs_retireCuts (s : State) (f : Regs → Regs) : (s.modRegs f).retireCuts = s.retireCuts := rfl
@[simp] theorem State.modRegs_tsfloor (s : State) (f : Regs → Regs) : (s.modRegs f).tsfloor = s.tsfloor := rfl
@[simp] theorem State.modRegs_wtsTop (s : State) (f : Regs → Regs) : (s.modRegs f).wtsTop = s.wtsTop := rfl
@[simp] theorem State.modRegs_floorNext (s : State) (f : Regs → Regs) : (s.modRegs f).floorNext = s.floorNext := rfl
@[simp] theorem State.modRegs_floorAt (s : State) (f : Regs → Regs) : (s.modRegs f).floorAt = s.floorAt := rfl
@[simp] theorem State.modRegs_seqs (s : State) (f : Regs → Regs) : (s.modRegs f).seqs = s.seqs := rfl
@[simp] theorem State.modRegs_mem (s : State) (f : Regs → Regs) : (s.modRegs f).mem = s.mem := rfl
@[simp] theorem State.modRegs_lines (s : State) (f : Regs → Regs) : (s.modRegs f).lines = s.lines := rfl
@[simp] theorem State.modRegs_msc (s : State) (f : Regs → Regs) : (s.modRegs f).msc = s.msc := rfl
@[simp] theorem State.modRegs_tlb (s : State) (f : Regs → Regs) : (s.modRegs f).tlb = s.tlb := rfl
@[simp] theorem State.modRegs_sealSet (s : State) (f : Regs → Regs) : (s.modRegs f).sealSet = s.sealSet := rfl
@[simp] theorem State.modRegs_health (s : State) (f : Regs → Regs) : (s.modRegs f).health = s.health := rfl
@[simp] theorem State.modRegs_ctxs (s : State) (f : Regs → Regs) : (s.modRegs f).ctxs = s.ctxs := rfl
@[simp] theorem State.modRegs_bays (s : State) (f : Regs → Regs) : (s.modRegs f).bays = s.bays := rfl
@[simp] theorem State.modRegs_rotated (s : State) (f : Regs → Regs) : (s.modRegs f).rotated = s.rotated := rfl
@[simp] theorem State.modRegs_hbm (s : State) (f : Regs → Regs) : (s.modRegs f).hbm = s.hbm := rfl
@[simp] theorem State.modRegs_hubCounters (s : State) (f : Regs → Regs) : (s.modRegs f).hubCounters = s.hubCounters := rfl
@[simp] theorem State.modRegs_kept (s : State) (f : Regs → Regs) : (s.modRegs f).kept = s.kept := rfl
@[simp] theorem State.modRegs_frames (s : State) (f : Regs → Regs) : (s.modRegs f).frames = s.frames := rfl
@[simp] theorem State.modRegs_pkg (s : State) (f : Regs → Regs) : (s.modRegs f).pkg = s.pkg := rfl
@[simp] theorem State.modRegs_fab (s : State) (f : Regs → Regs) : (s.modRegs f).fab = s.fab := rfl
@[simp] theorem State.modRegs_host (s : State) (f : Regs → Regs) : (s.modRegs f).host = s.host := rfl
@[simp] theorem State.modRegs_tab (s : State) (f : Regs → Regs) : (s.modRegs f).tab = s.tab := rfl
@[simp] theorem State.modRegs_pow (s : State) (f : Regs → Regs) : (s.modRegs f).pow = s.pow := rfl

/-! ### setSeq -/

@[simp] theorem State.setSeq_agenda (s : State) (n : Nat) (q : Seq) : (s.setSeq n q).agenda = s.agenda := rfl
@[simp] theorem State.setSeq_focus (s : State) (n : Nat) (q : Seq) : (s.setSeq n q).focus = s.focus := rfl
@[simp] theorem State.setSeq_inp (s : State) (n : Nat) (q : Seq) : (s.setSeq n q).inp = s.inp := rfl
@[simp] theorem State.setSeq_bundle (s : State) (n : Nat) (q : Seq) : (s.setSeq n q).bundle = s.bundle := rfl
@[simp] theorem State.setSeq_tick (s : State) (n : Nat) (q : Seq) : (s.setSeq n q).tick = s.tick := rfl
@[simp] theorem State.setSeq_free (s : State) (n : Nat) (q : Seq) : (s.setSeq n q).free = s.free := rfl
@[simp] theorem State.setSeq_late (s : State) (n : Nat) (q : Seq) : (s.setSeq n q).late = s.late := rfl
@[simp] theorem State.setSeq_meet (s : State) (n : Nat) (q : Seq) : (s.setSeq n q).meet = s.meet := rfl
@[simp] theorem State.setSeq_retireCuts (s : State) (n : Nat) (q : Seq) : (s.setSeq n q).retireCuts = s.retireCuts := rfl
@[simp] theorem State.setSeq_tsfloor (s : State) (n : Nat) (q : Seq) : (s.setSeq n q).tsfloor = s.tsfloor := rfl
@[simp] theorem State.setSeq_wtsTop (s : State) (n : Nat) (q : Seq) : (s.setSeq n q).wtsTop = s.wtsTop := rfl
@[simp] theorem State.setSeq_floorNext (s : State) (n : Nat) (q : Seq) : (s.setSeq n q).floorNext = s.floorNext := rfl
@[simp] theorem State.setSeq_floorAt (s : State) (n : Nat) (q : Seq) : (s.setSeq n q).floorAt = s.floorAt := rfl
@[simp] theorem State.setSeq_cores (s : State) (n : Nat) (q : Seq) : (s.setSeq n q).cores = s.cores := rfl
@[simp] theorem State.setSeq_mem (s : State) (n : Nat) (q : Seq) : (s.setSeq n q).mem = s.mem := rfl
@[simp] theorem State.setSeq_lines (s : State) (n : Nat) (q : Seq) : (s.setSeq n q).lines = s.lines := rfl
@[simp] theorem State.setSeq_msc (s : State) (n : Nat) (q : Seq) : (s.setSeq n q).msc = s.msc := rfl
@[simp] theorem State.setSeq_tlb (s : State) (n : Nat) (q : Seq) : (s.setSeq n q).tlb = s.tlb := rfl
@[simp] theorem State.setSeq_sealSet (s : State) (n : Nat) (q : Seq) : (s.setSeq n q).sealSet = s.sealSet := rfl
@[simp] theorem State.setSeq_health (s : State) (n : Nat) (q : Seq) : (s.setSeq n q).health = s.health := rfl
@[simp] theorem State.setSeq_ctxs (s : State) (n : Nat) (q : Seq) : (s.setSeq n q).ctxs = s.ctxs := rfl
@[simp] theorem State.setSeq_bays (s : State) (n : Nat) (q : Seq) : (s.setSeq n q).bays = s.bays := rfl
@[simp] theorem State.setSeq_rotated (s : State) (n : Nat) (q : Seq) : (s.setSeq n q).rotated = s.rotated := rfl
@[simp] theorem State.setSeq_hbm (s : State) (n : Nat) (q : Seq) : (s.setSeq n q).hbm = s.hbm := rfl
@[simp] theorem State.setSeq_hubCounters (s : State) (n : Nat) (q : Seq) : (s.setSeq n q).hubCounters = s.hubCounters := rfl
@[simp] theorem State.setSeq_kept (s : State) (n : Nat) (q : Seq) : (s.setSeq n q).kept = s.kept := rfl
@[simp] theorem State.setSeq_frames (s : State) (n : Nat) (q : Seq) : (s.setSeq n q).frames = s.frames := rfl
@[simp] theorem State.setSeq_pkg (s : State) (n : Nat) (q : Seq) : (s.setSeq n q).pkg = s.pkg := rfl
@[simp] theorem State.setSeq_fab (s : State) (n : Nat) (q : Seq) : (s.setSeq n q).fab = s.fab := rfl
@[simp] theorem State.setSeq_host (s : State) (n : Nat) (q : Seq) : (s.setSeq n q).host = s.host := rfl
@[simp] theorem State.setSeq_tab (s : State) (n : Nat) (q : Seq) : (s.setSeq n q).tab = s.tab := rfl
@[simp] theorem State.setSeq_pow (s : State) (n : Nat) (q : Seq) : (s.setSeq n q).pow = s.pow := rfl

/-! ### setCtx -/

@[simp] theorem State.setCtx_agenda (s : State) (n : Nat) (c : Context) : (s.setCtx n c).agenda = s.agenda := rfl
@[simp] theorem State.setCtx_focus (s : State) (n : Nat) (c : Context) : (s.setCtx n c).focus = s.focus := rfl
@[simp] theorem State.setCtx_inp (s : State) (n : Nat) (c : Context) : (s.setCtx n c).inp = s.inp := rfl
@[simp] theorem State.setCtx_bundle (s : State) (n : Nat) (c : Context) : (s.setCtx n c).bundle = s.bundle := rfl
@[simp] theorem State.setCtx_tick (s : State) (n : Nat) (c : Context) : (s.setCtx n c).tick = s.tick := rfl
@[simp] theorem State.setCtx_free (s : State) (n : Nat) (c : Context) : (s.setCtx n c).free = s.free := rfl
@[simp] theorem State.setCtx_late (s : State) (n : Nat) (c : Context) : (s.setCtx n c).late = s.late := rfl
@[simp] theorem State.setCtx_meet (s : State) (n : Nat) (c : Context) : (s.setCtx n c).meet = s.meet := rfl
@[simp] theorem State.setCtx_retireCuts (s : State) (n : Nat) (c : Context) : (s.setCtx n c).retireCuts = s.retireCuts := rfl
@[simp] theorem State.setCtx_tsfloor (s : State) (n : Nat) (c : Context) : (s.setCtx n c).tsfloor = s.tsfloor := rfl
@[simp] theorem State.setCtx_wtsTop (s : State) (n : Nat) (c : Context) : (s.setCtx n c).wtsTop = s.wtsTop := rfl
@[simp] theorem State.setCtx_floorNext (s : State) (n : Nat) (c : Context) : (s.setCtx n c).floorNext = s.floorNext := rfl
@[simp] theorem State.setCtx_floorAt (s : State) (n : Nat) (c : Context) : (s.setCtx n c).floorAt = s.floorAt := rfl
@[simp] theorem State.setCtx_cores (s : State) (n : Nat) (c : Context) : (s.setCtx n c).cores = s.cores := rfl
@[simp] theorem State.setCtx_seqs (s : State) (n : Nat) (c : Context) : (s.setCtx n c).seqs = s.seqs := rfl
@[simp] theorem State.setCtx_mem (s : State) (n : Nat) (c : Context) : (s.setCtx n c).mem = s.mem := rfl
@[simp] theorem State.setCtx_lines (s : State) (n : Nat) (c : Context) : (s.setCtx n c).lines = s.lines := rfl
@[simp] theorem State.setCtx_msc (s : State) (n : Nat) (c : Context) : (s.setCtx n c).msc = s.msc := rfl
@[simp] theorem State.setCtx_tlb (s : State) (n : Nat) (c : Context) : (s.setCtx n c).tlb = s.tlb := rfl
@[simp] theorem State.setCtx_sealSet (s : State) (n : Nat) (c : Context) : (s.setCtx n c).sealSet = s.sealSet := rfl
@[simp] theorem State.setCtx_health (s : State) (n : Nat) (c : Context) : (s.setCtx n c).health = s.health := rfl
@[simp] theorem State.setCtx_bays (s : State) (n : Nat) (c : Context) : (s.setCtx n c).bays = s.bays := rfl
@[simp] theorem State.setCtx_rotated (s : State) (n : Nat) (c : Context) : (s.setCtx n c).rotated = s.rotated := rfl
@[simp] theorem State.setCtx_hbm (s : State) (n : Nat) (c : Context) : (s.setCtx n c).hbm = s.hbm := rfl
@[simp] theorem State.setCtx_hubCounters (s : State) (n : Nat) (c : Context) : (s.setCtx n c).hubCounters = s.hubCounters := rfl
@[simp] theorem State.setCtx_kept (s : State) (n : Nat) (c : Context) : (s.setCtx n c).kept = s.kept := rfl
@[simp] theorem State.setCtx_frames (s : State) (n : Nat) (c : Context) : (s.setCtx n c).frames = s.frames := rfl
@[simp] theorem State.setCtx_pkg (s : State) (n : Nat) (c : Context) : (s.setCtx n c).pkg = s.pkg := rfl
@[simp] theorem State.setCtx_fab (s : State) (n : Nat) (c : Context) : (s.setCtx n c).fab = s.fab := rfl
@[simp] theorem State.setCtx_host (s : State) (n : Nat) (c : Context) : (s.setCtx n c).host = s.host := rfl
@[simp] theorem State.setCtx_tab (s : State) (n : Nat) (c : Context) : (s.setCtx n c).tab = s.tab := rfl
@[simp] theorem State.setCtx_pow (s : State) (n : Nat) (c : Context) : (s.setCtx n c).pow = s.pow := rfl

/-! ### setBay -/

@[simp] theorem State.setBay_agenda (s : State) (n : Nat) (b : Bay) : (s.setBay n b).agenda = s.agenda := rfl
@[simp] theorem State.setBay_focus (s : State) (n : Nat) (b : Bay) : (s.setBay n b).focus = s.focus := rfl
@[simp] theorem State.setBay_inp (s : State) (n : Nat) (b : Bay) : (s.setBay n b).inp = s.inp := rfl
@[simp] theorem State.setBay_bundle (s : State) (n : Nat) (b : Bay) : (s.setBay n b).bundle = s.bundle := rfl
@[simp] theorem State.setBay_tick (s : State) (n : Nat) (b : Bay) : (s.setBay n b).tick = s.tick := rfl
@[simp] theorem State.setBay_free (s : State) (n : Nat) (b : Bay) : (s.setBay n b).free = s.free := rfl
@[simp] theorem State.setBay_late (s : State) (n : Nat) (b : Bay) : (s.setBay n b).late = s.late := rfl
@[simp] theorem State.setBay_meet (s : State) (n : Nat) (b : Bay) : (s.setBay n b).meet = s.meet := rfl
@[simp] theorem State.setBay_retireCuts (s : State) (n : Nat) (b : Bay) : (s.setBay n b).retireCuts = s.retireCuts := rfl
@[simp] theorem State.setBay_tsfloor (s : State) (n : Nat) (b : Bay) : (s.setBay n b).tsfloor = s.tsfloor := rfl
@[simp] theorem State.setBay_wtsTop (s : State) (n : Nat) (b : Bay) : (s.setBay n b).wtsTop = s.wtsTop := rfl
@[simp] theorem State.setBay_floorNext (s : State) (n : Nat) (b : Bay) : (s.setBay n b).floorNext = s.floorNext := rfl
@[simp] theorem State.setBay_floorAt (s : State) (n : Nat) (b : Bay) : (s.setBay n b).floorAt = s.floorAt := rfl
@[simp] theorem State.setBay_cores (s : State) (n : Nat) (b : Bay) : (s.setBay n b).cores = s.cores := rfl
@[simp] theorem State.setBay_seqs (s : State) (n : Nat) (b : Bay) : (s.setBay n b).seqs = s.seqs := rfl
@[simp] theorem State.setBay_mem (s : State) (n : Nat) (b : Bay) : (s.setBay n b).mem = s.mem := rfl
@[simp] theorem State.setBay_lines (s : State) (n : Nat) (b : Bay) : (s.setBay n b).lines = s.lines := rfl
@[simp] theorem State.setBay_msc (s : State) (n : Nat) (b : Bay) : (s.setBay n b).msc = s.msc := rfl
@[simp] theorem State.setBay_tlb (s : State) (n : Nat) (b : Bay) : (s.setBay n b).tlb = s.tlb := rfl
@[simp] theorem State.setBay_sealSet (s : State) (n : Nat) (b : Bay) : (s.setBay n b).sealSet = s.sealSet := rfl
@[simp] theorem State.setBay_health (s : State) (n : Nat) (b : Bay) : (s.setBay n b).health = s.health := rfl
@[simp] theorem State.setBay_ctxs (s : State) (n : Nat) (b : Bay) : (s.setBay n b).ctxs = s.ctxs := rfl
@[simp] theorem State.setBay_rotated (s : State) (n : Nat) (b : Bay) : (s.setBay n b).rotated = s.rotated := rfl
@[simp] theorem State.setBay_hbm (s : State) (n : Nat) (b : Bay) : (s.setBay n b).hbm = s.hbm := rfl
@[simp] theorem State.setBay_hubCounters (s : State) (n : Nat) (b : Bay) : (s.setBay n b).hubCounters = s.hubCounters := rfl
@[simp] theorem State.setBay_kept (s : State) (n : Nat) (b : Bay) : (s.setBay n b).kept = s.kept := rfl
@[simp] theorem State.setBay_frames (s : State) (n : Nat) (b : Bay) : (s.setBay n b).frames = s.frames := rfl
@[simp] theorem State.setBay_pkg (s : State) (n : Nat) (b : Bay) : (s.setBay n b).pkg = s.pkg := rfl
@[simp] theorem State.setBay_fab (s : State) (n : Nat) (b : Bay) : (s.setBay n b).fab = s.fab := rfl
@[simp] theorem State.setBay_host (s : State) (n : Nat) (b : Bay) : (s.setBay n b).host = s.host := rfl
@[simp] theorem State.setBay_tab (s : State) (n : Nat) (b : Bay) : (s.setBay n b).tab = s.tab := rfl
@[simp] theorem State.setBay_pow (s : State) (n : Nat) (b : Bay) : (s.setBay n b).pow = s.pow := rfl

/-! ### setLine -/

@[simp] theorem State.setLine_agenda (s : State) (n : Nat) (l : LineRec) : (s.setLine n l).agenda = s.agenda := rfl
@[simp] theorem State.setLine_focus (s : State) (n : Nat) (l : LineRec) : (s.setLine n l).focus = s.focus := rfl
@[simp] theorem State.setLine_inp (s : State) (n : Nat) (l : LineRec) : (s.setLine n l).inp = s.inp := rfl
@[simp] theorem State.setLine_bundle (s : State) (n : Nat) (l : LineRec) : (s.setLine n l).bundle = s.bundle := rfl
@[simp] theorem State.setLine_tick (s : State) (n : Nat) (l : LineRec) : (s.setLine n l).tick = s.tick := rfl
@[simp] theorem State.setLine_free (s : State) (n : Nat) (l : LineRec) : (s.setLine n l).free = s.free := rfl
@[simp] theorem State.setLine_late (s : State) (n : Nat) (l : LineRec) : (s.setLine n l).late = s.late := rfl
@[simp] theorem State.setLine_meet (s : State) (n : Nat) (l : LineRec) : (s.setLine n l).meet = s.meet := rfl
@[simp] theorem State.setLine_retireCuts (s : State) (n : Nat) (l : LineRec) : (s.setLine n l).retireCuts = s.retireCuts := rfl
@[simp] theorem State.setLine_tsfloor (s : State) (n : Nat) (l : LineRec) : (s.setLine n l).tsfloor = s.tsfloor := rfl
@[simp] theorem State.setLine_wtsTop (s : State) (n : Nat) (l : LineRec) : (s.setLine n l).wtsTop = s.wtsTop := rfl
@[simp] theorem State.setLine_floorNext (s : State) (n : Nat) (l : LineRec) : (s.setLine n l).floorNext = s.floorNext := rfl
@[simp] theorem State.setLine_floorAt (s : State) (n : Nat) (l : LineRec) : (s.setLine n l).floorAt = s.floorAt := rfl
@[simp] theorem State.setLine_cores (s : State) (n : Nat) (l : LineRec) : (s.setLine n l).cores = s.cores := rfl
@[simp] theorem State.setLine_seqs (s : State) (n : Nat) (l : LineRec) : (s.setLine n l).seqs = s.seqs := rfl
@[simp] theorem State.setLine_mem (s : State) (n : Nat) (l : LineRec) : (s.setLine n l).mem = s.mem := rfl
@[simp] theorem State.setLine_tlb (s : State) (n : Nat) (l : LineRec) : (s.setLine n l).tlb = s.tlb := rfl
@[simp] theorem State.setLine_sealSet (s : State) (n : Nat) (l : LineRec) : (s.setLine n l).sealSet = s.sealSet := rfl
@[simp] theorem State.setLine_health (s : State) (n : Nat) (l : LineRec) : (s.setLine n l).health = s.health := rfl
@[simp] theorem State.setLine_ctxs (s : State) (n : Nat) (l : LineRec) : (s.setLine n l).ctxs = s.ctxs := rfl
@[simp] theorem State.setLine_bays (s : State) (n : Nat) (l : LineRec) : (s.setLine n l).bays = s.bays := rfl
@[simp] theorem State.setLine_rotated (s : State) (n : Nat) (l : LineRec) : (s.setLine n l).rotated = s.rotated := rfl
@[simp] theorem State.setLine_hbm (s : State) (n : Nat) (l : LineRec) : (s.setLine n l).hbm = s.hbm := rfl
@[simp] theorem State.setLine_hubCounters (s : State) (n : Nat) (l : LineRec) : (s.setLine n l).hubCounters = s.hubCounters := rfl
@[simp] theorem State.setLine_kept (s : State) (n : Nat) (l : LineRec) : (s.setLine n l).kept = s.kept := rfl
@[simp] theorem State.setLine_frames (s : State) (n : Nat) (l : LineRec) : (s.setLine n l).frames = s.frames := rfl
@[simp] theorem State.setLine_pkg (s : State) (n : Nat) (l : LineRec) : (s.setLine n l).pkg = s.pkg := rfl
@[simp] theorem State.setLine_fab (s : State) (n : Nat) (l : LineRec) : (s.setLine n l).fab = s.fab := rfl
@[simp] theorem State.setLine_host (s : State) (n : Nat) (l : LineRec) : (s.setLine n l).host = s.host := rfl
@[simp] theorem State.setLine_tab (s : State) (n : Nat) (l : LineRec) : (s.setLine n l).tab = s.tab := rfl
@[simp] theorem State.setLine_pow (s : State) (n : Nat) (l : LineRec) : (s.setLine n l).pow = s.pow := rfl

/-! ### setStack -/

@[simp] theorem State.setStack_agenda (s : State) (n : Nat) (k : Stack) : (s.setStack n k).agenda = s.agenda := rfl
@[simp] theorem State.setStack_focus (s : State) (n : Nat) (k : Stack) : (s.setStack n k).focus = s.focus := rfl
@[simp] theorem State.setStack_inp (s : State) (n : Nat) (k : Stack) : (s.setStack n k).inp = s.inp := rfl
@[simp] theorem State.setStack_bundle (s : State) (n : Nat) (k : Stack) : (s.setStack n k).bundle = s.bundle := rfl
@[simp] theorem State.setStack_tick (s : State) (n : Nat) (k : Stack) : (s.setStack n k).tick = s.tick := rfl
@[simp] theorem State.setStack_free (s : State) (n : Nat) (k : Stack) : (s.setStack n k).free = s.free := rfl
@[simp] theorem State.setStack_late (s : State) (n : Nat) (k : Stack) : (s.setStack n k).late = s.late := rfl
@[simp] theorem State.setStack_meet (s : State) (n : Nat) (k : Stack) : (s.setStack n k).meet = s.meet := rfl
@[simp] theorem State.setStack_retireCuts (s : State) (n : Nat) (k : Stack) : (s.setStack n k).retireCuts = s.retireCuts := rfl
@[simp] theorem State.setStack_tsfloor (s : State) (n : Nat) (k : Stack) : (s.setStack n k).tsfloor = s.tsfloor := rfl
@[simp] theorem State.setStack_wtsTop (s : State) (n : Nat) (k : Stack) : (s.setStack n k).wtsTop = s.wtsTop := rfl
@[simp] theorem State.setStack_floorNext (s : State) (n : Nat) (k : Stack) : (s.setStack n k).floorNext = s.floorNext := rfl
@[simp] theorem State.setStack_floorAt (s : State) (n : Nat) (k : Stack) : (s.setStack n k).floorAt = s.floorAt := rfl
@[simp] theorem State.setStack_cores (s : State) (n : Nat) (k : Stack) : (s.setStack n k).cores = s.cores := rfl
@[simp] theorem State.setStack_seqs (s : State) (n : Nat) (k : Stack) : (s.setStack n k).seqs = s.seqs := rfl
@[simp] theorem State.setStack_mem (s : State) (n : Nat) (k : Stack) : (s.setStack n k).mem = s.mem := rfl
@[simp] theorem State.setStack_lines (s : State) (n : Nat) (k : Stack) : (s.setStack n k).lines = s.lines := rfl
@[simp] theorem State.setStack_msc (s : State) (n : Nat) (k : Stack) : (s.setStack n k).msc = s.msc := rfl
@[simp] theorem State.setStack_tlb (s : State) (n : Nat) (k : Stack) : (s.setStack n k).tlb = s.tlb := rfl
@[simp] theorem State.setStack_sealSet (s : State) (n : Nat) (k : Stack) : (s.setStack n k).sealSet = s.sealSet := rfl
@[simp] theorem State.setStack_health (s : State) (n : Nat) (k : Stack) : (s.setStack n k).health = s.health := rfl
@[simp] theorem State.setStack_ctxs (s : State) (n : Nat) (k : Stack) : (s.setStack n k).ctxs = s.ctxs := rfl
@[simp] theorem State.setStack_bays (s : State) (n : Nat) (k : Stack) : (s.setStack n k).bays = s.bays := rfl
@[simp] theorem State.setStack_rotated (s : State) (n : Nat) (k : Stack) : (s.setStack n k).rotated = s.rotated := rfl
@[simp] theorem State.setStack_hubCounters (s : State) (n : Nat) (k : Stack) : (s.setStack n k).hubCounters = s.hubCounters := rfl
@[simp] theorem State.setStack_kept (s : State) (n : Nat) (k : Stack) : (s.setStack n k).kept = s.kept := rfl
@[simp] theorem State.setStack_frames (s : State) (n : Nat) (k : Stack) : (s.setStack n k).frames = s.frames := rfl
@[simp] theorem State.setStack_pkg (s : State) (n : Nat) (k : Stack) : (s.setStack n k).pkg = s.pkg := rfl
@[simp] theorem State.setStack_fab (s : State) (n : Nat) (k : Stack) : (s.setStack n k).fab = s.fab := rfl
@[simp] theorem State.setStack_host (s : State) (n : Nat) (k : Stack) : (s.setStack n k).host = s.host := rfl
@[simp] theorem State.setStack_tab (s : State) (n : Nat) (k : Stack) : (s.setStack n k).tab = s.tab := rfl
@[simp] theorem State.setStack_pow (s : State) (n : Nat) (k : Stack) : (s.setStack n k).pow = s.pow := rfl

/-! ### setHubMem -/

@[simp] theorem State.setHubMem_agenda (s : State) (n : Nat) (l : List Nat) : (s.setHubMem n l).agenda = s.agenda := rfl
@[simp] theorem State.setHubMem_focus (s : State) (n : Nat) (l : List Nat) : (s.setHubMem n l).focus = s.focus := rfl
@[simp] theorem State.setHubMem_inp (s : State) (n : Nat) (l : List Nat) : (s.setHubMem n l).inp = s.inp := rfl
@[simp] theorem State.setHubMem_bundle (s : State) (n : Nat) (l : List Nat) : (s.setHubMem n l).bundle = s.bundle := rfl
@[simp] theorem State.setHubMem_tick (s : State) (n : Nat) (l : List Nat) : (s.setHubMem n l).tick = s.tick := rfl
@[simp] theorem State.setHubMem_free (s : State) (n : Nat) (l : List Nat) : (s.setHubMem n l).free = s.free := rfl
@[simp] theorem State.setHubMem_late (s : State) (n : Nat) (l : List Nat) : (s.setHubMem n l).late = s.late := rfl
@[simp] theorem State.setHubMem_meet (s : State) (n : Nat) (l : List Nat) : (s.setHubMem n l).meet = s.meet := rfl
@[simp] theorem State.setHubMem_retireCuts (s : State) (n : Nat) (l : List Nat) : (s.setHubMem n l).retireCuts = s.retireCuts := rfl
@[simp] theorem State.setHubMem_tsfloor (s : State) (n : Nat) (l : List Nat) : (s.setHubMem n l).tsfloor = s.tsfloor := rfl
@[simp] theorem State.setHubMem_wtsTop (s : State) (n : Nat) (l : List Nat) : (s.setHubMem n l).wtsTop = s.wtsTop := rfl
@[simp] theorem State.setHubMem_floorNext (s : State) (n : Nat) (l : List Nat) : (s.setHubMem n l).floorNext = s.floorNext := rfl
@[simp] theorem State.setHubMem_floorAt (s : State) (n : Nat) (l : List Nat) : (s.setHubMem n l).floorAt = s.floorAt := rfl
@[simp] theorem State.setHubMem_cores (s : State) (n : Nat) (l : List Nat) : (s.setHubMem n l).cores = s.cores := rfl
@[simp] theorem State.setHubMem_seqs (s : State) (n : Nat) (l : List Nat) : (s.setHubMem n l).seqs = s.seqs := rfl
@[simp] theorem State.setHubMem_mem (s : State) (n : Nat) (l : List Nat) : (s.setHubMem n l).mem = s.mem := rfl
@[simp] theorem State.setHubMem_lines (s : State) (n : Nat) (l : List Nat) : (s.setHubMem n l).lines = s.lines := rfl
@[simp] theorem State.setHubMem_msc (s : State) (n : Nat) (l : List Nat) : (s.setHubMem n l).msc = s.msc := rfl
@[simp] theorem State.setHubMem_tlb (s : State) (n : Nat) (l : List Nat) : (s.setHubMem n l).tlb = s.tlb := rfl
@[simp] theorem State.setHubMem_sealSet (s : State) (n : Nat) (l : List Nat) : (s.setHubMem n l).sealSet = s.sealSet := rfl
@[simp] theorem State.setHubMem_health (s : State) (n : Nat) (l : List Nat) : (s.setHubMem n l).health = s.health := rfl
@[simp] theorem State.setHubMem_ctxs (s : State) (n : Nat) (l : List Nat) : (s.setHubMem n l).ctxs = s.ctxs := rfl
@[simp] theorem State.setHubMem_bays (s : State) (n : Nat) (l : List Nat) : (s.setHubMem n l).bays = s.bays := rfl
@[simp] theorem State.setHubMem_rotated (s : State) (n : Nat) (l : List Nat) : (s.setHubMem n l).rotated = s.rotated := rfl
@[simp] theorem State.setHubMem_hbm (s : State) (n : Nat) (l : List Nat) : (s.setHubMem n l).hbm = s.hbm := rfl
@[simp] theorem State.setHubMem_frames (s : State) (n : Nat) (l : List Nat) : (s.setHubMem n l).frames = s.frames := rfl
@[simp] theorem State.setHubMem_pkg (s : State) (n : Nat) (l : List Nat) : (s.setHubMem n l).pkg = s.pkg := rfl
@[simp] theorem State.setHubMem_fab (s : State) (n : Nat) (l : List Nat) : (s.setHubMem n l).fab = s.fab := rfl
@[simp] theorem State.setHubMem_host (s : State) (n : Nat) (l : List Nat) : (s.setHubMem n l).host = s.host := rfl
@[simp] theorem State.setHubMem_tab (s : State) (n : Nat) (l : List Nat) : (s.setHubMem n l).tab = s.tab := rfl
@[simp] theorem State.setHubMem_pow (s : State) (n : Nat) (l : List Nat) : (s.setHubMem n l).pow = s.pow := rfl

/-! ### setStrm -/

@[simp] theorem State.setStrm_agenda (s : State) (n : Nat) (x : Stream) : (s.setStrm n x).agenda = s.agenda := rfl
@[simp] theorem State.setStrm_focus (s : State) (n : Nat) (x : Stream) : (s.setStrm n x).focus = s.focus := rfl
@[simp] theorem State.setStrm_inp (s : State) (n : Nat) (x : Stream) : (s.setStrm n x).inp = s.inp := rfl
@[simp] theorem State.setStrm_bundle (s : State) (n : Nat) (x : Stream) : (s.setStrm n x).bundle = s.bundle := rfl
@[simp] theorem State.setStrm_tick (s : State) (n : Nat) (x : Stream) : (s.setStrm n x).tick = s.tick := rfl
@[simp] theorem State.setStrm_free (s : State) (n : Nat) (x : Stream) : (s.setStrm n x).free = s.free := rfl
@[simp] theorem State.setStrm_late (s : State) (n : Nat) (x : Stream) : (s.setStrm n x).late = s.late := rfl
@[simp] theorem State.setStrm_meet (s : State) (n : Nat) (x : Stream) : (s.setStrm n x).meet = s.meet := rfl
@[simp] theorem State.setStrm_retireCuts (s : State) (n : Nat) (x : Stream) : (s.setStrm n x).retireCuts = s.retireCuts := rfl
@[simp] theorem State.setStrm_tsfloor (s : State) (n : Nat) (x : Stream) : (s.setStrm n x).tsfloor = s.tsfloor := rfl
@[simp] theorem State.setStrm_wtsTop (s : State) (n : Nat) (x : Stream) : (s.setStrm n x).wtsTop = s.wtsTop := rfl
@[simp] theorem State.setStrm_floorNext (s : State) (n : Nat) (x : Stream) : (s.setStrm n x).floorNext = s.floorNext := rfl
@[simp] theorem State.setStrm_floorAt (s : State) (n : Nat) (x : Stream) : (s.setStrm n x).floorAt = s.floorAt := rfl
@[simp] theorem State.setStrm_cores (s : State) (n : Nat) (x : Stream) : (s.setStrm n x).cores = s.cores := rfl
@[simp] theorem State.setStrm_seqs (s : State) (n : Nat) (x : Stream) : (s.setStrm n x).seqs = s.seqs := rfl
@[simp] theorem State.setStrm_mem (s : State) (n : Nat) (x : Stream) : (s.setStrm n x).mem = s.mem := rfl
@[simp] theorem State.setStrm_lines (s : State) (n : Nat) (x : Stream) : (s.setStrm n x).lines = s.lines := rfl
@[simp] theorem State.setStrm_msc (s : State) (n : Nat) (x : Stream) : (s.setStrm n x).msc = s.msc := rfl
@[simp] theorem State.setStrm_tlb (s : State) (n : Nat) (x : Stream) : (s.setStrm n x).tlb = s.tlb := rfl
@[simp] theorem State.setStrm_sealSet (s : State) (n : Nat) (x : Stream) : (s.setStrm n x).sealSet = s.sealSet := rfl
@[simp] theorem State.setStrm_health (s : State) (n : Nat) (x : Stream) : (s.setStrm n x).health = s.health := rfl
@[simp] theorem State.setStrm_ctxs (s : State) (n : Nat) (x : Stream) : (s.setStrm n x).ctxs = s.ctxs := rfl
@[simp] theorem State.setStrm_bays (s : State) (n : Nat) (x : Stream) : (s.setStrm n x).bays = s.bays := rfl
@[simp] theorem State.setStrm_rotated (s : State) (n : Nat) (x : Stream) : (s.setStrm n x).rotated = s.rotated := rfl
@[simp] theorem State.setStrm_hbm (s : State) (n : Nat) (x : Stream) : (s.setStrm n x).hbm = s.hbm := rfl
@[simp] theorem State.setStrm_hubCounters (s : State) (n : Nat) (x : Stream) : (s.setStrm n x).hubCounters = s.hubCounters := rfl
@[simp] theorem State.setStrm_kept (s : State) (n : Nat) (x : Stream) : (s.setStrm n x).kept = s.kept := rfl
@[simp] theorem State.setStrm_frames (s : State) (n : Nat) (x : Stream) : (s.setStrm n x).frames = s.frames := rfl
@[simp] theorem State.setStrm_pkg (s : State) (n : Nat) (x : Stream) : (s.setStrm n x).pkg = s.pkg := rfl
@[simp] theorem State.setStrm_fab (s : State) (n : Nat) (x : Stream) : (s.setStrm n x).fab = s.fab := rfl
@[simp] theorem State.setStrm_tab (s : State) (n : Nat) (x : Stream) : (s.setStrm n x).tab = s.tab := rfl
@[simp] theorem State.setStrm_pow (s : State) (n : Nat) (x : Stream) : (s.setStrm n x).pow = s.pow := rfl

/-! ### modStrm -/

@[simp] theorem State.modStrm_agenda (s : State) (n : Nat) (f : Stream → Stream) : (s.modStrm n f).agenda = s.agenda := rfl
@[simp] theorem State.modStrm_focus (s : State) (n : Nat) (f : Stream → Stream) : (s.modStrm n f).focus = s.focus := rfl
@[simp] theorem State.modStrm_inp (s : State) (n : Nat) (f : Stream → Stream) : (s.modStrm n f).inp = s.inp := rfl
@[simp] theorem State.modStrm_bundle (s : State) (n : Nat) (f : Stream → Stream) : (s.modStrm n f).bundle = s.bundle := rfl
@[simp] theorem State.modStrm_tick (s : State) (n : Nat) (f : Stream → Stream) : (s.modStrm n f).tick = s.tick := rfl
@[simp] theorem State.modStrm_free (s : State) (n : Nat) (f : Stream → Stream) : (s.modStrm n f).free = s.free := rfl
@[simp] theorem State.modStrm_late (s : State) (n : Nat) (f : Stream → Stream) : (s.modStrm n f).late = s.late := rfl
@[simp] theorem State.modStrm_meet (s : State) (n : Nat) (f : Stream → Stream) : (s.modStrm n f).meet = s.meet := rfl
@[simp] theorem State.modStrm_retireCuts (s : State) (n : Nat) (f : Stream → Stream) : (s.modStrm n f).retireCuts = s.retireCuts := rfl
@[simp] theorem State.modStrm_tsfloor (s : State) (n : Nat) (f : Stream → Stream) : (s.modStrm n f).tsfloor = s.tsfloor := rfl
@[simp] theorem State.modStrm_wtsTop (s : State) (n : Nat) (f : Stream → Stream) : (s.modStrm n f).wtsTop = s.wtsTop := rfl
@[simp] theorem State.modStrm_floorNext (s : State) (n : Nat) (f : Stream → Stream) : (s.modStrm n f).floorNext = s.floorNext := rfl
@[simp] theorem State.modStrm_floorAt (s : State) (n : Nat) (f : Stream → Stream) : (s.modStrm n f).floorAt = s.floorAt := rfl
@[simp] theorem State.modStrm_cores (s : State) (n : Nat) (f : Stream → Stream) : (s.modStrm n f).cores = s.cores := rfl
@[simp] theorem State.modStrm_seqs (s : State) (n : Nat) (f : Stream → Stream) : (s.modStrm n f).seqs = s.seqs := rfl
@[simp] theorem State.modStrm_mem (s : State) (n : Nat) (f : Stream → Stream) : (s.modStrm n f).mem = s.mem := rfl
@[simp] theorem State.modStrm_lines (s : State) (n : Nat) (f : Stream → Stream) : (s.modStrm n f).lines = s.lines := rfl
@[simp] theorem State.modStrm_msc (s : State) (n : Nat) (f : Stream → Stream) : (s.modStrm n f).msc = s.msc := rfl
@[simp] theorem State.modStrm_tlb (s : State) (n : Nat) (f : Stream → Stream) : (s.modStrm n f).tlb = s.tlb := rfl
@[simp] theorem State.modStrm_sealSet (s : State) (n : Nat) (f : Stream → Stream) : (s.modStrm n f).sealSet = s.sealSet := rfl
@[simp] theorem State.modStrm_health (s : State) (n : Nat) (f : Stream → Stream) : (s.modStrm n f).health = s.health := rfl
@[simp] theorem State.modStrm_ctxs (s : State) (n : Nat) (f : Stream → Stream) : (s.modStrm n f).ctxs = s.ctxs := rfl
@[simp] theorem State.modStrm_bays (s : State) (n : Nat) (f : Stream → Stream) : (s.modStrm n f).bays = s.bays := rfl
@[simp] theorem State.modStrm_rotated (s : State) (n : Nat) (f : Stream → Stream) : (s.modStrm n f).rotated = s.rotated := rfl
@[simp] theorem State.modStrm_hbm (s : State) (n : Nat) (f : Stream → Stream) : (s.modStrm n f).hbm = s.hbm := rfl
@[simp] theorem State.modStrm_hubCounters (s : State) (n : Nat) (f : Stream → Stream) : (s.modStrm n f).hubCounters = s.hubCounters := rfl
@[simp] theorem State.modStrm_kept (s : State) (n : Nat) (f : Stream → Stream) : (s.modStrm n f).kept = s.kept := rfl
@[simp] theorem State.modStrm_frames (s : State) (n : Nat) (f : Stream → Stream) : (s.modStrm n f).frames = s.frames := rfl
@[simp] theorem State.modStrm_pkg (s : State) (n : Nat) (f : Stream → Stream) : (s.modStrm n f).pkg = s.pkg := rfl
@[simp] theorem State.modStrm_fab (s : State) (n : Nat) (f : Stream → Stream) : (s.modStrm n f).fab = s.fab := rfl
@[simp] theorem State.modStrm_tab (s : State) (n : Nat) (f : Stream → Stream) : (s.modStrm n f).tab = s.tab := rfl
@[simp] theorem State.modStrm_pow (s : State) (n : Nat) (f : Stream → Stream) : (s.modStrm n f).pow = s.pow := rfl

/-! ### setNq -/

@[simp] theorem State.setNq_agenda (s : State) (n : Nat) (q : NotifQ) : (s.setNq n q).agenda = s.agenda := rfl
@[simp] theorem State.setNq_focus (s : State) (n : Nat) (q : NotifQ) : (s.setNq n q).focus = s.focus := rfl
@[simp] theorem State.setNq_inp (s : State) (n : Nat) (q : NotifQ) : (s.setNq n q).inp = s.inp := rfl
@[simp] theorem State.setNq_bundle (s : State) (n : Nat) (q : NotifQ) : (s.setNq n q).bundle = s.bundle := rfl
@[simp] theorem State.setNq_tick (s : State) (n : Nat) (q : NotifQ) : (s.setNq n q).tick = s.tick := rfl
@[simp] theorem State.setNq_free (s : State) (n : Nat) (q : NotifQ) : (s.setNq n q).free = s.free := rfl
@[simp] theorem State.setNq_late (s : State) (n : Nat) (q : NotifQ) : (s.setNq n q).late = s.late := rfl
@[simp] theorem State.setNq_meet (s : State) (n : Nat) (q : NotifQ) : (s.setNq n q).meet = s.meet := rfl
@[simp] theorem State.setNq_retireCuts (s : State) (n : Nat) (q : NotifQ) : (s.setNq n q).retireCuts = s.retireCuts := rfl
@[simp] theorem State.setNq_tsfloor (s : State) (n : Nat) (q : NotifQ) : (s.setNq n q).tsfloor = s.tsfloor := rfl
@[simp] theorem State.setNq_wtsTop (s : State) (n : Nat) (q : NotifQ) : (s.setNq n q).wtsTop = s.wtsTop := rfl
@[simp] theorem State.setNq_floorNext (s : State) (n : Nat) (q : NotifQ) : (s.setNq n q).floorNext = s.floorNext := rfl
@[simp] theorem State.setNq_floorAt (s : State) (n : Nat) (q : NotifQ) : (s.setNq n q).floorAt = s.floorAt := rfl
@[simp] theorem State.setNq_cores (s : State) (n : Nat) (q : NotifQ) : (s.setNq n q).cores = s.cores := rfl
@[simp] theorem State.setNq_seqs (s : State) (n : Nat) (q : NotifQ) : (s.setNq n q).seqs = s.seqs := rfl
@[simp] theorem State.setNq_mem (s : State) (n : Nat) (q : NotifQ) : (s.setNq n q).mem = s.mem := rfl
@[simp] theorem State.setNq_lines (s : State) (n : Nat) (q : NotifQ) : (s.setNq n q).lines = s.lines := rfl
@[simp] theorem State.setNq_msc (s : State) (n : Nat) (q : NotifQ) : (s.setNq n q).msc = s.msc := rfl
@[simp] theorem State.setNq_tlb (s : State) (n : Nat) (q : NotifQ) : (s.setNq n q).tlb = s.tlb := rfl
@[simp] theorem State.setNq_sealSet (s : State) (n : Nat) (q : NotifQ) : (s.setNq n q).sealSet = s.sealSet := rfl
@[simp] theorem State.setNq_health (s : State) (n : Nat) (q : NotifQ) : (s.setNq n q).health = s.health := rfl
@[simp] theorem State.setNq_ctxs (s : State) (n : Nat) (q : NotifQ) : (s.setNq n q).ctxs = s.ctxs := rfl
@[simp] theorem State.setNq_bays (s : State) (n : Nat) (q : NotifQ) : (s.setNq n q).bays = s.bays := rfl
@[simp] theorem State.setNq_rotated (s : State) (n : Nat) (q : NotifQ) : (s.setNq n q).rotated = s.rotated := rfl
@[simp] theorem State.setNq_hbm (s : State) (n : Nat) (q : NotifQ) : (s.setNq n q).hbm = s.hbm := rfl
@[simp] theorem State.setNq_hubCounters (s : State) (n : Nat) (q : NotifQ) : (s.setNq n q).hubCounters = s.hubCounters := rfl
@[simp] theorem State.setNq_kept (s : State) (n : Nat) (q : NotifQ) : (s.setNq n q).kept = s.kept := rfl
@[simp] theorem State.setNq_frames (s : State) (n : Nat) (q : NotifQ) : (s.setNq n q).frames = s.frames := rfl
@[simp] theorem State.setNq_pkg (s : State) (n : Nat) (q : NotifQ) : (s.setNq n q).pkg = s.pkg := rfl
@[simp] theorem State.setNq_fab (s : State) (n : Nat) (q : NotifQ) : (s.setNq n q).fab = s.fab := rfl
@[simp] theorem State.setNq_tab (s : State) (n : Nat) (q : NotifQ) : (s.setNq n q).tab = s.tab := rfl
@[simp] theorem State.setNq_pow (s : State) (n : Nat) (q : NotifQ) : (s.setNq n q).pow = s.pow := rfl

/-! ### setMsix -/

@[simp] theorem State.setMsix_agenda (s : State) (n : Nat) (m : Msix) : (s.setMsix n m).agenda = s.agenda := rfl
@[simp] theorem State.setMsix_focus (s : State) (n : Nat) (m : Msix) : (s.setMsix n m).focus = s.focus := rfl
@[simp] theorem State.setMsix_inp (s : State) (n : Nat) (m : Msix) : (s.setMsix n m).inp = s.inp := rfl
@[simp] theorem State.setMsix_bundle (s : State) (n : Nat) (m : Msix) : (s.setMsix n m).bundle = s.bundle := rfl
@[simp] theorem State.setMsix_tick (s : State) (n : Nat) (m : Msix) : (s.setMsix n m).tick = s.tick := rfl
@[simp] theorem State.setMsix_free (s : State) (n : Nat) (m : Msix) : (s.setMsix n m).free = s.free := rfl
@[simp] theorem State.setMsix_late (s : State) (n : Nat) (m : Msix) : (s.setMsix n m).late = s.late := rfl
@[simp] theorem State.setMsix_meet (s : State) (n : Nat) (m : Msix) : (s.setMsix n m).meet = s.meet := rfl
@[simp] theorem State.setMsix_retireCuts (s : State) (n : Nat) (m : Msix) : (s.setMsix n m).retireCuts = s.retireCuts := rfl
@[simp] theorem State.setMsix_tsfloor (s : State) (n : Nat) (m : Msix) : (s.setMsix n m).tsfloor = s.tsfloor := rfl
@[simp] theorem State.setMsix_wtsTop (s : State) (n : Nat) (m : Msix) : (s.setMsix n m).wtsTop = s.wtsTop := rfl
@[simp] theorem State.setMsix_floorNext (s : State) (n : Nat) (m : Msix) : (s.setMsix n m).floorNext = s.floorNext := rfl
@[simp] theorem State.setMsix_floorAt (s : State) (n : Nat) (m : Msix) : (s.setMsix n m).floorAt = s.floorAt := rfl
@[simp] theorem State.setMsix_cores (s : State) (n : Nat) (m : Msix) : (s.setMsix n m).cores = s.cores := rfl
@[simp] theorem State.setMsix_seqs (s : State) (n : Nat) (m : Msix) : (s.setMsix n m).seqs = s.seqs := rfl
@[simp] theorem State.setMsix_mem (s : State) (n : Nat) (m : Msix) : (s.setMsix n m).mem = s.mem := rfl
@[simp] theorem State.setMsix_lines (s : State) (n : Nat) (m : Msix) : (s.setMsix n m).lines = s.lines := rfl
@[simp] theorem State.setMsix_msc (s : State) (n : Nat) (m : Msix) : (s.setMsix n m).msc = s.msc := rfl
@[simp] theorem State.setMsix_tlb (s : State) (n : Nat) (m : Msix) : (s.setMsix n m).tlb = s.tlb := rfl
@[simp] theorem State.setMsix_sealSet (s : State) (n : Nat) (m : Msix) : (s.setMsix n m).sealSet = s.sealSet := rfl
@[simp] theorem State.setMsix_health (s : State) (n : Nat) (m : Msix) : (s.setMsix n m).health = s.health := rfl
@[simp] theorem State.setMsix_ctxs (s : State) (n : Nat) (m : Msix) : (s.setMsix n m).ctxs = s.ctxs := rfl
@[simp] theorem State.setMsix_bays (s : State) (n : Nat) (m : Msix) : (s.setMsix n m).bays = s.bays := rfl
@[simp] theorem State.setMsix_rotated (s : State) (n : Nat) (m : Msix) : (s.setMsix n m).rotated = s.rotated := rfl
@[simp] theorem State.setMsix_hbm (s : State) (n : Nat) (m : Msix) : (s.setMsix n m).hbm = s.hbm := rfl
@[simp] theorem State.setMsix_hubCounters (s : State) (n : Nat) (m : Msix) : (s.setMsix n m).hubCounters = s.hubCounters := rfl
@[simp] theorem State.setMsix_kept (s : State) (n : Nat) (m : Msix) : (s.setMsix n m).kept = s.kept := rfl
@[simp] theorem State.setMsix_frames (s : State) (n : Nat) (m : Msix) : (s.setMsix n m).frames = s.frames := rfl
@[simp] theorem State.setMsix_pkg (s : State) (n : Nat) (m : Msix) : (s.setMsix n m).pkg = s.pkg := rfl
@[simp] theorem State.setMsix_fab (s : State) (n : Nat) (m : Msix) : (s.setMsix n m).fab = s.fab := rfl
@[simp] theorem State.setMsix_tab (s : State) (n : Nat) (m : Msix) : (s.setMsix n m).tab = s.tab := rfl
@[simp] theorem State.setMsix_pow (s : State) (n : Nat) (m : Msix) : (s.setMsix n m).pow = s.pow := rfl

/-! ### setDie -/

@[simp] theorem State.setDie_agenda (s : State) (n : Nat) (d : Die) : (s.setDie n d).agenda = s.agenda := rfl
@[simp] theorem State.setDie_focus (s : State) (n : Nat) (d : Die) : (s.setDie n d).focus = s.focus := rfl
@[simp] theorem State.setDie_inp (s : State) (n : Nat) (d : Die) : (s.setDie n d).inp = s.inp := rfl
@[simp] theorem State.setDie_bundle (s : State) (n : Nat) (d : Die) : (s.setDie n d).bundle = s.bundle := rfl
@[simp] theorem State.setDie_tick (s : State) (n : Nat) (d : Die) : (s.setDie n d).tick = s.tick := rfl
@[simp] theorem State.setDie_free (s : State) (n : Nat) (d : Die) : (s.setDie n d).free = s.free := rfl
@[simp] theorem State.setDie_late (s : State) (n : Nat) (d : Die) : (s.setDie n d).late = s.late := rfl
@[simp] theorem State.setDie_meet (s : State) (n : Nat) (d : Die) : (s.setDie n d).meet = s.meet := rfl
@[simp] theorem State.setDie_retireCuts (s : State) (n : Nat) (d : Die) : (s.setDie n d).retireCuts = s.retireCuts := rfl
@[simp] theorem State.setDie_tsfloor (s : State) (n : Nat) (d : Die) : (s.setDie n d).tsfloor = s.tsfloor := rfl
@[simp] theorem State.setDie_wtsTop (s : State) (n : Nat) (d : Die) : (s.setDie n d).wtsTop = s.wtsTop := rfl
@[simp] theorem State.setDie_floorNext (s : State) (n : Nat) (d : Die) : (s.setDie n d).floorNext = s.floorNext := rfl
@[simp] theorem State.setDie_floorAt (s : State) (n : Nat) (d : Die) : (s.setDie n d).floorAt = s.floorAt := rfl
@[simp] theorem State.setDie_cores (s : State) (n : Nat) (d : Die) : (s.setDie n d).cores = s.cores := rfl
@[simp] theorem State.setDie_seqs (s : State) (n : Nat) (d : Die) : (s.setDie n d).seqs = s.seqs := rfl
@[simp] theorem State.setDie_mem (s : State) (n : Nat) (d : Die) : (s.setDie n d).mem = s.mem := rfl
@[simp] theorem State.setDie_lines (s : State) (n : Nat) (d : Die) : (s.setDie n d).lines = s.lines := rfl
@[simp] theorem State.setDie_msc (s : State) (n : Nat) (d : Die) : (s.setDie n d).msc = s.msc := rfl
@[simp] theorem State.setDie_tlb (s : State) (n : Nat) (d : Die) : (s.setDie n d).tlb = s.tlb := rfl
@[simp] theorem State.setDie_sealSet (s : State) (n : Nat) (d : Die) : (s.setDie n d).sealSet = s.sealSet := rfl
@[simp] theorem State.setDie_health (s : State) (n : Nat) (d : Die) : (s.setDie n d).health = s.health := rfl
@[simp] theorem State.setDie_ctxs (s : State) (n : Nat) (d : Die) : (s.setDie n d).ctxs = s.ctxs := rfl
@[simp] theorem State.setDie_bays (s : State) (n : Nat) (d : Die) : (s.setDie n d).bays = s.bays := rfl
@[simp] theorem State.setDie_rotated (s : State) (n : Nat) (d : Die) : (s.setDie n d).rotated = s.rotated := rfl
@[simp] theorem State.setDie_hbm (s : State) (n : Nat) (d : Die) : (s.setDie n d).hbm = s.hbm := rfl
@[simp] theorem State.setDie_hubCounters (s : State) (n : Nat) (d : Die) : (s.setDie n d).hubCounters = s.hubCounters := rfl
@[simp] theorem State.setDie_kept (s : State) (n : Nat) (d : Die) : (s.setDie n d).kept = s.kept := rfl
@[simp] theorem State.setDie_frames (s : State) (n : Nat) (d : Die) : (s.setDie n d).frames = s.frames := rfl
@[simp] theorem State.setDie_fab (s : State) (n : Nat) (d : Die) : (s.setDie n d).fab = s.fab := rfl
@[simp] theorem State.setDie_host (s : State) (n : Nat) (d : Die) : (s.setDie n d).host = s.host := rfl
@[simp] theorem State.setDie_tab (s : State) (n : Nat) (d : Die) : (s.setDie n d).tab = s.tab := rfl
@[simp] theorem State.setDie_pow (s : State) (n : Nat) (d : Die) : (s.setDie n d).pow = s.pow := rfl

/-! ### setBp -/

@[simp] theorem State.setBp_agenda (s : State) (n : Nat) (b : BayPower) : (s.setBp n b).agenda = s.agenda := rfl
@[simp] theorem State.setBp_focus (s : State) (n : Nat) (b : BayPower) : (s.setBp n b).focus = s.focus := rfl
@[simp] theorem State.setBp_inp (s : State) (n : Nat) (b : BayPower) : (s.setBp n b).inp = s.inp := rfl
@[simp] theorem State.setBp_bundle (s : State) (n : Nat) (b : BayPower) : (s.setBp n b).bundle = s.bundle := rfl
@[simp] theorem State.setBp_tick (s : State) (n : Nat) (b : BayPower) : (s.setBp n b).tick = s.tick := rfl
@[simp] theorem State.setBp_free (s : State) (n : Nat) (b : BayPower) : (s.setBp n b).free = s.free := rfl
@[simp] theorem State.setBp_late (s : State) (n : Nat) (b : BayPower) : (s.setBp n b).late = s.late := rfl
@[simp] theorem State.setBp_meet (s : State) (n : Nat) (b : BayPower) : (s.setBp n b).meet = s.meet := rfl
@[simp] theorem State.setBp_retireCuts (s : State) (n : Nat) (b : BayPower) : (s.setBp n b).retireCuts = s.retireCuts := rfl
@[simp] theorem State.setBp_tsfloor (s : State) (n : Nat) (b : BayPower) : (s.setBp n b).tsfloor = s.tsfloor := rfl
@[simp] theorem State.setBp_wtsTop (s : State) (n : Nat) (b : BayPower) : (s.setBp n b).wtsTop = s.wtsTop := rfl
@[simp] theorem State.setBp_floorNext (s : State) (n : Nat) (b : BayPower) : (s.setBp n b).floorNext = s.floorNext := rfl
@[simp] theorem State.setBp_floorAt (s : State) (n : Nat) (b : BayPower) : (s.setBp n b).floorAt = s.floorAt := rfl
@[simp] theorem State.setBp_cores (s : State) (n : Nat) (b : BayPower) : (s.setBp n b).cores = s.cores := rfl
@[simp] theorem State.setBp_seqs (s : State) (n : Nat) (b : BayPower) : (s.setBp n b).seqs = s.seqs := rfl
@[simp] theorem State.setBp_mem (s : State) (n : Nat) (b : BayPower) : (s.setBp n b).mem = s.mem := rfl
@[simp] theorem State.setBp_lines (s : State) (n : Nat) (b : BayPower) : (s.setBp n b).lines = s.lines := rfl
@[simp] theorem State.setBp_msc (s : State) (n : Nat) (b : BayPower) : (s.setBp n b).msc = s.msc := rfl
@[simp] theorem State.setBp_tlb (s : State) (n : Nat) (b : BayPower) : (s.setBp n b).tlb = s.tlb := rfl
@[simp] theorem State.setBp_sealSet (s : State) (n : Nat) (b : BayPower) : (s.setBp n b).sealSet = s.sealSet := rfl
@[simp] theorem State.setBp_health (s : State) (n : Nat) (b : BayPower) : (s.setBp n b).health = s.health := rfl
@[simp] theorem State.setBp_ctxs (s : State) (n : Nat) (b : BayPower) : (s.setBp n b).ctxs = s.ctxs := rfl
@[simp] theorem State.setBp_bays (s : State) (n : Nat) (b : BayPower) : (s.setBp n b).bays = s.bays := rfl
@[simp] theorem State.setBp_rotated (s : State) (n : Nat) (b : BayPower) : (s.setBp n b).rotated = s.rotated := rfl
@[simp] theorem State.setBp_hbm (s : State) (n : Nat) (b : BayPower) : (s.setBp n b).hbm = s.hbm := rfl
@[simp] theorem State.setBp_hubCounters (s : State) (n : Nat) (b : BayPower) : (s.setBp n b).hubCounters = s.hubCounters := rfl
@[simp] theorem State.setBp_kept (s : State) (n : Nat) (b : BayPower) : (s.setBp n b).kept = s.kept := rfl
@[simp] theorem State.setBp_frames (s : State) (n : Nat) (b : BayPower) : (s.setBp n b).frames = s.frames := rfl
@[simp] theorem State.setBp_fab (s : State) (n : Nat) (b : BayPower) : (s.setBp n b).fab = s.fab := rfl
@[simp] theorem State.setBp_host (s : State) (n : Nat) (b : BayPower) : (s.setBp n b).host = s.host := rfl
@[simp] theorem State.setBp_tab (s : State) (n : Nat) (b : BayPower) : (s.setBp n b).tab = s.tab := rfl
@[simp] theorem State.setBp_pow (s : State) (n : Nat) (b : BayPower) : (s.setBp n b).pow = s.pow := rfl

/-! ### setLink -/

@[simp] theorem State.setLink_agenda (s : State) (n : Nat) (l : Link) : (s.setLink n l).agenda = s.agenda := rfl
@[simp] theorem State.setLink_focus (s : State) (n : Nat) (l : Link) : (s.setLink n l).focus = s.focus := rfl
@[simp] theorem State.setLink_inp (s : State) (n : Nat) (l : Link) : (s.setLink n l).inp = s.inp := rfl
@[simp] theorem State.setLink_bundle (s : State) (n : Nat) (l : Link) : (s.setLink n l).bundle = s.bundle := rfl
@[simp] theorem State.setLink_tick (s : State) (n : Nat) (l : Link) : (s.setLink n l).tick = s.tick := rfl
@[simp] theorem State.setLink_free (s : State) (n : Nat) (l : Link) : (s.setLink n l).free = s.free := rfl
@[simp] theorem State.setLink_late (s : State) (n : Nat) (l : Link) : (s.setLink n l).late = s.late := rfl
@[simp] theorem State.setLink_meet (s : State) (n : Nat) (l : Link) : (s.setLink n l).meet = s.meet := rfl
@[simp] theorem State.setLink_retireCuts (s : State) (n : Nat) (l : Link) : (s.setLink n l).retireCuts = s.retireCuts := rfl
@[simp] theorem State.setLink_tsfloor (s : State) (n : Nat) (l : Link) : (s.setLink n l).tsfloor = s.tsfloor := rfl
@[simp] theorem State.setLink_wtsTop (s : State) (n : Nat) (l : Link) : (s.setLink n l).wtsTop = s.wtsTop := rfl
@[simp] theorem State.setLink_floorNext (s : State) (n : Nat) (l : Link) : (s.setLink n l).floorNext = s.floorNext := rfl
@[simp] theorem State.setLink_floorAt (s : State) (n : Nat) (l : Link) : (s.setLink n l).floorAt = s.floorAt := rfl
@[simp] theorem State.setLink_cores (s : State) (n : Nat) (l : Link) : (s.setLink n l).cores = s.cores := rfl
@[simp] theorem State.setLink_seqs (s : State) (n : Nat) (l : Link) : (s.setLink n l).seqs = s.seqs := rfl
@[simp] theorem State.setLink_mem (s : State) (n : Nat) (l : Link) : (s.setLink n l).mem = s.mem := rfl
@[simp] theorem State.setLink_lines (s : State) (n : Nat) (l : Link) : (s.setLink n l).lines = s.lines := rfl
@[simp] theorem State.setLink_msc (s : State) (n : Nat) (l : Link) : (s.setLink n l).msc = s.msc := rfl
@[simp] theorem State.setLink_tlb (s : State) (n : Nat) (l : Link) : (s.setLink n l).tlb = s.tlb := rfl
@[simp] theorem State.setLink_sealSet (s : State) (n : Nat) (l : Link) : (s.setLink n l).sealSet = s.sealSet := rfl
@[simp] theorem State.setLink_health (s : State) (n : Nat) (l : Link) : (s.setLink n l).health = s.health := rfl
@[simp] theorem State.setLink_ctxs (s : State) (n : Nat) (l : Link) : (s.setLink n l).ctxs = s.ctxs := rfl
@[simp] theorem State.setLink_bays (s : State) (n : Nat) (l : Link) : (s.setLink n l).bays = s.bays := rfl
@[simp] theorem State.setLink_rotated (s : State) (n : Nat) (l : Link) : (s.setLink n l).rotated = s.rotated := rfl
@[simp] theorem State.setLink_hbm (s : State) (n : Nat) (l : Link) : (s.setLink n l).hbm = s.hbm := rfl
@[simp] theorem State.setLink_hubCounters (s : State) (n : Nat) (l : Link) : (s.setLink n l).hubCounters = s.hubCounters := rfl
@[simp] theorem State.setLink_kept (s : State) (n : Nat) (l : Link) : (s.setLink n l).kept = s.kept := rfl
@[simp] theorem State.setLink_frames (s : State) (n : Nat) (l : Link) : (s.setLink n l).frames = s.frames := rfl
@[simp] theorem State.setLink_pkg (s : State) (n : Nat) (l : Link) : (s.setLink n l).pkg = s.pkg := rfl
@[simp] theorem State.setLink_host (s : State) (n : Nat) (l : Link) : (s.setLink n l).host = s.host := rfl
@[simp] theorem State.setLink_tab (s : State) (n : Nat) (l : Link) : (s.setLink n l).tab = s.tab := rfl
@[simp] theorem State.setLink_pow (s : State) (n : Nat) (l : Link) : (s.setLink n l).pow = s.pow := rfl

/-! ### setPeer -/

@[simp] theorem State.setPeer_agenda (s : State) (n : Nat) (p : Peer) : (s.setPeer n p).agenda = s.agenda := rfl
@[simp] theorem State.setPeer_focus (s : State) (n : Nat) (p : Peer) : (s.setPeer n p).focus = s.focus := rfl
@[simp] theorem State.setPeer_inp (s : State) (n : Nat) (p : Peer) : (s.setPeer n p).inp = s.inp := rfl
@[simp] theorem State.setPeer_bundle (s : State) (n : Nat) (p : Peer) : (s.setPeer n p).bundle = s.bundle := rfl
@[simp] theorem State.setPeer_tick (s : State) (n : Nat) (p : Peer) : (s.setPeer n p).tick = s.tick := rfl
@[simp] theorem State.setPeer_free (s : State) (n : Nat) (p : Peer) : (s.setPeer n p).free = s.free := rfl
@[simp] theorem State.setPeer_late (s : State) (n : Nat) (p : Peer) : (s.setPeer n p).late = s.late := rfl
@[simp] theorem State.setPeer_meet (s : State) (n : Nat) (p : Peer) : (s.setPeer n p).meet = s.meet := rfl
@[simp] theorem State.setPeer_retireCuts (s : State) (n : Nat) (p : Peer) : (s.setPeer n p).retireCuts = s.retireCuts := rfl
@[simp] theorem State.setPeer_tsfloor (s : State) (n : Nat) (p : Peer) : (s.setPeer n p).tsfloor = s.tsfloor := rfl
@[simp] theorem State.setPeer_wtsTop (s : State) (n : Nat) (p : Peer) : (s.setPeer n p).wtsTop = s.wtsTop := rfl
@[simp] theorem State.setPeer_floorNext (s : State) (n : Nat) (p : Peer) : (s.setPeer n p).floorNext = s.floorNext := rfl
@[simp] theorem State.setPeer_floorAt (s : State) (n : Nat) (p : Peer) : (s.setPeer n p).floorAt = s.floorAt := rfl
@[simp] theorem State.setPeer_cores (s : State) (n : Nat) (p : Peer) : (s.setPeer n p).cores = s.cores := rfl
@[simp] theorem State.setPeer_seqs (s : State) (n : Nat) (p : Peer) : (s.setPeer n p).seqs = s.seqs := rfl
@[simp] theorem State.setPeer_mem (s : State) (n : Nat) (p : Peer) : (s.setPeer n p).mem = s.mem := rfl
@[simp] theorem State.setPeer_lines (s : State) (n : Nat) (p : Peer) : (s.setPeer n p).lines = s.lines := rfl
@[simp] theorem State.setPeer_msc (s : State) (n : Nat) (p : Peer) : (s.setPeer n p).msc = s.msc := rfl
@[simp] theorem State.setPeer_tlb (s : State) (n : Nat) (p : Peer) : (s.setPeer n p).tlb = s.tlb := rfl
@[simp] theorem State.setPeer_sealSet (s : State) (n : Nat) (p : Peer) : (s.setPeer n p).sealSet = s.sealSet := rfl
@[simp] theorem State.setPeer_health (s : State) (n : Nat) (p : Peer) : (s.setPeer n p).health = s.health := rfl
@[simp] theorem State.setPeer_ctxs (s : State) (n : Nat) (p : Peer) : (s.setPeer n p).ctxs = s.ctxs := rfl
@[simp] theorem State.setPeer_bays (s : State) (n : Nat) (p : Peer) : (s.setPeer n p).bays = s.bays := rfl
@[simp] theorem State.setPeer_rotated (s : State) (n : Nat) (p : Peer) : (s.setPeer n p).rotated = s.rotated := rfl
@[simp] theorem State.setPeer_hbm (s : State) (n : Nat) (p : Peer) : (s.setPeer n p).hbm = s.hbm := rfl
@[simp] theorem State.setPeer_hubCounters (s : State) (n : Nat) (p : Peer) : (s.setPeer n p).hubCounters = s.hubCounters := rfl
@[simp] theorem State.setPeer_kept (s : State) (n : Nat) (p : Peer) : (s.setPeer n p).kept = s.kept := rfl
@[simp] theorem State.setPeer_frames (s : State) (n : Nat) (p : Peer) : (s.setPeer n p).frames = s.frames := rfl
@[simp] theorem State.setPeer_pkg (s : State) (n : Nat) (p : Peer) : (s.setPeer n p).pkg = s.pkg := rfl
@[simp] theorem State.setPeer_host (s : State) (n : Nat) (p : Peer) : (s.setPeer n p).host = s.host := rfl
@[simp] theorem State.setPeer_tab (s : State) (n : Nat) (p : Peer) : (s.setPeer n p).tab = s.tab := rfl
@[simp] theorem State.setPeer_pow (s : State) (n : Nat) (p : Peer) : (s.setPeer n p).pow = s.pow := rfl

/-! ### modTask -/

@[simp] theorem State.modTask_agenda (s : State) (n : Nat) (f : Task → Task) : (s.modTask n f).agenda = s.agenda := rfl
@[simp] theorem State.modTask_focus (s : State) (n : Nat) (f : Task → Task) : (s.modTask n f).focus = s.focus := rfl
@[simp] theorem State.modTask_inp (s : State) (n : Nat) (f : Task → Task) : (s.modTask n f).inp = s.inp := rfl
@[simp] theorem State.modTask_bundle (s : State) (n : Nat) (f : Task → Task) : (s.modTask n f).bundle = s.bundle := rfl
@[simp] theorem State.modTask_tick (s : State) (n : Nat) (f : Task → Task) : (s.modTask n f).tick = s.tick := rfl
@[simp] theorem State.modTask_free (s : State) (n : Nat) (f : Task → Task) : (s.modTask n f).free = s.free := rfl
@[simp] theorem State.modTask_late (s : State) (n : Nat) (f : Task → Task) : (s.modTask n f).late = s.late := rfl
@[simp] theorem State.modTask_meet (s : State) (n : Nat) (f : Task → Task) : (s.modTask n f).meet = s.meet := rfl
@[simp] theorem State.modTask_retireCuts (s : State) (n : Nat) (f : Task → Task) : (s.modTask n f).retireCuts = s.retireCuts := rfl
@[simp] theorem State.modTask_tsfloor (s : State) (n : Nat) (f : Task → Task) : (s.modTask n f).tsfloor = s.tsfloor := rfl
@[simp] theorem State.modTask_wtsTop (s : State) (n : Nat) (f : Task → Task) : (s.modTask n f).wtsTop = s.wtsTop := rfl
@[simp] theorem State.modTask_floorNext (s : State) (n : Nat) (f : Task → Task) : (s.modTask n f).floorNext = s.floorNext := rfl
@[simp] theorem State.modTask_floorAt (s : State) (n : Nat) (f : Task → Task) : (s.modTask n f).floorAt = s.floorAt := rfl
@[simp] theorem State.modTask_cores (s : State) (n : Nat) (f : Task → Task) : (s.modTask n f).cores = s.cores := rfl
@[simp] theorem State.modTask_seqs (s : State) (n : Nat) (f : Task → Task) : (s.modTask n f).seqs = s.seqs := rfl
@[simp] theorem State.modTask_mem (s : State) (n : Nat) (f : Task → Task) : (s.modTask n f).mem = s.mem := rfl
@[simp] theorem State.modTask_lines (s : State) (n : Nat) (f : Task → Task) : (s.modTask n f).lines = s.lines := rfl
@[simp] theorem State.modTask_msc (s : State) (n : Nat) (f : Task → Task) : (s.modTask n f).msc = s.msc := rfl
@[simp] theorem State.modTask_tlb (s : State) (n : Nat) (f : Task → Task) : (s.modTask n f).tlb = s.tlb := rfl
@[simp] theorem State.modTask_sealSet (s : State) (n : Nat) (f : Task → Task) : (s.modTask n f).sealSet = s.sealSet := rfl
@[simp] theorem State.modTask_health (s : State) (n : Nat) (f : Task → Task) : (s.modTask n f).health = s.health := rfl
@[simp] theorem State.modTask_ctxs (s : State) (n : Nat) (f : Task → Task) : (s.modTask n f).ctxs = s.ctxs := rfl
@[simp] theorem State.modTask_bays (s : State) (n : Nat) (f : Task → Task) : (s.modTask n f).bays = s.bays := rfl
@[simp] theorem State.modTask_rotated (s : State) (n : Nat) (f : Task → Task) : (s.modTask n f).rotated = s.rotated := rfl
@[simp] theorem State.modTask_hbm (s : State) (n : Nat) (f : Task → Task) : (s.modTask n f).hbm = s.hbm := rfl
@[simp] theorem State.modTask_hubCounters (s : State) (n : Nat) (f : Task → Task) : (s.modTask n f).hubCounters = s.hubCounters := rfl
@[simp] theorem State.modTask_kept (s : State) (n : Nat) (f : Task → Task) : (s.modTask n f).kept = s.kept := rfl
@[simp] theorem State.modTask_frames (s : State) (n : Nat) (f : Task → Task) : (s.modTask n f).frames = s.frames := rfl
@[simp] theorem State.modTask_pkg (s : State) (n : Nat) (f : Task → Task) : (s.modTask n f).pkg = s.pkg := rfl
@[simp] theorem State.modTask_fab (s : State) (n : Nat) (f : Task → Task) : (s.modTask n f).fab = s.fab := rfl
@[simp] theorem State.modTask_host (s : State) (n : Nat) (f : Task → Task) : (s.modTask n f).host = s.host := rfl
@[simp] theorem State.modTask_pow (s : State) (n : Nat) (f : Task → Task) : (s.modTask n f).pow = s.pow := rfl

/-! ### setScalar -/

@[simp] theorem State.setScalar_agenda (s : State) (r : Scalar) : (s.setScalar r).agenda = s.agenda := by
  unfold State.setScalar; split <;> rfl
@[simp] theorem State.setScalar_focus (s : State) (r : Scalar) : (s.setScalar r).focus = s.focus := by
  unfold State.setScalar; split <;> rfl
@[simp] theorem State.setScalar_inp (s : State) (r : Scalar) : (s.setScalar r).inp = s.inp := by
  unfold State.setScalar; split <;> rfl
@[simp] theorem State.setScalar_bundle (s : State) (r : Scalar) : (s.setScalar r).bundle = s.bundle := by
  unfold State.setScalar; split <;> rfl
@[simp] theorem State.setScalar_tick (s : State) (r : Scalar) : (s.setScalar r).tick = s.tick := by
  unfold State.setScalar; split <;> rfl
@[simp] theorem State.setScalar_free (s : State) (r : Scalar) : (s.setScalar r).free = s.free := by
  unfold State.setScalar; split <;> rfl
@[simp] theorem State.setScalar_late (s : State) (r : Scalar) : (s.setScalar r).late = s.late := by
  unfold State.setScalar; split <;> rfl
@[simp] theorem State.setScalar_meet (s : State) (r : Scalar) : (s.setScalar r).meet = s.meet := by
  unfold State.setScalar; split <;> rfl
@[simp] theorem State.setScalar_retireCuts (s : State) (r : Scalar) : (s.setScalar r).retireCuts = s.retireCuts := by
  unfold State.setScalar; split <;> rfl
@[simp] theorem State.setScalar_tsfloor (s : State) (r : Scalar) : (s.setScalar r).tsfloor = s.tsfloor := by
  unfold State.setScalar; split <;> rfl
@[simp] theorem State.setScalar_wtsTop (s : State) (r : Scalar) : (s.setScalar r).wtsTop = s.wtsTop := by
  unfold State.setScalar; split <;> rfl
@[simp] theorem State.setScalar_floorNext (s : State) (r : Scalar) : (s.setScalar r).floorNext = s.floorNext := by
  unfold State.setScalar; split <;> rfl
@[simp] theorem State.setScalar_floorAt (s : State) (r : Scalar) : (s.setScalar r).floorAt = s.floorAt := by
  unfold State.setScalar; split <;> rfl
@[simp] theorem State.setScalar_mem (s : State) (r : Scalar) : (s.setScalar r).mem = s.mem := by
  unfold State.setScalar; split <;> rfl
@[simp] theorem State.setScalar_lines (s : State) (r : Scalar) : (s.setScalar r).lines = s.lines := by
  unfold State.setScalar; split <;> rfl
@[simp] theorem State.setScalar_msc (s : State) (r : Scalar) : (s.setScalar r).msc = s.msc := by
  unfold State.setScalar; split <;> rfl
@[simp] theorem State.setScalar_tlb (s : State) (r : Scalar) : (s.setScalar r).tlb = s.tlb := by
  unfold State.setScalar; split <;> rfl
@[simp] theorem State.setScalar_sealSet (s : State) (r : Scalar) : (s.setScalar r).sealSet = s.sealSet := by
  unfold State.setScalar; split <;> rfl
@[simp] theorem State.setScalar_health (s : State) (r : Scalar) : (s.setScalar r).health = s.health := by
  unfold State.setScalar; split <;> rfl
@[simp] theorem State.setScalar_ctxs (s : State) (r : Scalar) : (s.setScalar r).ctxs = s.ctxs := by
  unfold State.setScalar; split <;> rfl
@[simp] theorem State.setScalar_bays (s : State) (r : Scalar) : (s.setScalar r).bays = s.bays := by
  unfold State.setScalar; split <;> rfl
@[simp] theorem State.setScalar_rotated (s : State) (r : Scalar) : (s.setScalar r).rotated = s.rotated := by
  unfold State.setScalar; split <;> rfl
@[simp] theorem State.setScalar_hbm (s : State) (r : Scalar) : (s.setScalar r).hbm = s.hbm := by
  unfold State.setScalar; split <;> rfl
@[simp] theorem State.setScalar_hubCounters (s : State) (r : Scalar) : (s.setScalar r).hubCounters = s.hubCounters := by
  unfold State.setScalar; split <;> rfl
@[simp] theorem State.setScalar_kept (s : State) (r : Scalar) : (s.setScalar r).kept = s.kept := by
  unfold State.setScalar; split <;> rfl
@[simp] theorem State.setScalar_frames (s : State) (r : Scalar) : (s.setScalar r).frames = s.frames := by
  unfold State.setScalar; split <;> rfl
@[simp] theorem State.setScalar_pkg (s : State) (r : Scalar) : (s.setScalar r).pkg = s.pkg := by
  unfold State.setScalar; split <;> rfl
@[simp] theorem State.setScalar_fab (s : State) (r : Scalar) : (s.setScalar r).fab = s.fab := by
  unfold State.setScalar; split <;> rfl
@[simp] theorem State.setScalar_host (s : State) (r : Scalar) : (s.setScalar r).host = s.host := by
  unfold State.setScalar; split <;> rfl
@[simp] theorem State.setScalar_tab (s : State) (r : Scalar) : (s.setScalar r).tab = s.tab := by
  unfold State.setScalar; split <;> rfl
@[simp] theorem State.setScalar_pow (s : State) (r : Scalar) : (s.setScalar r).pow = s.pow := by
  unfold State.setScalar; split <;> rfl

/-! ### setArith -/

@[simp] theorem State.setArith_agenda (s : State) (a : Arith) : (s.setArith a).agenda = s.agenda := by
  unfold State.setArith; split <;> rfl
@[simp] theorem State.setArith_focus (s : State) (a : Arith) : (s.setArith a).focus = s.focus := by
  unfold State.setArith; split <;> rfl
@[simp] theorem State.setArith_inp (s : State) (a : Arith) : (s.setArith a).inp = s.inp := by
  unfold State.setArith; split <;> rfl
@[simp] theorem State.setArith_bundle (s : State) (a : Arith) : (s.setArith a).bundle = s.bundle := by
  unfold State.setArith; split <;> rfl
@[simp] theorem State.setArith_tick (s : State) (a : Arith) : (s.setArith a).tick = s.tick := by
  unfold State.setArith; split <;> rfl
@[simp] theorem State.setArith_free (s : State) (a : Arith) : (s.setArith a).free = s.free := by
  unfold State.setArith; split <;> rfl
@[simp] theorem State.setArith_late (s : State) (a : Arith) : (s.setArith a).late = s.late := by
  unfold State.setArith; split <;> rfl
@[simp] theorem State.setArith_meet (s : State) (a : Arith) : (s.setArith a).meet = s.meet := by
  unfold State.setArith; split <;> rfl
@[simp] theorem State.setArith_retireCuts (s : State) (a : Arith) : (s.setArith a).retireCuts = s.retireCuts := by
  unfold State.setArith; split <;> rfl
@[simp] theorem State.setArith_tsfloor (s : State) (a : Arith) : (s.setArith a).tsfloor = s.tsfloor := by
  unfold State.setArith; split <;> rfl
@[simp] theorem State.setArith_wtsTop (s : State) (a : Arith) : (s.setArith a).wtsTop = s.wtsTop := by
  unfold State.setArith; split <;> rfl
@[simp] theorem State.setArith_floorNext (s : State) (a : Arith) : (s.setArith a).floorNext = s.floorNext := by
  unfold State.setArith; split <;> rfl
@[simp] theorem State.setArith_floorAt (s : State) (a : Arith) : (s.setArith a).floorAt = s.floorAt := by
  unfold State.setArith; split <;> rfl
@[simp] theorem State.setArith_mem (s : State) (a : Arith) : (s.setArith a).mem = s.mem := by
  unfold State.setArith; split <;> rfl
@[simp] theorem State.setArith_lines (s : State) (a : Arith) : (s.setArith a).lines = s.lines := by
  unfold State.setArith; split <;> rfl
@[simp] theorem State.setArith_msc (s : State) (a : Arith) : (s.setArith a).msc = s.msc := by
  unfold State.setArith; split <;> rfl
@[simp] theorem State.setArith_tlb (s : State) (a : Arith) : (s.setArith a).tlb = s.tlb := by
  unfold State.setArith; split <;> rfl
@[simp] theorem State.setArith_sealSet (s : State) (a : Arith) : (s.setArith a).sealSet = s.sealSet := by
  unfold State.setArith; split <;> rfl
@[simp] theorem State.setArith_health (s : State) (a : Arith) : (s.setArith a).health = s.health := by
  unfold State.setArith; split <;> rfl
@[simp] theorem State.setArith_ctxs (s : State) (a : Arith) : (s.setArith a).ctxs = s.ctxs := by
  unfold State.setArith; split <;> rfl
@[simp] theorem State.setArith_bays (s : State) (a : Arith) : (s.setArith a).bays = s.bays := by
  unfold State.setArith; split <;> rfl
@[simp] theorem State.setArith_rotated (s : State) (a : Arith) : (s.setArith a).rotated = s.rotated := by
  unfold State.setArith; split <;> rfl
@[simp] theorem State.setArith_hbm (s : State) (a : Arith) : (s.setArith a).hbm = s.hbm := by
  unfold State.setArith; split <;> rfl
@[simp] theorem State.setArith_hubCounters (s : State) (a : Arith) : (s.setArith a).hubCounters = s.hubCounters := by
  unfold State.setArith; split <;> rfl
@[simp] theorem State.setArith_kept (s : State) (a : Arith) : (s.setArith a).kept = s.kept := by
  unfold State.setArith; split <;> rfl
@[simp] theorem State.setArith_frames (s : State) (a : Arith) : (s.setArith a).frames = s.frames := by
  unfold State.setArith; split <;> rfl
@[simp] theorem State.setArith_pkg (s : State) (a : Arith) : (s.setArith a).pkg = s.pkg := by
  unfold State.setArith; split <;> rfl
@[simp] theorem State.setArith_fab (s : State) (a : Arith) : (s.setArith a).fab = s.fab := by
  unfold State.setArith; split <;> rfl
@[simp] theorem State.setArith_host (s : State) (a : Arith) : (s.setArith a).host = s.host := by
  unfold State.setArith; split <;> rfl
@[simp] theorem State.setArith_tab (s : State) (a : Arith) : (s.setArith a).tab = s.tab := by
  unfold State.setArith; split <;> rfl
@[simp] theorem State.setArith_pow (s : State) (a : Arith) : (s.setArith a).pow = s.pow := by
  unfold State.setArith; split <;> rfl

/-! ### trap -/

@[simp] theorem State.trap_agenda (s : State) (t : TrapRec) : (s.trap t).agenda = s.agenda := by
  unfold State.trap; split <;> rfl
@[simp] theorem State.trap_focus (s : State) (t : TrapRec) : (s.trap t).focus = s.focus := by
  unfold State.trap; split <;> rfl
@[simp] theorem State.trap_inp (s : State) (t : TrapRec) : (s.trap t).inp = s.inp := by
  unfold State.trap; split <;> rfl
@[simp] theorem State.trap_tick (s : State) (t : TrapRec) : (s.trap t).tick = s.tick := by
  unfold State.trap; split <;> rfl
@[simp] theorem State.trap_free (s : State) (t : TrapRec) : (s.trap t).free = s.free := by
  unfold State.trap; split <;> rfl
@[simp] theorem State.trap_late (s : State) (t : TrapRec) : (s.trap t).late = s.late := by
  unfold State.trap; split <;> rfl
@[simp] theorem State.trap_tsfloor (s : State) (t : TrapRec) : (s.trap t).tsfloor = s.tsfloor := by
  unfold State.trap; split <;> rfl
@[simp] theorem State.trap_wtsTop (s : State) (t : TrapRec) : (s.trap t).wtsTop = s.wtsTop := by
  unfold State.trap; split <;> rfl
@[simp] theorem State.trap_floorNext (s : State) (t : TrapRec) : (s.trap t).floorNext = s.floorNext := by
  unfold State.trap; split <;> rfl
@[simp] theorem State.trap_floorAt (s : State) (t : TrapRec) : (s.trap t).floorAt = s.floorAt := by
  unfold State.trap; split <;> rfl
@[simp] theorem State.trap_cores (s : State) (t : TrapRec) : (s.trap t).cores = s.cores := by
  unfold State.trap; split <;> rfl
@[simp] theorem State.trap_seqs (s : State) (t : TrapRec) : (s.trap t).seqs = s.seqs := by
  unfold State.trap; split <;> rfl
@[simp] theorem State.trap_mem (s : State) (t : TrapRec) : (s.trap t).mem = s.mem := by
  unfold State.trap; split <;> rfl
@[simp] theorem State.trap_lines (s : State) (t : TrapRec) : (s.trap t).lines = s.lines := by
  unfold State.trap; split <;> rfl
@[simp] theorem State.trap_tlb (s : State) (t : TrapRec) : (s.trap t).tlb = s.tlb := by
  unfold State.trap; split <;> rfl
@[simp] theorem State.trap_sealSet (s : State) (t : TrapRec) : (s.trap t).sealSet = s.sealSet := by
  unfold State.trap; split <;> rfl
@[simp] theorem State.trap_health (s : State) (t : TrapRec) : (s.trap t).health = s.health := by
  unfold State.trap; split <;> rfl
@[simp] theorem State.trap_ctxs (s : State) (t : TrapRec) : (s.trap t).ctxs = s.ctxs := by
  unfold State.trap; split <;> rfl
@[simp] theorem State.trap_bays (s : State) (t : TrapRec) : (s.trap t).bays = s.bays := by
  unfold State.trap; split <;> rfl
@[simp] theorem State.trap_rotated (s : State) (t : TrapRec) : (s.trap t).rotated = s.rotated := by
  unfold State.trap; split <;> rfl
@[simp] theorem State.trap_hbm (s : State) (t : TrapRec) : (s.trap t).hbm = s.hbm := by
  unfold State.trap; split <;> rfl
@[simp] theorem State.trap_hubCounters (s : State) (t : TrapRec) : (s.trap t).hubCounters = s.hubCounters := by
  unfold State.trap; split <;> rfl
@[simp] theorem State.trap_frames (s : State) (t : TrapRec) : (s.trap t).frames = s.frames := by
  unfold State.trap; split <;> rfl
@[simp] theorem State.trap_pkg (s : State) (t : TrapRec) : (s.trap t).pkg = s.pkg := by
  unfold State.trap; split <;> rfl
@[simp] theorem State.trap_fab (s : State) (t : TrapRec) : (s.trap t).fab = s.fab := by
  unfold State.trap; split <;> rfl
@[simp] theorem State.trap_host (s : State) (t : TrapRec) : (s.trap t).host = s.host := by
  unfold State.trap; split <;> rfl
@[simp] theorem State.trap_tab (s : State) (t : TrapRec) : (s.trap t).tab = s.tab := by
  unfold State.trap; split <;> rfl
@[simp] theorem State.trap_pow (s : State) (t : TrapRec) : (s.trap t).pow = s.pow := by
  unfold State.trap; split <;> rfl

/-! ### stall -/

@[simp] theorem State.stall_agenda (s : State) (w : Wait) : (s.stall w).agenda = s.agenda := by
  unfold State.stall; split <;> rfl
@[simp] theorem State.stall_focus (s : State) (w : Wait) : (s.stall w).focus = s.focus := by
  unfold State.stall; split <;> rfl
@[simp] theorem State.stall_inp (s : State) (w : Wait) : (s.stall w).inp = s.inp := by
  unfold State.stall; split <;> rfl
@[simp] theorem State.stall_tick (s : State) (w : Wait) : (s.stall w).tick = s.tick := by
  unfold State.stall; split <;> rfl
@[simp] theorem State.stall_free (s : State) (w : Wait) : (s.stall w).free = s.free := by
  unfold State.stall; split <;> rfl
@[simp] theorem State.stall_late (s : State) (w : Wait) : (s.stall w).late = s.late := by
  unfold State.stall; split <;> rfl
@[simp] theorem State.stall_tsfloor (s : State) (w : Wait) : (s.stall w).tsfloor = s.tsfloor := by
  unfold State.stall; split <;> rfl
@[simp] theorem State.stall_wtsTop (s : State) (w : Wait) : (s.stall w).wtsTop = s.wtsTop := by
  unfold State.stall; split <;> rfl
@[simp] theorem State.stall_floorNext (s : State) (w : Wait) : (s.stall w).floorNext = s.floorNext := by
  unfold State.stall; split <;> rfl
@[simp] theorem State.stall_floorAt (s : State) (w : Wait) : (s.stall w).floorAt = s.floorAt := by
  unfold State.stall; split <;> rfl
@[simp] theorem State.stall_cores (s : State) (w : Wait) : (s.stall w).cores = s.cores := by
  unfold State.stall; split <;> rfl
@[simp] theorem State.stall_seqs (s : State) (w : Wait) : (s.stall w).seqs = s.seqs := by
  unfold State.stall; split <;> rfl
@[simp] theorem State.stall_mem (s : State) (w : Wait) : (s.stall w).mem = s.mem := by
  unfold State.stall; split <;> rfl
@[simp] theorem State.stall_lines (s : State) (w : Wait) : (s.stall w).lines = s.lines := by
  unfold State.stall; split <;> rfl
@[simp] theorem State.stall_tlb (s : State) (w : Wait) : (s.stall w).tlb = s.tlb := by
  unfold State.stall; split <;> rfl
@[simp] theorem State.stall_sealSet (s : State) (w : Wait) : (s.stall w).sealSet = s.sealSet := by
  unfold State.stall; split <;> rfl
@[simp] theorem State.stall_health (s : State) (w : Wait) : (s.stall w).health = s.health := by
  unfold State.stall; split <;> rfl
@[simp] theorem State.stall_ctxs (s : State) (w : Wait) : (s.stall w).ctxs = s.ctxs := by
  unfold State.stall; split <;> rfl
@[simp] theorem State.stall_bays (s : State) (w : Wait) : (s.stall w).bays = s.bays := by
  unfold State.stall; split <;> rfl
@[simp] theorem State.stall_rotated (s : State) (w : Wait) : (s.stall w).rotated = s.rotated := by
  unfold State.stall; split <;> rfl
@[simp] theorem State.stall_hbm (s : State) (w : Wait) : (s.stall w).hbm = s.hbm := by
  unfold State.stall; split <;> rfl
@[simp] theorem State.stall_hubCounters (s : State) (w : Wait) : (s.stall w).hubCounters = s.hubCounters := by
  unfold State.stall; split <;> rfl
@[simp] theorem State.stall_frames (s : State) (w : Wait) : (s.stall w).frames = s.frames := by
  unfold State.stall; split <;> rfl
@[simp] theorem State.stall_pkg (s : State) (w : Wait) : (s.stall w).pkg = s.pkg := by
  unfold State.stall; split <;> rfl
@[simp] theorem State.stall_fab (s : State) (w : Wait) : (s.stall w).fab = s.fab := by
  unfold State.stall; split <;> rfl
@[simp] theorem State.stall_host (s : State) (w : Wait) : (s.stall w).host = s.host := by
  unfold State.stall; split <;> rfl
@[simp] theorem State.stall_tab (s : State) (w : Wait) : (s.stall w).tab = s.tab := by
  unfold State.stall; split <;> rfl
@[simp] theorem State.stall_pow (s : State) (w : Wait) : (s.stall w).pow = s.pow := by
  unfold State.stall; split <;> rfl

/-! ### Reading after an update -/

@[simp] theorem State.core_setCore (s : State) (n : Nat) (c : Core) : (s.setCore n c).core n = c := by
  simp [State.core, State.setCore]
theorem State.core_setCore_ne (s : State) {n i : Nat} (c : Core) (h : i ≠ n) : (s.setCore n c).core i = s.core i := by
  simp only [State.core, State.setCore, find?_put_ne _ _ h]
@[simp] theorem State.seq_setSeq (s : State) (n : Nat) (q : Seq) : (s.setSeq n q).seq n = q := by
  simp [State.seq, State.setSeq]
theorem State.seq_setSeq_ne (s : State) {n i : Nat} (q : Seq) (h : i ≠ n) : (s.setSeq n q).seq i = s.seq i := by
  simp only [State.seq, State.setSeq, find?_put_ne _ _ h]
@[simp] theorem State.ctx_setCtx (s : State) (n : Nat) (c : Context) : (s.setCtx n c).ctx n = c := by
  simp [State.ctx, State.setCtx]
theorem State.ctx_setCtx_ne (s : State) {n i : Nat} (c : Context) (h : i ≠ n) : (s.setCtx n c).ctx i = s.ctx i := by
  simp only [State.ctx, State.setCtx, find?_put_ne _ _ h]
@[simp] theorem State.bay_setBay (s : State) (n : Nat) (b : Bay) : (s.setBay n b).bay n = b := by
  simp [State.bay, State.setBay]
theorem State.bay_setBay_ne (s : State) {n i : Nat} (b : Bay) (h : i ≠ n) : (s.setBay n b).bay i = s.bay i := by
  simp only [State.bay, State.setBay, find?_put_ne _ _ h]
@[simp] theorem State.line_setLine (s : State) (n : Nat) (l : LineRec) : (s.setLine n l).line n = l := by
  simp [State.line, State.setLine]
theorem State.line_setLine_ne (s : State) {n i : Nat} (l : LineRec) (h : i ≠ n) : (s.setLine n l).line i = s.line i := by
  simp only [State.line, State.setLine, find?_put_ne _ _ h]
@[simp] theorem State.stack_setStack (s : State) (n : Nat) (k : Stack) : (s.setStack n k).stack n = k := by
  simp [State.stack, State.setStack]
theorem State.stack_setStack_ne (s : State) {n i : Nat} (k : Stack) (h : i ≠ n) : (s.setStack n k).stack i = s.stack i := by
  simp only [State.stack, State.setStack, find?_put_ne _ _ h]
@[simp] theorem State.hubMem_setHubMem (s : State) (n : Nat) (l : List Nat) : (s.setHubMem n l).hubMem n = l := by
  simp [State.hubMem, State.setHubMem]
theorem State.hubMem_setHubMem_ne (s : State) {n i : Nat} (l : List Nat) (h : i ≠ n) : (s.setHubMem n l).hubMem i = s.hubMem i := by
  simp only [State.hubMem, State.setHubMem, find?_put_ne _ _ h]
@[simp] theorem State.strm_setStrm (s : State) (n : Nat) (x : Stream) : (s.setStrm n x).strm n = x := by
  simp [State.strm, State.setStrm]
theorem State.strm_setStrm_ne (s : State) {n i : Nat} (x : Stream) (h : i ≠ n) : (s.setStrm n x).strm i = s.strm i := by
  simp only [State.strm, State.setStrm, find?_put_ne _ _ h]
@[simp] theorem State.nq_setNq (s : State) (n : Nat) (q : NotifQ) : (s.setNq n q).nq n = q := by
  simp [State.nq, State.setNq]
theorem State.nq_setNq_ne (s : State) {n i : Nat} (q : NotifQ) (h : i ≠ n) : (s.setNq n q).nq i = s.nq i := by
  simp only [State.nq, State.setNq, find?_put_ne _ _ h]
@[simp] theorem State.msix_setMsix (s : State) (n : Nat) (m : Msix) : (s.setMsix n m).msix n = m := by
  simp [State.msix, State.setMsix]
theorem State.msix_setMsix_ne (s : State) {n i : Nat} (m : Msix) (h : i ≠ n) : (s.setMsix n m).msix i = s.msix i := by
  simp only [State.msix, State.setMsix, find?_put_ne _ _ h]
@[simp] theorem State.die_setDie (s : State) (n : Nat) (d : Die) : (s.setDie n d).die n = d := by
  simp [State.die, State.setDie]
theorem State.die_setDie_ne (s : State) {n i : Nat} (d : Die) (h : i ≠ n) : (s.setDie n d).die i = s.die i := by
  simp only [State.die, State.setDie, find?_put_ne _ _ h]
@[simp] theorem State.bp_setBp (s : State) (n : Nat) (b : BayPower) : (s.setBp n b).bp n = b := by
  simp [State.bp, State.setBp]
theorem State.bp_setBp_ne (s : State) {n i : Nat} (b : BayPower) (h : i ≠ n) : (s.setBp n b).bp i = s.bp i := by
  simp only [State.bp, State.setBp, find?_put_ne _ _ h]
@[simp] theorem State.link_setLink (s : State) (n : Nat) (l : Link) : (s.setLink n l).link n = l := by
  simp [State.link, State.setLink]
theorem State.link_setLink_ne (s : State) {n i : Nat} (l : Link) (h : i ≠ n) : (s.setLink n l).link i = s.link i := by
  simp only [State.link, State.setLink, find?_put_ne _ _ h]
@[simp] theorem State.peer_setPeer (s : State) (n : Nat) (p : Peer) : (s.setPeer n p).peer n = p := by
  simp [State.peer, State.setPeer]
theorem State.peer_setPeer_ne (s : State) {n i : Nat} (p : Peer) (h : i ≠ n) : (s.setPeer n p).peer i = s.peer i := by
  simp only [State.peer, State.setPeer, find?_put_ne _ _ h]
@[simp] theorem State.core_modCore (s : State) (n : Nat) (f : Core → Core) : (s.modCore n f).core n = f (s.core n) := by
  simp [State.modCore]
theorem State.core_modCore_ne (s : State) {n i : Nat} (f : Core → Core) (h : i ≠ n) : (s.modCore n f).core i = s.core i :=
  State.core_setCore_ne s _ h
@[simp] theorem State.strm_modStrm (s : State) (n : Nat) (f : Stream → Stream) : (s.modStrm n f).strm n = f (s.strm n) := by
  simp [State.modStrm]
theorem State.strm_modStrm_ne (s : State) {n i : Nat} (f : Stream → Stream) (h : i ≠ n) : (s.modStrm n f).strm i = s.strm i :=
  State.strm_setStrm_ne s _ h

end Sys2Proof.Machine
end

