-- ==== Sys2Proof/Tests/Slice0.lean ====
section
/-! SUPPORT. Tests: ill-formed terms that the checks refuse, words written out from the encoding tables, single steps,
and for each statement with hypotheses states that meet them. -/

open Sys2Proof Sys2Proof.Bits Sys2Proof.Machine

set_option Elab.async false

namespace Sys2Proof.Tests

/-- An answer is a given value; so that the kernel decides it. -/
def okIs {α β : Type} [DecidableEq β] (e : Except α β) (b : β) : Bool :=
  match e with
  | .ok x => decide (x = b)
  | .error _ => false
theorem eq_of_okIs {α β : Type} [DecidableEq β] {e : Except α β} {b : β} (h : okIs e b = true) : e = .ok b := by
  cases e with
  | error x => cases h
  | ok x => exact congrArg _ (of_decide_eq_true h)

/-! ### Well-formedness (R310, R318, R308, R350, R258, R312, R391, R389) -/

theorem test_wf_ldl_width : ¬ (Instr.ldl 0#3 1#5 2#5 0#8 7#3 0#2 0#16).WellFormed := by decide +kernel
theorem test_wf_fence_scope : ¬ (Instr.fence 0#3 5#3).WellFormed := by decide +kernel
theorem test_wf_fcvt_format : ¬ (Instr.fcvt 0#3 1#5 2#5 11#4 6#4 0#3 0#2).WellFormed := by decide +kernel
theorem test_wf_vcvt_part : ¬ (Instr.vcvt 0#3 1#5 2#5 0#2 6#4 7#4 0#3 0#2 2#2).WellFormed := by decide +kernel
theorem test_wf_mod_rounding : ¬ (Instr.mod 7#3 0#2 0#2 6#4 0#1).WellFormed := by decide +kernel
theorem test_wf_mod_saturation : ¬ (Instr.mod 0#3 3#2 0#2 6#4 0#1).WellFormed := by decide +kernel
theorem test_wf_atomic_return : ¬ (Instr.amadd 0#3 1#5 2#5 3#5 1#1 0#1).WellFormed := by decide +kernel
theorem test_wf_cph_port : ¬ (Instr.cph 0#3 1#5 2#5 3#5 0#2 4#5 5#5 0#1 0#1 1#3 0#3).WellFormed := by decide +kernel
theorem test_wf_jig_rows : ¬ (Instr.jStrm 0#3 0#4 0#1 255#8 1#5 0#1 0#3).WellFormed := by decide +kernel
theorem test_wf_good : (Instr.addi 0#3 5#5 5#5 0x7F#7).WellFormed ∧ (Instr.amadd 0#3 0#5 2#5 3#5 1#1 0#1).WellFormed := by decide +kernel

/-! ### Words written out from the encoding tables (R271 to R286, R290, R377) -/

theorem test_decode_movl : decodeWords [0xA0407000#32, 0x72345678#32] = .ok (true, .movl 0#3 7#5 0#12 0x12345678#29, []) := rfl
theorem test_decode_addi : decodeWords [0x800652FF#32] = .ok (true, .addi 0#3 5#5 5#5 0x7F#7, []) := rfl
theorem test_decode_mod : decodeWords [0x4221A000#32] = .ok (false, .mod 4#3 1#2 0#2 6#4 1#1, []) := rfl
theorem test_decode_xfer : decodeWords [0x49000000#32] = .ok (false, .xfer 2#3 0#2, []) := rfl
theorem test_decode_vadd : decodeWords [0x0C00110D#32] = .ok (false, .vadd 0#3 1#5 2#5 3#5 1#2, []) := rfl
theorem test_decode_fill : decodeWords [0xE0000000#32] = .error (0, .fillWord) := rfl
theorem test_decode_bad_fill : decodeWords [0xF2345678#32] = .error (0, .badFill) := rfl
/-- SM: CL 001. -/
theorem test_decode_load_class : (decodeWords [BitVec.ofNat 32 (2 ^ 31 + 1 * 2 ^ 26)]).toOption.map (fun r => r.2.1.cls) = some 1 := rfl
/-- SC: CL 010, OP 0x07 is PEG; a guard other than 000 is refused (R274). -/
theorem test_decode_peg : decodeWords [0x880E0000#32] = .ok (true, .peg, []) ∧
    decodeWords [0x890E0000#32] = .error (0, .guardInvalid) := ⟨rfl, rfl⟩
/-- The reserved class 111. -/
theorem test_decode_reserved_class : decodeWords [0x9C000000#32] = .error (0, .reservedClass) := rfl

/-! ### Every encoded constructor: words written out from the encoding tables (R271 to R286, R308 to R313, R336, R337,
R350 to R354, R377, R391), each field at a value of its own -/

/-- Each list of words decodes, as the first bundle, to the instruction beside it with nothing left. -/
def wordsRead (l : List (List Nat × Instr)) : Bool :=
  l.all (fun p => okIs (decodeWords (p.1.map (BitVec.ofNat 32))) (true, p.2, []))
def wordsMicro (l : List (Nat × Instr)) : Bool := l.all (fun p => okIs (decodeJig (BitVec.ofNat 32 p.1)) p.2)
theorem test_words_sa_0 : wordsRead [([0x81000000], .nop 2), ([0x8102952C], .add 2 9 10 11), ([0x8104952C], .sub 2 9 10 11),
    ([0x81069555], .addi 2 9 10 85), ([0x8108952C], .mul 2 9 10 11), ([0x810A952C], .mulh 2 9 10 11), ([0x810C952C], .mulhn 2 9 10 11),
    ([0x810E952C], .madd 2 9 10 11), ([0x8110952C], .div 2 9 10 11), ([0x8112952C], .divn 2 9 10 11), ([0x8114952C], .rem 2 9 10 11),
    ([0x8116952C], .remn 2 9 10 11), ([0x8118952C], .andR 2 9 10 11), ([0x811A952C], .orR 2 9 10 11), ([0x811C952C], .xorR 2 9 10 11),
    ([0x811E9555], .andi 2 9 10 85), ([0x81209555], .ori 2 9 10 85), ([0x81229555], .xori 2 9 10 85), ([0x8124952C], .shl 2 9 10 11),
    ([0x8126952C], .shr 2 9 10 11)] = true := by decide +kernel
theorem test_words_sa_1 : wordsRead [([0x8128952C], .sha 2 9 10 11), ([0x812A9555], .shli 2 9 10 85), ([0x812C9555], .shri 2 9 10 85),
    ([0x812E9555], .shai 2 9 10 85), ([0x8130952C], .minS 2 9 10 11), ([0x8132952C], .maxS 2 9 10 11), ([0x8134952C], .minn 2 9 10 11),
    ([0x8136952C], .maxn 2 9 10 11), ([0x81389500], .clz 2 9 10), ([0x813A9500], .popc 2 9 10), ([0x813C9500], .mov 2 9 10),
    ([0x813E9055], .movi 2 9 85), ([0xA1409ABC, 0x72345678], .movl 2 9 2748 305419896), ([0x8142952C], .bext 2 9 10 11),
    ([0x8144952C], .bins 2 9 10 11), ([0x8146252C], .cmpeq 2 2 10 11), ([0x8148252C], .cmpne 2 2 10 11), ([0x814A252C], .cmplt 2 2 10 11),
    ([0x814C252C], .cmple 2 2 10 11), ([0x814E252C], .cmpltn 2 2 10 11)] = true := by decide +kernel
theorem test_words_sa_2 : wordsRead [([0x8150252C], .cmplen 2 2 10 11), ([0x81522555], .cmpeqi 2 2 10 85), ([0x81542555], .cmplti 2 2 10 85),
    ([0x81562555], .cmpgti 2 2 10 85), ([0x8158110C], .pand 2 1 2 3), ([0x815A110C], .por 2 1 2 3), ([0x815C110C], .pxor 2 1 2 3),
    ([0x815E110C], .pandn 2 1 2 3), ([0x81609000], .pmovx 2 9), ([0x81620500], .xmovp 2 10), ([0x8164952C], .fadd 2 9 10 11),
    ([0x8166952C], .fsub 2 9 10 11), ([0x8168952C], .fmul 2 9 10 11), ([0x816A952C], .ffma 2 9 10 11), ([0x816C952C], .fmin 2 9 10 11),
    ([0x816E952C], .fmax 2 9 10 11), ([0x8170252C], .fcmpeq 2 2 10 11), ([0x8172252C], .fcmplt 2 2 10 11), ([0x8174252C], .fcmple 2 2 10 11),
    ([0xA1769500, 0x6D310000], .fcvt 2 9 10 6 9 4 1)] = true := by decide +kernel
theorem test_words_sa_3 : wordsRead [([0x81789500], .fclass 2 9 10)] = true := by decide +kernel
theorem test_words_sm_0 : wordsRead [([0x85009555], .ldb 2 9 10 85), ([0x85029555], .ldbs 2 9 10 85), ([0x85049555], .ldh 2 9 10 85),
    ([0x85069555], .ldhs 2 9 10 85), ([0x85089555], .ldw 2 9 10 85), ([0x850A9555], .ldws 2 9 10 85), ([0x850C9555], .ldd 2 9 10 85),
    ([0x850E9555], .stb 2 9 10 85), ([0x85109555], .sth 2 9 10 85), ([0x85129555], .stw 2 9 10 85), ([0x85149555], .std 2 9 10 85),
    ([0xA5169500, 0x60260015], .ldl 2 9 10 1 1 2 21), ([0x8518952D], .amadd 2 9 10 11 0 1), ([0x851A952D], .ammin 2 9 10 11 0 1),
    ([0x851C952D], .amminn 2 9 10 11 0 1), ([0x851E952D], .ammax 2 9 10 11 0 1), ([0x8520952D], .ammaxn 2 9 10 11 0 1),
    ([0x8522952D], .amand 2 9 10 11 0 1), ([0x8524952D], .amor 2 9 10 11 0 1), ([0x8526952D], .amxor 2 9 10 11 0 1)] = true := by decide +kernel
theorem test_words_sm_1 : wordsRead [([0x8528952D], .amswp 2 9 10 11 0 1), ([0xA52A952D, 0x63000000], .amcas 2 9 10 11 1 3),
    ([0x852C052C], .ginit 2 10 11), ([0x852E052C], .gsig 2 10 11), ([0x8530952C], .gwait 2 9 10 11), ([0x85329502], .gread 2 9 10 2),
    ([0x85349500], .tkget 2 9 10), ([0x8536052C], .tkwait 2 10 11), ([0x85380500], .tknext 2 10), ([0x853A3000], .fence 2 3),
    ([0x853C952C], .await 2 9 10 11), ([0x853E252C], .qinit 2 2 10 11), ([0x8540202C], .qwaitf 2 2 11), ([0x8542202C], .qwaite 2 2 11),
    ([0x8544202C], .qadvh 2 2 11), ([0x8546202C], .qadvt 2 2 11), ([0x85489100], .qstat 2 9 2),
    ([0x854A0555], .pfl 2 10 85)] = true := by decide +kernel
theorem test_words_sc_0 : wordsRead [([0x89010015], .tprep 2 2 21), ([0x89030015], .tprepx 2 2 21), ([0x89049100], .tread 2 9 2),
    ([0x89069003], .csrr 2 9 3), ([0x89089003], .csrw 2 9 3), ([0x890A9003], .csrs 2 9 3), ([0x890C9003], .csrc 2 9 3), ([0x880E0000], .peg),
    ([0x88100000], .hwin), ([0x88120000], .endOp), ([0x89140055], .trap 2 85), ([0x89160055], .brk 2 85), ([0x88180000], .eret),
    ([0x891A9500], .spawn 2 9 10), ([0x891C9500], .cancelj 2 9 10), ([0x891E9201], .phase 2 9 2 1), ([0x8920952C], .pinw 2 9 10 11),
    ([0x89229500], .unpinw 2 9 10), ([0x8924952E], .tlbinv 2 9 10 11 2), ([0x8926952C], .dirtyh 2 9 10 11)] = true := by decide +kernel
theorem test_words_sc_1 : wordsRead [([0x89289500], .linkq 2 9 10), ([0x892A9500], .linkset 2 9 10), ([0x892C0500], .opreq 2 10),
    ([0x88409000], .job 9), ([0x88420500], .task 10), ([0x8844052C], .opt 10 11), ([0x88461500], .depv 1 10), ([0x88482500], .tset 2 10),
    ([0x884A9500], .launch 9 10), ([0x884C9500], .jwait 9 10), ([0x884E052C], .notify 10 11), ([0x88509500], .curveq 9 10),
    ([0xA852952C, 0x63400000], .caskout 9 10 11 3 1), ([0xA854952C, 0x63400000], .caskin 9 10 11 3 1)] = true := by decide +kernel
theorem test_words_va_0 : wordsRead [([0x8D00952E], .vadd 2 9 10 11 2), ([0x8D02952E], .vsub 2 9 10 11 2), ([0x8D04952E], .vmul 2 9 10 11 2),
    ([0x8D06952E], .vfma 2 9 10 11 2), ([0x8D08952E], .vfms 2 9 10 11 2), ([0x8D0A952E], .vmin 2 9 10 11 2), ([0x8D0C952E], .vmax 2 9 10 11 2),
    ([0x8D0E9502], .vabs 2 9 10 2), ([0x8D109502], .vneg 2 9 10 2), ([0x8D12952E], .vand 2 9 10 11 2), ([0x8D14952E], .vor 2 9 10 11 2),
    ([0x8D16952E], .vxor 2 9 10 11 2), ([0x8D18952E], .vshl 2 9 10 11 2), ([0x8D1A952E], .vshr 2 9 10 11 2), ([0x8D1C952E], .vsha 2 9 10 11 2),
    ([0x8D1E952E], .vaddx 2 9 10 11 2), ([0x8D20952E], .vmulx 2 9 10 11 2), ([0x8D22952E], .vfmax 2 9 10 11 2), ([0x8D24152E], .vcmpeq 2 1 10 11 2),
    ([0x8D26152E], .vcmplt 2 1 10 11 2)] = true := by decide +kernel
theorem test_words_va_1 : wordsRead [([0x8D28152E], .vcmple 2 1 10 11 2), ([0x8D2A152E], .vcmpne 2 1 10 11 2), ([0x8D2C952E], .vsel 2 9 10 11 2),
    ([0xAD2E9502, 0x6D318000], .vcvt 2 9 10 2 6 9 4 1 2), ([0xAD309502, 0x72340000], .vqnt 2 9 10 2 2 0 4 13),
    ([0xAD32952E, 0x6C000000], .vdqnt 2 9 10 11 2 6), ([0x8D349502], .vexp2 2 9 10 2), ([0x8D369502], .vlog2 2 9 10 2),
    ([0x8D389502], .vrcp 2 9 10 2), ([0x8D3A9502], .vrsqrt 2 9 10 2), ([0x8D3C9502], .vtanh 2 9 10 2), ([0x8D3E952E], .vdot4 2 9 10 11 2),
    ([0x8D409502], .vredadd 2 9 10 2), ([0x8D429502], .vredmax 2 9 10 2), ([0x8D449502], .vredmin 2 9 10 2), ([0x8D469502], .vscanadd 2 9 10 2),
    ([0x8D489502], .vclass 2 9 10 2), ([0x8D4A952E], .vmulh 2 9 10 11 2), ([0x8D4C9502], .vrndi 2 9 10 2)] = true := by decide +kernel
theorem test_words_vm_0 : wordsRead [([0x91009555], .vld 2 9 10 85), ([0x91029555], .vst 2 9 10 85),
    ([0xB1049502, 0x6D010015], .vlds 2 9 10 2 13 1 21), ([0xB1069502, 0x6D000015], .vsts 2 9 10 2 13 21), ([0x9108952E], .vgath 2 9 10 11 2),
    ([0x910A952E], .vscat 2 9 10 11 2), ([0x910C912E], .vldq 2 9 2 11 2), ([0x910E912E], .vstq 2 9 2 11 2), ([0x91109502], .vbcx 2 9 10 2),
    ([0x9112952C], .vextx 2 9 10 11), ([0x9114952C], .vinsx 2 9 10 11), ([0x9116952E], .vperm 2 9 10 11 2), ([0x9118952E], .vslide 2 9 10 11 2),
    ([0x911A952E], .vzip 2 9 10 11 2), ([0x911C952E], .vunzip 2 9 10 11 2), ([0x911E9002], .viota 2 9 2), ([0x91209502], .vmov 2 9 10 2),
    ([0x9122110C], .kand 2 1 2 3), ([0x9124110C], .kor 2 1 2 3), ([0x9126110C], .kxor 2 1 2 3)] = true := by decide +kernel
theorem test_words_vm_1 : wordsRead [([0x91281100], .knot 2 1 2), ([0x912A9100], .kpopc 2 9 2), ([0x912C9100], .kfirst 2 9 2),
    ([0x912E9100], .kmovx 2 9 2), ([0x91301500], .xmovk 2 1 10), ([0x9132952E], .vamadd 2 9 10 11 2), ([0x9134952E], .vammin 2 9 10 11 2),
    ([0x91369502], .vcompress 2 9 10 2), ([0x91389502], .vexpand 2 9 10 2), ([0x913A952C], .vsett 2 9 10 11)] = true := by decide +kernel
theorem test_words_mx : wordsRead [([0x95000001], .mcall 2 1), ([0x95022500], .mparw 2 2 10), ([0x95049100], .mparr 2 9 2),
    ([0x95069501], .mldj 2 9 10 1), ([0x95089000], .mretire 2 9), ([0x950A0000], .mfence 2), ([0x950C0500], .mrot 2 10),
    ([0x950E9500], .mstat 2 9 10)] = true := by decide +kernel
theorem test_words_cp : wordsRead [([0xB900952E, 0x6E7C0000], .cpy 2 9 10 11 2 14 15 2), ([0xB902952E, 0x6E7C0000], .cpyt 2 9 10 11 2 14 15 2),
    ([0xB904952E, 0x6E7C0000], .cpyg 2 9 10 11 2 14 15 2), ([0xB906952E, 0x6E7C0000], .cpys 2 9 10 11 2 14 15 2),
    ([0xB908952E, 0x6E780800], .cpym 2 9 10 11 2 14 15 1), ([0xB90A952E, 0x6E780000], .cpyq 2 9 10 11 2 14 15),
    ([0xB90C952E, 0x6E7B0000], .cpya 2 9 10 11 2 14 15 6), ([0xB90E9502, 0x6E7C0000], .cpf 2 9 10 2 14 15 2),
    ([0xB910952E, 0x6E7E4800], .cph 2 9 10 11 2 14 15 1 1 1 1), ([0xB9129500, 0x60000000], .ccan 2 9 10),
    ([0xB9149502, 0x60780000], .cpub 2 9 10 2 15), ([0xB9169500, 0x60000000], .cqry 2 9 10),
    ([0xB918952C, 0x6E000000], .bdef 2 9 10 11 14)] = true := by decide +kernel
theorem test_words_prefix : wordsRead [([0xC230A000], .mod 4 1 2 2 1), ([0xC4000055], .imm 85), ([0xC9200000], .xfer 2 1),
    ([0xC8300000], .xferLink 1)] = true := by decide +kernel
theorem test_words_micro : wordsMicro [(0x0A200000, .jLdw 2 2), (0x10000000, .jSwapw), (0x1A000000, .jSkipmap 2),
    (0x22202564, .jStrm 2 2 0 4 21 1 1), (0x2A000000, .jAccz 0 1), (0x300E0002, .jLoop 1 3 2), (0x300F8000, .jLoopReg 1 3 4),
    (0x39000055, .jAddp 1 85), (0x39A00000, .jAddpReg 1 2), (0x41002000, .jWaitq 2 0 2), (0x49402000, .jAdvq 2 1 2), (0x55000000, .jBias 1 2),
    (0x583C0000, .jScale 15), (0x5D000000, .jScaleVec 2), (0x62246A04, .jRetire 2 2 0 4 1 21 2), (0x6A000002, .jSig 2 2),
    (0x70000000, .jEnd)] = true := by decide +kernel

/-! ### A small state: core 0 holds a point of task 1, its vault is open, context 0 maps 2 GiB -/

def tRegs : Regs :=
  { dslices := 8, lanes := 1#7,
    sc := { x := ((((Vector.replicate 32 0#64).set 1 0xE000000000000#64).set 2 0x100000#64).set 3 5#64).set 4 7#64 } }
def tCore : Core := { pt := tRegs, peg := tRegs, point := some (1, [0, 0, 0, 0]), nlcore := 8 }
def tState : State :=
  { cores := [(0, tCore)], bays := [(0, { bound := some (1, 0) })], ctxs := [(0, { root := 1#64 })],
    mem := [(0, 1#8), (1, 0x40#8), (0x4000, 0x1F#8)] }
/-- The same state with changed registers of core 0. -/
def tWith (f : Core → Core) : State := { tState with cores := [(0, f tCore)] }
def tFrame : State := tWith (fun c => { c with frame := true, fr := c.pt.sc })
def tSeq : State := { tState with focus := .seq 0 }
def tMod (sat rnd fmt : Nat) : State :=
  { tState with bundle := { mod := some ⟨BitVec.ofNat 3 rnd, BitVec.ofNat 2 sat, 0#2, BitVec.ofNat 4 fmt, false⟩ } }

theorem noJig (n : Nat) : tState.focus ≠ .jig n := by intro h; cases h
theorem noJigF (n : Nat) : tFrame.focus ≠ .jig n := by intro h; cases h
theorem noJigS (n : Nat) : tSeq.focus ≠ .jig n := by intro h; cases h

theorem vault_serves : tState.Serves (vaultCell 0 0 / 128) where
  free := rfl
  home := .inr ⟨rfl, .inl (by decide +kernel)⟩
  copy := by intro _ k hk; cases hk
theorem vault_good (n : Nat) (h : n ≤ 32) : tState.Good (vaultCell 0 0) n none where
  data := by
    intro k hk
    have all : ∀ k, k < 32 → tState.lineFault (vaultCell 0 0 + k) none = none := by decide +kernel
    exact all k (by omega)
  merge := by
    have all : ∀ n, n ≤ 32 → tState.mergeFault (vaultCell 0 0) n none = none := by decide +kernel
    exact all n h
  stores := by intro _ w hw; cases hw
theorem vault_reaches (acc : Acc) (ha : acc ≠ .fetch) (n : Nat) (h : 0 < n) (k : n ≤ 8) :
    tState.Reaches acc 0xE000000000000 n (vaultCell 0 0) none where
  space := by decide +kernel
  window := by decide +kernel
  size := h
  line := by omega
  same := by decide +kernel
  cell := by
    cases acc with
    | load => exact eq_of_okIs (by decide +kernel)
    | store => exact eq_of_okIs (by decide +kernel)
    | fetch => exact absurd rfl ha
  serves := vault_serves
  walked := .inr (.inl (by decide +kernel))

theorem vault_word (n : Nat) (h : n = 16 ∨ n = 32) : tState.WordReady (tState.xr 1#5) n (vaultCell 0 0) where
  core := by decide +kernel
  jig := noJig
  cell := by rcases h with rfl | rfl <;> rfl
  applied := rfl
  serves := vault_serves
  own := by intro k hk; cases hk
  good := by
    intro k hk
    have all : ∀ k, k < 32 → tState.dataFault (vaultCell 0 0 + k) none = none := by decide +kernel
    exact all k (by omega)
  aligned := by rcases h with rfl | rfl <;> decide

theorem vault_lanes (acc : Acc) (ha : acc ≠ .fetch) (addr : Nat → W64) (h : addr 0 = 0xE000000000000#64) :
    tState.LanesReach acc 1 addr (fun _ => vaultCell 0 0) (fun _ => none) :=
  have l : ∀ i ∈ lanesUp 1, addr i = 0xE000000000000#64 := fun i hi => by
    rw [(by decide +kernel : ∀ i ∈ lanesUp 1, i = 0) i hi, h]
  { core := noJig
    align := fun i hi => by rw [l i hi]; decide
    reach := fun i hi => by rw [l i hi]; exact vault_reaches acc ha 4 (by decide) (by decide)
    good := fun _ _ => vault_good 4 (by decide)
    rows := fun _ _ => .inr (.inl (by decide +kernel))
    tlb := fun i hi hl => by rw [l i hi] at hl; exact absurd hl (by decide)
    room := by decide +kernel }

/-! ### Single steps with the results the spec's worked examples and tables give -/

/-- The registers of the acting core once every result in flight has landed, and the flags the results bring. -/
def tEnd (o : Out) : Regs × BitVec 6 :=
  match o with
  | .next s => ((s.my.pt.sc.pend.foldl (fun s p => s.landOne p.dest) s).my.pt,
      s.my.pt.sc.pend.foldl (fun f p => f ||| p.flags) 0#6)
  | _ => ({}, 0#6)
def tX (o : Out) (r : Fin 32) : W64 × BitVec 6 := ((tEnd o).1.sc.x[r], (tEnd o).2)
def tLane (o : Out) (r : Fin 32) (i : Nat) : Nat := lane (tEnd o).1.v[r] i
/-- Core 0 with x3 and v8 given. -/
def tOn (x3 : W64) (v8 : Nat) (lanes : BitVec 7) : State :=
  tWith (fun c => { c with pt := { c.pt with
    sc := { c.pt.sc with x := c.pt.sc.x.set 3 x3 }, v := c.pt.v.set 8 (BitVec.ofNat 2048 v8), lanes := lanes } })

/-- R308's example: 128.0 to i8 with saturation is 127 with SAT (and NX, R260); without it the result wraps. -/
theorem test_fcvt_sat : tX (exec (.fcvt 0#3 2#5 3#5 6#4 0#4 0#3 1#2) (tOn 0x43000000#64 0 0#7)) 2 = (0x7F#64, 0x21#6) := by decide +kernel
theorem test_fcvt_wrap : (tX (exec (.fcvt 0#3 2#5 3#5 6#4 0#4 0#3 0#2) (tOn 0x43000000#64 0 0#7)) 2).1 = 0xFFFFFFFFFFFFFF80#64 := by decide +kernel
/-- R350's example: lanes 0 to 3 converted to e4m3 with saturation into part 1; OF, NX and SAT set, NV not. -/
theorem test_vcvt_part :
    let o := exec (.vcvt 0#3 9#5 8#5 0#2 6#4 9#4 0#3 1#2 1#2)
      (tOn 0#64 (0x3F800000 + 0x43FA0000 * 2 ^ 32 + 0xBE99999A * 2 ^ 64 + 0x7FC00000 * 2 ^ 96) 4#7)
    tLane o 9 16 = 0x7FAA7E38 ∧ tLane o 9 0 = 0 ∧ tLane o 9 17 = 0 ∧ (tEnd o).2 = 0x25#6 := by decide +kernel
/-- R351's example: the E2M1 type is chosen with scale byte 0x60. -/
theorem test_vqnt_auto :
    let o := exec (.vqnt 0#3 10#5 8#5 0#2 0#2 1#1 0#3 12#5)
      (tOn 0#64 (0x3F400000 + 0xBFC00000 * 2 ^ 32 + 0x40400000 * 2 ^ 64 + 0x40C00000 * 2 ^ 96) 0#7)
    tLane o 10 0 = 0x75B2 ∧ tLane o 10 1 = 0 ∧ tX o 12 = (0x60#64, 0x01#6) := by decide +kernel
/-- R253: division by zero gives all ones, the remainder the dividend; the quotient of the least value by −1 wraps. -/
theorem test_div_zero : (tX (exec (.div 0#3 5#5 4#5 9#5) tState) 5).1 = BitVec.allOnes 64 ∧
    (tX (exec (.rem 0#3 5#5 4#5 9#5) tState) 5).1 = 7#64 := by decide +kernel
theorem test_div_wraps :
    let s := tWith (fun c => { c with pt := { c.pt with sc := { c.pt.sc with
      x := (c.pt.sc.x.set 3 0x8000000000000000#64).set 6 (BitVec.allOnes 64) } } })
    (tX (exec (.div 0#3 5#5 3#5 6#5) s) 5).1 = 0x8000000000000000#64 ∧ (tX (exec (.rem 0#3 5#5 3#5 6#5) s) 5).1 = 0#64 := by decide +kernel
/-- R173: sources are read before the destination, also when they are the same register. -/
theorem test_add_same : (tX (exec (.add 0#3 3#5 3#5 3#5) tState) 3).1 = 10#64 := by decide +kernel
theorem test_sub_wraps : (tX (exec (.sub 0#3 5#5 9#5 3#5) tState) 5).1 = 0xFFFFFFFFFFFFFFFB#64 := by decide +kernel
theorem test_madd : (tX (exec (.madd 0#3 3#5 4#5 4#5) tState) 3).1 = 54#64 := by decide +kernel
theorem test_mulh_signed : (tX (exec (.mulh 0#3 5#5 3#5 4#5) (tOn (BitVec.allOnes 64) 0 0#7)) 5).1 = BitVec.allOnes 64 ∧
    (tX (exec (.mulhn 0#3 5#5 3#5 4#5) (tOn (BitVec.allOnes 64) 0 0#7)) 5).1 = 6#64 := by decide +kernel
theorem test_sha_low_bits : (tX (exec (.sha 0#3 5#5 3#5 4#5) (tOn 0x8000000000000000#64 0 0#7)) 5).1 = 0xFF00000000000000#64 := by decide +kernel
/-- R306: 1.0 + 2^−24 ties to even under RNE. -/
theorem test_fadd_tie : tX (exec (.fadd 0#3 5#5 3#5 6#5)
      (tWith (fun c => { c with pt := { c.pt with sc := { c.pt.sc with x := (c.pt.sc.x.set 3 0x3F800000#64).set 6 0x33800000#64 } } }))) 5 =
    (0x3F800000#64, 0x01#6) := by decide +kernel
/-- R363: a request above 64 lanes is granted 64, which LANES holds as 0; a reserved format changes nothing. -/
theorem test_vsett_caps : (tX (exec (.vsett 0#3 5#5 3#5 6#5) (tOn 100#64 0 4#7)) 5).1 = 64#64 ∧
    (tX (exec (.vsett 0#3 5#5 9#5 6#5) (tOn 100#64 0 4#7)) 5).1 = 0#64 := by decide +kernel
/-- Six lanes, k1 = 0b10_0110 and lanes 10 to 15 in v2. -/
def tMask : State :=
  tWith (fun c => { c with pt := { c.pt with
    k := c.pt.k.set 1 0x26#64, lanes := 6#7,
    v := c.pt.v.set 2 (BitVec.ofNat 2048 (10 + 11 * 2 ^ 32 + 12 * 2 ^ 64 + 13 * 2 ^ 96 + 14 * 2 ^ 128 + 15 * 2 ^ 160)) } })
/-- R361's example: VCOMPRESS packs the lanes of the mask, VIOTA numbers them. -/
theorem test_vcompress : let o := exec (.vcompress 0#3 3#5 2#5 1#2) tMask
    tLane o 3 0 = 11 ∧ tLane o 3 1 = 12 ∧ tLane o 3 2 = 15 ∧ tLane o 3 3 = 0 := by decide +kernel
theorem test_viota : let o := exec (.viota 0#3 4#5 1#2) tMask
    tLane o 4 1 = 0 ∧ tLane o 4 2 = 1 ∧ tLane o 4 5 = 2 := by decide +kernel
/-- R202: a load that no table translates traps, and nothing lands. -/
theorem test_load_page_fault : (match exec (.ldd 0#3 5#5 9#5 0#7) { tState with ctxs := [] } with
    | .next s => (s.bundle.trap.isSome, s.my.pt.sc.pend) | _ => (false, [])) = (true, []) := by decide +kernel

/-! ### Hypotheses met: operations that need only their guard -/

theorem witness_ScalarOperations : tState.pr 0#3 = true ∧ tState.bundle.imm = none ∧ tState.mode = .point ∧
    (6 ≤ tState.vecFmt ∧ tState.vecFmt ≤ 8) ∧ (tMod 0 4 4).vecFmt ≤ 5 ∧ (tMod 0 4 4).pr 0#3 = true ∧ (tMod 0 4 4).mode = .point := by
  decide +kernel

/-! ### Hypotheses met: encoding and steps -/

theorem witness_RoundTrip : (Instr.addi 0#3 5#5 5#5 0x7F#7).cls ≤ 2 ∧ (Instr.addi 0#3 5#5 5#5 0x7F#7).WellFormed ∧
    (Instr.vadd 0#3 1#5 2#5 3#5 1#2).cls = 3 ∧ (Instr.vld 0#3 1#5 2#5 0#7).cls = 4 ∧ (Instr.vld 0#3 1#5 2#5 0#7).WellFormed ∧
    (Instr.mfence 0#3).cls = 5 ∧ (Instr.mfence 0#3).WellFormed ∧ (Instr.ccan 0#3 1#5 2#5).cls = 6 ∧
    (Instr.imm 5#26).cls = 8 ∧ (Instr.xfer 0#3 0#2).cls = 9 ∧ (Instr.xfer 0#3 0#2).WellFormed ∧
    Instr.jEnd.cls = 10 ∧ Instr.jEnd.WellFormed := by decide +kernel
theorem witness_DecodeIsEncode : ∃ ws b i rest, decodeWords ws = .ok (b, i, rest) := ⟨_, _, _, _, test_decode_addi⟩
theorem witness_GuardlessOps : Instr.peg.WellFormed ∧ decodeWords [0x880E0000#32] = .ok (true, .peg, []) ∧
    Instr.peg.guardless = true ∧ decodeWords [0xC8100000#32] = .ok (true, .xferLink 0#2, []) := ⟨by decide +kernel, rfl, rfl, rfl⟩

/-- The state in which the next step runs the instruction of a table word, with its results due landed. -/
def tStep (w : Nat) : State := State.reset.withFetchWord 32 w
def tCome (w : Nat) : State := ((tStep w).meeting 0).2.comeTo 0 false
def tLanded (w : Nat) : State := (tCome w).noteFetch 0
theorem lone (w : Nat) (i : Instr) (h : okIs ((tLanded w).fetch (tLanded w).scalar.pc.toNat)
    (encode true i ++ [fillWord, 0#32, 0#32, 0#32, 0#32, 0#32, 0#32]) = true) : (tLanded w).atLone i :=
  ⟨_, _, eq_of_okIs h, rfl, fun x hx => by cases hx; rfl⟩
/-- ADDI x5, x5, -1. -/
theorem witness_StepRunsDecoded :
    (tLanded 0x000652FF).atLone (.addi 0#3 5#5 5#5 0x7F#7) ∧ (tStep 0x000652FF).agenda = [] ∧ (tStep 0x000652FF).focus = .core 0 ∧ (tStep 0x000652FF).issuing 0 = true ∧
    ((tStep 0x000652FF).core 0).requested = false ∧ ((tStep 0x000652FF).core 0).wait.asleep = false ∧
    (tCome 0x000652FF).unlanded = none ∧ (tCome 0x000652FF).fetchHeld 0 = none ∧
    (Instr.addi 0#3 5#5 5#5 0x7F#7).WellFormed ∧ (Instr.addi 0#3 5#5 5#5 0x7F#7).cls ≤ 6 ∧
    ((tLanded 0x000652FF).core 0).frame = false ∧
    ((tLanded 0x000652FF).core 0).pressed (storeLines (.addi 0#3 5#5 5#5 0x7F#7)) = false ∧
    commits (.addi 0#3 5#5 5#5 0x7F#7) = false :=
  ⟨lone _ _ (by decide +kernel), by decide +kernel⟩
/-- A bundle that commits a peg: the word of PEG. -/
theorem witness_StepRunsDecoded_peg : (tLanded 0x080E0000).atLone .peg ∧ (tStep 0x080E0000).issuing 0 = true ∧ ((tStep 0x080E0000).core 0).requested = false ∧
    (tCome 0x080E0000).unlanded = none ∧ (tCome 0x080E0000).fetchHeld 0 = none ∧ commits .peg = true ∧
    ((tLanded 0x080E0000).core 0).frame = false ∧ ((tLanded 0x080E0000).core 0).pressed (storeLines .peg) = false ∧
    (tLanded 0x080E0000).pegGate 0 = .free :=
  ⟨lone _ _ (by decide +kernel), by decide +kernel⟩

/-- Core 0's matrix sequencer at J.END. -/
def tJig (ws : List W32) (depth : Nat) : State :=
  { tWith (fun c => { c with
      jigs := [(0, { depth := depth, words := ws })],
      mx := { call := some { jig := 0, jp := Vector.replicate 8 0#64, mp := Vector.replicate 8 0#64, snap := [] } } }) with
    focus := .jig 0 }
theorem witness_StepRunsMicroWordOrEvent :
    let s := tJig (encode false .jEnd) 100
    s.agenda = [] ∧ s.focus = .jig 0 ∧ s.clocked 0 = true ∧ (s.core 0).frame = false ∧ (s.core 0).wait ≠ .late ∧
    ((s.core 0).mx.call.any (fun k => k.ending.isNone && k.jig == 0 && k.idx == 0)) = true ∧
    find? (s.core 0).jigs 0 = some { depth := 100, words := encode false .jEnd } ∧ Instr.jEnd.cls = 10 ∧ Instr.jEnd.WellFormed ∧
    encode false .jEnd = [nth (encode false .jEnd) 0 0#32] ∧ Instr.handover.cls = 11 ∧
    ({ tState with agenda := [.event .handover {}] } : State).agenda = [.event .handover {}] ∧
    ({ tState with agenda := [.agent (.core 0)] } : State).agenda = [.agent (.core 0)] ∧
    ({ tState with agenda := [.pass 3] } : State).agenda = [.pass 3] := by decide +kernel
theorem witness_GuardFalseNoEffect : (Instr.add 1#3 1#5 2#5 3#5).cls ≤ 6 ∧ (Instr.add 1#3 1#5 2#5 3#5).guardless = false ∧
    State.reset.pr (guardOf (.add 1#3 1#5 2#5 3#5)) = false := by decide +kernel

/-- Core 0 with one result due for x5 and one for p2, and one that waits. -/
def tPend (arrived : Bool) : State := tWith (fun c => { c with pt := { c.pt with sc := { c.pt.sc with
  pend := [{ dest := .x 5#5 9#64, togo := 0, flags := 1#6, arrived := arrived }, { dest := .p 2#3 true, togo := 0 },
    { dest := .x 6#5 1#64, togo := 3 }] } } })
theorem witness_ResultsLand : (tPend true).dueReady ∧ ¬ (tPend false).dueReady ∧
    (tPend true).focus = .core 0 ∧ ((tPend true).core 0).frame = false ∧ ((tPend true).core 0).fr.pend = [] := by
  refine ⟨?_, ?_, rfl, rfl, rfl⟩
  · unfold State.dueReady; decide
  · unfold State.dueReady; decide
theorem witness_ResultsLand_flags : ∀ p ∈ dueOf (tPend true).scalar.pend, ∀ n v, p.dest ≠ .csr n v := by
  intro p hp n v
  have : p.dest = .x 5#5 9#64 ∨ p.dest = .p 2#3 true := by revert p; decide
  rcases this with h | h <;> rw [h] <;> intro e <;> cases e
/-- A bundle that an asynchronous trap meets. -/
def tMeets : State :=
  { tWith (fun c => { c with async := [⟨.curtail, 0#64, false⟩] }) with bundle := { meets := true } }
/-- Frame mode with a result on its way for the bundle after the next. -/
def tFrameWaits : State := tWith (fun c => { c with frame := true, fr := { c.pt.sc with pend := [{ dest := .x 5#5 1#64, togo := 2 }] } })
theorem witness_TrapEntryAndReturn : tState.focus = .core 0 ∧ (tState.core 0).frame = false ∧ tState.bundle.meets = false ∧
    tMeets.focus = .core 0 ∧ (tMeets.core 0).frame = false ∧ tMeets.bundle.meets = true ∧
    (tMeets.core 0).firstAsync = some ⟨.curtail, 0#64, false⟩ ∧
    tFrameWaits.focus = .core 0 ∧ (tFrameWaits.core 0).frame = true ∧ (tFrameWaits.core 0).async = [] ∧ (tFrameWaits.core 0).rotate = false ∧
    (tFrameWaits.core 0).fr.pend ≠ [] ∧ (∀ p ∈ (tFrameWaits.core 0).fr.pend, 1 < p.togo) ∧ tFrameWaits.bundle.trap = none ∧
    tFrameWaits.bundle.stall = .none ∧ tFrameWaits.bundle.ended = false := by
  decide +kernel
theorem witness_SequencerTrapsAndTrapOrder : tSeq.focus = .seq 0 ∧ tState.bundle.trap = none ∧
    ({ async := [⟨.linkEvent, 0#64, false⟩, ⟨.preempt, 0#64, false⟩, ⟨.curtail, 0#64, false⟩, ⟨.cancel, 0#64, false⟩] } : Core).firstAsync =
      some ⟨.cancel, 0#64, false⟩ ∧
    ({ async := [⟨.linkEvent, 0#64, false⟩, ⟨.preempt, 0#64, false⟩] } : Core).firstAsync = some ⟨.preempt, 0#64, false⟩ := by decide +kernel

/-! ### Hypotheses met: scalar ops -/

theorem witness_IntegerSums : tState.pr 0#3 = true ∧ tState.modSat = 0 ∧ (tMod 1 0 0).pr 0#3 = true ∧ (tMod 1 0 0).modSat = 1 ∧
    (tMod 2 0 0).modSat = 2 := by decide +kernel
theorem witness_ProductsDivisionsLogicShifts : tState.pr 0#3 = true ∧ tState.xr 0#5 = 0#64 ∧ tState.xr 3#5 ≠ 0#64 := by decide +kernel
theorem witness_MovesAndFields : tState.pr 0#3 = true ∧ tState.bundle.imm = none ∧
    (tState.xr 3#5).extractLsb' 8 6 = 0#6 ∧ (tOn 0x100#64 0 0#7).pr 0#3 = true ∧
    ((tOn 0x100#64 0 0#7).xr 3#5).extractLsb' 8 6 ≠ 0#6 := by decide +kernel
theorem witness_ComparesAndPredicates : tState.pr 0#3 = true ∧ tState.xr 3#5 ≠ tState.xr 4#5 ∧ tState.xr 0#5 = 0#64 := by decide +kernel
/-- 1.0 and 2.0 in fp32: a sum and a difference that are not 0. -/
theorem witness_FloatArithmetic : tState.pr 0#3 = true ∧ tState.fpFmt = 6 ∧ floatFmt 6 = some ⟨32, 8, 23, 127⟩ ∧
    readElem 6 0x3F800000 = .fin false 0x800000 (-23) ∧ readElem 6 0x40000000 = .fin false 0x800000 (-22) ∧
    ((1 : Int) * 0x800000 * 2 ^ ((-23 : Int) - min (-23) (-22)).toNat + 1 * 0x800000 * 2 ^ ((-22 : Int) - min (-23) (-22)).toNat ≠ 0) ∧
    ((1 : Int) * 0x800000 * 2 ^ ((-23 : Int) - min (-23) (-22)).toNat - 1 * 0x800000 * 2 ^ ((-22 : Int) - min (-23) (-22)).toNat ≠ 0) ∧
    (tMod 5 5 8).pr 0#3 = true ∧ (tMod 1 5 8).modRnd = 5 := by decide +kernel
theorem witness_ResultsOnly : (5#5 : BitVec 5) ≠ 0#5 ∧ (1#2 : BitVec 2) ≠ 0#2 ∧ ∀ n, tState.focus ≠ .jig n := ⟨by decide +kernel, by decide +kernel, noJig⟩
theorem witness_FloatNaNAndRounding : 6 ∈ fmtF ∧ (readElem 6 0x7FC00000).isNaN = true ∧ (readElem 6 0x7F800001).isSNaN = true ∧
    floatFmt 6 = some ⟨32, 8, 23, 127⟩ ∧ readFloat ⟨32, 8, 23, 127⟩ 0x3F800000 = .fin false 0x800000 (-23) ∧
    readFloat ⟨32, 8, 23, 127⟩ 1 = .fin false 1 (-149) := by decide +kernel
theorem witness_FloatNaNAndRounding_order : fmtWidth 6 = 32 ∧ isFloat 6 = true ∧ isFloat 0 = false ∧ (readElem 6 0x3F800000).isNaN = false ∧
    readElem 6 0x80000000 = .fin true 0 (-149) ∧ readElem 6 0 = .fin false 0 (-149) ∧ readElem 6 0x7F800000 = .inf false ∧
    readElem 6 0xFF800000 = .inf true ∧ readElem 6 0x7F800001 = .nan true ∧ readElem 6 0x4B800000 = .fin false 0x800000 1 ∧
    readElem 0 0x85 = .fin true 0x7B 0 := by decide +kernel
theorem witness_FclassSetsOneBit : tState.pr 0#3 = true ∧ tState.fpFmt ∈ fmtF ∧ (tMod 0 0 8).fpFmt ∈ fmtF ∧
    floatFmt (tMod 0 0 8).fpFmt = some ⟨16, 5, 10, 15⟩ := by decide +kernel
theorem witness_LoadResults : tState.pr 0#3 = true ∧ (∀ n, tState.focus ≠ .jig n) ∧
    (∀ n ∈ [1, 2, 4, 8], tState.Reaches .load (tState.xr 1#5 + tState.imm7 0#7 * BitVec.ofNat 64 n).toNat n (vaultCell 0 0) none ∧
      tState.Good (vaultCell 0 0) n none) ∧ (∀ l, ∀ q ∈ (tState.line l).queue, q.kind ≠ .nr) ∧
    ({ tState with bundle := { hint := some 3 } } : State).hint = 3 ∧ ({ tState with bundle := { hint := some 3 } } : State).pr 0#3 = true := by
  refine ⟨by decide +kernel, noJig, ?_, fun l q hq => (by cases hq), by decide +kernel, by decide +kernel⟩
  intro n hn
  have h : n = 1 ∨ n = 2 ∨ n = 4 ∨ n = 8 := by simpa using hn
  rcases h with rfl | rfl | rfl | rfl <;>
    exact ⟨vault_reaches .load (by decide) _ (by decide) (by decide), vault_good _ (by decide)⟩
theorem witness_LoadResults_declared : tState.pr 0#3 = true ∧ tState.bundle.imm = none ∧ (∀ n, tState.focus ≠ .jig n) ∧
    tState.Reaches .load (tState.xr 1#5 + (0#16).signExtend 64).toNat 4 (vaultCell 0 0) none ∧ tState.Good (vaultCell 0 0) 4 none ∧
    tState.Reaches .load (tState.xr 1#5 + (0#16).signExtend 64).toNat 8 (vaultCell 0 0) none ∧ tState.Good (vaultCell 0 0) 8 none :=
  ⟨by decide +kernel, rfl, noJig, vault_reaches .load (by decide) 4 (by decide) (by decide), vault_good 4 (by decide),
    vault_reaches .load (by decide) 8 (by decide) (by decide), vault_good 8 (by decide)⟩
/-- Frame mode with no page mapped. -/
def tBare : State := { tFrame with ctxs := [] }
theorem bare_good : tBare.Good (vaultCell 0 0) 8 none where
  data := by decide +kernel
  merge := by decide +kernel
  stores := by intro _ w hw; cases hw
theorem bare_reaches : tBare.Reaches .store 0xE000000000000 8 (vaultCell 0 0) none where
  space := by decide
  window := by decide
  size := by decide
  line := by decide
  same := by decide
  cell := eq_of_okIs (by decide +kernel)
  serves := ⟨rfl, .inr ⟨rfl, .inl (by decide +kernel)⟩, by intro _ k hk; cases hk⟩
  walked := .inr (.inl (by decide +kernel))
theorem witness_StoreResults : tState.pr 0#3 = true ∧ (∀ n, tState.focus ≠ .jig n) ∧
    (∀ n ∈ [1, 2, 4, 8], tState.Reaches .store (tState.xr 1#5 + tState.imm7 0#7 * BitVec.ofNat 64 n).toNat n (vaultCell 0 0) none ∧
      tState.Good (vaultCell 0 0) n none) ∧ tState.mode = .point ∧ tBare.mode ≠ .point ∧ Memory.wf tBare.mem = true ∧
    tBare.Reaches .store 0xE000000000000 8 (vaultCell 0 0) none ∧ tBare.Good (vaultCell 0 0) 8 none := by
  refine ⟨by decide +kernel, noJig, ?_, by decide +kernel, by decide +kernel, by decide +kernel, bare_reaches, bare_good⟩
  intro n hn
  have h : n = 1 ∨ n = 2 ∨ n = 4 ∨ n = 8 := by simpa using hn
  rcases h with rfl | rfl | rfl | rfl <;>
    exact ⟨vault_reaches .store (by decide) _ (by decide) (by decide), vault_good _ (by decide)⟩
theorem t_addr : (tState.xr 1#5).toNat = 0xE000000000000 := by decide +kernel
theorem witness_AtomicResults : (∀ k, tState.focus ≠ .jig k) ∧
    tState.Reaches .store (tState.xr 1#5).toNat 8 (vaultCell 0 0) none ∧ tState.Good (vaultCell 0 0) 8 none ∧
    tState.Reaches .store (tState.xr 1#5).toNat 4 (vaultCell 0 0) none ∧ tState.Good (vaultCell 0 0) 4 none ∧
    tState.resolve tState.view .load (tState.xr 1#5).toNat = .ok (.cell (vaultCell 0 0) none) ∧
    (∀ x, (none : Option Nat) = some x → x + 6 < vaultCell 0 0 ∨ vaultCell 0 0 + 8 ≤ x + 6) ∧
    tState.pr 0#3 = true ∧ (tState.xr 1#5).toNat % 8 = 0 ∧ tState.my.withheld = [] ∧ Memory.wf tState.mem = true ∧
    (BitVec.ofNat (8 * 8) (Memory.read tState.mem (vaultCell 0 0) 8) ≠ (tState.xr 3#5).setWidth (8 * 8)) :=
  ⟨noJig, by rw [t_addr]; exact vault_reaches .store (by decide) 8 (by decide) (by decide), vault_good 8 (by decide),
    by rw [t_addr]; exact vault_reaches .store (by decide) 4 (by decide) (by decide), vault_good 4 (by decide),
    eq_of_okIs (by decide +kernel), fun x h => (by cases h), by decide +kernel⟩
/-- A no-return atomic of frame mode. -/
theorem witness_AtomicResults_frame : (∀ k, tBare.focus ≠ .jig k) ∧ tBare.Reaches .store (tBare.xr 1#5).toNat 8 (vaultCell 0 0) none ∧
    tBare.Good (vaultCell 0 0) 8 none ∧ tBare.resolve tBare.view .load (tBare.xr 1#5).toNat = .ok (.cell (vaultCell 0 0) none) ∧
    (∀ x, (none : Option Nat) = some x → x + 6 < vaultCell 0 0 ∨ vaultCell 0 0 + 8 ≤ x + 6) ∧
    tBare.pr 0#3 = true ∧ tBare.mode ≠ .point ∧ Memory.wf tBare.mem = true ∧ (tBare.xr 1#5).toNat % 8 = 0 ∧ tBare.my.withheld = [] :=
  ⟨noJigF, by rw [show (tBare.xr 1#5).toNat = 0xE000000000000 from by decide +kernel]; exact bare_reaches, bare_good,
    eq_of_okIs (by decide +kernel), fun x h => (by cases h), by decide +kernel⟩
theorem witness_AtomicResults_queued : tState.pr 0#3 = true ∧ tState.focus = .core 0 ∧ tState.mode = .point ∧ (tState.xr 2#5).toNat < 2 ^ 52 ∧
    (tState.xr 2#5).toNat % 8 = 0 ∧
    tState.resolve tState.view .load (tState.xr 2#5).toNat = .ok (.cell 0x100000 (some 0x4000)) ∧
    tState.resolve tState.view .store (tState.xr 2#5).toNat = .ok (.cell 0x100000 (some 0x4000)) ∧ isTier 0x100000 = true :=
  ⟨by decide +kernel, rfl, by decide +kernel, by decide +kernel, by decide +kernel, rfl, rfl, by decide +kernel⟩
theorem witness_GaugesTicketsFence : tState.WordReady (tState.xr 1#5) 32 (vaultCell 0 0) ∧
    tState.WordReady (tState.xr 1#5) 16 (vaultCell 0 0) ∧ Memory.wf tState.mem = true ∧ tState.queueCopies = false ∧
    tState.bundle.stall = .none ∧ tState.my.woken = false ∧ tState.my.owed = false ∧ tState.eng.copies = [] ∧ tState.my.nr = [] :=
  ⟨vault_word 32 (.inr rfl), vault_word 16 (.inl rfl), by decide +kernel⟩
/-- GWAIT that sees another GEN, and one that sees the same; TKWAIT of a ticket served, and of one not served. -/
theorem witness_GaugesTicketsFence_values : Memory.read tState.mem (vaultCell 0 0 + 14) 2 ≠ (tState.xr 3#5).toNat % 2 ^ 16 ∧
    Memory.read tState.mem (vaultCell 0 0 + 14) 2 = (tState.xr 0#5).toNat % 2 ^ 16 ∧
    (BitVec.ofNat 32 0 - (tState.xr 0#5).setWidth 32).toNat < 2 ^ 31 ∧
    ¬ (BitVec.ofNat 32 0 - (tState.xr 3#5).setWidth 32).toNat < 2 ^ 31 ∧
    (∀ k ∈ tState.eng.copies, ¬ (k.started = true ∧ tState.targets 3 k = true)) ∧ (∀ x ∈ tState.my.nr, scopeCovers 3 tState.me x.pa = false) ∧
    (let s := tWith (fun c => { c with nr := [⟨.add, 0x100000, 4, 1, none, 0⟩] })
     s.pr 0#3 = true ∧ s.mode ≠ .seq ∧ s.bundle.stall = .none ∧ ∃ x ∈ s.my.nr, scopeCovers 3 s.me x.pa = true) := by decide +kernel

/-- Queue handle q1 with two slots, one filled. -/
def tQueue : State := tWith (fun c => { c with pt := { c.pt with
  q := c.pt.q.set 1 ⟨0, 2, 0, 1, false, false, false⟩, sc := { c.pt.sc with x := c.pt.sc.x.set 5 1#64 } } })
theorem witness_QueueOps : tQueue.pr 0#3 = true ∧ tQueue.mode ≠ .seq ∧ tQueue.bundle.trap = none ∧ tQueue.bundle.stall = .none ∧
    (tQueue.qr 1#4).size ≠ 0 ∧ (tQueue.qr 1#4).consEngine = false ∧ (tQueue.qr 1#4).prodEngine = false ∧ (tQueue.qr 1#4).fresh = false ∧
    0 < (tQueue.xr 5#5).toNat ∧ (tQueue.xr 5#5).toNat ≤ ((tQueue.qr 1#4).tail + 2 * (tQueue.qr 1#4).size - (tQueue.qr 1#4).head) % (2 * (tQueue.qr 1#4).size) ∧
    (tQueue.xr 5#5).toNat ≤ (tQueue.qr 1#4).size - 1 ∧ (tQueue.qr 1#4).size ≤ 1024 ∧ (tQueue.qr 2#4).size = 0 ∧ (tQueue.xr 0#5).toNat % 256 = 0 ∧
    (tQueue.xr 3#5).toNat % 256 ≠ 0 ∧ tQueue.copyNames 2#4 = false ∧ (tQueue.xr 5#5).toNat = 1 ∧
    (tQueue.xr 0#5).toNat + 256 * 1 ≤ 2 ^ 18 ∧ (tQueue.xr 5#5).toNat = 1 + (if false then 2 ^ 16 else 0) + (if false then 2 ^ 17 else 0) := by
  decide +kernel

/-- Target tb0 prepared. -/
def tTarget : State := tWith (fun c => { c with pt := { c.pt with sc := { c.pt.sc with tb := c.pt.sc.tb.set 0 ⟨0x100#52, true, 0⟩ } } })
theorem witness_TransferOps : tTarget.pr 0#3 = true ∧ tTarget.bundle.imm = none ∧ tTarget.bundle.trap = none ∧
    (tTarget.tbr 0#2).prepared = true ∧ (tTarget.tbr 1#2).prepared = false := by decide +kernel
theorem witness_ControlRegisters : tState.pr 0#3 = true ∧ tState.bundle.trap = none ∧ tState.mode ≠ .seq ∧ (0x021 : Nat) < 0x100 ∧
    csrReserved 0x021 (tState.xr 3#5).toNat = false ∧ csrReserved 0x022 (tState.xr 4#5).toNat = true ∧ tFrame.mode = .frame ∧
    tState.mode = .point ∧ csrReserved 0x021 (BitVec.ofNat 64 (tState.csr 0x021) ||| tState.xr 3#5).toNat = false ∧
    csrReserved 0x021 (BitVec.ofNat 64 (tState.csr 0x021) &&& ~~~tState.xr 3#5).toNat = false := by decide +kernel
/-- A stream whose ingress buffer holds a write. -/
def tIngress : State := tState.setStrm 0 { ingress := [⟨0, 0x100000, [1#8]⟩] }
def tCut (applied : Bool) : State :=
  { tWith (fun c => { c with wait := .hwin }) with
    host := { cuts := [{ who := .core 0, stream := 0, seq := 0, tlps := [⟨0, 0x100000, [1#8]⟩], applied := applied }] } }
theorem witness_PegEndTrapHwin : tState.pr 0#3 = true ∧ tState.bundle.trap = none ∧ tState.bundle.stall = .none ∧ tState.bundle.imm = none ∧
    tState.mode = .point ∧ tFrame.mode ≠ .point ∧ tState.cutOf = none ∧ (tState.strm tState.stream).ingress = [] ∧
    tIngress.cutOf = none ∧ (tIngress.strm tIngress.stream).ingress ≠ [] ∧
    (tCut true).cutOf.map (·.applied) = some true ∧ (tCut false).cutOf.map (·.applied) = some false ∧ (tCut true).mode ≠ .seq := by
  decide +kernel

/-! ### Hypotheses met: system ops and command programs -/

/-- An access answers with a value. -/
def gotOk {α : Type} (g : Got (α × Option (Nat × Nat))) : Bool :=
  match g with
  | .ok _ (_, none) => true
  | _ => false
theorem ex_of_gotOk {α : Type} {g : Got (α × Option (Nat × Nat))} (h : gotOk g = true) : ∃ s a, g = .ok s (a, none) := by
  cases g with
  | ok s p => obtain ⟨a, _ | b⟩ := p
              · exact ⟨s, a, rfl⟩
              · cases h
  | trap _ _ => cases h
  | wait _ => cases h

/-- A sealed page of the LPDDR-6 tier, with the address of a block on it, 0x100, in x2. -/
def tBlock : State :=
  { tWith (fun c => { c with pt := { c.pt with sc := { c.pt.sc with x := c.pt.sc.x.set 2 0x100#64 } } }) with
    mem := [(0, 1#8), (1, 0x40#8), (0x4000, 1#8), (0x4001, 0x80#8), (0x8000, 1#8), (0x8001, 0xC0#8),
      (0xC000, 0x1F#8), (0xC004, 4#8), (0xC006, 0x20#8), (0xC007, 4#8)],
    sealSet := [2 ^ 25 + 2 ^ 15] }
/-- A record of 8 points on one line, one slab, one logical bay, entry 0x100, one operating point at 0x200. -/
def tRcd : BitVec 2048 := BitVec.ofNat 2048
  (2 ^ 29 + 2 ^ 38 + 7 * 2 ^ 64 + 0x200 * 2 ^ (8 * 0x28) + 0x100 * 2 ^ (8 * 0x30) + 8 * 2 ^ (8 * 0x8C) + 2 ^ (8 * 0x8E))
def tTask : Task := { id := 1, stream := 0, job := 0, rcd := tRcd, opts := [1 + 2 ^ 16 + 2 ^ 32], order := [0] }
/-- tState with task 1 and job 0 of stream 0 in the table. -/
def tTab (t : Task) : State :=
  { (tState.setStrm 0 { jobs := [(0, {})] }) with tab := { tasks := [t] } }
theorem witness_SpawnCancelPhaseOpreq_spawn : (∃ s bs, tBlock.load tBlock.view (tBlock.xr 2#5).toNat 256 = .ok s (bs, none)) ∧
    tBlock.pr 0#3 = true ∧ tBlock.mode ≠ .seq ∧ (tBlock.xr 2#5).toNat % 256 = 0 ∧ (tBlock.xr 2#5).toNat < 2 ^ 52 :=
  ⟨ex_of_gotOk (by decide +kernel), by decide +kernel⟩
theorem witness_SpawnCancelPhaseOpreq_cancel : ((tTab tTask).job (tTab tTask).stream 0).isSome = true ∧
    ((tTab tTask).xr 0#5).extractLsb' 0 13 = 0#13 ∧ (tState.job tState.stream 0).isSome = false := by decide +kernel
def tPhase (busy : Bool) (pin : List (Nat × Nat)) : State :=
  { tWith (fun c => { c with pt := { c.pt with dslices := 2, phaseBusy := busy } }) with ctxs := [(0, { root := 1#64, pins := pin })] }
theorem witness_SpawnCancelPhaseOpreq_phase :
    ((tPhase true []).my.pt.phaseBusy = true) ∧ ((tPhase false [(0, 5)]).my.pt.phaseBusy = false) ∧
    ((List.range 8).any (fun i => decide ((tPhase false [(0, 5)]).my.pt.dslices ≤ i) && decide (i < 8) &&
      (tPhase false [(0, 5)]).slicePinned (tPhase false [(0, 5)]).me i)) = true ∧
    ((List.range 8).any (fun i => decide ((tPhase false []).my.pt.dslices ≤ i) && decide (i < 8) &&
      (tPhase false []).slicePinned (tPhase false []).me i)) = false ∧
    (tTab tTask).my.point = some (1, [0, 0, 0, 0]) ∧ (tTab tTask).task 1 = some tTask := by decide +kernel

def tPin : State := { tFrame with ctxs := [(0, { root := 1#64, pinLim := 100#32 })] }
theorem witness_PinningAndTlbInvalidate_pin : tPin.pr 0#3 = true ∧ tPin.mode = .frame ∧ (tPin.xr 3#5).toNat % 128 ≠ 0 ∧
    (tPin.xr 2#5).toNat % 128 = 0 ∧ (tPin.xr (2#5 + 1#5)).toNat = 5 ∧
    (∀ i, i < 5 → 0x100000 + 128 * i < 13 * 2 ^ 48 ∧ tPin.walk tPin.stream (0x100000 + 128 * i) = some ⟨0x4000, 0x1F, 31⟩ ∧
      fieldN 0x1F 58 2 = 0 ∧ fieldN 0x1F 54 4 = 0) ∧
    (tPin.ctx tPin.stream).pinUse.toNat + 5 ≤ (tPin.ctx tPin.stream).pinLim.toNat ∧
    5 ≤ ((tPin.cacheSlices 0 (tPin.xr 4#5).toNat).map (fun k => 3584 - tPin.pinnedIn k)).sum ∧
    ((tPin.cacheSlices 0 (tPin.xr 0#5).toNat).map (fun k => 3584 - tPin.pinnedIn k)).sum < 5 ∧
    (({ tPin with ctxs := [(0, { root := 1#64, pinLim := 4#32 })] } : State).ctx 0).pinLim.toNat < 0 + 5 ∧
    tBare.walk tBare.stream 0x100000 = none := by
  decide +kernel
/-- Two lines on pages of two stacks. -/
def tStacks : State :=
  { tPin with mem := [(0, 1#8), (1, 0x40#8), (0x4000, 0x1F#8), (0x4008, 0x1F#8), (0x400E, 0x40#8)] }
theorem witness_PinningAndTlbInvalidate_stacks : tStacks.walk 0 (2 ^ 31 - 128) = some ⟨0x4000, 0x1F, 31⟩ ∧
    tStacks.walk 0 (2 ^ 31 - 128 + 128 * 1) = some ⟨0x4008, 0x1F + 2 ^ 54, 31⟩ ∧ fieldN (0x1F + 2 ^ 54) 58 2 = 0 ∧
    fieldN 0x1F 54 4 ≠ fieldN (0x1F + 2 ^ 54) 54 4 := by decide +kernel
theorem witness_PinningAndTlbInvalidate_tlb : tFrame.pr 0#3 = true ∧ tFrame.mode = .frame ∧ rootOk (tFrame.xr 2#5).toNat = false ∧
    rootOk (BitVec.ofNat 64 1).toNat = true ∧ (tFrame.xr 2#5).toNat < 13 * 2 ^ 48 ∧
    (tFrame.walk tFrame.stream (tFrame.xr 2#5).toNat).isSome = true ∧ Memory.wf tFrame.mem = true := by decide +kernel

theorem witness_DirtyHarvestAndLinks : (∀ k, k < 5 → tBare.walk tBare.stream (0 + k * 2 ^ 19) = none) ∧
    tBare.Reaches .store 0xE000000000000 8 (vaultCell 0 0) none ∧ tBare.Good (vaultCell 0 0) 8 none ∧ (∀ m, tBare.focus ≠ .jig m) ∧
    tBare.pr 0#3 = true ∧ Memory.wf tBare.mem = true ∧ tBare.mode ≠ .point ∧ tBare.bundle.trap = none ∧ (tBare.xr 0#5).toNat % 2 ^ 19 = 0 ∧
    (tBare.xr (0#5 + 1#5)).toNat % 8 = 0 ∧ (tBare.xr 3#5).toNat = 5 ∧ (tBare.xr 3#5).toNat % 2 ^ 19 ≠ 0 ∧
    (tBare.xr 2#5).toNat % 2 ^ 19 = 0 ∧ (tBare.xr (2#5 + 1#5)).toNat % 8 ≠ 0 ∧
    65536 < (tBare.xr 2#5).toNat ∧ (tBare.xr 0#5).toNat = 0 :=
  ⟨fun k _ => rfl, bare_reaches, bare_good, fun m h => (by cases h), by decide +kernel⟩
/-- Frame mode with a page of 2 GiB mapped, DIRTY or not. -/
def tHarvest (dirty : Bool) : State :=
  { tFrame with mem := if dirty then [(0, 1#8), (1, 0x40#8), (0x4000, 0x1F#8), (0x4006, 0x10#8)] else tFrame.mem }
theorem harvest_reaches (b : Bool) : (tHarvest b).Reaches .store 0xE000000000000 8 (vaultCell 0 0) none where
  space := by decide
  window := by decide
  size := by decide
  line := by decide
  same := by decide
  cell := by cases b <;> exact eq_of_okIs (by decide +kernel)
  serves := ⟨by cases b <;> rfl, .inr ⟨by cases b <;> rfl, .inl (by decide +kernel)⟩, by cases b <;> (intro _ k hk; cases hk)⟩
  walked := .inr (.inl (by decide +kernel))
theorem harvest_good (b : Bool) : (tHarvest b).Good (vaultCell 0 0) 8 none where
  data := by cases b <;> decide +kernel
  merge := by cases b <;> decide +kernel
  stores := by cases b <;> (intro _ w hw; cases hw)
theorem witness_DirtyHarvestAndLinks_mapped (b : Bool) : (tHarvest b).Reaches .store 0xE000000000000 8 (vaultCell 0 0) none ∧
    (tHarvest b).Good (vaultCell 0 0) 8 none ∧ (∀ m, (tHarvest b).focus ≠ .jig m) ∧ (tHarvest b).mode = .frame ∧
    Memory.wf (tHarvest b).mem = true ∧
    (∀ k, k < 5 → 0 + k * 2 ^ 19 < 13 * 2 ^ 48 ∧
      (tHarvest b).walk (tHarvest b).stream (0 + k * 2 ^ 19) = some ⟨0x4000, if b then 0x1F + 2 ^ 52 else 0x1F, 31⟩) ∧
    14 * 2 ^ 48 ≤ 0xE000000000000 ∧ 0x4000 + 6 < vaultCell 0 0 :=
  ⟨harvest_reaches b, harvest_good b, by cases b <;> (intro m h; cases h), by cases b <;> decide +kernel⟩
/-- Frame mode with a request for link 3 in x3: a step and GO. -/
def tLinkReq (l : Link) (step go : Nat) : State :=
  { tWith (fun c => { c with frame := true, fr := { c.pt.sc with x := c.pt.sc.x.set 3 (BitVec.ofNat 64 (3 + step * 256 + go * 2 ^ 20)) } }) with
    fab := { tState.fab with links := [(3, l)] } }
theorem witness_DirtyHarvestAndLinks_link : (tLinkReq {} 1 1).mode = .frame ∧ (tLinkReq {} 1 1).pr 0#3 = true ∧
    (((tLinkReq {} 1 1).xr 3#5).extractLsb' 0 5).toNat = 3 ∧ (((tLinkReq {} 1 1).xr 3#5).extractLsb' 8 3).toNat = 1 ∧
    ((tLinkReq {} 1 1).xr 3#5).getLsbD 20 = true ∧ ((tLinkReq {} 1 0).xr 3#5).getLsbD 20 = false ∧
    5 ≤ (((tLinkReq {} 5 1).xr 3#5).extractLsb' 8 3).toNat ∧
    ((tLinkReq { maxStep := 2 } 3 1).link 3).maxStep < (((tLinkReq { maxStep := 2 } 3 1).xr 3#5).extractLsb' 8 3).toNat ∧
    ((tLinkReq {} 1 1).link 3).st = .up ∧ 1 ≠ ((tLinkReq {} 1 1).link 3).rate ∧ 2 = ((tLinkReq {} 2 1).link 3).rate ∧
    ((tLinkReq { st := .retrain } 1 1).link 3).st = .retrain ∧ ((tLinkReq { st := .down } 1 1).link 3).st = .down ∧
    ((tLinkReq { st := .gated } 1 1).link 3).st = .gated ∧ 24 ≤ ((24#64 : W64).extractLsb' 0 5).toNat := by decide +kernel

/-- The command sequencer of stream 0, its image sealed, with registers for the record at 0x300, job 0. -/
def tProg : State :=
  let s := State.reset.withFetchWord 32 0x00420000
  let s := { s with mem := Memory.setAll s.mem 0x80200 (leBytes 16 (1 + 2 ^ 16 + 2 ^ 32)) }
  let s := s.setSeq 0 { s.seq 0 with staging := tRcd, sc := { (s.seq 0).sc with x := (s.seq 0).sc.x.set 2 0x300#64 } }
  { s.modStrm 0 (fun x => { x with jobs := [(0, {})] }) with focus := .seq 0 }
def tFull : State := { tProg with tab := { tasks := List.replicate 2304 { tTask with st := .held } } }
/-- A submission that enters the table, one that is refused, and one that finds no free entry. -/
theorem witness_SpawnCancelPhaseOpreq_submit :
    (({ tProg with focus := .core 0 } : State).submit 0 0 tRcd true).map (fun r => r.2.1) = some 0 ∧
    (({ tProg with focus := .core 0 } : State).submit 0 0 0#2048 true).any (fun r => r.2.1 != 0) = true ∧
    (({ tFull with focus := .core 0 } : State).submit 0 0 tRcd true).isNone = true := by decide +kernel
/-- The command sequencer of stream 0 with a record on the page of `tBlock`. -/
def tSeqBlock : State :=
  let q := tBlock.seq 0
  { tBlock.setSeq 0 { q with sc := { q.sc with x := q.sc.x.set 2 0x100#64 } } with focus := .seq 0 }
theorem witness_JobsAndStaging_load : (∃ s bs, tSeqBlock.load tSeqBlock.view (tSeqBlock.xr 2#5).toNat 256 = .ok s (bs, none)) ∧
    tSeqBlock.focus = .seq 0 ∧ (tSeqBlock.xr 2#5).toNat % 256 = 0 ∧ (2#5 : BitVec 5) ≠ 0#5 :=
  ⟨ex_of_gotOk (by decide +kernel), by decide +kernel⟩
theorem witness_JobsAndStaging : (∃ t ∈ tFull.tab.tasks, t.stream = 0 ∧ t.job = 0) ∧ tProg.focus = .seq 0 ∧ (tProg.strm 0).jobs.length < 256 ∧
    256 ≤ ((tProg.setStrm 0 { jobs := (List.range 256).map (fun i => (i, {})) }).strm 0).jobs.length ∧
    (tProg.submit 0 0 (tProg.seq 0).staging false).map (fun r => r.2) = some (0, 0) ∧
    (tFull.submit 0 0 (tFull.seq 0).staging false).isNone = true ∧ tProg.job 0 1 = none ∧ tProg.job 0 0 = some {} ∧
    tFull.job 0 0 = some {} ∧ (tFull.strm 0).backlog.length < 256 ∧ tProg.bundle.stall = .none :=
  ⟨⟨{ tTask with st := .held }, by decide +kernel, by decide⟩, by decide +kernel⟩
theorem witness_JobsAndStaging_full : 256 ≤ ((tProg.setStrm 0 { backlog := List.replicate 256 ⟨0, 0, 0, 0, 0⟩ }).strm 0).backlog.length := by
  decide +kernel
def tCaskTab (st : TaskSt) : State := { tProg with tab := { tasks := [{ tTask with id := 0, st := st }] } }
/-- The command sequencer of stream 0 with an open job. -/
def tCaskBytes : State := tSeqBlock.modStrm 0 (fun x => { x with jobs := [(0, {})] })
/-- The clause of a cask accepted needs the bytes of a whole cask, 75 KiB at least: no state shows one here. -/
theorem witness_CaskOutIn : tProg.focus = .seq 0 ∧ (tProg.xr 2#5).toNat % 128 = 0 ∧ tProg.task 0 = none ∧
    (tCaskTab .placed).task ((tCaskTab .placed).xr 0#5).toNat = some { tTask with id := 0, st := .placed } ∧
    ({ tTask with id := 0, st := .placed } : Task).finished = false ∧
    (tCaskTab .ready).task 0 = some { tTask with id := 0, st := .ready } ∧
    (tCaskTab .parked).task 0 = some { tTask with id := 0, st := .parked } ∧
    okIs (tProg.readCask 0x100 (min 0 128)) [] = true ∧ tProg.caskinStatus 0 0 0 [] ≠ 0 := by decide +kernel
/-- 128 bytes of a page that hold no cask are refused. -/
theorem witness_CaskOutIn_refused : (match tCaskBytes.readCask 0x1000 (min 128 128) with
    | .ok head => decide (tCaskBytes.caskinStatus 0 0 128 head = 0)
    | .error _ => false) = true ∧
    (match (tCaskBytes.touchRead tCaskBytes.view 0x1000 128).readCask 0x1000 128 with
    | .ok bs => !((tCaskBytes.touchRead tCaskBytes.view 0x1000 128).checkCask 0 0 bs false).toOption.isSome
    | .error _ => false) = true := by decide +kernel

/-! ### Hypotheses met: copies -/

def tCopy : Copy :=
  { slot := 0, handle := 0, head := 0#32, tail := 0#32, ra := 0x100000#64, rb := 0x100100#64, rl := 200#64, rg := 0#64,
    started := true, sincePeg := false, stream := 0, nlbay := 1, task := some 1 }
def tEng : State := tWith (fun c => { c with eng := { copies := [tCopy], seqNo := 1 } })
theorem witness_CopiesIssueAndControl : tState.pr 0#3 = true ∧ (∀ n, tState.focus ≠ .jig n) ∧ tState.eng.copies.length < 32 ∧
    tState.copyAllowed (.cpy 0#3 5#5 2#5 2#5 0#2 3#5 0#5 0#2) 2#5 2#5 0#5 ∧
    tState.copyAllowed (.cpym 0#3 5#5 2#5 1#5 0#2 3#5 1#5 1#8) 2#5 1#5 1#5 := by
  refine ⟨by decide +kernel, noJig, by decide +kernel, ?_, ?_⟩
  · unfold State.copyAllowed
    exact ⟨fun h => absurd h (by decide +kernel), fun _ => ⟨fun h => h.elim, fun h => absurd rfl h⟩⟩
  · unfold State.copyAllowed
    exact ⟨fun h => absurd h (by decide +kernel),
      fun _ => ⟨fun _ => by decide +kernel, fun _ => ⟨vaultCell 0 0, eq_of_okIs (by decide +kernel)⟩⟩⟩
/-- A CPH to a partner in frame mode, and a CPUB and a CPF without a gauge. -/
theorem witness_CopiesIssueAndControl_more : tFrame.pr 0#3 = true ∧ (∀ n, tFrame.focus ≠ .jig n) ∧ tFrame.eng.copies.length < 32 ∧
    tFrame.copyAllowed (.cph 0#3 5#5 2#5 2#5 0#2 3#5 0#5 0#1 1#1 0#3 0#3) 2#5 2#5 0#5 ∧ tFrame.mode ≠ .point ∧
    tState.copyAllowed (.cpub 0#3 5#5 2#5 0#2 0#5) 2#5 0#5 0#5 ∧ tState.copyAllowed (.cpf 0#3 5#5 2#5 0#2 3#5 0#5 0#2) 2#5 0#5 0#5 := by
  refine ⟨by decide +kernel, noJigF, by decide +kernel, ?_, by decide +kernel, ?_, ?_⟩ <;>
  · unfold State.copyAllowed
    exact ⟨fun h => absurd h (by decide +kernel), fun _ => ⟨fun h => h.elim, fun h => absurd rfl h⟩⟩
theorem witness_CopiesIssueAndControl_control : tState.eng.copies.find? (fun k => k.handle == 0) = none ∧
    tEng.eng.copies.find? (fun k => k.handle == 0) = some tCopy ∧ tState.eng.copies = [] ∧ find? tState.eng.last 0 = none ∧
    (tState.ctx tState.stream).bufs = [] ∧ (0x1000 : Nat) < 13 * 2 ^ 48 ∧
    (let s : State := { tState with ctxs := [(0, { bufs := [{ a := 0x1000, b := 0x2000, units := 2 }] })] }
     (s.ctx s.stream).bufs.find? (fun x => x.a == 0x1000) = some { a := 0x1000, b := 0x2000, units := 2 } ∧
     s.heldHalf s.stream 0x1000 false = false ∧ s.heldHalf s.stream 0x1000 true = false) := by decide +kernel

/-! ### Hypotheses met: vectors and the matrix unit -/

theorem witness_VectorArithmetic : tState.pr 0#3 = true ∧ tState.mode = .point ∧ tState.vecFmt ≤ 8 ∧ 8 < (tMod 0 0 9).vecFmt ∧
    (tMod 0 0 4).vecFmt ≤ 5 ∧ 6 ≤ tState.vecFmt := by decide +kernel
theorem witness_VectorBitsAndFunctions : tState.pr 0#3 = true ∧ tState.mode = .point ∧ (tMod 0 0 4).pr 0#3 = true ∧ (tMod 0 0 4).mode = .point ∧
    (tMod 0 0 4).vecFmt ≤ 5 ∧ 6 ≤ tState.vecFmt ∧ tState.vecFmt ≤ 8 := by decide +kernel
theorem witness_VectorComparesAndReductions : (tMod 0 0 1).vecFmt ≤ 1 ∧ (tMod 0 0 9).vecFmt = 9 ∧ tState.modRnd ≠ 5 ∧
    tState.pr 0#3 = true ∧ tState.mode = .point ∧ tState.vecFmt = 6 ∧ (tMod 0 0 1).pr 0#3 = true ∧ (tMod 0 0 1).mode = .point ∧
    lanesUp (tState.active 0#2) = [0] := by decide +kernel
theorem witness_VectorConversions : Instr.WellFormed (.vcvt 0#3 1#5 2#5 0#2 6#4 7#4 0#3 0#2 1#2) ∧
    Instr.WellFormed (.vcvt 0#3 1#5 2#5 0#2 7#4 6#4 0#3 0#2 1#2) ∧ Instr.WellFormed (.vcvt 0#3 1#5 2#5 0#2 6#4 6#4 0#3 0#2 0#2) ∧
    tState.pr 0#3 = true ∧ tState.mode = .point ∧ 6 ≤ tState.vecFmt ∧ tState.vecFmt ≤ 8 ∧ (6#4 : BitVec 4).toNat = 6 := by decide +kernel
theorem witness_VectorMemory : tState.pr 0#3 = true ∧ tState.mode = .point ∧ tState.allLanes = 1 ∧ tState.active 0#2 = 1 ∧
    tState.LanesReach .load 1 (fun j => tState.xr 1#5 + tState.imm7 0#7 * 256#64 + BitVec.ofNat 64 (4 * j)) (fun _ => vaultCell 0 0) (fun _ => none) ∧
    tState.LanesReach .store 1 (fun j => tState.xr 1#5 + (0#16).signExtend 64 + BitVec.ofNat 64 j * tState.xr 3#5) (fun _ => vaultCell 0 0) (fun _ => none) ∧
    tState.LanesReach .store 1 (fun j => tState.xr 1#5 + (BitVec.ofNat 32 (lane (tState.vr 0#5) j)).signExtend 64) (fun _ => vaultCell 0 0) (fun _ => none) :=
  ⟨by decide +kernel, by decide +kernel, by decide +kernel, by decide +kernel, vault_lanes .load (by decide) _ (by decide +kernel),
    vault_lanes .store (by decide) _ (by decide +kernel), vault_lanes .store (by decide) _ (by decide +kernel)⟩
theorem witness_VectorMemory_queue : (tQueue.qr 1#4).size ≠ 0 ∧ (tQueue.qr 1#4).consEngine = false ∧
    (0#5 : BitVec 5).toNat < ((tQueue.qr 1#4).tail + 2 * (tQueue.qr 1#4).size - (tQueue.qr 1#4).head) % (2 * (tQueue.qr 1#4).size) ∧
    (0#5 : BitVec 5).toNat < (tQueue.qr 1#4).size - 1 ∧ (tQueue.qr 1#4).base % 256 = 0 ∧ tQueue.my.l1 = [] ∧ tQueue.mode = .point := by
  decide +kernel
/-- The same state with the translation of 0x100000 in the TLB. -/
def tTlb : State := { tState with tlb := [⟨0, 0, 31, 0x1F, 0x4000, 0⟩, ⟨0, 0, 31, 0x1F, 0x4000, 640⟩] }
theorem tier_reaches (acc : Acc) (ha : acc ≠ .fetch) : tTlb.Reaches acc 0x100000 4 0x100000 (some 0x4000) where
  space := by decide
  window := by decide
  size := by decide
  line := by decide
  same := by decide
  cell := by
    cases acc with
    | load => exact eq_of_okIs (by decide +kernel)
    | store => exact eq_of_okIs (by decide +kernel)
    | fetch => exact absurd rfl ha
  serves := ⟨rfl, .inr ⟨rfl, .inr (by decide +kernel)⟩, by intro _ k hk; cases hk⟩
  walked := .inr (.inr (by decide +kernel))
theorem tier_good : tTlb.Good 0x100000 4 (some 0x4000) where
  data := by decide +kernel
  merge := by decide +kernel
  stores := by intro _ w hw; cases hw
theorem tier_tlb : tTlb.TlbHas 0x100000 where
  noted := by decide +kernel
  agrees := by decide +kernel
theorem witness_VectorMemory_atomics (acc : Acc) (ha : acc ≠ .fetch) : tTlb.vecFmt = 6 ∧ isTier 0x100000 = true ∧
    tTlb.LanesReach acc 1 (fun j => tTlb.xr 2#5 + (BitVec.ofNat 32 (lane (tTlb.vr 0#5) j)).signExtend 64) (fun _ => 0x100000) (fun _ => some 0x4000) :=
  have zero : ∀ i ∈ lanesUp 1, i = 0 := by decide
  have at_ : (tTlb.xr 2#5 + (BitVec.ofNat 32 (lane (tTlb.vr 0#5) 0)).signExtend 64).toNat = 0x100000 := by decide +kernel
  have l : ∀ i ∈ lanesUp 1, (tTlb.xr 2#5 + (BitVec.ofNat 32 (lane (tTlb.vr 0#5) i)).signExtend 64).toNat = 0x100000 :=
    fun i hi => by rw [zero i hi, at_]
  ⟨by decide +kernel, by decide +kernel,
    { core := fun n h => by cases h
      align := fun i hi => by rw [l i hi]
      reach := fun i hi => by rw [l i hi]; exact tier_reaches acc ha
      good := fun _ _ => tier_good
      rows := fun _ _ => .inr (.inr ⟨by decide +kernel, fun _ _ => rfl⟩)
      tlb := fun i hi _ => by rw [l i hi]; exact tier_tlb
      room := by decide +kernel }⟩
theorem witness_VectorMovesMasksVtype : tState.pr 0#3 = true ∧ tState.mode = .point ∧ (tState.xr 3#5).toNat ≠ 0 ∧ ((tState.xr 4#5).extractLsb' 0 4).toNat < 12 ∧ (tState.xr 0#5).toNat = 0 := by
  decide +kernel

def tCall : Call := { jig := 0, jp := Vector.replicate 8 0xE000000000000#64, mp := Vector.replicate 8 0xE000000000000#64, snap := [] }
def tMatrix (m : Matrix) (jigs : List (Nat × Jig)) : State :=
  tWith (fun c => { c with mx := m, jigs := jigs, pt := { c.pt with mp := Vector.replicate 8 0xE000000000000#64 } })
theorem witness_MatrixOps : (tMatrix {} []).pr 0#3 = true ∧ (tMatrix {} []).focus = .core 0 ∧ (tMatrix {} []).mode = .point ∧
    (tMatrix {} []).bundle.trap = none ∧ (tMatrix {} []).bundle.stall = .none ∧
    okIs ((tMatrix {} []).wordCell { (tMatrix {} []).view with engine := true } ((tMatrix {} []).my.pt.mp.get 7) 32) (vaultCell 0 0) = true ∧
    find? (tMatrix {} [(0, ⟨100, []⟩)]).my.jigs 0 = some ⟨100, []⟩ ∧
    (let s := tMatrix {} [(0, ⟨100, []⟩)]
     ∀ r ∈ s.callReads 0, ∀ l ∈ s.callLines (s.callNow 0) r.1 r.2, s.holderOf l = none ∧ (s.owns l = true ∨ (s.line l).queue = [])) ∧
    find? (tMatrix {} []).my.jigs 0 = none ∧ (tMatrix {} []).gaugeBusy (some 0) (vaultCell 0 0) = false ∧
    (tMatrix { call := some tCall, queued := some tCall } []).my.mx.queued ≠ none ∧
    (tMatrix { call := some tCall } []).my.mx.call ≠ none ∧ (tMatrix { call := some tCall } []).my.mx.queued = none := by decide +kernel
def partsOk (s : State) (va : Nat) : Bool :=
  match s.resolveAll s.view .load (segments 10 va 1056) with
  | .error _ => false
  | .ok ps => match (s.atAccess s.view va 1056).readParts va ps with
    | .ok s1 (_, none) => s1.blockSealed va
    | _ => false
theorem witness_MatrixOps_load : tBlock.pr 0#3 = true ∧ tBlock.mode = .point ∧ tBlock.my.mx.call = none ∧ (tBlock.xr 2#5).toNat = 0x100 ∧ 0x100 % 32 = 0 ∧ partsOk tBlock 0x100 = true := by decide +kernel

/-- Core 0's matrix sequencer in a call whose pointers name the vault. -/
def tRun (m : Matrix) : State :=
  { tWith (fun c => { c with jigs := [(0, ⟨1000, [0#32]⟩)], mx := { m with call := some tCall } }) with focus := .jig 0 }
theorem witness_JigPlanesAndStreams : (tRun {}).focus = .jig 0 ∧ ((tRun {}).core 0).mx.call = some tCall ∧
    tCall.cycles + 1 < ((tRun {}).core 0).depthOf tCall ∧ tCall.spoilt.contains 0 = false ∧ ((tRun {}).core 0).mx.loading = false ∧ ((tRun {}).core 0).mx.loaded = false ∧
    ((tRun { loading := true }).core 0).mx.loading = true ∧ ((tRun { loading := true }).core 0).mx.call = some tCall ∧
    ((tRun {}).callRead tCall (tCall.jp.get 0) (tileSize 0) 128).toOption.isSome = true ∧
    ((tRun { shadow := some ⟨0, [], 0⟩ }).core 0).mx.shadow = some ⟨0, [], 0⟩ ∧
    ((tRun { shadow := some ⟨0, [], 0⟩ }).callRead tCall (tCall.jp.get 0) 16 16).toOption.isSome = true ∧
    ((tRun { shadow := some ⟨11, [], 0⟩ }).core 0).mx.shadow = some ⟨11, [], 0⟩ ∧
    ((tRun { shadow := some ⟨11, [], 0⟩ }).callRead tCall (tCall.jp.get 0) 32 16).toOption.isSome = true := by decide +kernel
theorem witness_JigPlanesAndStreams_stream :
    let s := tRun { cur := some ⟨0, [], 0⟩, bank0 := ⟨true, []⟩ }
    (s.core 0).mx.cur = some ⟨0, [], 0⟩ ∧ ((s.core 0).mx.bank 0#1).int = accumulatesInt 0 0 ∧
    (s.streamRead tCall (tCall.jp.get 0) (streamSize 0 (planeK 0) 1)).toOption.isSome = true ∧
    (s.callRead tCall (tCall.jp.get 1) (8 * ((planeK 0 / 8 * 1 + 63) / 64)) 8).toOption.isSome = true ∧ s.health.checkBad = [] ∧
    tCall.cycles + (s.retireCuts.headD 0 + ((List.range ((0 + 8) / 8)).map (fun i =>
      max 1 ((min 8 (0 + 1 - 8 * i) * (activeGroups 0 (leNat []) (planeK 0 / 8) i).length + planeK 0 / 8 - 1) / (planeK 0 / 8)) *
        (if fmtWidth 0 = 16 ∨ fmtWidth 0 = 16 then 2 else 1))).sum) ≤ (s.core 0).depthOf tCall := by decide +kernel
/-- A handle q1 whose both ends the engine owns, two slots of four filled. -/
def tSlots : State :=
  let q (r : Regs) : Regs := { r with q := r.q.set 1 ⟨0, 4, 0, 2, true, true, false⟩ }
  let s := tWith (fun c => { c with jigs := [(0, ⟨1000, [0#32]⟩)], mx := { call := some tCall }, pt := q c.pt, peg := q c.peg })
  { s with focus := .jig 0 }
theorem witness_JigFlow : tSlots.focus = .jig 0 ∧ (tSlots.core 0).mx.call = some tCall ∧
    tCall.cycles + 1 < (tSlots.core 0).depthOf tCall ∧
    ((tSlots.core 0).offeredQueue 1#4).size = 4 ∧ ((tSlots.core 0).offeredQueue 1#4).consEngine = true ∧
    ((tSlots.core 0).offeredQueue 1#4).prodEngine = true ∧
    (((tSlots.core 0).offeredQueue 1#4).tail + 2 * 4 - ((tSlots.core 0).offeredQueue 1#4).head) % (2 * 4) = 2 ∧
    ((2#10 : BitVec 10).toNat + 1 ≤ 4 ∧ 2 < (2#10 : BitVec 10).toNat + 1) ∧ (1#10 : BitVec 10).toNat + 1 ≤ 2 ∧
    (tSlots.callRead tCall (tCall.jp.get 0) 512 64).toOption.isSome = true ∧ tCall.spoilt.contains 0 = false := by decide +kernel
/-- A pointer that has been a queue reference and has lost its form. -/
theorem witness_JigFlow_spoilt :
    let s := tRun { call := none }
    let s := s.modCore 0 (fun c => { c with mx := { c.mx with call := some { tCall with spoilt := [0] } } })
    (s.core 0).mx.call = some { tCall with spoilt := [0] } ∧ ({ tCall with spoilt := [0] } : Call).spoilt.contains 0 = true ∧
    (s.core 0).mx.queued = none ∧ (s.core 0).ending = false ∧
    okIs (s.wordCell { s.view with engine := true } (tCall.mp.get 7) 32) (vaultCell 0 0) = true ∧ s.gaugeBusy (some 0) (vaultCell 0 0) = false ∧
    (0x8000000100000000#64 : W64).getLsbD 63 = true := by decide +kernel
theorem witness_JigRetireSignalEnd : queueRef 0x8000000100000000#64 = some (.ok (1#4, 0)) ∧ tSlots.focus = .jig 0 ∧ (tSlots.core 0).mx.call = some tCall ∧
    tCall.cycles + 1 ≤ (tSlots.core 0).depthOf tCall ∧ Memory.wf tSlots.mem = true ∧ tCall.retired = 0 ∧
    ((tSlots.core 0).offeredQueue 1#4).base + 256 * 4 ≤ 2 ^ 18 ∧
    ((tSlots.core 0).offeredQueue 1#4).base % 256 = 0 ∧ 0 + (128 * (0 + 1) * 4 + 255) / 256 ≤ 4 - 2 ∧
    tCall.cycles + (128 * (0 + 1) * 4 + 255) / 256 ≤ (tSlots.core 0).depthOf tCall ∧
    (tSlots.biasOf tCall).toOption.isSome = true ∧ okIs (tSlots.wordCell tSlots.view (tCall.jp.get 0) 32) (vaultCell 0 0) = true ∧
    okIs (tSlots.wordCell { tSlots.view with engine := true } (tCall.mp.get 7) 32) (vaultCell 0 0) = true ∧
    tCall.spoilt.contains 0 = false ∧ tCall.rmode = none ∧ tSlots.roundMode 0 ≠ 5 ∧
    tSlots.dataFault (vaultCell 0 0) none = none ∧ tSlots.dataFault (vaultCell 0 0 + 8) none = none ∧ (tSlots.core 0).mx.queued = none ∧
    tSlots.gaugeBusy (some 0) (vaultCell 0 0) = false ∧ (tSlots.core 0).ending = false ∧
    (match tSlots.retireTo (tCall.jp.get 0) 128 with
      | .ok (.vault cells) => cells.all (fun x => (tSlots.holderOf (x.1 / 128)).isNone && (tSlots.line (x.1 / 128)).queue.isEmpty) &&
          decide (cells.flatMap (fun x => (List.range x.2).map (x.1 + ·))).Nodup
      | _ => false) = true :=
  ⟨rfl, by decide +kernel⟩

/-! ### Hypotheses met: events, energy, power -/

/-- A state with the inputs of an event. -/
def tIn (s : State) (e : EventIn) : State := { s with inp := e }
def tR : State := State.reset
def tNq (q : NotifQ) (m : Msix) : State := { tR with host := { tR.host with nq := [(3, q)], msix := [(3, m)] } }
theorem witness_EventRecords :
    (let q := (tNq { en := true } {}).nq 3; q.en = true ∧ (q.tail + 2 ^ 32 - q.head) % 2 ^ 32 < 2 ^ (q.logSize + 4) ∧ q.window = 0) ∧
    ((tNq { en := true, window := 5 } {}).nq 3).window ≠ 0 ∧ ((tNq { en := true } { masked := true }).msix 3).masked = true ∧
    ((tNq { en := true } {}).msix 3).masked = false ∧ Memory.wf (tNq {} {}).host.mem = true ∧
    ¬ (((tNq {} {}).nq 3).en = true) ∧
    ¬ ((((tNq { en := true, tail := 16 } {}).nq 3).tail + 2 ^ 32 - ((tNq { en := true, tail := 16 } {}).nq 3).head) % 2 ^ 32 <
      2 ^ (((tNq { en := true, tail := 16 } {}).nq 3).logSize + 4)) := by decide +kernel

def tCurve : Curve := { seq := 1, vfrom := 0, vto := 0, points := [(0, 2000, 0)] }
def tPow (p : Power) : State := { tR with pow := p }
theorem witness_CurvesKeysRailsDiodes_curves :
    (400 ≤ ((0x400#64 : W64).extractLsb' 0 16).toNat ∧ ((0x400#64 : W64).extractLsb' 0 16).toNat ≤ 3300) ∧
    ((1#64 : W64).extractLsb' 0 16).toNat < 400 ∧ tR.pow.verifying = none ∧ tR.pkg.mgmt.moving = false ∧
    (tPow { verifying := some [] }).pow.verifying = some [] ∧ tR.pow.curveCheck [] tR.now ≠ 0 ∧ fieldAt [] 0 4 ≠ 0x43555256 ∧
    (tPow { pending := some tCurve }).pow.pending = some tCurve ∧ tCurve.vfrom ≤ tR.now ∧
    tR.now < ({ tCurve with vfrom := 1 } : Curve).vfrom ∧ tCurve.vto ≤ tR.now ∧ (tPow { inForce := some tCurve }).pow.inForce = some tCurve ∧
    tR.pow.fkeyLock = false ∧ (tPow { fkeyLock := true }).pow.fkeyLock = true ∧ tR.host.full = false ∧
    tR.now < ({ tCurve with vto := 1 } : Curve).vto := by decide +kernel
/-- A curve of one point, valid from `f` to 10, before its signature. -/
def tCurveMsg (f : Nat) : List Byte := leBytes 4 0x43555256 ++ leBytes 2 1 ++ leBytes 2 1 ++ leBytes 8 7 ++ leBytes 8 f ++
  leBytes 8 10 ++ zeros 32 ++ leBytes 5 0 ++ leBytes 2 2000 ++ [0#8]
/-- It is signed under the facility key 0. -/
def tSigned (f : Nat) : List Byte := tCurveMsg f ++ Config.signature 7856 (keyBytes 0#256) (tCurveMsg f)
def tPaid (f : Nat) : State := tPow { verifying := some (tSigned f), fkey := some 0#256 }
theorem length_tCurveMsg (f : Nat) : (tCurveMsg f).length = 72 := by simp [tCurveMsg]
theorem tSigned_fieldAt (f o n : Nat) (h : o + n ≤ 72) : fieldAt (tSigned f) o n = fieldAt (tCurveMsg f) o n :=
  fieldAt_append (by rw [length_tCurveMsg]; exact h)
theorem tSigned_zeroAt (f o n : Nat) (h : o + n ≤ 72) : zeroAt (tSigned f) o n = zeroAt (tCurveMsg f) o n :=
  zeroAt_append (by rw [length_tCurveMsg]; exact h)
theorem tSigned_curveCheck (f : Nat) (h : f = 0 ∨ f = 5) : (tPaid f).pow.curveCheck (tSigned f) (tPaid f).now = 0 := by
  have hn : fieldAt (tSigned f) 6 2 = 1 := by
    rw [tSigned_fieldAt _ _ _ (by decide)]; rcases h with rfl | rfl <;> decide +kernel
  have hp : curvePoint (tSigned f) 0 = (0, 2000, 0, 0) := by
    simp only [curvePoint, Nat.mul_zero, Nat.add_zero, Nat.reduceAdd, tSigned_fieldAt f 64 5 (by decide), tSigned_fieldAt f 69 2 (by decide),
      tSigned_fieldAt f 71 1 (by decide)]
    rcases h with rfl | rfl <;> decide +kernel
  have hs : (tSigned f).length = 64 + 8 * 1 + 7856 := by simp [tSigned, length_tCurveMsg]
  have hm : curveMalformed (tSigned f) (tPaid f).now = false := by
    simp only [curveMalformed, hn, hs, tSigned_fieldAt f 0 4 (by decide), tSigned_fieldAt f 4 2 (by decide), tSigned_fieldAt f 8 8 (by decide),
      tSigned_fieldAt f 16 8 (by decide), tSigned_fieldAt f 24 8 (by decide), tSigned_zeroAt f 48 16 (by decide),
      tSigned_zeroAt f 32 16 (by decide), List.range_succ, List.range_zero, List.nil_append, List.map_cons, List.map_nil, hp]
    have hz : zeroAt (tCurveMsg f) 32 16 = true := by rcases h with rfl | rfl <;> decide +kernel
    rw [hz]
    rcases h with rfl | rfl <;> decide +kernel
  have hk : (tPaid f).pow.fkey = some 0#256 := rfl
  have hv : Config.verify 7856 (keyBytes 0#256) ((tSigned f).take (64 + 8 * 1)) ((tSigned f).drop (64 + 8 * 1)) = true := by
    rw [tSigned, List.take_left' (i := 64 + 8 * 1) (length_tCurveMsg f), List.drop_left' (i := 64 + 8 * 1) (length_tCurveMsg f)]
    exact verify_signature ..
  simp only [Power.curveCheck, hm, hk, hn, hv, tSigned_fieldAt f 8 8 (by decide), List.range_succ, List.range_zero, List.nil_append,
    List.any_cons, List.any_nil, hp]
  rcases h with rfl | rfl <;> decide +kernel
/-- A curve that is accepted, in force at once or later. -/
theorem witness_CurvesKeysRailsDiodes_accepted : (tPaid 0).pow.verifying = some (tSigned 0) ∧ (tPaid 0).pkg.mgmt.moving = false ∧
    (tPaid 0).pow.curveCheck (tSigned 0) (tPaid 0).now = 0 ∧ (readCurve (tSigned 0)).vfrom ≤ (tPaid 0).now ∧
    (tPaid 5).pow.curveCheck (tSigned 5) (tPaid 5).now = 0 ∧ (tPaid 5).now < (readCurve (tSigned 5)).vfrom := by
  refine ⟨rfl, rfl, tSigned_curveCheck 0 (.inl rfl), ?_, tSigned_curveCheck 5 (.inr rfl), ?_⟩
  · simp only [readCurve, tSigned_fieldAt 0 16 8 (by decide)]; decide +kernel
  · simp only [readCurve, tSigned_fieldAt 5 16 8 (by decide)]; decide +kernel
theorem witness_CurvesKeysRailsDiodes_thermtab :
    (let v : W64 := BitVec.ofNat 64 (340 * 2 ^ 16 + 1)
     let tb := tR.pow.therm.set 0 { hyst := 0, temp := (v.extractLsb' 16 16).toInt, param := 0, action := 1 }
     tb[0].temp ≤ tb[1].temp ∧ tb[1].temp ≤ tb[2].temp ∧ tb[4].temp ≤ tb[5].temp ∧ tb[5].temp ≤ tb[6].temp) ∧
    4 < ((7#64 : W64).extractLsb' 0 3).toNat ∧ (∀ e ∈ tR.pkg.diodes, e.2.fault = false) ∧
    (let d := tR.diode 3; d.advise = false ∧ d.hold = false ∧ d.park = false ∧ d.fault = false) := by decide +kernel
theorem witness_CurvesKeysRailsDiodes_rails :
    (550 ≤ ((600#64 : W64).extractLsb' 0 10).toNat ∧ ((600#64 : W64).extractLsb' 0 10).toNat ≤ 700) ∧
    (780 ≤ ((920#64 : W64).extractLsb' 0 10).toNat ∧ ((920#64 : W64).extractLsb' 0 10).toNat ≤ 920) ∧
    ¬ (780 ≤ ((600#64 : W64).extractLsb' 0 10).toNat) ∧ (tR.rail false).present tR.now = (tR.rail false).target ∧
    (({ tR with pkg := { tR.pkg with bays := [(0, { lock := some (true, 4) })] } } : State).bp 0).lock = some (true, 4) ∧
    tR.pkg.pollAt ≠ some (tR.now / 100) ∧ (tR.die 0).power = .on ∧ nth (tIn tR { temps := [none, some 300] }).inp.temps 1 none = some 300 ∧
    nth (tIn tR { temps := [none, some 300] }).inp.temps 0 none = none ∧
    (({ tR with pkg := { tR.pkg with dies := [(0, { power := .gated })] } } : State).die 0).power = .gated ∧
    ({ tR with pkg := { tR.pkg with bays := [(0, { lock := none })] } } : State).bp 0 = { lock := none } ∧ tR.host.full = false ∧
    800 < (tR.rail false).target := by decide +kernel
def tPlaced : Task := { tTask with st := .placed }
theorem witness_BudgetLoop : tR.tick % 1000 = 0 ∧ ({ tR with tick := 1 } : State).tick % 1000 ≠ 0 ∧ tR.pow.loopAt ≠ some (tR.now / 10) ∧ (tPow { loopAt := some 0 }).pow.loopAt = some (tR.now / 10) ∧
    (0 : Rat) ≤ 0 ∧ tR.pow.inForce = none ∧ tCurve.points.getLast? = some (0, 2000, 0) ∧ (∀ x ∈ tCurve.points, tCurve.vfrom + x.1 ≤ tR.now) ∧
    (tPow { event := some ⟨0, 0, 0, 0, [], 0⟩ }).pow.event = some ⟨0, 0, 0, 0, [], 0⟩ ∧
    (let s : State := { tTab { tPlaced with freeze := some { src := 1 } } with pow := { event := some ⟨0, 0, 2, 0, [1], 0⟩ } }
     s.pow.event = some ⟨0, 0, 2, 0, [1], 0⟩ ∧ (1 : Nat) ∈ [1] ∧ s.freezing 1 ≠ none) ∧
    tR.freezing 1 = none ∧ (0 : Nat) ≤ 20000 * tR.tick ∧ 20000 * tR.tick < 1 ∧
    (({ tPow { winLoops := 1 } with tick := 1000000 } : State).pow.bandAt < ({ tPow { winLoops := 1 } with tick := 1000000 } : State).now / 10000) ∧
    (let p : Power := { winLoops := 1, winPower := 3000, winBudget := 3000 }
     p.winBudget / (p.winLoops : Rat) - max (p.winBudget / (p.winLoops : Rat) / 50) 25 ≤ p.winPower / (p.winLoops : Rat)) ∧
    (let p : Power := { winLoops := 1, winPower := 4000, winBudget := 3000 }
     p.winBudget / (p.winLoops : Rat) + max (p.winBudget / (p.winLoops : Rat) / 50) 25 < p.winPower / (p.winLoops : Rat) ∧
     p.winEvent = false) ∧
    (let p : Power := { winLoops := 1, winPower := 2000, winBudget := 3000, winTop := false }
     p.winPower / (p.winLoops : Rat) < p.winBudget / (p.winLoops : Rat) - max (p.winBudget / (p.winLoops : Rat) / 50) 25 ∧
     p.winEvent = false ∧ p.winTop = false ∧ ({ p with winTop := true } : Power).winTop = true) := by decide +kernel

def tDie (d : Die) : State := { tR with pkg := { tR.pkg with dies := [(3, d)] } }
def tLink (l : Link) : State := { tR with fab := { tR.fab with links := [(3, l)] } }
def tOn3 : State :=
  { tTab tPlaced with bays := [(24, { bound := some (1, 0) })] }
theorem witness_PowerCommands : tR.pow.busy = false ∧ tR.pkg.mgmt.moving = false ∧ tR.pkg.mgmt.heldCmds = [] ∧
    (tTab tPlaced).task 1 = some tPlaced ∧ (tTab tPlaced).areaUsed + tPlaced.largestCask ≤ areaBytes ∧ tR.task 1 = none ∧
    (tTab { tTask with st := .parked }).task 1 = some { tTask with st := .parked } ∧ ((tDie { lost := true }).die 3).lost = true ∧
    ((tDie {}).die 3).power = .on ∧ tOn3.gateable 3 = false ∧ tR.gateable 3 = true ∧
    ({ tR with pkg := { tR.pkg with lastGate := some 0 } } : State).gateTime = false ∧ tR.gateTime = true ∧
    ((tDie { power := .gated }).die 3).power = .gated ∧ (tDie { power := .gated }).gateable 3 = true ∧ tR.pagesFit 3 0 = true ∧
    tR.tasksOn 3 = [] ∧ tOn3.tasksOn 3 ≠ [] ∧ tR.fab.drains = [] ∧
    tOn3.pagesFit 3 (((tOn3.tasksOn 3).filter (fun t => t.freeze.isNone && !t.finished)).map Task.largestCask).sum = true ∧
    (∀ d ∈ tOn3.fab.drains, d.gate ≠ some 3) ∧ (tOn3.die 3).power = .on ∧ (tOn3.die 3).lost = false ∧ tOn3.host.full = false ∧
    tPlaced.code = none ∧ tPlaced.finished = false ∧ tPlaced.freeze = none ∧ tR.host.full = false ∧
    (∀ e, e < 10 → (tR.die e).power ≠ .gating) ∧ ((tDie { power := .gated }).die 3).lost = false ∧
    (tIn tR { n1 := 3 }).inp.n1 % 2 ^ 48 = 3 ∧ (tIn tR { n1 := 2 ^ 33 }).inp.n1 % 2 ^ 48 = 2 ^ 33 ∧
    ((tLink { st := .down }).link 3).st = .down ∧ ((tLink { st := .retrain }).link 3).st = .retrain ∧
    ((tLink { spares := 1 }).link 3).spares ≠ 0 ∧ ((tLink { st := .gated }).link 3).st = .gated ∧ (tR.link 3).half = false ∧ (tR.link 3).spares = 0 := by decide +kernel
theorem witness_PowerCommands_busy : (tPow { busy := true }).pow.busy = true ∧
    ({ tR with pkg := { tR.pkg with mgmt := { moving := true } } } : State).pkg.mgmt.moving = true ∧ 10 ≤ 11 % 2 ^ 48 ∧
    24 ≤ 25 % 2 ^ 48 ∧ 2 ^ 32 ≤ 2 ^ 33 % 2 ^ 48 ∧ (0 : Nat) % 256 = 0 ∧ 7 < 9 % 256 := by decide +kernel
def tHeld (last : Option Nat) : State :=
  { tR with pkg := { tR.pkg with lastGate := last, dies := [(3, { held := true, lost := true })] } }
def tMgmt (m : Mgmt) : State := { tR with pkg := { tR.pkg with mgmt := m } }
theorem witness_GatingAndManagement : (List.range 10).find? (fun d => ((tHeld none).die d).held) = some 3 ∧ (tHeld (some 0)).gateTime = false ∧
    (tHeld none).gateTime = true ∧ ((tHeld none).die 3).lost = true ∧ (tHeld none).gateable 3 = true ∧
    (let s : State := { tOn3 with pkg := { tOn3.pkg with dies := [(3, { held := true })] } }
     (List.range 10).find? (fun d => (s.die d).held) = some 3 ∧ s.gateTime = true ∧ s.pow.gateNext = [] ∧ s.gateable 3 = false ∧
     (s.die 3).power = .on) ∧ (List.range 10).find? (fun d => (tR.die d).held) = none ∧ tR.pkg.mgmt.heldCmds = [] ∧
    (tR.stack 3).spares < 4 ∧ 4 ≤ (({ tR with hbm := [(3, { spares := 4 })] } : State).stack 3).spares ∧ (5 : Nat) < 384 ∧ tR.pow.gateNext = [] ∧ ((tDie { power := .ungating }).die 3).power = .ungating ∧
    (tMgmt {}).pkg.mgmt.out = none ∧ (tMgmt { out := some 1 }).pkg.mgmt.out ≠ none ∧ (tMgmt { moving := true }).pkg.mgmt.moving = true ∧
    (tMgmt { out := some 0, primary := 1 }).pkg.mgmt.out = some 0 ∧ (tMgmt { out := some 0, primary := 1 }).pkg.mgmt.primary ≠ 0 := by decide +kernel

/-! ### Hypotheses met: the fabric and the host -/

theorem witness_LinksPeersDrainsPermits_links : tR.host.full = false ∧ 5 ≤ ((7#64 : W64).extractLsb' 0 3).toNat ∧
    ((tLink { maxStep := 2 }).link 3).maxStep < ((3#64 : W64).extractLsb' 0 3).toNat ∧
    ((3#64 : W64).extractLsb' 0 3).toNat ≤ (tR.link 3).maxStep ∧ (tR.link 3).st = .up ∧ ((3#64 : W64).extractLsb' 0 3).toNat ≠ (tR.link 3).rate ∧
    ((2#64 : W64).extractLsb' 0 3).toNat = (tR.link 3).rate ∧ ((tLink { st := .retrain }).link 3).st = .retrain ∧ ((tLink { st := .gated }).link 3).st = .gated ∧
    ((tLink { st := .retrain }).link 3).held = none ∧ ((tLink { st := .retrain }).link 3).second = false ∧
    ((tLink { st := .retrain, second := true }).link 3).second = true ∧ (tLink { st := .retrain }).commandOn 103 = false ∧
    (tLink { st := .retrain }).inp.nums = [] ∧ ((tLink { st := .retrain, held := some 1, second := true }).link 3).held ≠ none ∧
    ((tLink { st := .retrain }).link 3).failed = [] ∧ ((tLink { laneThr := 10#16 }).link 3).laneThr.toNat < 11 ∧ (tR.link 3).spares < 4 ∧
    (({ tR with fab := { tR.fab with peers := [(3, { st := 0 })] } } : State).peer 3).st ≠ 2 ∧ (BitVec.ofNat 64 (2 ^ 28)).getLsbD 28 = true ∧
    (({ tR with fab := { tR.fab with peers := [(3, { st := 1 })] } } : State).peer 3).st = 1 := by decide +kernel
def tDrain (ms arrived : List (Nat × Nat × Nat)) : State :=
  tIn { tR with fab := { tR.fab with drains := [{ num := 0, start_ := 0, stamp := 0, markers := ms, arrived := arrived }] } }
    { n1 := 0, n2 := 1, n3 := 2, n4 := 3 }
theorem witness_LinksPeersDrainsPermits_drains :
    (let s := tDrain [(1, 2, 3), (1, 2, 0)] [(1, 2, 3)]
     (s.inp.n2, s.inp.n3, s.inp.n4) ∈ [(1, 2, 3), (1, 2, (0 : Nat))] ∧ [(1, 2, 3), (1, 2, (0 : Nat))].filter (· != (s.inp.n2, s.inp.n3, s.inp.n4)) ≠ [] ∧
     [(1, 2, (3 : Nat))].filter (· != (s.inp.n2, s.inp.n3, s.inp.n4)) = [] ∧ s.flitsLeft = [] ∧ s.pow.gateNext = [] ∧ s.pkg.mgmt.heldCmds = []) ∧
    (∀ t ∈ tR.tab.tasks, t.freeze = none) ∧ (∀ i, i < 10 → (tR.die i).power ≠ .gating) ∧
    ((tDrain [(1, 2, 3)] []).fab.drains.find? (fun d => d.num == 0)).any (fun d => !d.arrived.contains (1, 2, 3) && !d.timedOut && d.task.isNone) = true ∧
    0 + 10000 ≤ ({ tDrain [] [] with tick := 1000000 } : State).now ∧
    (({} : Permit).held + ({} : Permit).inFlight + ({} : Permit).filled < 1) ∧ ({ inFlight := 1 } : Permit).inFlight ≠ 0 ∧
    (tR.die 3).auditAt + tR.fab.auditMs * 1000 ≤ ({ tR with tick := 1000000 } : State).now ∧
    ([(3, ({} : Permit))].map Prod.fst).Nodup ∧ (tR.die 3).power = .on ∧ ((tDie { power := .gating }).die 3).power = .gating ∧
    (queueConsumer 0 1 < 10240 ∧ 10240 ≤ swapConsumer 0 0) ∧ ((tQueue.core 0).offeredQueue 1#4).size = 2 := by decide +kernel
def tFlit : Flit := { seq := 0, chan := 1, src := 0, dst := 1, body := .data 0#64 }
def tWire (f : Flit) (d : LinkDir) : State := { tR with fab := { tR.fab with links := [(0, { d0 := { d with wire := [f] } })] } }
def tMove : State :=
  { tR with fab := { tR.fab with moves := [{ src := 0, dst := 1, chan := 1, old := 5, held := [tFlit] }], links := [(5, {})] } }
theorem witness_Flits_send :
    (let s := tIn tR { n1 := 10, n2 := 1, n4 := 11 }
     s.inp.ok3 = false ∧ s.fab.moves = [] ∧ s.route 10 11 1 = some 23 ∧ s.linkUp 23 = true ∧ (s.ldir 23 0).sent.length < 512 ∧
     nth (s.ldir 23 0).spent 1 0 = 0) ∧
    (let s : State := { tR with fab := { tR.fab with mesh := [(2560 + 64, [{ tFlit with dst := 1 }])] } }
     (s.meshAt (2560 + 64)).find? (fun f => f.chan == 1) = some { tFlit with dst := 1 } ∧ ({ tFlit with dst := 1 } : Flit).dst = (2624 - 2560) / 64 ∧
     ({ tFlit with dst := 1 } : Flit).toR = (2624 - 2560) % 64) := by decide +kernel
theorem witness_Flits_receive :
    ((tWire tFlit {}).link 0).st = .up ∧ (((tWire tFlit {}).link 0).dir 0).wire = [tFlit] ∧ tFlit.seq = (((tWire tFlit {}).link 0).dir 0).expect ∧
    (∀ q ∈ (((tWire tFlit {}).link 0).dir 0).queued, q.chan ≠ tFlit.chan) ∧
    tFlit.dst = (linkEnds 0).2 ∧ ({ tFlit with seq := 1 } : Flit).seq ≠ (((tWire tFlit {}).link 0).dir 0).expect ∧
    (∃ q ∈ (((tWire tFlit { queued := [tFlit] }).link 0).dir 0).queued, q.chan = tFlit.chan) ∧
    (((tWire tFlit {}).link 0).dir 0).reject = false ∧ (((tWire tFlit { asked := true }).link 0).dir 0).asked = true ∧
    (10 ^ 9 ≤ ({ winFlits := 10 ^ 9 } : LinkDir).winFlits) ∧ 10 ^ 6 ≤ ({ winFlits := 10 ^ 9 } : LinkDir).winFlits ∧ (tR.link 0).thr = 0xFFFFFFFF#32 ∧
    ((tLink { thr := 5#32 }).link 3).thr.toNat * 10 ^ 9 < 6 * 10 ^ 9 := by decide +kernel
theorem witness_Flits_release :
    tMove.fab.moves = [{ src := 0, dst := 1, chan := 1, old := 5, held := [tFlit] }] ∧ (tMove.link 5).st = .up ∧
    tMove.onRoute 0 1 1 5 = [] ∧ tMove.route 0 1 1 = some 0 ∧ tMove.linkUp 0 = true ∧ (tMove.ldir 0 (dirFrom 0 0)).sent.length + 1 ≤ 512 ∧
    (tMove.ldir 0 (dirFrom 0 0)).spent.length = 4 ∧ tFlit.chan = 1 := by decide +kernel
def tHost (h : HostSide) : State := { tState with host := h }
def tTlp : Tlp := ⟨0, 0x100000, [1#8, 2#8]⟩
theorem witness_HostWritesAndStreams_writes : tR.host.blocked = none ∧ tR.host.full = false ∧ (tHost { blocked := some tTlp }).host.full = true ∧ tR.host.linkUp = true ∧ groupBytes tR.host.staging + 2 ≤ 2 ^ 20 ∧ (0x10 : Nat) < 2 ^ 26 ∧
    0x10 % 2 ^ 23 + 2 ≤ 2 ^ 22 ∧ 0x10 % 2 ^ 33 + 2 ≤ 2 ^ 33 ∧ 2 ^ 33 < (2 ^ 33 - 1) % 2 ^ 33 + 2 ∧ (tHost { linkUp := false }).host.linkUp = false ∧
    (tHost { blocked := some tTlp }).host.blocked ≠ none ∧
    (let s := tHost { staging := [tTlp], blocked := some tTlp }
     s.host.staging = [tTlp] ∧ s.host.blocked = some tTlp ∧ tTlp.bytes.length ≤ 2 ^ 20 ∧ groupBytes (s.strm 0).ingress + 2 ≤ 2 ^ 22) ∧
    (tHost { staging := [tTlp] }).host.blocked = none ∧
    (tHost { staging := [tTlp] }).host.staging = [tTlp] ∧ tTlp.stream = 0 ∧ groupBytes ((tHost { staging := [tTlp] }).strm 0).ingress + 2 ≤ 2 ^ 22 ∧
    ((tHost { streams := [(0, { fullSince := some 0 })] }).strm 0).fullSince = some 0 ∧ 0 + 10000 ≤ ({ tState with tick := 1000000 } : State).now ∧
    tState.now < 0 + 10000 := by decide +kernel
/-- Staging that has no room left. -/
theorem witness_HostWritesAndStreams_blocked : ∃ s : State, s.host.blocked = none ∧ s.host.linkUp = true ∧ ¬ groupBytes s.host.staging + 2 ≤ 2 ^ 20 := by
  have h (bs : List Byte) : groupBytes (tHost { staging := [⟨0, 0, bs⟩] }).host.staging = bs.length := Nat.zero_add _
  obtain ⟨bs, hb⟩ : ∃ bs : List Byte, bs.length = 2 ^ 20 := ⟨_, List.length_replicate (a := 0#8)⟩
  exact ⟨tHost { staging := [⟨0, 0, bs⟩] }, rfl, rfl, by rw [h, hb]; omega⟩
theorem witness_HostWritesAndStreams_group :
    (tHost { cuts := [{ who := .core 0, stream := 0, seq := 0, tlps := [tTlp] }] }).host.cuts = [{ who := .core 0, stream := 0, seq := 0, tlps := [tTlp] }] ∧
    tTlp.va % 128 + 2 ≤ 128 ∧ (∀ i, i < 2 → tState.hostStoreFault 0 (0x100000 + i) = none) ∧
    okIs (tState.resolve (hostView 0) .store 0x100000) (.cell 0x100000 (some 0x4000)) = true ∧
    (tWith (fun c => { c with wait := .hwin })).waitsHwin (.core 0) = true ∧ tState.waitsHwin (.core 0) = false ∧ 0x4000 + 6 < 0x100000 ∧
    tState.mergeFault 0x100000 2 (some 0x4000) = none ∧ tState.bankHeld (0x100000 / 128) = false := by decide +kernel
theorem witness_HostWritesAndStreams_streams : (tR.strm 0).st = .idle ∧ ((tHost { streams := [(0, { st := .run })] }).strm 0).st = .run ∧
    ((0x400000#64 : W64).extractLsb' 0 22 = 0#22) ∧ ((0x80000000#64 : W64).extractLsb' 0 31 = 0#31) ∧ (tR.nq 0).en = false ∧
    ((tHost { nq := [(0, { en := true })] }).nq 0).en = true ∧ (∀ k, k < 8 → (tR.strm k).backlog = []) ∧ ((0#64 : W64).extractLsb' 26 4).toNat ≤ 12 ∧
    13 ≤ ((BitVec.ofNat 64 (13 * 2 ^ 26)).extractLsb' 26 4).toNat ∧ ((tR.nq 0).tail + 2 ^ 32 - 0) % 2 ^ 32 ≤ 2 ^ ((tR.nq 0).logSize + 4) ∧
    2 ^ ((tR.nq 0).logSize + 4) < ((tR.nq 0).tail + 2 ^ 32 - 1) % 2 ^ 32 ∧
    ((tHost { msix := [(0, { closes := some 0 })] }).msix 0).closes = some 0 := by decide +kernel
theorem witness_BootAndPower_firmware : (tR.host.boot.fwA.ok = false ∧ tR.host.boot.fwB.ok = false) ∨
    (tR.host.boot.fwA.ok = true ∨ tR.host.boot.fwB.ok = true) := by
  rcases Bool.eq_false_or_eq_true tR.host.boot.fwA.ok with h | h <;> rcases Bool.eq_false_or_eq_true tR.host.boot.fwB.ok with g | g <;>
    simp [h, g]
theorem witness_HostReadsAndRegisters : tState.host.full = false ∧ tState.rowHeld (0x100000 / 128) = false ∧ (tR.strm 0).ingress = [] ∧ tR.host.cuts = [] ∧ tR.host.staging = [] ∧
    ((tState.strm 0).ap.toNat + 0x100000 % 2 ^ 33) % 2 ^ 64 = 0x100000 ∧
    okIs (tState.resolve (hostView 0) .load 0x100000) (.cell 0x100000 (some 0x4000)) = true ∧
    tState.dataFault 0x100000 (some 0x4000) = none ∧ 1 ≤ ((10#64 : W64).extractLsb' 0 10).toNat ∧ ((0#64 : W64).extractLsb' 0 10).toNat = 0 := by decide +kernel
theorem witness_SealingAndAttestation : tR.host.full = false ∧ tR.host.sealer.req = none ∧ tR.host.att.req = none ∧
    (tHost { sealer := { req := some (0#64, 0#32, 0#32), verdict := some (3, 0) } }).host.sealer.verdict = some (3, 0) ∧
    (tHost { sealer := { req := some (0#64, 0#32, 0#32) } }).host.sealer.verdict = none ∧ tState.imageBytes 0 0 0 = [] ∧
    tState.imageBytes 0 0 0 ≠ [1#8] ∧ (tHost { att := { req := some (0#256, 0#64) } }).host.att.req = some (0#256, 0#64) ∧
    Memory.wf (tHost {}).host.mem = true := by decide +kernel
/-- A firmware image that the vendor has signed. -/
def tFirmware : FwImage := { key := Config.vendorKey, body := [], sig := Config.signature 29792 Config.vendorKey [] }
/-- The fields of a record's header before its target and its digest. -/
def tRecHead (kind : Nat) : List Byte := leBytes 4 0x43464752 ++ leBytes 2 kind ++ leBytes 2 1 ++ leBytes 4 0xFFFFFFFF ++ leBytes 4 0
/-- A record without a body, before its signature. -/
def tRecMsg (kind : Nat) : List Byte := tRecHead kind ++ (idMeasBytes.take 16 ++ Sha.sha256 [])
/-- The record as the vendor has signed it. -/
def tRec (kind : Nat) : List Byte := tRecMsg kind ++ Config.signature 29792 Config.vendorKey (tRecMsg kind)
theorem length_tRecHead (kind : Nat) : (tRecHead kind).length = 16 := by simp [tRecHead]
theorem length_tRecMsg (kind : Nat) : (tRecMsg kind).length = 64 := by simp [tRecMsg, length_tRecHead, idMeasBytes]
theorem tRec_fieldAt (kind o n : Nat) (h : o + n ≤ 16) : fieldAt (tRec kind) o n = fieldAt (tRecHead kind) o n := by
  rw [tRec, fieldAt_append (by rw [length_tRecMsg]; omega), tRecMsg, fieldAt_append (by rw [length_tRecHead]; exact h)]
theorem tRec_eq (kind : Nat) :
    tRec kind = tRecHead kind ++ (idMeasBytes.take 16 ++ (Sha.sha256 [] ++ Config.signature 29792 Config.vendorKey (tRecMsg kind))) := by
  simp [tRec, tRecMsg]
theorem tRec_kind {kind : Nat} (h : kind ∈ [1, 5, 6]) : recordKind (tRec kind) = kind := by
  rw [recordKind, tRec_fieldAt _ _ _ (by decide)]
  fin_cases h <;> decide +kernel
theorem tRec_code {kind : Nat} (h : kind ∈ [1, 5, 6]) : recordCode (tRec kind) = 0 := by
  have h0 : fieldAt (tRec kind) 0 4 = 0x43464752 := by
    rw [tRec_fieldAt _ _ _ (by decide)]; fin_cases h <;> decide +kernel
  have h8 : fieldAt (tRec kind) 8 4 = 0xFFFFFFFF := by
    rw [tRec_fieldAt _ _ _ (by decide)]; fin_cases h <;> decide +kernel
  have h12 : fieldAt (tRec kind) 12 4 = 0 := by
    rw [tRec_fieldAt _ _ _ (by decide)]; fin_cases h <;> decide +kernel
  have hl : (tRec kind).length = 64 + 0 + 29792 := by simp [tRec, length_tRecMsg]
  have hi : (idMeasBytes.take 16).length = 16 := by simp [idMeasBytes]
  have ht : ((tRec kind).drop 16).take 16 = idMeasBytes.take 16 := by
    rw [tRec_eq, List.drop_left' (length_tRecHead kind), List.take_left' hi]
  have hd : ((tRec kind).drop 32).take 32 = Sha.sha256 [] := by
    rw [tRec_eq, ← List.append_assoc, List.drop_left' (by simp [length_tRecHead, idMeasBytes]), List.take_left' (by simp)]
  have hv : Config.verify 29792 Config.vendorKey ((tRec kind).take (64 + 0)) ((tRec kind).drop (64 + 0)) = true := by
    rw [tRec, List.take_left' (length_tRecMsg kind), List.drop_left' (length_tRecMsg kind)]
    exact verify_signature ..
  have hm : ¬ 0xFFFFFFFF < (Config.minVersion kind).toNat := by have := (Config.minVersion kind).isLt; omega
  have hk : ¬ (kind = 0 ∨ 6 < kind) := by fin_cases h <;> decide
  have hb : recordBody (tRec kind) = [] := by simp [recordBody, h12]
  simp only [not_or] at hk
  simp only [recordCode, h0, h8, h12, hl, ht, hd, hv, hb, tRec_kind h, hk]
  simp [hm]
theorem witness_BootAndPower_signed :
    (tHost { boot := { phase := 0, fwB := tFirmware } }).host.boot.fwB.ok = true ∧
    (let rs := (tHost { boot := { phase := 1, records := [tRec 1, tRec 5, tRec 6] } }).host.boot.records
     ∀ k ∈ [1, 5, 6], (∃ r ∈ rs, recordKind r = k) ∧ ∀ r ∈ rs, recordKind r = k → recordCode r = 0) := by
  refine ⟨by simp [tHost, tFirmware, FwImage.ok, romHash], fun k hk => ⟨⟨tRec k, ?_, tRec_kind hk⟩, ?_⟩⟩
  · fin_cases hk <;> simp [tHost]
  · intro r hr _
    simp only [tHost, List.mem_cons, List.not_mem_nil, or_false] at hr
    rcases hr with rfl | rfl | rfl <;> exact tRec_code (by decide)
theorem witness_BootAndPower : tR.host.boot.phase = 0 ∧ tR.host.boot.aux = true ∧ tR.inp.n1 ≠ 1 ∧
    (tIn tR { n1 := 1 }).host.boot.phase = 0 ∧ (tIn tR { n1 := 1 }).inp.n1 = 1 ∧
    (tHost { boot := { phase := 1 } }).host.boot.records = [] ∧ (tHost { boot := { phase := 1 } }).host.boot.aux = true ∧
    recordKind [0#8, 0#8, 0#8, 0#8, 1#8, 0#8] ∈ [1, 5, 6] ∧ recordCode [0#8, 0#8, 0#8, 0#8, 1#8, 0#8] ≠ 0 ∧
    (tHost { boot := { phase := 2 } }).host.boot.phase = 2 ∧ tR.inp.nums = [] ∧ (List.replicate 64 (0#8 : Byte)).length = 64 ∧
    (tHost { boot := { phase := 3 } }).host.boot.phase = 3 ∧ (tHost { boot := { phase := 3 } }).broughtUp = true ∧
    (tLink { st := .retrain }).broughtUp = false ∧
    (tHost { boot := { aux := false } }).host.boot.aux = false := by decide +kernel

/-! ### Hypotheses met: tasks, cores, engines, homes -/

def tReady : State := { tR with tab := { tasks := [tTask] } }
/-- Task 1 placed on bay 0 with slab 0 issued to die 0, core 0 free. -/
def tFires : State :=
  { tTab { tPlaced with slabs := [{ k := 0, die := some 0 }], next := 1 } with cores := [(0, { tCore with point := none })] }
theorem witness_TasksAndDies_dispatch : tReady.readyOrder = [tTask] ∧ tReady.task 1 = some tTask ∧ tTask.cask = none ∧
    tReady.fits tTask = true ∧ tReady.tab.drainRule = none := by decide +kernel
theorem witness_TasksAndDies_slab : (tTab tPlaced).task 1 = some tPlaced ∧ nextSlab tPlaced.slabs tPlaced.slabs.length tPlaced.next < slabCount tPlaced.rcd ∧
    (tPlaced.slabs.filter (fun sl => sl.k % rNlbay tPlaced.rcd == 0 && !sl.done)).length < 2 := by decide +kernel
theorem witness_TasksAndDies_fire : (tFires.firesNext 0).map (fun e => e.2) = some [0, 0, 0, 0] := by decide +kernel
def tOver : Task := { tPlaced with stop := true, code := some 1 }
theorem witness_TasksAndDies_dies : (tR.die 0).power = .on ∧ (tR.die 0).lost = false ∧ (tR.die 0).beatAt ≠ some (tR.now / 10) ∧
    3 ≤ ((tDie { missed := 3 }).die 3).missed ∧ (tTab tOver).task 1 = some tOver ∧ (tTab tOver).taskOver tOver = true ∧
    (tTab tOver).mayPublish tOver = true ∧ (tTab tOver).pkg.mgmt.heldCmds = [] ∧ (tTab tOver).pow.gateNext = [] ∧
    1 ∉ (tTab tOver).pow.waitTasks ∧ ((tDie { beat := false }).die 3).beat = false ∧ ((tDie { beat := true }).die 3).beat = true := by decide +kernel

def tPeg (a : List AsyncTrap) : State := tWith (fun c => { c with wait := .peg, stallTicks := 100001, async := a })
def tFroze : Task := { tPlaced with freeze := some { src := 0, drained := true, room := 2 ^ 24 } }
def tLines : State := tWith (fun c => { c with withheld := (List.range 224).map (fun i => { line := i, wts := 1, bytes := [] }) })
theorem witness_CoreEvents_pegs : tLines.issuing 0 = true ∧ (tLines.core 0).frame = false ∧ tLines.pegGate 0 = .free ∧
    (tLines.core 0).async = [] ∧ (tLines.core 0).rotate = false ∧ (tLines.core 0).wait ≠ .hwin ∧ (tLines.core 0).pressed 0 = true ∧
    ((tWith (fun c => { c with rotate := true })).core 0).rotate = true ∧
    (tWith (fun c => { c with rotate := true })).pegGate 0 = .free ∧ (tWith (fun c => { c with rotate := true })).issuing 0 = true ∧
    ((tPeg []).core 0).wait = .peg ∧ 100000 < ((tPeg []).core 0).stallTicks ∧ (tPeg []).inFreeze 0 = false ∧
    (let s : State := { tPeg [{ kind := .preempt }] with tab := { tasks := [tFroze] } }
     s.inFreeze 0 = true ∧ (s.core 0).async = [{ kind := .preempt }]) ∧ (tTab tPlaced).issuing 0 = true ∧
    ((tWith (fun c => { c with wdogTicks := 5000000 })).issuing 0 = true) ∧
    ((tWith (fun c => { c with wdogTicks := 5000000 })).core 0).wdog.toNat * 100000 ≤ 5000000 ∧ (tTab tPlaced).task 1 = some tPlaced := by decide +kernel
/-- Two logical bays, one resident whose quantum has ended, the other with an issued slab. -/
def tTwo : Task :=
  { tPlaced with rcd := tRcd + BitVec.ofNat 2048 (2 ^ (8 * 0x8E)), slabs := [{ k := 1, die := none }], order := [0, 1] }
def tBays : State := { tTab tTwo with tick := 1000000 }
theorem witness_CoreEvents_rotation : (tBays.bay 0).bound = some (1, 0) ∧ tBays.task 1 = some tTwo ∧ (tBays.surplus tTwo).contains 0 = false ∧
    (tBays.bay 0).since + rRotq tTwo.rcd ≤ tBays.now ∧ (tBays.nextIn tTwo).isSome = true ∧
    (let s := { tBays with cores := (List.range 8).map (fun i => (i, ({ rotate := true } : Core))) }
     (∀ m ∈ coresOfBay 0, (s.core m).rotate = true) ∧ s.mayLeave 0 = true) ∧
    (let s := { tTab { tTwo with opts := [0] } with cores := (List.range 8).map (fun i => (i, ({ rotate := true } : Core))) }
     (s.surplus { tTwo with opts := [0] }).contains 0 = true ∧ s.mayLeave 0 = true) ∧
    (let s : State := { tTab tTwo with cores := [(0, { tCore with wait := .gauge (vaultCell 0 0) false true })] }
     s.bayAwaits 0 = true ∧ (s.surplus tTwo).contains 0 = false ∧ (s.nextIn tTwo).isSome = true) := by decide +kernel
def tFreeze : State := { tTab tFroze with cores := [] }
theorem witness_CoreEvents_freeze : tFreeze.task 1 = some tFroze ∧ tFroze.cancelled = false ∧ tFroze.code = none ∧
    tFreeze.freezeReady tFroze { src := 0, drained := true, room := 2 ^ 24 } = true ∧ tFreeze.pkg.mgmt.heldCmds = [] ∧
    tFreeze.fab.drains = [] ∧ tFreeze.pow.waitTasks = [] ∧ tFreeze.pow.gateNext = [] ∧
    (∀ y ∈ tFreeze.tab.tasks, y.id ≠ 1 → y.freeze = none) ∧ (∀ d, d < 10 → (tFreeze.die d).power ≠ .gating) := by decide +kernel
def tCask : Cask := (tFreeze.harvestTask tFroze).1.assemble tFroze { src := 0, drained := true, room := 2 ^ 24 } (tFreeze.harvestTask tFroze).2
theorem witness_CoreEvents_freeze_room : caskLen tFroze tCask ≤ 2 ^ 24 := by rw [caskLen_eq]; decide +kernel
theorem witness_CoreEvents_waits : ((tWith (fun c => { c with wait := .gauge 0 true false })).core 0).wait = .gauge 0 true false ∧
    ((tWith (fun c => { c with wait := .ticket 0 true })).core 0).wait = .ticket 0 true ∧
    ((tWith (fun c => { c with wait := .queue })).core 0).wait = .queue ∧ (tWith (fun c => { c with wait := .queue })).bundleOps 0 = [] := by decide +kernel

def tEngine (k : Copy) : State := tIn (tWith (fun c => { c with eng := { copies := [k] } })) { who := .core 0 }
/-- What a unit of a copy needs of its sources and of its destination. -/
def unitOk (s : State) (k : Copy) (srcs : List Nat) (a pa m : Nat) : Bool :=
  match s.fetchUnits k srcs with
  | .error _ => false
  | .ok (s1, k1) =>
    srcs.all (fun x => (find? k1.bads x).isNone) && !s1.engineWaits k.view a && okIs (s1.resolveRaw k.view .store a) (.cell pa none) &&
      !s1.bankHeld (pa / 128) && (s1.mergeFault pa m none).isNone
/-- A copy within the vault. -/
def tUnit : Copy := { tCopy with ra := 0xE000000000400#64, rb := 0xE000000000500#64 }
theorem witness_EngineEvents_unit : tUnit.op = 0 ∧ tUnit.hasGauge = false ∧ tUnit.cancelling = false ∧ tUnit.failing = none ∧
    tUnit.owed = 0 ∧ tUnit.shadowBytes = [] ∧ (tEngine tUnit).inp.nums = [] ∧ (tEngine tUnit).inpCopy = some ({ copies := [tUnit] }, tUnit) ∧
    ((tEngine tUnit).ctx 0).bufs = [] ∧ tUnit.rl.toNat ≤ 2 ^ 40 ∧ tUnit.done < tUnit.rl.toNat ∧ addr64 tUnit.rb (tUnit.done : Nat) = 0xE000000000500 ∧
    min (tUnit.rl.toNat - tUnit.done) (128 - 0xE000000000500 % 128) = 128 ∧
    unitOk (tEngine tUnit) tUnit ((List.range 128).map (fun j => addr64 tUnit.ra (0 + j : Nat))) 0xE000000000500 (vaultCell 0 0x500) 128 = true ∧
    vaultCell 0 0x500 % 128 = 0xE000000000500 % 128 ∧ Memory.wf (tEngine tUnit).mem = true := by decide +kernel
/-- A call whose cycles have reached its depth. -/
def tTired : State := (tRun {}).modCore 0 (fun c => { c with mx := { c.mx with call := some { tCall with cycles := 1000 } } })
theorem witness_EngineEvents_end : (tEngine { tCopy with done := 200 }).inpCopy = some ({ copies := [{ tCopy with done := 200 }] }, { tCopy with done := 200 }) ∧
    2 ^ 40 < ({ tCopy with rl := BitVec.ofNat 64 (2 ^ 41) } : Copy).rl.toNat ∧
    { tCopy with cancelling := true } ∈ ((tEngine { tCopy with cancelling := true }).getEng (.core 0) []).copies ∧ tCopy.owed = 0 ∧
    ((tWith (fun c => { c with mx := { loading := true } })).core 0).mx.loading = true ∧
    ((tWith (fun c => { c with mx := { loading := true } })).core 0).mx.call = none ∧
    ((tWith (fun c => { c with mx := { loading := true } })).core 0).wait ≠ .late ∧ (tTired.core 0).depthOf { tCall with cycles := 1000 } ≤ 1000 ∧
    (tTired.core 0).mx.call = some { tCall with cycles := 1000 } ∧ tCall.cycles < ((tRun {}).core 0).depthOf tCall ∧
    ((tRun {}).core 0).mx.call = some tCall ∧ ((tRun {}).core 0).mx.queued = none ∧ tCall.ending = none ∧ ((tRun {}).core 0).wait ≠ .late ∧
    (tTired.core 0).ending = false ∧ (tTired.core 0).mx.queued = none ∧ (tTired.core 0).wait ≠ .late ∧ okIs (tTired.wordCell { tTired.view with engine := true } (tCall.mp.get 7) 32) (vaultCell 0 0) = true ∧
    tTired.gaugeBusy (some 0) (vaultCell 0 0) = false ∧ ((tWith (fun c => { c with wait := .late })).core 0).wait = .late := by decide +kernel
/-- A line of the LPDDR-6 tier, which has no opaque bank. -/
def lpLine : Nat := (16 * 2 ^ 40 + 2 ^ 34) / 128
def tHome (r : LineRec) : State := { tState with lines := [(lpLine, r)] }
def tNr : State := tWith (fun c => { c with nr := [⟨.add, 128 * lpLine, 4, 1, none, 0⟩] })
theorem witness_HomeRequests : isTier (128 * 8192) = true ∧ (tHome {}).inp.pairs = [] ∧ (tHome {}).bankHeld lpLine = false ∧
    isTier (128 * lpLine) = true ∧ ((tHome {}).line lpLine).queue = [] ∧ (tHome {}).heldBy 0 lpLine = none ∧ ((tHome {}).line lpLine).home = .idle ∧
    (let s := tNr
     (s.core 0).nr.find? (fun a => a.pa / 128 == lpLine) = some ⟨.add, 128 * lpLine, 4, 1, none, 0⟩ ∧ (128 * lpLine) % 128 + 4 ≤ 128 ∧
     s.mergeFault (128 * lpLine) 4 none = none ∧ s.sealSet.contains (128 * lpLine / 2 ^ 19) = false ∧ Memory.wf s.mem = true ∧
     s.bankHeld lpLine = false ∧ s.heldBy 0 lpLine = none) ∧
    ((tHome { home := .excl 5 }).line lpLine).home = .excl 5 ∧ ((tHome { home := .excl 0 }).line lpLine).home = .excl 0 ∧
    (∀ w ∈ ((tHome {}).core 0).withheld, w.line ≠ lpLine) ∧
    (0 : Nat) < 640 ∧ ((tHome { home := .fetch 5 ⟨.ex, 0, 0, none⟩ }).line lpLine).home = .fetch 5 ⟨.ex, 0, 0, none⟩ ∧
    ((tHome { home := .fetch 0 ⟨.ex, 5, 0, none⟩, fwd := some 0 }).line lpLine).fwd = some 0 ∧
    (({ tR with hbm := [(0, { holds := [(2, 0, [])] })] } : State).stack 0).hold? 2 = some (2, 0, []) ∧
    (({ tR with hbm := [(0, { holds := [(2, 350, [])] })] } : State).stack 0).hold? 2 = some (2, 350, []) ∧ tR.ns < 350 ∧ 0 ≤ tR.ns ∧
    tR.lines = [] ∧ tR.dataFault (128 * lpLine) none = none ∧
    ({ tR with health := { eccBad := [128 * lpLine / 512] } } : State).dataFault (128 * lpLine) none = some 0x30 ∧
    ({ tR with health := { tagBad := [128 * lpLine / 512] } } : State).dataFault (128 * lpLine) none = some 0x31 ∧
    ({ tR with tick := 1000 } : State).tick % 1000 = 0 ∧ ({ tR with tick := 1000 } : State).floorAt < 1000 / 1000 ∧
    (let c (w l : Nat) : Core := { wait := .line w ⟨.ex, 0, 0, none⟩, withheld := [{ line := l, wts := 1, bytes := [] }] }
     ({ tR with cores := [(0, c 1 2), (1, c 2 1)] } : State).waitCycle [0, 1] = true) := by decide +kernel
theorem witness_StepKeepsMemoryForm : Memory.wf tState.mem = true ∧ ∃ t, step State.reset = .next t := ⟨by decide +kernel, ⟨_, rfl⟩⟩

end Sys2Proof.Tests
end

section
/-! PROOFS. What the operations that the scope's statements turn on do to the state: fields of machine words, guarded
ops, control registers, reads of memory by a unit that is no core, host reads and register writes. -/

namespace Sys2Proof.Machine

open Sys2Proof.Bits

/-! ### Fields of machine words (R4) -/

/-- A field taken of the number is the field taken of the word. -/
theorem fieldN_toNat {w : Nat} (v : BitVec w) (lo len : Nat) : fieldN v.toNat lo len = (v.extractLsb' lo len).toNat := by
  simp [fieldN, BitVec.extractLsb'_toNat, Nat.shiftRight_eq_div_pow]

/-- A bit taken of the number is the bit taken of the word. -/
theorem bit_toNat {w : Nat} (v : BitVec w) (i : Nat) : bit v.toNat i = v.getLsbD i := by
  rw [← BitVec.testBit_toNat, Nat.testBit_eq_decide_div_mod_eq]
  simp [bit, beq_eq_decide]

/-- Two fields that meet make one field. -/
theorem toNat_extract_join {w : Nat} (v : BitVec w) (lo m n : Nat) :
    (v.extractLsb' (lo + m) n).toNat * 2 ^ m + (v.extractLsb' lo m).toNat = (v.extractLsb' lo (m + n)).toNat := by
  simp only [BitVec.extractLsb'_toNat, Nat.shiftRight_eq_div_pow, Nat.pow_add, ← Nat.div_div_eq_div_mul]
  rw [Nat.mod_mul, Nat.mul_comm, Nat.add_comm]

/-- Clearing the low `k` bits of a word rounds its value down. -/
theorem toNat_and_not_low {w : Nat} (v : BitVec w) (k : Nat) :
    (v &&& ~~~BitVec.ofNat w (2 ^ k - 1)).toNat = v.toNat / 2 ^ k * 2 ^ k := by
  refine Nat.eq_of_testBit_eq fun i => ?_
  rw [Nat.testBit_mul_two_pow, Nat.testBit_div_two_pow, BitVec.testBit_toNat, BitVec.getLsbD_and, BitVec.getLsbD_not,
    BitVec.getLsbD_ofNat, Nat.testBit_two_pow_sub_one]
  by_cases hk : k ≤ i
  · by_cases hi : i < w
    · simp [hk, hi, Nat.not_lt.2 hk, Nat.sub_add_cancel hk, BitVec.testBit_toNat]
    · simp [hi, Nat.sub_add_cancel hk, BitVec.testBit_toNat, BitVec.getLsbD_of_ge v i (Nat.le_of_not_lt hi)]
  · by_cases hi : i < w
    · simp [hk, hi, Nat.lt_of_not_le hk]
    · simp [hk, hi]

/-! ### Guarded ops and traps (R143, R273) -/

/-- An op whose guard holds has its effect. -/
theorem anyOp_of_guard {g : BitVec 3} {s : State} (h : s.pr g = true) (k : State → State) : anyOp g s k = .next (k s) := by
  simp [anyOp, h]

/-- The first trap of a bundle is the bundle's. -/
theorem State.trap_of_none {s : State} (h : s.bundle.trap = none) (t : TrapRec) :
    s.trap t = { s with bundle := { s.bundle with trap := some t } } := by
  simp [State.trap, h]

@[simp] theorem State.trap_scalar (s : State) (t : TrapRec) : (s.trap t).scalar = s.scalar := by
  unfold State.trap; split <;> rfl

/-! ### Writes of control registers (R9, R180, R322) -/

/-- A mode that may write a register raises no PRIVILEGE for it. -/
theorem Where.not_privileged {m : Where} {n : Nat} (h : m = .frame ∨ n < 0x100) : ¬ (m = .point ∧ 0x100 ≤ n) := by
  rintro ⟨rfl, hn⟩
  rcases h with h | h
  · cases h
  · omega

/-- A write that the mode allows and that places no reserved value is seen by the next bundle. -/
theorem State.writeCsr_issues {s : State} {n : Nat} {v : W64} (op : Nat) (hs : s.mode ≠ .seq)
    (hm : s.mode = .frame ∨ n < 0x100) (hr : csrReserved n v.toNat = false) :
    s.writeCsr op n v = s.issue [{ dest := .csr n v, togo := 1 }] := by
  simp [State.writeCsr, Where.not_privileged hm, hr, hs]

/-- A write of a reserved value is discarded. -/
theorem State.writeCsr_reserved {s : State} {n : Nat} {v : W64} (op : Nat)
    (hm : s.mode = .frame ∨ n < 0x100) (hr : csrReserved n v.toNat = true) : s.writeCsr op n v = s := by
  simp [State.writeCsr, Where.not_privileged hm, hr]

/-- In point mode a write of a register of frame mode raises PRIVILEGE. -/
theorem State.writeCsr_privilege {s : State} {n : Nat} (op : Nat) (v : W64) (hm : s.mode = .point) (hn : 0x100 ≤ n) :
    s.writeCsr op n v = s.privilege op := by
  simp [State.writeCsr, hm, hn]

theorem exec_csrr (g : BitVec 3) (d : BitVec 5) (c : BitVec 12) (s : State) : exec (.csrr g d c) s = execCsrr g d c s := rfl
theorem exec_csrw (g : BitVec 3) (d : BitVec 5) (c : BitVec 12) (s : State) : exec (.csrw g d c) s = execCsrw g d c s := rfl
theorem exec_csrs (g : BitVec 3) (d : BitVec 5) (c : BitVec 12) (s : State) : exec (.csrs g d c) s = execCsrs g d c s := rfl
theorem exec_csrc (g : BitVec 3) (d : BitVec 5) (c : BitVec 12) (s : State) : exec (.csrc g d c) s = execCsrc g d c s := rfl

section Guarded
variable {s : State} {g : BitVec 3} (hg : s.pr g = true)
include hg

theorem exec_csrr_of_guard (d : BitVec 5) (c : BitVec 12) :
    exec (.csrr g d c) s = .next (s.putX d 2 (BitVec.ofNat 64 (s.csr c.toNat))) := by
  rw [exec_csrr, execCsrr, anyOp_of_guard hg]

theorem exec_csrw_of_guard (d : BitVec 5) (c : BitVec 12) :
    exec (.csrw g d c) s = .next (s.writeCsr 0x04 c.toNat (s.xr d)) := by
  rw [exec_csrw, execCsrw, anyOp_of_guard hg]

/-- CSRS of x0 writes nothing. -/
theorem exec_csrs_of_guard (d : BitVec 5) (c : BitVec 12) :
    exec (.csrs g d c) s = .next (if d = 0#5 then s
      else s.writeCsr 0x05 c.toNat (BitVec.ofNat 64 (s.csr c.toNat) ||| s.xr d)) := by
  rw [exec_csrs, execCsrs, anyOp_of_guard hg]

/-- CSRC of x0 writes nothing. -/
theorem exec_csrc_of_guard (d : BitVec 5) (c : BitVec 12) :
    exec (.csrc g d c) s = .next (if d = 0#5 then s
      else s.writeCsr 0x06 c.toNat (BitVec.ofNat 64 (s.csr c.toNat) &&& ~~~s.xr d)) := by
  rw [exec_csrc, execCsrc, anyOp_of_guard hg]

end Guarded

/-! ### Reading a control register after its write (R145, R181, R182) -/

@[simp] theorem State.my_modMy (s : State) (f : Core → Core) : (s.modMy f).my = f s.my := State.core_modCore s s.me f

section OnCore
variable {s : State} {n : Nat} (hf : s.focus = .core n)
include hf

/-- An agent that is a core reads the control registers as a core does. -/
theorem State.csr_of_core (k : Nat) : s.csr k = s.csrCore k := by
  have hm : s.mode ≠ .seq := by
    simp only [State.mode, hf]
    split <;> decide
  exact if_neg hm

theorem State.arith_of_core : s.arith = s.my.pt.ar := by simp [State.arith, hf]

theorem State.setArith_of_core (a : Arith) :
    s.setArith a = s.modMy (fun c => { c with pt := { c.pt with ar := a } }) := by simp [State.setArith, hf]

theorem State.my_of_core : s.my = s.core n := by simp [State.my, State.me, hf]

/-- A core reads a register whose write changes the core alone as the changed core gives it. -/
theorem State.csr_modMy (k : Nat) (f : Core → Core) : (s.modMy f).csr k = (s.modMy f).csrCore k :=
  State.csr_of_core (s := s.modMy f) hf k

theorem State.arith_setArith_of_core (a : Arith) : (s.setArith a).arith = a := by
  rw [State.arith_of_core (s := s.setArith a) (by simpa using hf), State.setArith_of_core hf, State.my_modMy]

theorem State.csr_setArith_fflags (a : Arith) : (s.setArith a).csr 0x021 = a.fflags.toNat := by
  simp [State.setArith_of_core hf, State.csr_modMy hf, State.csrCore]

theorem State.csr_setArith_frm (a : Arith) : (s.setArith a).csr 0x022 = a.frm.toNat := by
  simp [State.setArith_of_core hf, State.csr_modMy hf, State.csrCore]

theorem State.csr_setArith_srseed (a : Arith) : (s.setArith a).csr 0x023 = a.srseed.toNat := by
  simp [State.setArith_of_core hf, State.csr_modMy hf, State.csrCore]

/-- FFLAGS, FRM and SRSEED as written; a write of SRSEED sets the LFSR too (R182). -/
theorem State.csr_setCsr_arith (v : W64) :
    (s.setCsr 0x021 v).csr 0x021 = (v.extractLsb' 0 6).toNat ∧ (s.setCsr 0x022 v).csr 0x022 = (v.extractLsb' 0 3).toNat ∧
      (s.setCsr 0x023 v).csr 0x023 = (v.extractLsb' 0 32).toNat ∧ (s.setCsr 0x023 v).arith.lfsr = v.extractLsb' 0 32 :=
  ⟨State.csr_setArith_fflags hf _, State.csr_setArith_frm hf _, State.csr_setArith_srseed hf _,
    congrArg Arith.lfsr (State.arith_setArith_of_core hf _)⟩

/-- VTYPE as written: LANES and FMT (R181). -/
theorem State.csr_setCsr_vtype (v : W64) : (s.setCsr 0x020 v).csr 0x020 = (v.extractLsb' 0 11).toNat := by
  refine (State.csr_modMy hf _ _).trans ?_
  simpa [State.csrCore, Regs.vtype] using toNat_extract_join v 0 4 7

/-- PEGADDR as written: a word's address (R145). -/
theorem State.csr_setCsr_pegaddr (v : W64) : (s.setCsr 0x103 v).csr 0x103 = (v.extractLsb' 2 50).toNat * 4 := by
  refine (State.csr_modMy hf _ _).trans ?_
  simp only [State.csrCore, State.my_modMy]
  rw [show (3#52 : BitVec 52) = BitVec.ofNat 52 (2 ^ 2 - 1) from rfl, toNat_and_not_low]
  simp only [BitVec.extractLsb'_toNat, Nat.shiftRight_eq_div_pow]
  omega

/-- FRAMEVEC as written: a multiple of 32 (R145). -/
theorem State.csr_setCsr_framevec (v : W64) : (s.setCsr 0x105 v).csr 0x105 = (v.extractLsb' 5 47).toNat * 32 := by
  refine (State.csr_modMy hf _ _).trans ?_
  simp only [State.csrCore, State.my_modMy]
  rw [show (31#52 : BitVec 52) = BitVec.ofNat 52 (2 ^ 5 - 1) from rfl, toNat_and_not_low]
  simp only [BitVec.extractLsb'_toNat, Nat.shiftRight_eq_div_pow]
  omega

/-- MODE as written: WDOG, beside FRAME, which no write changes (R145). -/
theorem State.csr_setCsr_mode (v : W64) :
    (s.setCsr 0x104 v).csr 0x104 = (v.extractLsb' 8 16).toNat * 256 + (if (s.core n).frame then 1 else 0) := by
  refine (State.csr_modMy hf _ _).trans ?_
  simp [State.csrCore, State.my_of_core hf, boolN]

/-- LINKSUB as written: its low 32 bits (R50). -/
theorem State.csr_setCsr_linksub (v : W64) : (s.setCsr 0x120 v).csr 0x120 = (v.extractLsb' 0 32).toNat := by
  refine (State.csr_modMy hf _ _).trans ?_
  simp only [State.csrCore, State.my_modMy, BitVec.toNat_and, BitVec.extractLsb'_toNat, Nat.shiftRight_zero]
  exact Nat.and_two_pow_sub_one_eq_mod v.toNat 32

/-- TRAPCAUSE, TRAPADDR and TRAPINFO as written (R145). -/
theorem State.csr_setCsr_trap (v : W64) :
    (s.setCsr 0x100 v).csr 0x100 = (v.extractLsb' 0 8).toNat ∧ (s.setCsr 0x101 v).csr 0x101 = (v.extractLsb' 0 52).toNat ∧
      (s.setCsr 0x102 v).csr 0x102 = v.toNat := by
  refine ⟨(State.csr_modMy hf _ _).trans ?_, (State.csr_modMy hf _ _).trans ?_, (State.csr_modMy hf _ _).trans ?_⟩ <;>
    simp [State.csrCore]

end OnCore

/-- The registers that name the core, its task and its point are read-only (R180). -/
theorem State.setCsr_readOnly (s : State) {k : Nat} (h1 : 0x001 ≤ k) (h2 : k ≤ 0x013) (v : W64) : s.setCsr k v = s := by
  interval_cases k <;> rfl

/-! ### What a read of memory leaves at the homes of its lines (R204, R209, R217, R221) -/

/-- One state differs from another at most in what an access of a memory leaves behind it: rows, caches, TLBs, counters,
the errors found and the draws taken. -/
def State.SameButHomes (s t : State) : Prop :=
  t = { s with free := t.free, hbm := t.hbm, hubCounters := t.hubCounters, health := t.health, msc := t.msc, tlb := t.tlb }

namespace State.SameButHomes

theorem refl (s : State) : s.SameButHomes s := rfl

theorem trans {s t u : State} (h1 : s.SameButHomes t) (h2 : t.SameButHomes u) : s.SameButHomes u :=
  Eq.trans h2 (by rw [h1])

theorem mem_eq {s t : State} (h : s.SameButHomes t) : t.mem = s.mem := by rw [h]

theorem cores_eq {s t : State} (h : s.SameButHomes t) : t.cores = s.cores := by rw [h]

/-- A run of such accesses is one. -/
theorem foldl {β : Type} {f : State → β → State} (hf : ∀ (s : State) b, s.SameButHomes (f s b)) (l : List β) (s : State) :
    s.SameButHomes (l.foldl f s) := by
  induction l generalizing s with
  | nil => exact refl s
  | cons b l ih => exact (hf s b).trans (ih (f s b))

end State.SameButHomes

theorem State.sameButHomes_health (s : State) (h : Health) : s.SameButHomes { s with health := h } := rfl

theorem State.sameButHomes_countRead (s : State) (pa kind : Nat) : s.SameButHomes (s.countRead pa kind) := by
  unfold State.countRead
  split <;> exact rfl

/-- What a read finds of errors is noted at the controller of its sector. -/
theorem State.sameButHomes_checkRead (s : State) (pa : Nat) (leaf : Option Nat) : s.SameButHomes (s.checkRead pa leaf) := by
  unfold State.checkRead
  split
  · exact .refl s
  · extract_lets sec health s1 s2
    have retried : s.SameButHomes s1 := by
      unfold s1
      split
      · exact .trans (s.sameButHomes_health _) (State.sameButHomes_countRead _ pa 3)
      · exact .refl s
    have corrected : s1.SameButHomes s2 := by
      unfold s2
      split
      · exact s1.sameButHomes_countRead pa 0
      · exact .refl s1
    refine (retried.trans corrected).trans ?_
    split
    · exact .refl s2
    · split
      · exact .trans (s2.sameButHomes_health _) (State.sameButHomes_countRead _ pa 1)
      · split
        · exact s2.sameButHomes_countRead pa 2
        · exact .refl s2

theorem State.sameButHomes_accessRow (s : State) (line : Nat) : s.SameButHomes (s.accessRow line) := by
  unfold State.accessRow
  split <;> exact rfl

theorem State.sameButHomes_allocate (s : State) (line hint : Nat) : s.SameButHomes (s.allocate line hint) := by
  unfold State.allocate
  split
  · exact .refl s
  · split <;> exact rfl

theorem State.sameButHomes_touchLine (s : State) (line : Nat) : s.SameButHomes (s.touchLine line) := by
  unfold State.touchLine
  split
  · exact .refl s
  · exact s.sameButHomes_accessRow line

theorem State.sameButHomes_fetchData (s : State) (line hint : Nat) : s.SameButHomes (s.fetchData line hint) :=
  (s.sameButHomes_touchLine line).trans (State.sameButHomes_allocate _ line hint)

theorem State.sameButHomes_readLine (s : State) (line : Nat) (leaf : Option Nat) (hint : Nat) :
    s.SameButHomes (s.readLine line leaf hint) := by
  have row := (s.sameButHomes_checkRead (128 * line) leaf).trans (State.sameButHomes_accessRow _ line)
  unfold State.readLine
  split
  · exact s.sameButHomes_allocate line hint
  · dsimp only
    split
    · exact row
    · exact row.trans (State.sameButHomes_allocate _ line hint)

theorem State.sameButHomes_putTlb (s : State) (e : TlbEntry) : s.SameButHomes (s.putTlb e) := by
  unfold State.putTlb
  dsimp only
  split <;> exact rfl

theorem State.sameButHomes_noteTlb (s : State) (v : View) (va : Nat) : s.SameButHomes (s.noteTlb v va) := by
  unfold State.noteTlb
  split
  · exact .refl s
  · refine State.SameButHomes.trans ?_ (.foldl (fun s u => State.sameButHomes_putTlb s _) _ _)
    split
    · exact .refl s
    · exact .foldl (fun s line => State.sameButHomes_fetchData s line 0) _ s

/-- A plain read leaves all but the homes of its lines as it was. -/
theorem State.sameButHomes_touchRead (s : State) (v : View) (va n : Nat) : s.SameButHomes (s.touchRead v va n) := by
  refine State.SameButHomes.foldl (fun (s : State) p => ?_) _ s
  dsimp only
  split
  · split
    · exact (s.sameButHomes_noteTlb v _).trans (State.sameButHomes_readLine _ _ _ 0)
    · exact .refl s
  · exact .refl s

/-! ### Host reads (R56, R60, R61) -/

/-- Where staging is not full, no write waits for room in it. -/
theorem HostSide.blocked_of_not_full {h : HostSide} (hf : h.full = false) : h.blocked = none := by
  simp only [HostSide.full, Bool.or_eq_false_iff] at hf
  simpa using hf.1

theorem hostBehind_of_free {s : State} (hb : s.host.blocked = none) (t : State) : hostBehind s t = .next t := by
  simp [hostBehind, hb]

theorem hostAct_of_room {s : State} (hf : s.host.full = false) (t : State) : hostAct s t = .next t := by
  simp [hostAct, hf]

/-- BAR0 and the register areas are no window on memory. -/
theorem State.hostSpot_bar0 (s : State) (off n : Nat) : s.hostSpot 0 off n = .other := by
  simp [State.hostSpot]

/-- An access that ends in its aperture reaches memory there. -/
theorem State.hostSpot_aperture {s : State} {off n : Nat} (h0 : 0 < n) (ho : off < 2 ^ 36) (hn : off % 2 ^ 33 + n ≤ 2 ^ 33) :
    s.hostSpot 4 off n = .inside (off / 2 ^ 33) (((s.strm (off / 2 ^ 33)).ap.toNat + off % 2 ^ 33) % 2 ^ 64) := by
  unfold State.hostSpot
  rw [if_neg h0.ne', if_neg (by simp), if_pos ⟨rfl, ho⟩]
  exact if_pos hn

/-- An access that goes beyond its aperture crosses windows. -/
theorem State.hostSpot_aperture_crosses {s : State} {off n : Nat} (ho : off < 2 ^ 36) (hn : 2 ^ 33 < off % 2 ^ 33 + n) :
    s.hostSpot 4 off n = .crosses (off / 2 ^ 33) := by
  have h0 : n ≠ 0 := by omega
  unfold State.hostSpot
  rw [if_neg h0, if_neg (by simp), if_pos ⟨rfl, ho⟩]
  exact if_neg (by omega)

/-- The parts of an access lie in it. -/
theorem segments_within {fuel va n : Nat} {p : Nat × Nat} (h : p ∈ segments fuel va n) : va ≤ p.1 ∧ p.1 < va + n := by
  induction fuel generalizing va n with
  | zero => simp [segments] at h
  | succ fuel ih =>
    simp only [segments] at h
    split at h
    · simp at h
    · rcases List.mem_cons.1 h with rfl | h
      · exact ⟨le_rfl, by dsimp only; omega⟩
      · have := ih h
        omega

/-- No bank is held for an access none of whose bytes waits for one. -/
theorem State.hostHeld_eq_nil {s : State} {acc : Acc} {k va n : Nat}
    (h : ∀ i, i < n → ∃ pa leaf, s.resolve (hostView k) acc (va + i) = .ok (.cell pa leaf) ∧ s.rowHeld (pa / 128) = false) :
    s.hostHeld acc k va n = [] := by
  refine List.filterMap_eq_nil_iff.2 fun p hp => ?_
  obtain ⟨hlo, hhi⟩ := segments_within hp
  obtain ⟨pa, leaf, hr, hh⟩ := h (p.1 - va) (by omega)
  rw [Nat.add_sub_cancel' hlo] at hr
  simp [hr, hh]

/-- No write of a stream is pending where none is staged, buffered or cut. -/
theorem State.pendingWrites_eq_nil {s : State} {k : Nat} (hs : s.host.staging = []) (hc : s.host.cuts = [])
    (hi : (s.strm k).ingress = []) : s.pendingWrites k = [] := by
  simp [State.pendingWrites, hs, hc, hi]

/-- With no write pending a host read takes a good byte from memory. -/
theorem State.hostByte_eq {s : State} {k va pa : Nat} {leaf : Option Nat} (hw : s.pendingWrites k = [])
    (hva : va < 13 * 2 ^ 48) (hr : s.resolve (hostView k) .load va = .ok (.cell pa leaf)) (hd : s.dataFault pa leaf = none) :
    s.hostByte k va = some (Memory.get s.mem pa) := by
  simp only [State.hostByte, hr, hd, hw]
  rw [if_neg (Nat.not_le.2 hva)]
  rfl

/-- Elements that are all there make up the list of them. -/
theorem allSome_map {α β : Type} {f : α → Option β} {g : α → β} {l : List α} (h : ∀ a ∈ l, f a = some (g a)) :
    allSome (l.map f) = some (l.map g) := by
  induction l with
  | nil => rfl
  | cons a l ih =>
    simp only [List.map_cons, h a (by simp), allSome, ih fun b hb => h b (by simp [hb]), Option.map_some]

/-- The state once a host read has its answer; none aborts (R60). -/
def State.answered (s : State) (a : Option (List Byte)) : State := { s with host := { s.host with readOut := a } }

section HostRead
variable {s : State} (hb : s.host.blocked = none)
include hb

/-- While the link is down a host read has no effect. -/
theorem exec_hostRead_down (hl : s.host.linkUp = false) : exec .hostRead s = .next s := by
  refine (hostBehind_of_free hb _).trans (congrArg _ ?_)
  simp only [hl]
  split <;> rfl

/-- A read of BAR0 answers with the bytes of its registers. -/
theorem exec_hostRead_bar0 (hl : s.host.linkUp = true) (h0 : s.inp.n1 = 0) (hn : s.inp.n2 + s.inp.n3 ≤ 2 ^ 24) :
    exec .hostRead s = .next (s.answered (some ((List.range s.inp.n3).map fun i => s.registerByte 0 (s.inp.n2 + i)))) := by
  refine (hostBehind_of_free hb _).trans (congrArg _ ?_)
  simp only [h0, hl, hn, State.hostSpot_bar0, State.answered]
  rfl

/-- A read that crosses windows aborts. -/
theorem exec_hostRead_crosses {k : Nat} (hl : s.host.linkUp = true)
    (hs : s.hostSpot s.inp.n1 s.inp.n2 s.inp.n3 = .crosses k) : exec .hostRead s = .next (s.answered none) := by
  refine (hostBehind_of_free hb _).trans (congrArg _ ?_)
  simp [hs, hl, State.answered]

/-- A read of memory that waits for no bank answers with its bytes, if every one can be had. -/
theorem exec_hostRead_inside {k va : Nat} (hl : s.host.linkUp = true)
    (hs : s.hostSpot s.inp.n1 s.inp.n2 s.inp.n3 = .inside k va) (hva : va + s.inp.n3 ≤ 13 * 2 ^ 48)
    (hh : s.hostHeld .load k va s.inp.n3 = []) :
    exec .hostRead s = .next ((s.touchRead (hostView k) va s.inp.n3).hostServed.answered
      (allSome ((List.range s.inp.n3).map fun i => s.hostByte k (va + i)))) := by
  refine (hostBehind_of_free hb _).trans (congrArg _ ?_)
  simp only [hs, hl, hva, hh, if_true]
  rfl

end HostRead

/-- The first word of BAR0 holds the device's identity (R56). -/
theorem State.registerByte_id (s : State) {i : Nat} (h : i < 4) :
    s.registerByte 0 i = BitVec.ofNat 8 (0x01010640 / 2 ^ (8 * i)) := by
  simp [State.registerByte, State.bar0Word, Nat.div_eq_of_lt h, Nat.mod_eq_of_lt h]

theorem State.registerBytes_id (s : State) :
    (List.range 4).map (fun i => s.registerByte 0 (0 + i)) = [0x40#8, 0x06#8, 0x01#8, 0x01#8] := by
  have bytes : (List.range 4).map (fun i => s.registerByte 0 (0 + i)) =
      (List.range 4).map (fun i => BitVec.ofNat 8 (0x01010640 / 2 ^ (8 * i))) :=
    List.map_congr_left fun i hi => by rw [Nat.zero_add, s.registerByte_id (List.mem_range.1 hi)]
  rw [bytes]
  decide

/-! ### Register writes (R8, R9, R49, R58) -/

section RegisterWrite
variable {s : State} (hf : s.host.full = false)
include hf

theorem exec_registerWrite_bar0 (h0 : s.inp.n1 = 0) :
    exec .registerWrite s = .next (s.writeBar0 s.inp.n2 s.inp.v.toNat s.inp.bytes) := by
  refine (hostAct_of_room hf _).trans (congrArg _ ?_)
  simp [h0]

theorem exec_registerWrite_bar2 (h2 : s.inp.n1 = 2) (ho : s.inp.n2 < 2 ^ 26) :
    exec .registerWrite s = .next (s.writeStream s.inp.n2 s.inp.v.toNat) := by
  refine (hostAct_of_room hf _).trans (congrArg _ ?_)
  simp only [h2, if_pos ho]

end RegisterWrite

theorem State.writeBar0_evtVec (s : State) (v : W64) (bs : List Byte) :
    s.writeBar0 0x1008 v.toNat bs = { s with host := { s.host with evtVec := v.setWidth 6 } } := by
  simp [State.writeBar0]

/-- Writing 1 to the refusal bit of PWRSTAT clears it (R133). -/
theorem State.writeBar0_pwrstat (s : State) (v : W64) (bs : List Byte) :
    s.writeBar0 0x10108 v.toNat bs = { s with pow := { s.pow with refused := s.pow.refused && !v.getLsbD 30 } } := by
  simp [State.writeBar0, State.writeEnergy, bit_toNat]

/-- FABAUDIT takes a period of 1 to 1,000 ms and discards any other (R9, R49). -/
theorem State.writeBar0_fabaudit (s : State) (v : W64) (bs : List Byte) :
    s.writeBar0 0x21800 v.toNat bs =
      if 1 ≤ (v.extractLsb' 0 10).toNat ∧ (v.extractLsb' 0 10).toNat ≤ 1000 then
        { s with fab := { s.fab with auditMs := (v.extractLsb' 0 10).toNat } }
      else s := by
  simp [State.writeBar0, State.writeFabric, fieldN_toNat]

/-- The identity is read-only (R56). -/
theorem State.writeBar0_id (s : State) (v : Nat) (bs : List Byte) : s.writeBar0 0 v bs = s := by
  simp [State.writeBar0]

theorem State.writeStream_errVec (s : State) (k : Nat) (v : W64) :
    s.writeStream (k * 2 ^ 23 + 0x400024) v.toNat = s.setStrm k { s.strm k with errVec := v.setWidth 6 } := by
  have hq : (k * 2 ^ 23 + 0x400024) / 2 ^ 23 = k := by omega
  have hr : (k * 2 ^ 23 + 0x400024) % 2 ^ 23 = 0x400024 := by omega
  simp only [State.writeStream, hq, hr]
  simp [State.modStrm]

/-! ### The statements -/

/-- Settles O26: under its guard each op is its read or its write, `State.writeCsr` splits by mode and reserved value, and
each register is read as its landed write left it. -/
theorem controlRegisters : Obligations.ControlRegisters := by
  unfold Obligations.ControlRegisters
  refine ⟨fun s g d c hg ht hs => ⟨exec_csrr_of_guard hg d c, fun hm => ⟨fun hr => ?_, fun hr => ?_, fun hd hr => ?_,
    fun hd hr => ?_, ?_⟩, fun hm hn => ?_⟩, fun s n v hf => ?_⟩
  · rw [exec_csrw_of_guard hg, State.writeCsr_issues _ hs hm hr]
  · rw [exec_csrw_of_guard hg, State.writeCsr_reserved _ hm hr]
  · rw [exec_csrs_of_guard hg, if_neg hd, State.writeCsr_issues _ hs hm hr]
  · rw [exec_csrc_of_guard hg, if_neg hd, State.writeCsr_issues _ hs hm hr]
  · intro hd
    rw [exec_csrs_of_guard hg, exec_csrc_of_guard hg, if_pos hd, if_pos hd]
    exact ⟨rfl, rfl⟩
  · refine ⟨s.privilege 0x04, ?_, State.trap_mem s _, State.trap_scalar s _, ?_⟩
    · rw [exec_csrw_of_guard hg, State.writeCsr_privilege _ _ hm hn]
    · rw [State.privilege, State.trap_of_none ht]; rfl
  · obtain ⟨hcause, haddr, hinfo⟩ := State.csr_setCsr_trap hf v
    obtain ⟨hfflags, hfrm, hseed, hlfsr⟩ := State.csr_setCsr_arith hf v
    exact ⟨State.csr_setCsr_vtype hf v, hfflags, hfrm, hseed, hlfsr, hcause, haddr, hinfo, State.csr_setCsr_pegaddr hf v,
      State.csr_setCsr_framevec hf v, State.csr_setCsr_mode hf v, State.csr_setCsr_linksub hf v,
      fun k h1 h2 => State.setCsr_readOnly s h1 h2 v⟩

/-- Settles O52: a read goes by the place that its bytes touch, and one of memory answers with memory's bytes, since no
write is pending, no bank is held, and the access changes the homes of the lines alone. -/
theorem hostReadsAndRegisters : Obligations.HostReadsAndRegisters := by
  unfold Obligations.HostReadsAndRegisters
  intro s hf
  have hb := HostSide.blocked_of_not_full hf
  refine ⟨exec_hostRead_down hb, fun hl hn ho hlen => ?_, fun hl hn ho hx => ?_,
    fun va pa hl hn ho h0 hlen hst hcut hin hva hbytes => ?_,
    fun hn ho => ?_, fun hn ho => ?_, fun hn ho => ?_, fun hn ho => ?_, fun k hk hn ho => ?_⟩
  · rw [exec_hostRead_bar0 hb hl hn (by omega), ho, hlen, State.registerBytes_id]; rfl
  · exact exec_hostRead_crosses hb hl (hn ▸ State.hostSpot_aperture_crosses ho hx)
  · have hend : va + s.inp.n3 ≤ 13 * 2 ^ 48 := by
      have := (hbytes (s.inp.n3 - 1) (by omega)).1
      omega
    have hheld : s.hostHeld .load (s.inp.n2 / 2 ^ 33) va s.inp.n3 = [] := State.hostHeld_eq_nil fun i hi => by
      obtain ⟨-, hrow, leaf, hres, -⟩ := hbytes i hi
      exact ⟨_, leaf, hres, hrow⟩
    have hout : allSome ((List.range s.inp.n3).map fun i => s.hostByte (s.inp.n2 / 2 ^ 33) (va + i)) =
        some ((List.range s.inp.n3).map fun i => Memory.get s.mem (pa + i)) := allSome_map fun i hi => by
      obtain ⟨hlt, -, leaf, hres, hgood⟩ := hbytes i (List.mem_range.1 hi)
      exact State.hostByte_eq (State.pendingWrites_eq_nil hst hcut hin) hlt hres hgood
    have hspot : s.hostSpot s.inp.n1 s.inp.n2 s.inp.n3 = .inside (s.inp.n2 / 2 ^ 33) va := by
      rw [hn, hva]
      exact State.hostSpot_aperture h0 ho hlen
    have same := s.sameButHomes_touchRead (hostView (s.inp.n2 / 2 ^ 33)) va s.inp.n3
    exact ⟨_, exec_hostRead_inside hb hl hspot hend hheld, same.mem_eq, same.cores_eq, hout⟩
  · rw [exec_registerWrite_bar0 hf hn, ho, State.writeBar0_evtVec]
  · rw [exec_registerWrite_bar0 hf hn, ho, State.writeBar0_pwrstat]
  · rw [exec_registerWrite_bar0 hf hn, ho, State.writeBar0_fabaudit]
    exact ⟨fun h1 h2 => by rw [if_pos ⟨h1, h2⟩], fun h => by rw [if_neg (by omega)]⟩
  · rw [exec_registerWrite_bar0 hf hn, ho, State.writeBar0_id]
  · rw [exec_registerWrite_bar2 hf hn (by omega), ho, State.writeStream_errVec]

end Sys2Proof.Machine
end

section
/-! PROOFS. Boot, the power inputs, rails and diodes: what a fold over keyed parts leaves, what changes of routes and
device events leave as they were, and the statements about boot and about a thermal poll. -/

namespace Sys2Proof.Machine

open Sys2Proof.Bits

/-! ### Keyed lists and memory under a change of every entry -/

/-- Changing every entry changes the one that is found. -/
theorem find?_map {α β : Type} (g : Nat → α → β) (l : List (Nat × α)) (k : Nat) :
    find? (l.map fun e => (e.1, g e.1 e.2)) k = (find? l k).map (g k) := by
  induction l with
  | nil => rfl
  | cons e l ih =>
    simp only [List.map_cons, find?, ih]
    split
    · next h => rw [h, Option.map_some]
    · rfl

/-- A list keyed by its own numbers gives each number's entry. -/
theorem find?_map_self {α : Type} (f : Nat → α) {l : List Nat} {k : Nat} (h : k ∈ l) :
    find? (l.map fun n => (n, f n)) k = some (f k) := by
  induction l with
  | nil => simp at h
  | cons n l ih =>
    simp only [List.map_cons, find?]
    split
    · next hn => rw [hn]
    · next hn => exact ih ((List.mem_cons.1 h).resolve_left (Ne.symm hn))

/-- Keeping the bytes at some addresses keeps what is read there; everywhere else 0 is read. -/
theorem Memory.get_filter (p : Nat → Bool) (m : List Host.Cell) (x : Nat) :
    Memory.get (m.filter fun c => p c.1) x = if p x then Memory.get m x else 0#8 := by
  induction m with
  | nil => simp [Memory.get]
  | cons c m ih =>
    obtain ⟨a, v⟩ := c
    by_cases ha : a = x
    · subst ha
      by_cases hp : p a = true
      · simp [Memory.get, hp]
      · simpa [hp] using ih
    · by_cases hp : p a = true
      · simp [Memory.get, ha, hp, ih]
      · simp [Memory.get, ha, hp, ih]

/-- A fold reaches what one of its entries brings about and every entry keeps. -/
theorem foldl_of_mem {α β : Type} {g : β → α → β} {P : β → Prop} {a : α} (brings : ∀ b, P (g b a))
    (keeps : ∀ b c, P b → P (g b c)) {l : List α} (ha : a ∈ l) (b : β) : P (l.foldl g b) := by
  induction l generalizing b with
  | nil => simp at ha
  | cons c l ih =>
    rcases List.mem_cons.1 ha with rfl | ha
    · exact List.foldlRecOn l g (brings b) fun b hb c _ => keeps b c hb
    · exact ih ha (g b c)

/-! ### Device events and route changes (R41, R68) -/

/-- One state differs from another at most in the host's side, and there in nothing of boot. -/
def State.SameButPosts (s t : State) : Prop := t = { s with host := t.host } ∧ t.host.boot = s.host.boot

theorem State.SameButPosts.trans {s t u : State} (h1 : s.SameButPosts t) (h2 : t.SameButPosts u) : s.SameButPosts u :=
  ⟨Eq.trans h2.1 (by rw [h1.1]), h2.2.trans h1.2⟩

theorem State.sameButPosts_setNq (s : State) (v : Nat) (q : NotifQ) : s.SameButPosts (s.setNq v q) := ⟨rfl, rfl⟩
theorem State.sameButPosts_setMsix (s : State) (v : Nat) (m : Msix) : s.SameButPosts (s.setMsix v m) := ⟨rfl, rfl⟩
theorem State.sameButPosts_hostWrite (s : State) (a : Nat) (bs : List Byte) : s.SameButPosts (s.hostWrite a bs) := ⟨rfl, rfl⟩

theorem State.sameButPosts_message (s : State) (v : Nat) : s.SameButPosts (s.message v) := by
  unfold State.message
  dsimp only
  split
  · exact s.sameButPosts_setMsix v _
  · exact (s.sameButPosts_hostWrite _ _).trans ⟨rfl, rfl⟩

theorem State.sameButPosts_putRecord (s : State) (n : Notif) : s.SameButPosts (s.putRecord n) := by
  unfold State.putRecord
  extract_lets q s1 s2 m
  have written : s.SameButPosts s2 := (s.sameButPosts_hostWrite _ _).trans (s1.sameButPosts_setNq _ _)
  split
  · exact written.trans (s2.sameButPosts_message _)
  · split
    · exact written
    · exact written.trans (s2.sameButPosts_setMsix _ _)

/-- A device event changes the host's side alone, and nothing of boot. -/
theorem State.sameButPosts_post (s : State) (code detail : Nat) : s.SameButPosts (s.post code detail) := by
  unfold State.post State.event
  split
  · exact s.sameButPosts_putRecord _
  · exact s.sameButPosts_setNq _ _

theorem State.post_eq (s : State) (code detail : Nat) : s.post code detail = { s with host := (s.post code detail).host } :=
  (s.sameButPosts_post code detail).1

@[simp] theorem State.post_boot (s : State) (code detail : Nat) : (s.post code detail).host.boot = s.host.boot :=
  (s.sameButPosts_post code detail).2
@[simp] theorem State.post_mem (s : State) (code detail : Nat) : (s.post code detail).mem = s.mem := by rw [s.post_eq]
@[simp] theorem State.post_pkg (s : State) (code detail : Nat) : (s.post code detail).pkg = s.pkg := by rw [s.post_eq]
@[simp] theorem State.post_ctxs (s : State) (code detail : Nat) : (s.post code detail).ctxs = s.ctxs := by rw [s.post_eq]

/-- One state differs from another at most in the fabric. -/
def State.SameButFab (s t : State) : Prop := t = { s with fab := t.fab }

theorem State.SameButFab.trans {s t u : State} (h1 : s.SameButFab t) (h2 : t.SameButFab u) : s.SameButFab u :=
  Eq.trans h2 (by rw [h1])

theorem State.SameButFab.foldl {β : Type} {f : State → β → State} (hf : ∀ (s : State) b, s.SameButFab (f s b)) (l : List β)
    (s : State) : s.SameButFab (l.foldl f s) :=
  List.foldlRecOn (motive := s.SameButFab) l f rfl fun t ht b _ => ht.trans (hf t b)

theorem State.sameButFab_rewriteRoutes (s : State) : s.SameButFab s.rewriteRoutes := by
  refine .foldl (fun s p => .foldl (fun s ch => ?_) _ s) _ s
  dsimp only
  split <;> exact rfl

theorem State.sameButFab_requestRate (s : State) (n step : Nat) : s.SameButFab (s.requestRate n step).1 := by
  unfold State.requestRate
  dsimp only
  split
  · exact rfl
  · split
    · exact rfl
    · exact rfl
    · split <;> exact rfl
    · exact rfl

theorem State.sameButFab_takeHeld (s : State) (n : Nat) : s.SameButFab (s.takeHeld n) := by
  unfold State.takeHeld
  dsimp only
  split
  · exact rfl
  · exact .trans (t := s.setLink n _) rfl (State.sameButFab_requestRate _ n _)

theorem State.sameButFab_gateLinks (s : State) (d : Nat) : s.SameButFab (s.gateLinks d) :=
  .trans (.foldl (fun s n => .trans (t := s.setLink n _) rfl (State.sameButFab_takeHeld _ n)) _ s)
    (State.sameButFab_rewriteRoutes _)

@[simp] theorem State.gateLinks_mem (s : State) (d : Nat) : (s.gateLinks d).mem = s.mem := by rw [s.sameButFab_gateLinks d]
@[simp] theorem State.gateLinks_pkg (s : State) (d : Nat) : (s.gateLinks d).pkg = s.pkg := by rw [s.sameButFab_gateLinks d]
@[simp] theorem State.gateLinks_ctxs (s : State) (d : Nat) : (s.gateLinks d).ctxs = s.ctxs := by rw [s.sameButFab_gateLinks d]

/-! ### Boot: the ROM phase and the records phase (R69, R70) -/

theorem exec_deviceStart (s : State) : exec .deviceStart s = execDeviceStart s := rfl
theorem exec_deviceStart_rom {s : State} (ha : s.host.boot.aux = true) (h : s.host.boot.phase = 0) :
    exec .deviceStart s = .next s.bootRom := by simp [exec_deviceStart, execDeviceStart, ha, h]
theorem exec_deviceStart_records {s : State} (ha : s.host.boot.aux = true) (h : s.host.boot.phase = 1) :
    exec .deviceStart s = .next s.bootRecords := by simp [exec_deviceStart, execDeviceStart, ha, h]
theorem exec_deviceStart_bringUp {s : State} (ha : s.host.boot.aux = true) (h : s.host.boot.phase = 2) :
    exec .deviceStart s = .next s.bringUp := by simp [exec_deviceStart, execDeviceStart, ha, h]

/-- The state as the ROM phase leaves it but for PHASE and FAIL. -/
def State.romEntered (s : State) : State :=
  let b := s.host.boot
  { s with tick := 0, host := { s.host with boot := { b with
    main := true, fail := 0, slotB := !b.fwA.ok, h1ok := s.inp.ok3 && (b.fwA.ok || b.fwB.ok) } } }

/-- Where no firmware image verifies boot fails with 1. -/
theorem State.bootRom_unverified {s : State} (hA : s.host.boot.fwA.ok = false) (hB : s.host.boot.fwB.ok = false) :
    s.bootRom = s.romEntered.bootFails 1 :=
  if_pos (by rw [hA, hB]; rfl)

/-- With a firmware image that verifies boot fails with 5 where H0 fails its self-test, and else goes on. -/
theorem State.bootRom_verified {s : State} (h : s.host.boot.fwA.ok = true ∨ s.host.boot.fwB.ok = true) :
    s.bootRom = if s.inp.n1 = 1 then s.romEntered.bootFails 5 else s.romEntered.setPhase 1 :=
  if_neg (by rcases h with h | h <;> simp [h])

theorem recordsFail_nil : recordsFail [] = some 4 := rfl

/-- A single record of a kind that boot needs fails boot with the code it is refused with. -/
theorem recordsFail_refused {r : List Byte} (hk : recordKind r ∈ [1, 5, 6]) (hc : recordCode r ≠ 0) :
    recordsFail [r] = some (recordCode r) := by
  have hit : ([1, 5, 6].contains (recordKind r) && recordCode r != 0) = true := by
    simp only [Bool.and_eq_true, bne_iff_ne, List.contains_iff_mem]
    exact ⟨hk, hc⟩
  simp only [recordsFail, List.find?_cons_of_pos (p := fun r => [1, 5, 6].contains (recordKind r) && recordCode r != 0) hit]

/-- Boot goes on where each of the kinds it needs is there and none of them is refused. -/
theorem recordsFail_eq_none {rs : List (List Byte)}
    (h : ∀ k ∈ [1, 5, 6], (∃ r ∈ rs, recordKind r = k) ∧ ∀ r ∈ rs, recordKind r = k → recordCode r = 0) :
    recordsFail rs = none := by
  have good : rs.find? (fun r => [1, 5, 6].contains (recordKind r) && recordCode r != 0) = none := by
    refine List.find?_eq_none.2 fun r hr hit => ?_
    simp only [Bool.and_eq_true, bne_iff_ne, List.contains_iff_mem] at hit
    exact hit.2 ((h _ hit.1).2 r hr rfl)
  have there : [1, 5, 6].all (fun k => rs.any fun r => recordKind r == k) = true :=
    List.all_eq_true.2 fun k hk => List.any_eq_true.2 <| by
      obtain ⟨r, hr, hrk⟩ := (h k hk).1
      exact ⟨r, hr, beq_iff_eq.2 hrk⟩
  simp only [recordsFail, good, there, if_true]

@[simp] theorem State.postRefusals_mem (s : State) : s.postRefusals.mem = s.mem := by
  refine List.foldlRecOn (motive := fun t : State => t.mem = s.mem) _ _
    (List.foldlRecOn (motive := fun t : State => t.mem = s.mem) _ _ rfl fun t ht r _ => ?_) fun t ht k _ => ?_
  · rw [apply_ite State.mem, State.post_mem, ite_self, ht]
  · rw [apply_ite State.mem, State.post_mem, ite_self, ht]

/-- The records phase ends with a FAIL code or goes on to bring-up, whatever refusals it posts. -/
theorem State.bootRecords_fails {s : State} {c : Nat} (h : recordsFail s.host.boot.records = some c) :
    s.bootRecords = s.postRefusals.bootFails c := by
  rw [State.bootRecords, h]
theorem State.bootRecords_passes {s : State} (h : recordsFail s.host.boot.records = none) :
    s.bootRecords = s.postRefusals.setPhase 2 := by
  rw [State.bootRecords, h]

/-! ### Bring-up (R69, R200) -/

/-- The target that a rail's record gives lies in the rail's range (R17). -/
theorem railFrom_vh_target (r : List Byte) (now : Nat) :
    780 ≤ (railFrom r false now).target ∧ (railFrom r false now).target ≤ 920 := by
  simp only [railFrom, Bool.false_eq_true, if_false]
  split <;> omega
theorem railFrom_vl_target (r : List Byte) (now : Nat) :
    550 ≤ (railFrom r true now).target ∧ (railFrom r true now).target ≤ 700 := by
  simp only [railFrom, if_true]
  split <;> omega

/-- At bring-up a rail ramps from 0 mV. -/
theorem railFrom_present (r : List Byte) (vl : Bool) (now : Nat) : (railFrom r vl now).present now = 0 := by
  simp [Rail.present, railFrom]

/-- What a die's failure at bring-up leaves as it was: memory, the contexts and the rails. -/
structure State.FailureKeeps (s t : State) : Prop where
  mem : t.mem = s.mem
  ctxs : t.ctxs = s.ctxs
  vh : t.pkg.vh = s.pkg.vh
  vl : t.pkg.vl = s.pkg.vl

theorem State.failureKeeps_failDie (s : State) (d : Nat) : s.FailureKeeps (s.failDie d) := by
  constructor <;> simp [State.failDie, State.setDie, State.clearDiodes]

theorem State.FailureKeeps.trans {s t u : State} (h1 : s.FailureKeeps t) (h2 : t.FailureKeeps u) : s.FailureKeeps u :=
  ⟨h2.mem.trans h1.mem, h2.ctxs.trans h1.ctxs, h2.vh.trans h1.vh, h2.vl.trans h1.vl⟩

/-- A die that fails its self-test is gated, and the others are as they were. -/
theorem State.failDie_dies (s : State) (d : Nat) :
    (s.failDie d).pkg.dies = put s.pkg.dies d { s.die d with power := .gated, failed := true } := by
  simp [State.failDie, State.setDie, State.clearDiodes]
theorem State.failDie_gated (s : State) (d : Nat) : ((s.failDie d).die d).power = .gated := by
  simp [State.die, State.failDie_dies]
theorem State.failDie_keeps_gated {s : State} {e : Nat} (d : Nat) (h : (s.die e).power = .gated) :
    ((s.failDie d).die e).power = .gated := by
  by_cases he : e = d
  · rw [he]; exact s.failDie_gated d
  · rw [State.die, s.failDie_dies, find?_put_ne _ _ he]; exact h

/-- The root table's words go to their contexts. -/
theorem State.writeRoots_ctx (s : State) (bs : List Byte) {k : Nat} (hk : k < 8) :
    ((s.writeRoots bs).ctx k).root = BitVec.ofNat 64 (fieldAt bs (8 * k) 8) := by
  refine foldl_of_mem (P := fun t : State => (t.ctx k).root = BitVec.ofNat 64 (fieldAt bs (8 * k) 8)) (a := k) ?_ ?_
    (List.mem_range.2 hk) s
  · intro t
    rw [State.ctx_setCtx]
  · intro t j ht
    by_cases hj : k = j
    · rw [← hj, State.ctx_setCtx]
    · rw [State.ctx_setCtx_ne _ _ hj]; exact ht

/-- The root table is written where it is whole: nothing but the contexts changes. -/
def State.rootsWritten (s : State) : State := if s.inp.bytes.length = 64 then s.writeRoots s.inp.bytes else s

theorem State.rootsWritten_eq (s : State) : s.rootsWritten = { s with ctxs := s.rootsWritten.ctxs } := by
  unfold State.rootsWritten
  split
  · exact List.foldlRecOn (motive := fun t : State => t = { s with ctxs := t.ctxs }) _ _ rfl fun t ht k _ => by
      unfold State.setCtx; rw [ht]
  · rfl

theorem State.bringUp_eq (s : State) : s.bringUp =
    ((s.inp.nums.filter (fun d => decide (d < 10))).foldl State.failDie s.applyRecords.rootsWritten).setPhase 3 := by
  have hinp : s.applyRecords.rootsWritten.inp = s.inp := by rw [State.rootsWritten_eq]; rfl
  rw [← hinp]
  rfl

theorem State.failureKeeps_bringUp (s : State) : s.applyRecords.rootsWritten.FailureKeeps s.bringUp := by
  rw [s.bringUp_eq]
  have failed : s.applyRecords.rootsWritten.FailureKeeps
      ((s.inp.nums.filter (fun d => decide (d < 10))).foldl State.failDie s.applyRecords.rootsWritten) :=
    List.foldlRecOn (motive := s.applyRecords.rootsWritten.FailureKeeps) _ State.failDie ⟨rfl, rfl, rfl, rfl⟩
      fun t ht d _ => ht.trans (t.failureKeeps_failDie d)
  exact ⟨failed.mem, failed.ctxs, failed.vh, failed.vl⟩

theorem State.bringUp_mem (s : State) : s.bringUp.mem = s.mem := by
  rw [s.failureKeeps_bringUp.mem, State.rootsWritten_eq]; rfl
/-- The rails ramp as their record gives it, whichever dies fail. -/
theorem State.bringUp_vh (s : State) : s.bringUp.pkg.vh = s.applyRecords.pkg.vh := by
  rw [s.failureKeeps_bringUp.vh, State.rootsWritten_eq]
theorem State.bringUp_vl (s : State) : s.bringUp.pkg.vl = s.applyRecords.pkg.vl := by
  rw [s.failureKeeps_bringUp.vl, State.rootsWritten_eq]

theorem State.bringUp_gated (s : State) {d : Nat} (hd : d ∈ s.inp.nums) (h : d < 10) : (s.bringUp.die d).power = .gated := by
  rw [s.bringUp_eq]
  exact foldl_of_mem (P := fun t : State => (t.die d).power = .gated) (fun t => t.failDie_gated d)
    (fun t e ht => State.failDie_keeps_gated e ht) (List.mem_filter.2 ⟨hd, decide_eq_true h⟩) _

/-- With the limits of the links the links train, without them they are disabled. -/
theorem State.bringUp_link (s : State) (hn : s.inp.nums = []) {l : Nat} (hl : l < 24) :
    (s.bringUp.link l).st = if (usable s.host.boot.records 3).isSome then .retrain else .down := by
  have hlink : s.bringUp.link l = linkFrom (usable s.host.boot.records 3) l := by
    rw [s.bringUp_eq, hn]
    change (find? (State.rootsWritten _).fab.links l).getD {} = _
    rw [State.rootsWritten_eq]
    change (find? ((List.range 24).map fun n => (n, linkFrom (usable s.host.boot.records 3) n)) l).getD {} = _
    rw [find?_map_self _ (List.mem_range.2 hl)]
    rfl
  rw [hlink]
  cases usable s.host.boot.records 3 <;> rfl

theorem State.bringUp_ctx (s : State) (hb : s.inp.bytes.length = 64) {k : Nat} (hk : k < 8) :
    (s.bringUp.ctx k).root = BitVec.ofNat 64 (fieldAt s.inp.bytes (8 * k) 8) := by
  have hroots : s.applyRecords.rootsWritten = s.applyRecords.writeRoots s.inp.bytes :=
    if_pos (c := s.applyRecords.inp.bytes.length = 64) hb
  rw [State.ctx, s.failureKeeps_bringUp.ctxs, hroots]
  exact s.applyRecords.writeRoots_ctx _ hk

/-! ### The end of bring-up (R69, R72) -/

/-- A measurement is logged, the newest last. -/
theorem State.measure_log_ne_nil (s : State) (kind : Nat) (hash : List Byte) : (s.measure kind hash).host.att.log ≠ [] := by
  unfold State.measure
  refine List.ne_nil_of_length_pos ?_
  simp only [List.length_drop, List.length_append, List.length_singleton]
  omega

/-- The measurements of boot: the firmware image, then each accepted record. -/
def State.measured (s : State) : State :=
  let b := s.host.boot
  (b.records.filter (fun r => recordCode r == 0)).foldl (fun s r => s.measure 2 (Sha.sha256 r))
    (s.measure 1 (Sha.sha256 (if b.slotB then b.fwB.body else b.fwA.body)))

theorem State.measure_mem (s : State) (kind : Nat) (hash : List Byte) : (s.measure kind hash).mem = s.mem := by
  unfold State.measure; rfl

theorem State.measured_mem (s : State) : s.measured.mem = s.mem := by
  unfold State.measured
  exact List.foldlRecOn (motive := fun t : State => t.mem = s.mem) _ _ (s.measure_mem _ _)
    fun t ht r _ => (t.measure_mem _ _).trans ht

theorem State.measured_log_ne_nil (s : State) : s.measured.host.att.log ≠ [] := by
  unfold State.measured
  exact List.foldlRecOn (motive := fun t : State => t.host.att.log ≠ []) _ _ (s.measure_log_ne_nil _ _)
    fun t _ r _ => t.measure_log_ne_nil _ _

theorem exec_bootReady_up {s : State} (h : s.host.boot.phase = 3) (hu : s.broughtUp = true) :
    exec .bootReady s = .next (s.measured.setPhase 4) :=
  congrArg Host.Outcome.next (if_neg (by simp [h, hu]))

theorem exec_bootReady_waits {s : State} (hu : s.broughtUp = false) : exec .bootReady s = .next s :=
  congrArg Host.Outcome.next (if_pos (by simp [hu]))

/-! ### The power inputs (R16, R199, R215, R222) -/

/-- The cells of the LPDDR-6 tier. -/
theorem isLpddr_iff (x : Nat) : isLpddr x = true ↔ 16 * 2 ^ 40 ≤ x ∧ x < 20 * 2 ^ 40 := by
  simp [isLpddr, isTier, tierBase, and_comm]

theorem Task.loseCask_area {t : Task} {c : Cask} (h : t.loseCask.cask = some c) : c.area = false := by
  unfold Task.loseCask at h
  split at h
  · cases h
  · next hn => simpa [h] using hn

/-- A change of every listed context shows in the root that is read, where it keeps the root of a context not listed. -/
theorem root_find?_map {l : List (Nat × Context)} {g : Context → Context} {f : W64 → W64} (h0 : f 0#64 = 0#64)
    (h : ∀ c, (g c).root = f c.root) (k : Nat) :
    ((find? (l.map fun e => (e.1, g e.2)) k).getD {}).root = f ((find? l k).getD {}).root := by
  rw [find?_map fun _ => g]
  cases find? l k
  · exact h0.symm
  · exact h _

/-! ### The diodes of a die that is gated (R22, R26) -/

/-- No invalid conversion of a diode is noted. -/
def State.Settled (s : State) (i : Nat) : Prop := (s.diode i).invalid = 0

theorem State.Settled.of_diodes {s t : State} {i : Nat} (h : s.Settled i) (hd : t.pkg.diodes = s.pkg.diodes) : t.Settled i := by
  rw [State.Settled, State.diode, hd]; exact h

/-- Of a die's diodes the faults and the count of invalid conversions are cleared, of the others nothing changes. -/
theorem State.diode_clearDiodes (s : State) (d i : Nat) : (s.clearDiodes d).diode i =
    if i / 8 = d ∧ i < 80 ∨ 80 ≤ i ∧ (i - 80) / 4 = d then { s.diode i with fault := false, invalid := 0 } else s.diode i := by
  have entry (e : Nat × Diode) :
      (if e.1 / 8 = d ∧ e.1 < 80 ∨ 80 ≤ e.1 ∧ (e.1 - 80) / 4 = d then (e.1, { e.2 with fault := false, invalid := 0 }) else e) =
        (e.1, if e.1 / 8 = d ∧ e.1 < 80 ∨ 80 ≤ e.1 ∧ (e.1 - 80) / 4 = d then { e.2 with fault := false, invalid := 0 }
          else e.2) := by split <;> rfl
  simp only [State.diode, State.clearDiodes, entry]
  rw [find?_map fun j (x : Diode) =>
    if j / 8 = d ∧ j < 80 ∨ 80 ≤ j ∧ (j - 80) / 4 = d then { x with fault := false, invalid := 0 } else x]
  cases find? s.pkg.diodes i
  · simp only [Option.map_none, Option.getD_none, ite_self]
  · rfl

theorem State.settled_clearDiodes (s : State) {d i : Nat} (hi : i < 80) (hd : i / 8 = d) : (s.clearDiodes d).Settled i := by
  rw [State.Settled, s.diode_clearDiodes, if_pos (.inl ⟨hd, hi⟩)]

theorem State.Settled.clearDiodes {s : State} {i : Nat} (h : s.Settled i) (d : Nat) : (s.clearDiodes d).Settled i := by
  rw [State.Settled, s.diode_clearDiodes]
  split
  · rfl
  · exact h

theorem State.loseDie_diodes (s : State) (d : Nat) : (s.loseDie d).pkg.diodes = (s.clearDiodes d).pkg.diodes := by
  unfold State.loseDie
  extract_lets cores gone h s1 fab s2 s3 s4
  have vacated : s4.pkg = s3.pkg :=
    List.foldlRecOn (motive := fun t : State => t.pkg = s3.pkg) cores _ rfl fun t ht n _ => ht
  change s4.pkg.diodes = _
  rw [vacated]
  rfl

/-- What a gating does to the diodes is the clearing of its die's. -/
theorem State.gateNow_diodes (s : State) (d : Nat) : (s.gateNow d).pkg.diodes = (s.clearDiodes d).pkg.diodes := by
  unfold State.gateNow
  extract_lets x s1 pkg s2 s3 s4 pow s5
  have lost : s2.pkg.diodes = (s.clearDiodes d).pkg.diodes := s.loseDie_diodes d
  have gated : s3.pkg = s2.pkg := s2.gateLinks_pkg d
  have posted : s4.pkg = s3.pkg := s3.post_pkg 0x0608 d
  clear_value s4 s3
  split
  · rw [gated, lost]
  · have gone : s5.pkg.diodes = (s.clearDiodes d).pkg.diodes := by
      change s4.pkg.diodes = _
      rw [posted, gated, lost]
    split <;> exact gone

theorem State.giveUpGate_diodes (s : State) (d reason : Nat) : (s.giveUpGate d reason).pkg.diodes = s.pkg.diodes := by
  unfold State.giveUpGate
  extract_lets x s1 pow s2
  split <;> rfl

/-- A die that may be gated, 250 µs after the last gating, is gated: its diodes note no invalid conversion any more. -/
theorem State.settled_gateDue {s : State} {d i : Nat} (hg : s.gateable d = true) (ht : s.gateTime = true) (hi : i < 80)
    (hd : i / 8 = d) : (s.gateDue d).Settled i := by
  rw [State.gateDue, if_neg (by simp [hg]), if_pos ht]
  exact (s.settled_clearDiodes hi hd).of_diodes (s.gateNow_diodes d)

theorem State.Settled.gateDue {s : State} {i : Nat} (h : s.Settled i) (d : Nat) : (s.gateDue d).Settled i := by
  unfold State.gateDue
  split
  · exact h.of_diodes (s.giveUpGate_diodes d 4)
  · split
    · exact (h.clearDiodes d).of_diodes (s.gateNow_diodes d)
    · exact h.of_diodes rfl

/-! ### Drains (R42) -/

theorem State.startDrain_pkg (s : State) (routers : List Nat) (task gate : Option Nat) :
    (s.startDrain routers task gate).pkg = s.pkg := by
  unfold State.startDrain
  split
  · rfl
  · extract_lets n d fab s1 s2
    have injected : s2.pkg = s.pkg :=
      List.foldlRecOn (motive := fun t : State => t.pkg = s.pkg) d.markers _ rfl fun t ht m _ => ht
    cases task <;> exact injected

theorem State.startDrains_pkg (s : State) : s.startDrains.pkg = s.pkg := by
  refine List.foldlRecOn (motive := fun t : State => t.pkg = s.pkg) _ _
    (List.foldlRecOn (motive := fun t : State => t.pkg = s.pkg) _ _ rfl fun t ht k _ => ?_) fun t ht d _ => ?_
  · split
    · split
      · rw [State.startDrain_pkg]; exact ht
      · exact ht
    · exact ht
  · split
    · rw [State.startDrain_pkg]; exact ht
    · exact ht

/-- The state once a drain is over: it is no longer among those in progress, and what its routers sent before it is forgotten. -/
def State.drainLeft (s : State) (d : Drain) : State :=
  { s with fab := { s.fab with
    drains := s.fab.drains.filter (fun x => x.num != d.num),
    traffic := s.fab.traffic.filter (fun e => !(d.routers.contains e.1 && decide (e.2.2 < d.stamp))) } }

@[simp] theorem State.drainLeft_pkg (s : State) (d : Drain) : (s.drainLeft d).pkg = s.pkg := rfl

theorem State.gateTime_of_none {s : State} (h : s.pkg.lastGate = none) : s.gateTime = true := by
  rw [State.gateTime, h]

theorem State.endDrain_gate {d : Drain} {g : Nat} (s : State) (ht : d.task = none) (hg : d.gate = some g) :
    s.endDrain d = (s.drainLeft d).gateDue g := by
  simp only [State.endDrain, State.drainLeft, ht, hg]

theorem State.Settled.endDrain {s : State} {i : Nat} (h : s.Settled i) (d : Drain) : (s.endDrain d).Settled i := by
  unfold State.endDrain
  extract_lets fab s1 s2
  have left : s2.Settled i := by
    refine h.of_diodes ?_
    unfold s2
    split <;> rfl
  split
  · exact left
  · exact left.gateDue _

/-- Where the one drain in progress is that of a die's gating and has no marker left, the die's diodes note no invalid
conversion once the drains have run. -/
theorem State.settled_runDrains {s : State} {d : Drain} {g i : Nat} (hs : s.startDrains.fab.drains = [d])
    (hm : d.markers = []) (ht : d.task = none) (hd : d.gate = some g) (hg : (s.startDrains.drainLeft d).gateable g = true)
    (hl : s.pkg.lastGate = none) (hi : i < 80) (hig : i / 8 = g) : s.runDrains.Settled i := by
  unfold State.runDrains
  extract_lets s1 s2 s3
  have ended : s2.Settled i := by
    have hs2 : s2 = (s1.drainLeft d).gateDue g := by
      have ending : s1.fab.drains.filter (fun d => d.markers.isEmpty) = [d] := by simp [s1, hs, hm]
      unfold s2
      rw [ending, List.foldl_cons, List.foldl_nil, State.endDrain_gate _ ht hd]
    have time : (s1.drainLeft d).gateTime = true :=
      State.gateTime_of_none (by rw [State.drainLeft_pkg, State.startDrains_pkg, hl])
    rw [hs2]
    exact State.settled_gateDue hg time hi hig
  refine List.foldlRecOn (motive := fun t : State => t.Settled i) _ _ ?_ fun t ht d _ => State.Settled.endDrain ht d
  exact ended.of_diodes (congrArg Package.diodes s2.startDrains_pkg)

/-! ### A thermal poll (R25, R132) -/

/-- The state of a thermal poll once the diodes are read and before the actions that follow. -/
def State.polled (s : State) : State :=
  (List.range 120).foldl
    (fun s i => if (s.die (dieOfDiode i)).power = .gated then s else s.convert i (nth s.inp.temps i none))
    { s with pkg := { s.pkg with pollAt := some (s.now / 100) } }

theorem exec_thermalPoll {s : State} (h : s.pkg.pollAt ≠ some (s.now / 100)) :
    exec .thermalPoll s = .next (s.polled.thermApply s) :=
  congrArg Host.Outcome.next (if_neg h)

/-- Where no bay's thermal actions change, what remains is to park the tasks of hot dies. -/
theorem State.thermApply_of_same {s old : State} (h : ∀ pb < 80, s.thermal pb = old.thermal pb) :
    s.thermApply old = s.parkHot := by
  unfold State.thermApply
  refine congrArg State.parkHot ?_
  exact List.foldlRecOn (motive := fun t : State => t = s) _ _ rfl fun t ht pb hpb => by
    rw [ht]; exact if_pos (h pb (List.mem_range.1 hpb))

/-- Where die 9 alone is hot and one task on it can be taken, it is frozen if its cask fits. -/
theorem State.parkHot_last {s : State} {t : Task} (hcold : ∀ d < 9, s.parkDie d = false) (hhot : s.parkDie 9 = true)
    (ht : s.tab.tasks.filter (fun t => t.takeable && (s.mapOf t.id).any (fun m => dieOfBay m.1 == 9)) = [t])
    (hroom : s.areaUsed + t.largestCask ≤ areaBytes) :
    s.parkHot = s.startFreeze t.id { src := 2, room := t.largestCask, resume := true } := by
  unfold State.parkHot
  rw [List.range_succ, List.foldl_append, List.foldl_cons, List.foldl_nil]
  have cold : (List.range 9).foldl (fun s d =>
      if s.parkDie d then
        let ts := s.tab.tasks.filter (fun t => t.takeable && (s.mapOf t.id).any (fun m => dieOfBay m.1 == d))
        (s.parkEach 2 (fun _ => false) ts []).1
      else s) s = s :=
    List.foldlRecOn (motive := fun t : State => t = s) _ _ rfl fun t ht d hd => by
      rw [ht]; exact if_neg (by simp [hcold d (List.mem_range.1 hd)])
  rw [cold, if_pos hhot]
  simp only [ht, State.parkEach, Bool.false_eq_true, if_false, if_neg (Nat.not_lt.2 hroom)]

/-- A placed task, which `hotDie` has on die 9. -/
def hotTask : Task := { id := 1, stream := 0, job := 0, rcd := 0#2048, st := .placed }

/-- Die 9 stands above its PARKDIE threshold and runs a point of a task; die 1 is being gated, and its drain has not
started; the other compute dies are gated. No conversion of the poll is valid. -/
def hotDie : State := { State.reset with
  tab := { tasks := [hotTask] }
  bays := [(72, { bound := some (1, 0) })]
  cores := [(576, { point := some (1, [0]) })]
  pkg := { dies := (List.range 9).map (fun d => (d, { power := if d = 1 then .gating else .gated })),
           diodes := [(72, { park := true })] } }

/-- The drain of die 1's routers, which have sent nothing. -/
def hotDrain : Drain :=
  { num := 0, start_ := 0, stamp := 0, routers := (List.range 64).map (· + 64), markers := [], gate := some 1 }

/-- The state in which the drains run as the task's freeze starts. -/
def hotFrozen : State :=
  (hotDie.polled.modTask 1 (fun t => { t with freeze := some { src := 2, room := hotTask.largestCask, resume := true } })).pendOnTask 1
    .curtail

theorem hotDie_parkHot : hotDie.polled.parkHot = hotFrozen.runDrains := by
  have hcold : ∀ d < 9, hotDie.polled.parkDie d = false := by decide +kernel
  have hhot : hotDie.polled.parkDie 9 = true := by decide +kernel
  have htask : hotDie.polled.tab.tasks.filter (fun t => t.takeable && (hotDie.polled.mapOf t.id).any (fun m => dieOfBay m.1 == 9)) =
      [hotTask] := by decide +kernel
  have hroom : hotDie.polled.areaUsed + hotTask.largestCask ≤ areaBytes := by decide +kernel
  have hnew : hotDie.polled.freezing 1 = none := by decide +kernel
  rw [State.parkHot_last hcold hhot htask hroom, State.startFreeze, show hotTask.id = 1 from rfl, hnew]
  rfl

theorem hotFrozen_settled : hotFrozen.runDrains.Settled 8 := by
  have hdrains : hotFrozen.startDrains.fab.drains = [hotDrain] := by decide +kernel
  have hgate : (hotFrozen.startDrains.drainLeft hotDrain).gateable 1 = true := by decide +kernel
  have hlast : hotFrozen.pkg.lastGate = none := by decide +kernel
  exact State.settled_runDrains hdrains rfl rfl rfl hgate hlast (by decide) (by decide)

/-! ### The statements -/

/-- Settles O54: phase by phase, each branch of the model's boot by its own equation; the power inputs keep or drop the
LPDDR-6 tier by a filter of memory's cells. -/
theorem bootAndPower : Obligations.BootAndPower := by
  unfold Obligations.BootAndPower
  intro s b fails
  refine ⟨fun h0 ha => ⟨fun hA hB => ?_, fun hok h1 => ?_, fun hok h1 => ?_⟩,
    fun h1 ha => ⟨fun hr => ?_, fun r hr hk hc => ?_, fun hr => ?_⟩, fun h2 ha => ?_, fun h3 hu => ?_, fun _ hu => ?_,
    fun ha => ?_, ?_, ?_⟩
  · refine ⟨_, exec_deviceStart_rom ha h0, ?_⟩
    rw [State.bootRom_unverified hA hB]
    exact ⟨rfl, rfl, rfl⟩
  · refine ⟨_, exec_deviceStart_rom ha h0, ?_⟩
    rw [State.bootRom_verified hok, if_pos h1]
    exact ⟨rfl, rfl, rfl⟩
  · refine ⟨_, exec_deviceStart_rom ha h0, ?_⟩
    rw [State.bootRom_verified hok, if_neg h1]
    exact ⟨rfl, rfl, rfl, rfl, rfl⟩
  · refine ⟨_, exec_deviceStart_records ha h1, ?_⟩
    rw [State.bootRecords_fails (c := 4) (hr ▸ recordsFail_nil)]
    exact ⟨rfl, rfl, s.postRefusals_mem⟩
  · refine ⟨_, exec_deviceStart_records ha h1, ?_⟩
    rw [State.bootRecords_fails (hr ▸ recordsFail_refused hk hc)]
    exact ⟨rfl, rfl, s.postRefusals_mem⟩
  · refine ⟨_, exec_deviceStart_records ha h1, ?_⟩
    rw [State.bootRecords_passes (recordsFail_eq_none hr)]
    exact ⟨rfl, s.postRefusals_mem⟩
  · exact ⟨_, exec_deviceStart_bringUp ha h2, rfl, s.bringUp_mem, by rw [s.bringUp_vh]; rfl, by rw [s.bringUp_vl]; rfl,
      by rw [s.bringUp_vh]; exact railFrom_present .., by rw [s.bringUp_vl]; exact railFrom_present ..,
      by rw [s.bringUp_vh]; exact (railFrom_vh_target _ _).1, by rw [s.bringUp_vh]; exact (railFrom_vh_target _ _).2,
      by rw [s.bringUp_vl]; exact (railFrom_vl_target _ _).1, by rw [s.bringUp_vl]; exact (railFrom_vl_target _ _).2,
      fun d hd h => s.bringUp_gated hd h, fun hn l hl => s.bringUp_link hn hl, fun hb k hk => s.bringUp_ctx hb hk⟩
  · exact ⟨_, exec_bootReady_up h3 hu, rfl, s.measured_mem, s.measured_log_ne_nil⟩
  · exact exec_bootReady_waits hu
  · refine ⟨_, congrArg Host.Outcome.next (if_neg (by simp [show s.host.boot.aux = false from ha])), rfl, rfl, fun e he => ?_⟩
    exact List.mem_eraseDups.2 (List.mem_append_right _ (List.mem_map_of_mem he))
  · refine ⟨_, rfl, rfl, rfl, rfl, rfl, rfl, fun k => ?_, fun k hk c hc => ?_, fun x h1 h2 => ?_, fun x hx => ?_⟩
    · exact root_find?_map (g := fun c => { c with root := 0#64 }) (f := fun _ => 0#64) rfl (fun _ => rfl) k
    · obtain ⟨t, -, rfl⟩ := List.mem_map.1 hk
      exact Task.loseCask_area hc
    · rw [Memory.get_filter (fun a => !isLpddr a), if_neg (by simp [(isLpddr_iff x).2 ⟨h1, h2⟩])]
    · rw [Memory.get_filter (fun a => !isLpddr a), if_pos (by rw [Bool.not_eq_true', ← Bool.not_eq_true, isLpddr_iff]; omega)]
  · refine ⟨_, rfl, rfl, rfl, rfl, rfl, rfl, rfl, rfl, fun k => ?_, rfl, rfl, rfl, rfl, fun x h1 h2 => ?_, fun x hx => ?_⟩
    · exact root_find?_map (g := fun c => { root := c.root }) (f := id) rfl (fun _ => rfl) k
    · rw [Memory.get_filter isLpddr, if_pos ((isLpddr_iff x).2 ⟨h1, h2⟩)]
    · rw [Memory.get_filter isLpddr, if_neg (by rw [isLpddr_iff]; omega)]

/-- Refutes O45: a thermal poll does not leave every diode of a die that is not gated with its conversion. In `hotDie` the
poll finds PARKDIE in force on die 9 and freezes the task there; the freeze runs the drains, and the drain for which the
gating of die 1 waits starts and is over at once, so that die 1 is gated in the same step. That clears the count of invalid
conversions of diode 8, which the statement wants to be 1 as its invalid conversion makes it. -/
theorem not_curvesKeysRailsDiodes : ¬ Obligations.CurvesKeysRailsDiodes := by
  unfold Obligations.CurvesKeysRailsDiodes
  intro h
  have hpoll : hotDie.pkg.pollAt ≠ some (hotDie.now / 100) := by decide
  obtain ⟨-, -, -, -, -, hthermal⟩ := h.2 hotDie
  obtain ⟨t, ht, -, hdiodes⟩ := hthermal hpoll
  have htherm : ∀ pb < 80, hotDie.polled.thermal pb = hotDie.thermal pb := by decide +kernel
  rw [exec_thermalPoll hpoll, State.thermApply_of_same htherm, hotDie_parkHot] at ht
  obtain rfl := Host.Outcome.next.inj ht
  have counted : (hotFrozen.runDrains.diode 8).invalid = 1 :=
    congrArg Diode.invalid ((hdiodes 8 (by decide)).1 (by decide))
  exact absurd (counted.symm.trans hotFrozen_settled) (by decide)

end Sys2Proof.Machine
end

section
/-! PROOFS. The fabric: directions of links and the messages on the meshes under their updates, and the statement about
flits (spec/02_links.md R35 to R37, R41, R42, R44, R48). -/

namespace Sys2Proof.Machine

open Sys2Proof.Bits

/-! ### Lists by index -/

@[simp] theorem length_setNth {α : Type} (l : List α) (i : Nat) (v : α) : (setNth l i v).length = l.length := by
  fun_induction setNth l i v <;> simp_all

theorem nth_setNth_self {α : Type} {l : List α} {i : Nat} (h : i < l.length) (v d : α) : nth (setNth l i v) i d = v := by
  induction l generalizing i with
  | nil => simp at h
  | cons a l ih =>
    cases i with
    | zero => rfl
    | succ i => exact ih (by simpa using h)

/-! ### Changes of the fabric alone -/

/-- Memory, the cores and the tables are no part of the fabric. -/
theorem State.SameButFab.frame {s t : State} (h : s.SameButFab t) : t.mem = s.mem ∧ t.cores = s.cores ∧ t.tab = s.tab := by
  rw [h]; exact ⟨rfl, rfl, rfl⟩

theorem State.sameButFab_setLink (s : State) (n : Nat) (l : Link) : s.SameButFab (s.setLink n l) := rfl
theorem State.sameButFab_setPeer (s : State) (n : Nat) (p : Peer) : s.SameButFab (s.setPeer n p) := rfl
theorem State.sameButFab_setMesh (s : State) (k : Nat) (fs : List Flit) : s.SameButFab (s.setMesh k fs) := rfl

theorem State.sameButFab_setLdir (s : State) (n d : Nat) (x : LinkDir) : s.SameButFab (s.setLdir n d x) := by
  unfold State.setLdir
  split <;> rfl

theorem State.sameButFab_transmit (s : State) (l d : Nat) (f : Flit) : s.SameButFab (s.transmit l d f) := by
  unfold State.transmit
  dsimp only
  split
  · exact s.sameButFab_setLdir l d _
  · exact (s.sameButFab_setLdir l d _).trans (State.sameButFab_setPeer _ _ _)

/-! ### Directions of links (R35, R36) -/

@[simp] theorem Link.dir_setDir (l : Link) (d : Nat) (x : LinkDir) : (l.setDir d x).dir d = x := by
  unfold Link.dir Link.setDir
  split <;> rfl

theorem State.ldir_of_lt {s : State} {n : Nat} (h : n < 24) (d : Nat) : s.ldir n d = (s.link n).dir d := if_pos h
theorem State.setLdir_of_lt {s : State} {n : Nat} (h : n < 24) (d : Nat) (x : LinkDir) :
    s.setLdir n d x = s.setLink n ((s.link n).setDir d x) := if_pos h
theorem State.linkUp_of_lt {s : State} {n : Nat} (h : n < 24) : s.linkUp n = ((s.link n).st == .up) := if_pos h

@[simp] theorem State.ldir_setLdir (s : State) (n d : Nat) (x : LinkDir) : (s.setLdir n d x).ldir n d = x := by
  unfold State.ldir State.setLdir
  by_cases hn : n < 24
  · simp [hn]
  · by_cases hd : d = 0 <;> simp [hn, hd]

/-- What a direction carries does not tell whether its link is UP. -/
@[simp] theorem State.linkUp_setLdir (s : State) (n d : Nat) (x : LinkDir) : (s.setLdir n d x).linkUp n = s.linkUp n := by
  unfold State.linkUp State.setLdir
  by_cases hn : n < 24
  · simp only [hn, if_true, State.link_setLink, Link.setDir]
    split <;> rfl
  · by_cases hd : d = 0 <;> simp [hn, hd]

@[simp] theorem State.setLdir_moves (s : State) (n d : Nat) (x : LinkDir) : (s.setLdir n d x).fab.moves = s.fab.moves := by
  unfold State.setLdir
  split <;> rfl

@[simp] theorem State.setLdir_mesh (s : State) (n d : Nat) (x : LinkDir) : (s.setLdir n d x).fab.mesh = s.fab.mesh := by
  unfold State.setLdir
  split <;> rfl

@[simp] theorem State.setLdir_stamps (s : State) (n d : Nat) (x : LinkDir) : (s.setLdir n d x).fab.stamps = s.fab.stamps := by
  unfold State.setLdir
  split <;> rfl

/-- A first transmission over a link, as its direction shows it. -/
@[simp] theorem State.ldir_transmit (s : State) (l d : Nat) (f : Flit) :
    (s.transmit l d f).ldir l d = (s.ldir l d).transmit { f with via := f.via ++ [l], leaves := none } := by
  unfold State.transmit
  dsimp only
  split
  · exact s.ldir_setLdir l d _
  · next h =>
    obtain ⟨hl, hd⟩ := not_or.1 h
    rw [not_not] at hd
    simp [State.ldir, State.setLdir, hl, hd]

@[simp] theorem State.linkUp_transmit (s : State) (l d : Nat) (f : Flit) : (s.transmit l d f).linkUp l = s.linkUp l := by
  unfold State.transmit
  dsimp only
  split
  · exact s.linkUp_setLdir l d _
  · next h =>
    rw [← s.linkUp_setLdir l d ((s.ldir l d).transmit { f with via := f.via ++ [l], leaves := none })]
    simp [State.linkUp, (not_or.1 h).1]

@[simp] theorem State.transmit_moves (s : State) (l d : Nat) (f : Flit) : (s.transmit l d f).fab.moves = s.fab.moves := by
  unfold State.transmit
  dsimp only
  split
  · exact s.setLdir_moves l d _
  · exact s.setLdir_moves l d _

@[simp] theorem State.transmit_stamps (s : State) (l d : Nat) (f : Flit) : (s.transmit l d f).fab.stamps = s.fab.stamps := by
  unfold State.transmit
  dsimp only
  split
  · exact s.setLdir_stamps l d _
  · exact s.setLdir_stamps l d _

/-- A transmitter with room and credits sends. -/
theorem State.canSend_of_room {s : State} {l d c : Nat} (hup : s.linkUp l = true) (hroom : (s.ldir l d).sent.length < 512)
    (hcred : nth (s.ldir l d).spent c 0 = 0 ∨ nth (s.ldir l d).spent c 0 ≤ Config.linkCredits c) : s.canSend l d c = true := by
  simpa [State.canSend, hup, hroom] using hcred

/-! ### Messages on the meshes (R44) -/

@[simp] theorem find?_drop_self {α : Type} (l : List (Nat × α)) (k : Nat) : find? (drop l k) k = none := by
  induction l with
  | nil => rfl
  | cons e l ih =>
    obtain ⟨j, v⟩ := e
    by_cases h : j = k
    · simpa [drop, h] using ih
    · simpa [drop, find?, h] using ih

@[simp] theorem State.meshAt_setMesh (s : State) (key : Nat) (fs : List Flit) : (s.setMesh key fs).meshAt key = fs := by
  unfold State.meshAt State.setMesh
  split
  · next h => simp [List.isEmpty_iff.1 h]
  · simp

@[simp] theorem State.ldir_setMesh (s : State) (key n d : Nat) (fs : List Flit) : (s.setMesh key fs).ldir n d = s.ldir n d := rfl

@[simp] theorem State.meshAt_setLdir (s : State) (n d key : Nat) (x : LinkDir) : (s.setLdir n d x).meshAt key = s.meshAt key := by
  rw [State.meshAt, State.setLdir_mesh]
  rfl

/-- A router's way to itself crosses no on-chip link. -/
@[simp] theorem meshPath_self (die r : Nat) : meshPath die r r = [] := by simp [meshPath]

/-- The state once a message has gone on along a path of on-chip links: it waits on the first, or has arrived. -/
def State.entered (s : State) (path : List Nat) (f : Flit) : State :=
  match path with
  | [] => s
  | p :: _ => s.setMesh p (s.meshAt p ++ [f])

theorem State.sameButFab_entered (s : State) (path : List Nat) (f : Flit) : s.SameButFab (s.entered path f) := by
  cases path <;> rfl

@[simp] theorem State.ldir_entered (s : State) (path : List Nat) (f : Flit) (n d : Nat) :
    (s.entered path f).ldir n d = s.ldir n d := by
  cases path <;> rfl

/-- Data goes on towards its router, where nothing but its arrival happens. -/
theorem State.meshGo_data {s : State} {x r : Nat} {f : Flit} {v : W64} (hdst : f.dst = x) (hb : f.body = .data v) :
    s.meshGo x r f = some (s.entered (meshPath x r f.toR) f) := by
  simp only [State.meshGo, Flit.target, if_pos hdst, State.arrive, hb]
  split <;> rename_i h <;> simp [State.entered, h]

theorem endOf_lt {n : Nat} (h : n < 24) (d : Nat) : endOf n d < 12 := by
  unfold endOf linkEnds
  split_ifs <;> dsimp only <;> omega

/-- The on-chip links from a link's edge router to a router of the die at which its direction ends. -/
def pathIn (l d r : Nat) : List Nat := meshPath (endOf l d) (edgeOf (endOf l d) (farEnd l (endOf l d))) r

/-- The state once data that has come over a link to its own die or hub is taken in there. -/
def State.tookIn (s : State) (l d : Nat) (f : Flit) : State :=
  if endOf l d < 10 then s.entered (pathIn l d f.toR) { f with leaves := none } else s

theorem State.sameButFab_tookIn (s : State) (l d : Nat) (f : Flit) : s.SameButFab (s.tookIn l d f) := by
  unfold State.tookIn
  split
  · exact s.sameButFab_entered _ _
  · rfl

@[simp] theorem State.ldir_tookIn (s : State) (l d : Nat) (f : Flit) (n e : Nat) : (s.tookIn l d f).ldir n e = s.ldir n e := by
  unfold State.tookIn
  split
  · exact s.ldir_entered _ _ _ _
  · rfl

/-- In a die it waits on the first on-chip link of its path. -/
theorem State.meshAt_tookIn {s : State} {l d p : Nat} {f : Flit} {ps : List Nat} (hx : endOf l d < 10)
    (hp : pathIn l d f.toR = p :: ps) : (s.tookIn l d f).meshAt p = s.meshAt p ++ [{ f with leaves := none }] := by
  rw [State.tookIn, if_pos hx, hp]
  exact s.meshAt_setMesh p _

theorem State.takeIn_data {s : State} {l d : Nat} {f : Flit} {v : W64} (hl : l < 24) (hdst : f.dst = endOf l d)
    (hb : f.body = .data v) : s.takeIn l d f = some (s.tookIn l d f) := by
  unfold State.tookIn
  have hpart : ¬ 12 ≤ endOf l d := Nat.not_le.2 (endOf_lt hl d)
  simp only [State.takeIn, if_neg hpart]
  by_cases hh : 10 ≤ endOf l d
  · rw [if_pos hh, if_pos hdst, if_neg (by omega)]
    simp [State.arrive, hb]
  · rw [if_neg hh, if_pos hdst, if_pos (Nat.lt_of_not_le hh)]
    simp only [hb]
    exact State.meshGo_data hdst rfl

/-- At its router data leaves the mesh. -/
theorem State.meshStep_data {s : State} {key chan : Nat} {f : Flit} {v : W64} (hkey : 2560 ≤ key)
    (hf : (s.meshAt key).find? (fun f => f.chan == chan) = some f) (hdst : f.dst = (key - 2560) / 64)
    (hto : f.toR = (key - 2560) % 64) (hb : f.body = .data v) : s.meshStep key chan = s.setMesh key ((s.meshAt key).erase f) := by
  have hk : ¬ key < 2560 := Nat.not_lt.2 hkey
  simp only [State.meshStep, hf, if_neg hk, hdst, ne_eq, not_true_eq_false, false_and, if_false]
  rw [State.meshGo_data hdst hb, hto, meshPath_self]
  rfl

/-! ### Sending a message (R35, R36, R42) -/

theorem exec_flitSend (s : State) : exec .flitSend s = execFlitSend s := rfl

/-- The message that a die or a hub sends for an input: a permit on channel 2, data on every other. -/
def EventIn.message (i : EventIn) : Body := if i.n2 = 2 then .grant i.v.toNat else .data i.v

/-- The router of a place from which an input's message starts. -/
def EventIn.router (i : EventIn) : Nat := 64 * i.n1 + i.nums.headD 0 % 64

/-- An input's message as a flit. -/
def EventIn.flit (i : EventIn) : Flit :=
  { chan := i.n2, src := i.n1, dst := i.n4, fromR := i.router, toR := i.n3 % 64, body := i.message }

/-- A die or a hub sends a message that is no engine data to another place, or a die to itself. -/
theorem exec_flitSend_message {s : State} (hx : s.inp.n1 < 12) (hc : s.inp.n2 < 4) (hd : s.inp.n4 < 20) (he : s.inp.ok3 = false)
    (ho : s.inp.n1 = s.inp.n4 → s.inp.n1 < 10) : exec .flitSend s = .next (s.send s.inp.n1 s.inp.router s.inp.flit) := by
  rw [exec_flitSend, execFlitSend]
  dsimp only
  have inside : ¬ 12 ≤ s.inp.n1 := by omega
  rw [if_neg (by omega), he, if_neg (by decide), if_neg (by omega), if_neg (by omega)]
  simp only [EventIn.router, EventIn.flit, EventIn.message, if_neg inside, ite_not]

/-- A flit as a place injects it: stamped, and with the route that it leaves by. -/
def State.stampedFlit (s : State) (x router : Nat) (f : Flit) : Flit :=
  { f with stamp := s.fab.stamps, src := x, fromR := router, leaves := s.route x f.dst f.chan }

/-- The record of an injection: the next stamp, and what the router has sent to the place. -/
def State.injected (s : State) (t : State) (router dst : Nat) : State :=
  { t with fab := { t.fab with
    stamps := t.fab.stamps + 1,
    traffic := t.fab.traffic.filter (fun e => !(e.1 == router && e.2.1 == dst)) ++ [(router, dst, s.fab.stamps)] } }

theorem State.send_die {s : State} {x : Nat} (h : x < 10) (router : Nat) (f : Flit) :
    s.send x router f = s.injected (s.inject router (s.stampedFlit x router f)) router f.dst := by
  simp only [State.send, State.trySend, if_pos h]
  rfl

/-- A hub with no route change under way sends over the link of its route. -/
theorem State.send_hub {s : State} {x router l : Nat} {f : Flit} (h : ¬ x < 10) (hm : s.fab.moves = [])
    (hr : s.route x f.dst f.chan = some l) (hcan : s.canSend l (dirFrom l x) f.chan = true) :
    s.send x router f = s.injected (s.transmit l (dirFrom l x) (s.stampedFlit x router f)) router f.dst := by
  simp only [State.send, State.trySend, if_neg h, State.sendFrom, hm, List.find?_nil, hr, Option.bind_some, hcan, if_true]
  rfl

/-! ### Receiving a flit (R36, R37) -/

theorem exec_flitReceive (s : State) : exec .flitReceive s = execFlitReceive s := rfl

/-- A message at a router or on an on-chip link goes on. -/
theorem exec_flitReceive_mesh {s : State} (hn : 64 ≤ s.inp.n1) :
    exec .flitReceive s = .next (s.meshStep (s.inp.n1 - 64) s.inp.n4) := by
  rw [exec_flitReceive, execFlitReceive, if_pos hn]

/-- The receiver of a link that is UP takes the next flit of its wire. -/
theorem exec_flitReceive_link {s : State} (hn : s.inp.n1 < 24) (h3 : s.inp.n3 ≠ 1) (hup : (s.link s.inp.n1).st = .up) :
    exec .flitReceive s = .next (s.receive s.inp.n1 (s.inp.n2 % 2)) := by
  have up : s.linkUp s.inp.n1 = true := by simp [State.linkUp_of_lt hn, hup]
  rw [exec_flitReceive, execFlitReceive]
  rw [if_neg (by omega), if_neg (by omega), if_neg h3, up, if_neg (by decide), State.countPeer, if_pos hn]

/-- A flit with a bad CRC is counted, and asked for again. -/
theorem State.receive_bad {s : State} {n d : Nat} {f : Flit} {rest : List Flit} (hn : n < 24)
    (hw : (s.ldir n d).wire = f :: rest) (hok : s.inp.ok = false) (hr : (s.ldir n d).reject = false) :
    s.receive n d = s.setLdir n d { s.ldir n d with
      wire := rest, crcerr := ((s.ldir n d).crcerr + 1) % 2 ^ 64, reject := true, asked := true } := by
  simp [State.receive, hw, hok, hr, State.countPeer, hn]

/-- An intact flit out of turn is dropped. -/
theorem State.receive_outOfTurn {s : State} {n d : Nat} {f : Flit} {rest : List Flit}
    (hw : (s.ldir n d).wire = f :: rest) (hok : s.inp.ok = true) (hs : f.seq ≠ (s.ldir n d).expect) :
    s.receive n d = s.setLdir n d { s.ldir n d with wire := rest } := by
  simp [State.receive, hw, hok, hs]

/-- A direction whose receiver has accepted the next flit of its wire. -/
def LinkDir.accepted (k : LinkDir) (rest : List Flit) : LinkDir :=
  { k with wire := rest, reject := false, expect := (k.expect + 1) % 4096 }

/-- An intact flit in its turn is accepted. -/
theorem State.receive_inTurn {s : State} {n d : Nat} {f : Flit} {rest : List Flit}
    (hw : (s.ldir n d).wire = f :: rest) (hok : s.inp.ok = true) (hs : f.seq = (s.ldir n d).expect) :
    s.receive n d = (s.setLdir n d ((s.ldir n d).accepted rest)).deliver n d f s.inp.ok2 := by
  simp [State.receive, hw, hok, hs, LinkDir.accepted]

/-- A flit whose channel is held back, or has flits waiting, waits in its receive buffer. -/
theorem State.deliver_waits {s : State} {n d : Nat} {f : Flit} {room : Bool}
    (h : room = false ∨ ∃ q ∈ (s.ldir n d).queued, q.chan = f.chan) :
    s.deliver n d f room = s.setLdir n d { s.ldir n d with queued := (s.ldir n d).queued ++ [f] } := by
  have held : (!room || (s.ldir n d).queued.any (fun q => q.chan == f.chan)) = true := by
    simpa [List.any_eq_true] using h
  simp only [State.deliver, held, if_true]

/-- A flit whose channel has room and nothing waiting goes on, and its credit returns. -/
theorem State.deliver_goes {s t : State} {n d : Nat} {f : Flit} (hq : ∀ q ∈ (s.ldir n d).queued, q.chan ≠ f.chan)
    (ht : (s.setLdir n d ((s.ldir n d).credit f.chan)).takeIn n d f = some t) : s.deliver n d f true = t := by
  have free : (!true || (s.ldir n d).queued.any (fun q => q.chan == f.chan)) = false := by
    simpa [List.any_eq_false] using hq
  simp only [State.deliver, free, Bool.false_eq_true, if_false, ht]

/-! ### Replay and acknowledgement (R36) -/

theorem exec_replayRequest_link {s : State} (hn : s.inp.n1 < 24) (hup : (s.link s.inp.n1).st = .up)
    (ha : (s.ldir s.inp.n1 (s.inp.n2 % 2)).asked = true) :
    exec .replayRequest s = .next (s.setLdir s.inp.n1 (s.inp.n2 % 2) { s.ldir s.inp.n1 (s.inp.n2 % 2) with
      asked := false
      wire := (s.ldir s.inp.n1 (s.inp.n2 % 2)).wire ++
        (s.ldir s.inp.n1 (s.inp.n2 % 2)).sent.filter (s.ldir s.inp.n1 (s.inp.n2 % 2)).unaccepted
      replays := ((s.ldir s.inp.n1 (s.inp.n2 % 2)).replays + 1) % 2 ^ 64
      winReplays := (s.ldir s.inp.n1 (s.inp.n2 % 2)).winReplays + 1 }) := by
  have up : s.linkUp s.inp.n1 = true := by simp [State.linkUp_of_lt hn, hup]
  have far : ¬ 32 ≤ s.inp.n1 := by omega
  change execReplayRequest s = _
  simp [execReplayRequest, up, ha, far, hn]

theorem exec_flitAck_link {s : State} (hn : s.inp.n1 < 24) :
    exec .flitAck s = .next (s.setLdir s.inp.n1 (s.inp.n2 % 2) { s.ldir s.inp.n1 (s.inp.n2 % 2) with
      sent := (s.ldir s.inp.n1 (s.inp.n2 % 2)).sent.filter (s.ldir s.inp.n1 (s.inp.n2 % 2)).unaccepted }) := by
  change execFlitAck s = _
  simp [execFlitAck, show s.inp.n1 < 32 by omega]

/-! ### The end of a route change (R41) -/

/-- Held flits for which the link has room and credits all leave, in their order. -/
theorem sendHeld_all {l d c : Nat} {fs : List Flit} {s : State} (hup : s.linkUp l = true)
    (hroom : (s.ldir l d).sent.length + fs.length ≤ 512) (hc : c < 4) (hlen : (s.ldir l d).spent.length = 4)
    (hchan : ∀ f ∈ fs, f.chan = c) (hcred : nth (s.ldir l d).spent c 0 + fs.length ≤ Config.linkCredits c) :
    ∃ t, sendHeld l d fs s = (t, []) ∧ s.SameButFab t ∧ t.fab.moves = s.fab.moves ∧
      (t.ldir l d).sent.map (·.body) = (s.ldir l d).sent.map (·.body) ++ fs.map (·.body) := by
  induction fs generalizing s with
  | nil => exact ⟨s, rfl, rfl, rfl, by simp⟩
  | cons f fs ih =>
    obtain ⟨hf, hfs⟩ := List.forall_mem_cons.1 hchan
    simp only [List.length_cons] at hroom hcred
    have can : s.canSend l d f.chan = true := State.canSend_of_room hup (by omega) (.inr (by rw [hf]; omega))
    obtain ⟨t, ht, hsame, hmoves, hsent⟩ := ih (s := s.transmit l d f) (by rw [State.linkUp_transmit, hup])
      (by simp [LinkDir.transmit]; omega) (by simp [LinkDir.transmit, hlen]) hfs
      (by simp only [State.ldir_transmit, LinkDir.transmit, hf]; rw [nth_setNth_self (by omega)]; omega)
    refine ⟨t, by rw [sendHeld, if_pos can, ht], (s.sameButFab_transmit l d f).trans hsame, by simpa using hmoves, ?_⟩
    rw [hsent]
    simp [LinkDir.transmit]

/-- A route change from a link that is UP has nothing to resend. -/
theorem State.toResend_of_up {s : State} {m : RouteMove} (hn : m.old < 24) (hup : (s.link m.old).st = .up) : s.toResend m = [] := by
  simp [State.toResend, State.linkDead, hn, hup]

/-- Once the earlier flits have been delivered, the held ones go over the new route and the change is over. -/
theorem exec_routeRelease_over {s : State} {m : RouteMove} {l : Nat} {t : State} (hm : s.fab.moves = [m])
    (h1 : m.src = s.inp.n1) (h2 : m.dst = s.inp.n2) (h3 : m.chan = s.inp.n3) (ho : m.old < 24)
    (hup : (s.link m.old).st = .up) (hclear : ∀ f ∈ s.onRoute m.src m.dst m.chan m.old, m.stamp ≤ f.stamp)
    (hr : s.route m.src m.dst m.chan = some l) (hs : sendHeld l (dirFrom l m.src) m.held s = (t, []))
    (ht : t.fab.moves = [m]) : exec .routeRelease s = .next { t with fab := { t.fab with moves := [] } } := by
  have again := State.toResend_of_up ho hup
  have clear : s.routeClear m = true := by
    simp only [State.routeClear, again, List.all_eq_true]
    exact fun f hf => by simp [hclear f hf]
  have found : s.fab.moves.find? (fun m => m.src == s.inp.n1 && m.dst == s.inp.n2 && m.chan == s.inp.n3) = some m := by
    simp [hm, h1, h2, h3]
  change execRouteRelease s = _
  simp [execRouteRelease, found, clear, again, hr, hs, ht]

/-! ### Replay windows (R48) -/

/-- A window ends with its billion flits or its second, if it has counted a million. -/
theorem exec_replayWindowEnd_over {s : State} (hn : s.inp.n1 < 24)
    (hend : 10 ^ 9 ≤ ((s.link s.inp.n1).dir s.inp.n2).winFlits ∨ ((s.link s.inp.n1).dir s.inp.n2).winSince + 10 ^ 6 ≤ s.now)
    (hmin : 10 ^ 6 ≤ ((s.link s.inp.n1).dir s.inp.n2).winFlits) :
    exec .replayWindowEnd s =
      let l := s.link s.inp.n1
      let k := l.dir s.inp.n2
      let t := s.setLink s.inp.n1 (l.setDir s.inp.n2 { k with winSince := s.now, winFlits := 0, winReplays := 0 })
      .next (if l.thr ≠ 0xFFFFFFFF#32 ∧ l.thr.toNat * k.winFlits < k.winReplays * 10 ^ 9 then t.linkEvent 1 s.inp.n1 else t) := by
  change execReplayWindowEnd s = _
  rw [execReplayWindowEnd]
  dsimp only
  rw [if_neg (by omega), if_neg (by omega)]

/-- A link with the bit of a LINK_EVENT latched. -/
def Link.latch (l : Link) (kind : Nat) : Link :=
  match kind with
  | 0 => { l with evHalf := true }
  | 1 => { l with evReplay := true }
  | _ => { l with evTrain := true }

@[simp] theorem Link.latch_st (l : Link) (kind : Nat) : (l.latch kind).st = l.st := by
  unfold Link.latch
  split <;> rfl

@[simp] theorem Link.setDir_st (l : Link) (d : Nat) (x : LinkDir) : (l.setDir d x).st = l.st := by
  unfold Link.setDir
  split <;> rfl

/-- A LINK_EVENT latches its bit in the link. -/
theorem State.link_linkEvent {s : State} {n : Nat} (hn : n < 24) (kind : Nat) :
    (s.linkEvent kind n).link n = (s.link n).latch kind := by
  simp only [State.linkEvent, if_pos hn]
  exact State.link_setLink s n _

@[simp] theorem State.linkEvent_mem (s : State) (kind n : Nat) : (s.linkEvent kind n).mem = s.mem := by
  unfold State.linkEvent
  dsimp only
  split <;> rfl

/-! ### The statement -/

/-- Settles O50: each event of a flit is one change of a link's direction or of a router's messages. -/
theorem flits : Obligations.Flits := by
  unfold Obligations.Flits
  intro s
  refine ⟨?_, ?_, ?_, ?_, ?_, ?_, ?_, ?_⟩
  · intro hn hc hd he
    rw [exec_flitSend_message (by omega) hc hd he fun _ => hn, State.send_die hn]
    exact ⟨_, s.stampedFlit s.inp.n1 s.inp.router s.inp.flit, rfl, ⟨rfl, rfl, rfl⟩, State.meshAt_setMesh _ _ _, rfl, rfl, rfl, rfl, rfl,
      rfl, rfl, rfl⟩
  · intro l hn hc hd hne he hm hr
    dsimp only
    intro hup hroom hcred
    rw [exec_flitSend_message (by omega) hc hd he fun h => absurd h hne,
      State.send_hub (f := s.inp.flit) (by omega) hm hr (State.canSend_of_room (c := s.inp.n2) hup hroom (.inl hcred))]
    refine ⟨_, { s.stampedFlit s.inp.n1 s.inp.router s.inp.flit with
        via := [l], leaves := none, seq := (s.ldir l (dirFrom l s.inp.n1)).next }, rfl,
      (s.sameButFab_transmit _ _ _).frame, rfl, rfl, rfl, rfl, rfl, rfl, ?_, ?_⟩
    · change (s.transmit l _ _).fab.stamps + 1 = _
      rw [State.transmit_stamps]
    · refine (s.ldir_transmit _ _ _).trans ?_
      simp only [LinkDir.transmit]
      congr 1
      exact congrArg (setNth _ _ ·) (congrArg (· + 1) hcred)
  · intro f v hlo hhi key hf hdst hto hb
    rw [exec_flitReceive_mesh (by omega), State.meshStep_data (by omega) hf hdst hto hb]
    exact ⟨_, rfl, (s.sameButFab_setMesh _ _).frame, State.meshAt_setMesh _ _ _⟩
  · intro f rest hn h3 hup hw
    simp only [← State.ldir_of_lt hn, ← State.setLdir_of_lt hn] at hw ⊢
    rw [exec_flitReceive_link hn h3 hup]
    refine ⟨fun hok hs => ?_, fun hok hs => by rw [State.receive_outOfTurn hw hok hs],
      fun hok hr => by rw [State.receive_bad hn hw hok hr]⟩
    rw [State.receive_inTurn hw hok hs]
    have shown : ∀ x, (s.setLdir s.inp.n1 (s.inp.n2 % 2) x).ldir s.inp.n1 (s.inp.n2 % 2) = x := State.ldir_setLdir _ _ _
    refine ⟨fun v h2 hq hdst hb => ?_, fun h => ?_⟩
    · rw [h2, State.deliver_goes (by rwa [shown]) (State.takeIn_data hn hdst hb)]
      refine ⟨_, rfl, State.SameButFab.frame (((s.sameButFab_setLdir _ _ _).trans (State.sameButFab_setLdir _ _ _ _)).trans
        (State.sameButFab_tookIn _ _ _ _)), ?_, fun hx p ps hp => ?_⟩
      · rw [State.ldir_tookIn, State.ldir_setLdir, shown]
        rfl
      · rw [State.meshAt_tookIn hx hp, State.meshAt_setLdir, State.meshAt_setLdir]
    · rw [State.deliver_waits (by rwa [shown])]
      refine ⟨_, rfl, ((s.sameButFab_setLdir _ _ _).trans (State.sameButFab_setLdir _ _ _ _)).frame, ?_⟩
      rw [State.ldir_setLdir, shown]
      rfl
  · intro hn hup ha
    rw [exec_replayRequest_link hn hup (by rw [State.ldir_of_lt hn, ha]), State.setLdir_of_lt hn, State.ldir_of_lt hn]
  · intro hn
    rw [exec_flitAck_link hn, State.setLdir_of_lt hn, State.ldir_of_lt hn]
  · intro m l hm h1 h2 h3 ho hup hclear hr
    dsimp only
    intro hl hroom hc hlen hchan hcred
    obtain ⟨t, ht, hsame, hmoves, hsent⟩ := sendHeld_all hl hroom hc hlen hchan hcred
    exact ⟨_, exec_routeRelease_over hm h1 h2 h3 ho hup hclear hr ht (hmoves.trans hm), hsame.frame, rfl, hsent⟩
  · intro hn h2 hend hmin
    rw [Nat.mod_eq_of_lt h2] at *
    rw [exec_replayWindowEnd_over hn hend hmin]
    refine ⟨fun h => ?_, fun h1 h2 => ?_⟩
    · dsimp only
      rw [if_neg (by rintro ⟨h3, h4⟩; exact h.elim h3 fun h => by omega)]
    · dsimp only
      rw [if_pos ⟨h1, h2⟩]
      refine ⟨_, rfl, ?_, ?_, State.linkEvent_mem _ _ _⟩ <;> rw [State.link_linkEvent hn, State.link_setLink]
      · rfl
      · rw [Link.latch_st, Link.setDir_st]

end Sys2Proof.Machine
end

section
/-! PROOFS. Links, peer ports, drains and permits: what leaves the fabric as it was, and the statement about them
(spec/02_links.md R32 to R34, R38 to R40, R42 to R45, R51, R53). -/

namespace Sys2Proof.Machine

open Sys2Proof.Bits

/-! ### What leaves the fabric and the power command as they were -/

/-- A change of the state leaves the fabric and the power command in progress as they were. -/
structure State.KeepsFabric (s t : State) : Prop where
  fab : t.fab = s.fab
  pow : t.pow = s.pow

namespace State.KeepsFabric

theorem refl (s : State) : s.KeepsFabric s := ⟨rfl, rfl⟩

theorem trans {s t u : State} (h1 : s.KeepsFabric t) (h2 : t.KeepsFabric u) : s.KeepsFabric u :=
  ⟨h2.fab.trans h1.fab, h2.pow.trans h1.pow⟩

theorem foldl {β : Type} {f : State → β → State} (hf : ∀ (s : State) b, s.KeepsFabric (f s b)) (l : List β) (s : State) :
    s.KeepsFabric (l.foldl f s) :=
  List.foldlRecOn (motive := s.KeepsFabric) l f (refl s) fun t ht b _ => ht.trans (hf t b)

theorem of_sameButHomes {s t : State} (h : s.SameButHomes t) : s.KeepsFabric t := by
  rw [h]; exact ⟨rfl, rfl⟩

theorem of_sameButPosts {s t : State} (h : s.SameButPosts t) : s.KeepsFabric t := by
  rw [h.1]; exact ⟨rfl, rfl⟩

theorem link {s t : State} (h : s.KeepsFabric t) (n : Nat) : t.link n = s.link n := by
  rw [State.link, h.fab]; rfl

theorem peer {s t : State} (h : s.KeepsFabric t) (n : Nat) : t.peer n = s.peer n := by
  rw [State.peer, h.fab]; rfl

theorem commandOn {s t : State} (h : s.KeepsFabric t) (d : Nat) : t.commandOn d = s.commandOn d := by
  rw [State.commandOn, h.pow]; rfl

end State.KeepsFabric

theorem State.keepsFabric_post (s : State) (code detail : Nat) : s.KeepsFabric (s.post code detail) :=
  .of_sameButPosts (s.sameButPosts_post code detail)

theorem State.keepsFabric_modTask (s : State) (id : Nat) (f : Task → Task) : s.KeepsFabric (s.modTask id f) := ⟨rfl, rfl⟩
theorem State.keepsFabric_modCore (s : State) (n : Nat) (f : Core → Core) : s.KeepsFabric (s.modCore n f) := ⟨rfl, rfl⟩
theorem State.keepsFabric_setBay (s : State) (n : Nat) (b : Bay) : s.KeepsFabric (s.setBay n b) := ⟨rfl, rfl⟩
theorem State.keepsFabric_cancelCopies (s : State) (p : Copy → Bool) : s.KeepsFabric (s.cancelCopies p) := ⟨rfl, rfl⟩

/-! ### The loss of a die (R88, R105) -/

theorem State.keepsFabric_dropPoint (s : State) (n : Nat) : s.KeepsFabric (s.dropPoint n) := by
  unfold State.dropPoint
  split <;> exact ⟨rfl, rfl⟩

theorem State.keepsFabric_cancelPoints (s : State) (id : Nat) : s.KeepsFabric (s.cancelPoints id) := by
  refine .trans (t := s.pendOnTask id .cancel) ⟨rfl, rfl⟩ (.foldl (fun s n => ?_) _ _)
  dsimp only
  split
  · exact .trans (t := s.modCore n _) ⟨rfl, rfl⟩ (State.keepsFabric_dropPoint _ n)
  · exact .refl s

theorem State.keepsFabric_settlePoints (s : State) (id : Nat) : s.KeepsFabric (s.settlePoints id) := by
  unfold State.settlePoints
  split
  · exact .refl s
  · exact .foldl (fun s x => s.keepsFabric_modTask id _) _ s

theorem State.keepsFabric_discardRotated (s : State) (id : Nat) : s.KeepsFabric (s.discardRotated id) := by
  unfold State.discardRotated
  split
  · exact .refl s
  · extract_lets out s1 s2
    have left : s.KeepsFabric s2 := ⟨rfl, rfl⟩
    exact left.trans (.foldl (fun s x => s.keepsFabric_modTask id _) _ _)

theorem State.keepsFabric_haltTask (s : State) (id code : Nat) : s.KeepsFabric (s.haltTask id code) :=
  .trans (t := s.stopTask id code) (.trans (t := s.modTask id _) ⟨rfl, rfl⟩ (State.keepsFabric_discardRotated _ id))
    (.trans (t := (s.stopTask id code).cancelCopies _) ⟨rfl, rfl⟩ (State.keepsFabric_settlePoints _ id))

theorem State.keepsFabric_unbindLost (s : State) (t : Task) (d : Nat) : s.KeepsFabric (s.unbindLost t d) := by
  unfold State.unbindLost
  extract_lets lost on s1 s2 s3
  have freed : s1.KeepsFabric s2 := by
    refine .foldl (fun s m => ?_) _ _
    exact (s.keepsFabric_setBay m.1 {}).trans (.foldl (fun s n => s.keepsFabric_modCore n _) _ _)
  have rotated : s2.KeepsFabric s3 := ⟨rfl, rfl⟩
  exact (s.keepsFabric_cancelCopies _).trans (freed.trans (rotated.trans (s3.keepsFabric_modTask t.id _)))

theorem State.keepsFabric_taskLoses (s : State) (d : Nat) (t : Task) : s.KeepsFabric (s.taskLoses d t) := by
  unfold State.taskLoses
  extract_lets claimed leader s1 s2
  have unbound : s.KeepsFabric s1 := s.keepsFabric_unbindLost t d
  have led : s.KeepsFabric s2 := by
    unfold s2
    split
    · exact unbound.trans ⟨rfl, rfl⟩
    · exact unbound
  split
  · exact led
  · split
    · exact led.trans ⟨rfl, rfl⟩
    · exact led.trans ((State.keepsFabric_haltTask _ _ _).trans (State.keepsFabric_cancelPoints _ _))

theorem State.keepsFabric_loseNow (s : State) (d : Nat) : s.KeepsFabric (s.loseNow d) :=
  .trans (t := s.setDie d _) ⟨rfl, rfl⟩ (.trans (State.keepsFabric_post _ 0x0401 d)
    (.foldl (fun s t => s.keepsFabric_taskLoses d t) _ _))

/-- The loss of the dies that no route reaches leaves the links as they are. -/
theorem State.keepsFabric_loseUnreached (s : State) : s.KeepsFabric s.loseUnreached :=
  .foldl (fun s d => s.keepsFabric_loseNow d) _ s

/-! ### The failure of a copy (R224) -/

theorem State.keepsFabric_modEng (s : State) (a : Agent) (rot : List Nat) (f : Engine → Engine) : s.KeepsFabric (s.modEng a rot f) := by
  unfold State.modEng
  split
  · exact ⟨rfl, rfl⟩
  · split <;> exact ⟨rfl, rfl⟩

theorem State.keepsFabric_noteWrote (s : State) (a : Agent) (rot : List Nat) (k : Copy) : s.KeepsFabric (s.noteWrote a rot k) := by
  unfold State.noteWrote
  dsimp only
  split
  · exact ⟨rfl, rfl⟩
  · split <;> exact ⟨rfl, rfl⟩

theorem State.keepsFabric_setDirty (s : State) (leaf : Option Nat) : s.KeepsFabric (s.setDirty leaf) := by
  unfold State.setDirty
  split
  · exact .refl s
  · split
    · exact .refl s
    · exact .trans (.of_sameButHomes (s.sameButHomes_touchLine _)) ⟨rfl, rfl⟩

theorem State.keepsFabric_noteKey (s : State) (sec : Nat) (leaf : Option Nat) : s.KeepsFabric (s.noteKey sec leaf) := by
  unfold State.noteKey
  split
  · exact .refl s
  · split
    · exact ⟨rfl, rfl⟩
    · split <;> exact ⟨rfl, rfl⟩

theorem State.keepsFabric_coverWords (s : State) (line : Nat) (bytes : List (Nat × Byte)) :
    s.KeepsFabric (s.coverWords line bytes) := by
  unfold State.coverWords
  split <;> exact ⟨rfl, rfl⟩

theorem State.keepsFabric_wake (s : State) (pa : Nat) : s.KeepsFabric (s.wake pa) := by
  unfold State.wake
  split <;> exact ⟨rfl, rfl⟩

/-- A write that joins the global order is no matter of the fabric. -/
theorem State.keepsFabric_join (s : State) (line wts : Nat) (bytes : List (Nat × Byte)) (leaf : Option Nat) :
    s.KeepsFabric (s.join line wts bytes leaf) := by
  unfold State.join
  extract_lets r s1 s2 s3 s4
  have dirty : s.KeepsFabric s1 := s.keepsFabric_setDirty leaf
  have written : s1.KeepsFabric s3 := ⟨rfl, rfl⟩
  have noted : s3.KeepsFabric s4 := (s3.keepsFabric_noteKey _ leaf).trans (State.keepsFabric_coverWords _ line bytes)
  exact dirty.trans (written.trans (noted.trans (.foldl (fun s b => s.keepsFabric_wake _) _ _)))

theorem State.keepsFabric_joinOutside (s : State) (pa time : Nat) (bytes : List (Nat × Byte)) (leaf : Option Nat) :
    s.KeepsFabric (s.joinOutside pa time bytes leaf) := by
  refine .trans ?_ (State.keepsFabric_join _ _ time bytes leaf)
  split
  · exact .refl s
  · unfold State.writtenBack
    dsimp only
    split <;> exact ⟨rfl, rfl⟩

theorem State.keepsFabric_gaugeStatus (s : State) (pa srck handle code : Nat) : s.KeepsFabric (s.gaugeStatus pa srck handle code) := by
  unfold State.gaugeStatus
  split
  · exact .refl s
  · exact s.keepsFabric_joinOutside _ _ _ _

theorem State.keepsFabric_addToGauge (s : State) (srck handle pa n time : Nat) :
    s.KeepsFabric (s.addToGauge srck handle pa n time) := by
  unfold State.addToGauge
  split
  · exact s.keepsFabric_gaugeStatus _ _ _ _
  · exact s.keepsFabric_joinOutside _ _ _ _

theorem State.keepsFabric_copyAdd (s : State) (k : Copy) (n : Nat) : s.KeepsFabric (s.copyAdd k n) :=
  .foldl (fun s _ => s.keepsFabric_addToGauge _ _ _ _ _) _ s

theorem State.keepsFabric_copyTotal (s : State) (k : Copy) : s.KeepsFabric (s.copyTotal k).2 := by
  unfold State.copyTotal
  split
  · exact .refl s
  · split
    · exact .refl s
    · split
      · exact .refl s
      · split <;> exact ⟨rfl, rfl⟩

theorem State.keepsFabric_destSector (s : State) (k : Copy) (w : Walk) (i : Nat) : s.KeepsFabric (s.destSector k w i).1 := by
  unfold State.destSector
  split
  · split
    · exact .refl s
    · split
      · exact ⟨rfl, rfl⟩
      · exact .of_sameButHomes (s.sameButHomes_checkRead _ _)
  · exact .refl s

theorem State.keepsFabric_noteWalk (s : State) (k : Copy) (va : Nat) : s.KeepsFabric (s.noteWalk k va) := by
  unfold State.noteWalk
  split
  · exact .of_sameButHomes (s.sameButHomes_noteTlb _ _)
  · exact .refl s

theorem State.keepsFabric_landUnit (s : State) (core : Option Nat) (k : Copy) (i : Nat) (g : List (Nat × Byte)) :
    s.KeepsFabric (s.landUnit core k i g).1 := by
  unfold State.landUnit
  dsimp only
  split
  · split
    · exact .refl s
    · refine .trans ?_ (State.keepsFabric_joinOutside _ _ _ _ _)
      refine .trans ?_ (State.keepsFabric_noteWalk _ k _)
      split
      · exact (s.keepsFabric_destSector _ _ _).trans (.of_sameButHomes (State.sameButHomes_fetchData _ _ _))
      · exact .refl s
  · exact .refl s

theorem State.keepsFabric_landFrom (s : State) (core : Option Nat) (k : Copy) (gs : List (List (Nat × Byte))) (i : Nat) :
    s.KeepsFabric (s.landFrom core k gs i).1 := by
  induction gs generalizing s k i with
  | nil => exact .refl s
  | cons g gs ih =>
    unfold State.landFrom
    split
    · exact (s.keepsFabric_landUnit core k i g).trans (ih _ _ _)
    · exact .refl s

theorem State.keepsFabric_notify (s : State) (stream : Nat) (n : Notif) : s.KeepsFabric (s.notify stream n) := by
  unfold State.notify
  split
  · exact .of_sameButPosts (s.sameButPosts_putRecord n)
  · exact ⟨rfl, rfl⟩

theorem State.keepsFabric_settleCopy (s : State) (k : Copy) : s.KeepsFabric (s.settleCopy k) := by
  unfold State.settleCopy
  split
  · unfold State.releaseForming
    dsimp only
    split
    · exact .refl s
    · exact .trans (t := s.modStrm k.stream _) ⟨rfl, rfl⟩ (.foldl (fun s e => s.keepsFabric_notify _ _) _ _)
  · exact s.keepsFabric_settlePoints _

/-- The failure of a copy leaves the fabric as it was. -/
theorem State.keepsFabric_failCopy (s : State) (a : Agent) (rot : List Nat) (k : Copy) (code : Nat) :
    s.KeepsFabric (s.failCopy a rot k code) := by
  unfold State.failCopy
  split
  · exact s.keepsFabric_modEng a rot _
  · have landed : s.KeepsFabric (s.landShadow (coreOfAgent a rot) k).1 := s.keepsFabric_landFrom _ k _ 0
    generalize s.landShadow (coreOfAgent a rot) k = r at landed
    obtain ⟨s1, k1, n1⟩ := r
    refine landed.trans ?_
    dsimp only
    have noted : s1.KeepsFabric ((s1.copyGauges k1).foldl (fun s pa => s.gaugeStatus pa 0 k1.handle code) s1) :=
      .foldl (fun s _ => s.keepsFabric_gaugeStatus _ _ _ _) _ _
    refine noted.trans ?_
    exact (State.keepsFabric_copyTotal _ k1).trans <| (State.keepsFabric_copyAdd _ k1 _).trans <|
      (State.keepsFabric_modEng _ a rot _).trans <| (State.keepsFabric_noteWrote _ a rot k1).trans (State.keepsFabric_settleCopy _ k1)

/-! ### Rate requests (R32) -/

theorem exec_linkctlGo_link {s : State} (hf : s.host.full = false) (hn : s.inp.n1 < 24) :
    exec .linkctlGo s = .next (s.requestRate s.inp.n1 (s.inp.v.extractLsb' 0 3).toNat).1 := by
  change execLinkctlGo s = _
  rw [execLinkctlGo, hostAct_of_room hf, if_pos hn, fieldN_toNat]

/-- The link after a request for a step, with the request's answer. -/
def Link.requested (l : Link) (step : Nat) : Link × Nat :=
  if 5 ≤ step ∨ l.maxStep < step then ({ l with refused := true }, 1)
  else match l.st with
    | .down | .gated => ({ l with refused := true, step := step }, 1)
    | .up =>
      if step = l.rate then ({ l with step := step, go := false }, 2)
      else ({ ({ l with step := step, go := true }).train step with go := true }, 0)
    | .retrain => ({ l with step := step, go := true, held := some step }, 0)

/-- A request changes its link alone. -/
theorem State.requestRate_eq (s : State) (n step : Nat) :
    s.requestRate n step = (s.setLink n ((s.link n).requested step).1, ((s.link n).requested step).2) := by
  by_cases h : 5 ≤ step ∨ (s.link n).maxStep < step
  · simp only [State.requestRate, Link.requested, if_pos h]
  · simp only [State.requestRate, Link.requested, if_neg h]
    cases (s.link n).st with
    | up => by_cases he : step = (s.link n).rate <;> simp only [he, if_true, if_false]
    | retrain => rfl
    | down => rfl
    | gated => rfl

section Requested
variable {l : Link} {step : Nat}

/-- A step beyond those of the link is refused. -/
theorem Link.requested_beyond (h : 5 ≤ step ∨ l.maxStep < step) : l.requested step = ({ l with refused := true }, 1) := if_pos h

variable (h1 : step ≤ 4) (h2 : step ≤ l.maxStep)
include h1 h2

/-- A request for another step begins a training. -/
theorem Link.requested_trains (hs : l.st = .up) (hne : step ≠ l.rate) : l.requested step = ({ l with
    st := .retrain, step := step, target := step, second := false, go := true, retrains := (l.retrains + 1) % 2 ^ 64 }, 0) := by
  rw [Link.requested, if_neg (by omega), hs]
  exact if_neg hne

theorem Link.requested_unchanged (hs : l.st = .up) (he : step = l.rate) :
    l.requested step = ({ l with step := step, go := false }, 2) := by
  rw [Link.requested, if_neg (by omega), hs]
  exact if_pos he

/-- During a training the request is held. -/
theorem Link.requested_held (hs : l.st = .retrain) :
    l.requested step = ({ l with step := step, go := true, held := some step }, 0) := by
  rw [Link.requested, if_neg (by omega), hs]

/-- A link that carries nothing refuses it. -/
theorem Link.requested_dead (hs : l.st = .down ∨ l.st = .gated) :
    l.requested step = ({ l with step := step, refused := true }, 1) := by
  rw [Link.requested, if_neg (by omega)]
  rcases hs with hs | hs <;> rw [hs]

end Requested

/-! ### The end of a training (R33, R34, R40) -/

/-- A fold keeps what each of its steps keeps. -/
theorem foldl_keeps {α β γ : Type} {π : β → γ} {f : β → α → β} (hf : ∀ b a, π (f b a) = π b) (l : List α) (b : β) :
    π (l.foldl f b) = π b :=
  List.foldlRecOn (motive := fun c => π c = π b) l f rfl fun c hc a _ => (hf c a).trans hc

@[simp] theorem State.rewriteRoutes_links (s : State) : s.rewriteRoutes.fab.links = s.fab.links := by
  unfold State.rewriteRoutes
  refine foldl_keeps (π := fun t : State => t.fab.links) (fun s p => ?_) allPairs s
  refine foldl_keeps (π := fun t : State => t.fab.links) (fun s ch => ?_) (List.range 4) s
  dsimp only
  split <;> rfl

@[simp] theorem State.link_rewriteRoutes (s : State) (n : Nat) : s.rewriteRoutes.link n = s.link n := by
  rw [State.link, State.rewriteRoutes_links]
  rfl

@[simp] theorem State.linkEvent_pow (s : State) (kind n : Nat) : (s.linkEvent kind n).pow = s.pow := by
  unfold State.linkEvent
  dsimp only
  split <;> rfl

theorem State.SameButFab.pow_eq {s t : State} (h : s.SameButFab t) : t.pow = s.pow := by rw [h]

theorem State.takeHeld_of_none {s : State} {n : Nat} (h : (s.link n).held = none) : s.takeHeld n = s := by
  simp only [State.takeHeld, h]

/-- A link that is DOWN refuses every request: its bit is set, and at most its step changes. -/
theorem Link.requested_down {l : Link} (hs : l.st = .down) (step : Nat) :
    ∃ k, (l.requested step).1 = { l with refused := true, step := k } := by
  by_cases h : 5 ≤ step ∨ l.maxStep < step
  · exact ⟨l.step, by rw [Link.requested_beyond h]⟩
  · exact ⟨step, by rw [Link.requested_dead (by omega) (by omega) (.inl hs)]⟩

@[simp] theorem State.linkDown_pow (s : State) (n : Nat) : (s.linkDown n).pow = s.pow := by
  refine (State.sameButFab_rewriteRoutes _).pow_eq.trans ((State.sameButFab_takeHeld _ n).pow_eq.trans ?_)
  exact State.linkEvent_pow _ 3 n

/-- A link that goes DOWN latches the event, and refuses the request that it held. -/
theorem State.link_linkDown (s : State) {n : Nat} (hn : n < 24) :
    ((s.linkDown n).link n).st = .down ∧ ((s.linkDown n).link n).go = false ∧ ((s.linkDown n).link n).evTrain = true ∧
      ((s.link n).held ≠ none → ((s.linkDown n).link n).refused = true) := by
  simp only [State.linkDown, State.link_rewriteRoutes, State.takeHeld, State.link_linkEvent hn, State.link_setLink]
  cases hh : (s.link n).held with
  | none => simp [Link.latch, State.link_linkEvent hn]
  | some step =>
    simp only [Link.latch, State.requestRate_eq, State.link_setLink]
    obtain ⟨k, hk⟩ := Link.requested_down (l := { s.link n with
      st := .down, go := false, evTrain := true, held := none }) rfl step
    rw [hk]
    exact ⟨rfl, rfl, rfl, fun _ => rfl⟩

/-- A link after a training that has succeeded. -/
def Link.trained (l : Link) : Link :=
  { l with st := .up, rate := if l.second then l.rate else l.target, go := l.held.isSome,
           d0 := l.d0.resendAll, d1 := l.d1.resendAll, second := false }

theorem Link.dir_trained (l : Link) (d : Nat) : l.trained.dir d = (l.dir d).resendAll := by
  unfold Link.dir
  split <;> rfl

theorem numbered_map_body (n : Nat) (fs : List Flit) : (numbered n fs).map (·.body) = fs.map (·.body) := by
  induction fs generalizing n with
  | nil => rfl
  | cons f fs ih => simp [numbered, ih]

section TrainEnds
variable {s : State} {n : Nat} (hst : (s.link n).st = .retrain)
include hst

/-- A training that succeeds, with no request held, brings the link UP; at the second attempt it raises its event. -/
theorem State.link_trainEnds_up (hn : n < 24) (hh : (s.link n).held = none) :
    (s.trainEnds n true).link n = if (s.link n).second then (s.link n).trained.latch 2 else (s.link n).trained := by
  have up : State.link (if (s.link n).second then (s.setLink n (s.link n).trained).linkEvent 2 n
      else s.setLink n (s.link n).trained) n = if (s.link n).second then (s.link n).trained.latch 2 else (s.link n).trained := by
    split
    · rw [State.link_linkEvent hn, State.link_setLink]
    · exact s.link_setLink n _
  have done : (if (s.link n).second then (s.link n).trained.latch 2 else (s.link n).trained).held = none := by
    split <;> exact hh
  simp only [State.trainEnds, hst, ne_eq, not_true_eq_false, if_false, if_true]
  rw [State.link_rewriteRoutes]
  change (State.takeHeld (if (s.link n).second then (s.setLink n (s.link n).trained).linkEvent 2 n
    else s.setLink n (s.link n).trained) n).link n = _
  rw [State.takeHeld_of_none (by rw [up, done]), up]

theorem State.trainEnds_again (h2 : (s.link n).second = false) :
    s.trainEnds n false = s.setLink n { s.link n with second := true } := by
  simp [State.trainEnds, hst, h2]

theorem State.trainEnds_down (h2 : (s.link n).second = true) : s.trainEnds n false = s.linkDown n := by
  simp [State.trainEnds, hst, h2]

end TrainEnds

@[simp] theorem State.trainEnds_pow (s : State) (n : Nat) (ok : Bool) : (s.trainEnds n ok).pow = s.pow := by
  unfold State.trainEnds
  extract_lets l up s1 s2
  split
  · rfl
  · split
    · have ended : s2.pow = s.pow := by
        unfold s2
        split
        · exact State.linkEvent_pow _ _ _
        · rfl
      exact ((State.sameButFab_rewriteRoutes _).pow_eq.trans (State.sameButFab_takeHeld _ n).pow_eq).trans ended
    · split
      · exact s.linkDown_pow n
      · rfl

/-- An attempt in which no lane fails, of a link with no failed lane and no command on it, ends as its success tells; of
the links the dies that it cuts off change nothing. -/
theorem exec_linkTrainComplete_clean {s : State} (hn : s.inp.n1 < 24) (hst : (s.link s.inp.n1).st = .retrain)
    (hnums : s.inp.nums = []) (hfail : (s.link s.inp.n1).failed = []) (hcmd : s.commandOn (100 + s.inp.n1) = false) :
    ∃ t, exec .linkTrainComplete s = .next t ∧ ∀ m, t.link m =
      ((s.setLink s.inp.n1 (s.link s.inp.n1)).trainEnds s.inp.n1 s.inp.ok).link m := by
  have lost := State.keepsFabric_loseUnreached ((s.setLink s.inp.n1 (s.link s.inp.n1)).trainEnds s.inp.n1 s.inp.ok)
  have quiet : ((s.setLink s.inp.n1 (s.link s.inp.n1)).trainEnds s.inp.n1 s.inp.ok).loseUnreached.commandOn (100 + s.inp.n1) = false := by
    rw [lost.commandOn, State.commandOn, State.trainEnds_pow]
    exact hcmd
  have kept : (if s.inp.ok then (s.inp.nums.filter (fun x => decide (x < 64))).foldl Link.trainLane (s.link s.inp.n1)
      else s.link s.inp.n1) = s.link s.inp.n1 := by
    rw [hnums]
    exact ite_self _
  have whole : (!(s.link s.inp.n1).half && !(s.link s.inp.n1).failed.isEmpty) = false := by simp [hfail]
  have sound : ((s.link s.inp.n1).bothHalves ||
      ((s.link s.inp.n1).half && decide ((s.link s.inp.n1).failed.length < (s.link s.inp.n1).failed.length))) = false := by
    simp [Link.bothHalves, hfail]
  refine ⟨_, ?_, lost.link⟩
  change execLinkTrainComplete s = _
  rw [execLinkTrainComplete]
  dsimp only
  rw [if_neg (by simp [hst, hn]), kept, whole, sound]
  simp only [Bool.or_false, Bool.false_eq_true, if_false]
  exact congrArg _ (if_neg fun h => absurd h.1 (ne_true_of_eq_false quiet))

/-! ### Lanes (R38) -/

/-- A lane that fails takes a spare, and the link trains; of the links the dies that it cuts off change nothing. -/
theorem exec_laneRetire_spare {s : State} (hn : s.inp.n1 < 24) (hl : s.inp.n2 < 64) (hst : (s.link s.inp.n1).st = .up)
    (herr : (s.link s.inp.n1).laneThr.toNat < s.inp.n3) (hsp : (s.link s.inp.n1).spares < 4) :
    ∃ t, exec .laneRetire s = .next t ∧
      t.link s.inp.n1 = { s.link s.inp.n1 with spares := (s.link s.inp.n1).spares + 1 }.train (s.link s.inp.n1).rate := by
  refine ⟨_, ?_, (State.keepsFabric_loseUnreached (s.setLink s.inp.n1 _)).link _ |>.trans (State.link_setLink _ _ _)⟩
  change execLaneRetire s = _
  simp [execLaneRetire, hn, hl, hst, herr, State.laneFails, hsp]

/-! ### Peer ports (R51, R53) -/

/-- A LINK_EVENT of a peer port latches its bit. -/
theorem State.peer_linkEvent (s : State) (kind p : Nat) :
    (s.linkEvent kind (24 + p)).peer p = { s.peer p with evDown := true } := by
  have far : ¬ 24 + p < 24 := by omega
  simp only [State.linkEvent, if_neg far, Nat.add_sub_cancel_left]
  exact State.peer_setPeer s p _

/-- A port that goes DOWN stays so while its copies fail, and latches its event. -/
theorem exec_peerPortDown_goes {s : State} (hn : s.inp.n1 < 8) (hst : (s.peer s.inp.n1).st ≠ 2) :
    ∃ t : State, exec .peerPortDown s = .next (t.linkEvent 4 (24 + s.inp.n1)) ∧ (t.peer s.inp.n1).st = 2 := by
  have near : ¬ 8 ≤ s.inp.n1 := by omega
  refine ⟨_, if_neg (by simp [near, hst]) |> congrArg Host.Outcome.next, ?_⟩
  rw [State.KeepsFabric.peer (.foldl (fun s e => .foldl (fun s k => s.keepsFabric_failCopy _ _ _ _) _ s) _ _), State.peer_setPeer]

theorem exec_peerstatWrite_clears {s : State} (hf : s.host.full = false) (hn : s.inp.n1 < 8) (hv : s.inp.v.getLsbD 28 = true) :
    exec .peerstatWrite s = .next (s.setPeer s.inp.n1 { s.peer s.inp.n1 with
      evDown := false, st := if (s.peer s.inp.n1).st = 2 then 1 else (s.peer s.inp.n1).st }) := by
  change execPeerstatWrite s = _
  rw [execPeerstatWrite, hostAct_of_room hf, bit_toNat, hv, if_pos ⟨hn, rfl⟩]

theorem exec_peerTrainComplete_ends {s : State} (hn : s.inp.n1 < 8) (hst : (s.peer s.inp.n1).st = 1) :
    exec .peerTrainComplete s = .next (s.setPeer s.inp.n1 (if s.inp.ok then { s.peer s.inp.n1 with st := 0, id := s.inp.v }
      else { s.peer s.inp.n1 with st := 2 })) := by
  change execPeerTrainComplete s = _
  rw [execPeerTrainComplete, if_pos ⟨hn, hst⟩]

/-! ### Drains (R42, R43) -/

/-- A fold none of whose entries changes the state leaves it. -/
theorem foldl_eq_self {α β : Type} {f : β → α → β} {l : List α} {b : β} (h : ∀ a ∈ l, f b a = b) : l.foldl f b = b := by
  induction l with
  | nil => rfl
  | cons a l ih =>
    rw [List.foldl_cons, h a (by simp)]
    exact ih fun c hc => h c (by simp [hc])

/-- With no freeze and no gating under way no drain waits to start. -/
theorem State.startDrains_of_quiet {s : State} (hf : ∀ t ∈ s.tab.tasks, t.freeze = none)
    (hg : ∀ i, i < 10 → (s.die i).power ≠ .gating) : s.startDrains = s := by
  unfold State.startDrains
  extract_lets s1
  have frozen : s1 = s := foldl_eq_self fun t ht => by rw [hf t ht]
  rw [frozen]
  exact foldl_eq_self fun d hd => if_neg fun h => hg d (List.mem_range.1 hd) h.1

/-- With no gating and no command waiting, the end of a drain starts nothing. -/
theorem State.nextGate_takeHeldCmds_of_nil {s : State} (hg : s.pow.gateNext = []) (hc : s.pkg.mgmt.heldCmds = []) :
    s.nextGate.takeHeldCmds = s := by
  have gate : s.nextGate = s := by rw [State.nextGate, hg]; exact ite_self s
  rw [gate, State.takeHeldCmds, hc]
  rfl

/-- A drain that no freeze and no gating waits for leaves only itself. -/
theorem State.endDrain_alone {d : Drain} (s : State) (ht : d.task = none) (hg : d.gate = none) : s.endDrain d = s.drainLeft d := by
  simp only [State.endDrain, State.drainLeft, ht, hg]

section RunDrains
variable {s : State} {d : Drain} (hd : s.fab.drains = [d]) (hf : ∀ t ∈ s.tab.tasks, t.freeze = none)
  (hg : ∀ i, i < 10 → (s.die i).power ≠ .gating)
include hd hf hg

/-- The only drain goes on while a marker of it is left. -/
theorem State.runDrains_waits (hm : d.markers ≠ []) : s.runDrains = s := by
  have none_over : s.fab.drains.filter (fun d => d.markers.isEmpty) = [] := by simp [hd, hm]
  simp only [State.runDrains, State.startDrains_of_quiet hf hg, none_over, List.foldl_nil]

/-- It is over with its last marker. -/
theorem State.runDrains_over (hm : d.markers = []) (ht : d.task = none) (hgate : d.gate = none) : s.runDrains = s.drainLeft d := by
  have ended : s.fab.drains.filter (fun d => d.markers.isEmpty) = [d] := by simp [hd, hm]
  have left : (s.drainLeft d).fab.drains = [] := by simp [State.drainLeft, hd]
  have quiet : (s.drainLeft d).startDrains = s.drainLeft d := State.startDrains_of_quiet hf hg
  simp only [State.runDrains, State.startDrains_of_quiet hf hg, ended, List.foldl_cons, List.foldl_nil,
    State.endDrain_alone s ht hgate, quiet, left, List.filter_nil]

end RunDrains

/-- The acknowledgement that an input names: router, place and channel. -/
def EventIn.mark (i : EventIn) : Nat × Nat × Nat := (i.n2, i.n3, i.n4)

/-- The only drain without one of its markers. -/
def State.acknowledged (s : State) (d : Drain) (m : Nat × Nat × Nat) : State :=
  { s with fab := { s.fab with drains := [{ d with markers := d.markers.filter (· != m) }] } }

theorem exec_drainMarkerAck (s : State) : exec .drainMarkerAck s = execDrainMarkerAck s := rfl

/-- An acknowledgement that has come back, with nothing before its marker left, is taken. -/
theorem exec_drainMarkerAck_taken {s : State} {d : Drain} (hd : s.fab.drains = [d]) (hn : d.num = s.inp.n1)
    (hm : s.inp.mark ∈ d.markers) (ha : s.inp.mark ∈ d.arrived)
    (hl : ∀ f ∈ s.flitsLeft, ¬ (f.fromR = s.inp.n2 ∧ f.dst = s.inp.n3 ∧ f.chan = s.inp.n4 ∧ f.stamp < d.stamp)) :
    exec .drainMarkerAck s = .next ((s.acknowledged d s.inp.mark).runDrains.nextGate).takeHeldCmds := by
  have found : s.fab.drains.find? (fun d => d.num == s.inp.n1) = some d := by simp [hd, hn]
  have come : (!d.markers.contains s.inp.mark || !d.arrived.contains s.inp.mark || s.flitsLeft.any (fun f =>
      f.fromR == s.inp.n2 && f.dst == s.inp.n3 && f.chan == s.inp.n4 && decide (f.stamp < d.stamp))) = false := by
    simpa [hm, ha, and_assoc] using hl
  rw [exec_drainMarkerAck, execDrainMarkerAck, found]
  refine congrArg Host.Outcome.next ((if_neg (ne_true_of_eq_false come)).trans ?_)
  simp only [hd, List.map_cons, List.map_nil, if_true]
  rfl

/-- One that has not come back yet is not taken. -/
theorem exec_drainMarkerAck_early {s : State} {d : Drain} (hd : s.fab.drains.find? (fun d => d.num == s.inp.n1) = some d)
    (ha : s.inp.mark ∉ d.arrived) : exec .drainMarkerAck s = .next s := by
  have early : (!d.arrived.contains s.inp.mark) = true := by simpa using ha
  rw [exec_drainMarkerAck, execDrainMarkerAck, hd]
  simp [EventIn.mark] at early
  simp [early]

/-- The drains with a number marked as timed out. -/
def State.drainTimedOut (s : State) (n : Nat) : State :=
  { s with fab := { s.fab with drains := s.fab.drains.map (fun x => if x.num = n then { x with timedOut := true, task := none } else x) } }

theorem exec_drainTimeout_posts {s : State} {d : Drain} (hd : s.fab.drains.find? (fun d => d.num == s.inp.n1) = some d)
    (ho : d.timedOut = false) (hlate : d.start_ + 10000 ≤ s.now) (ht : d.task = none) :
    exec .drainTimeout s = .next ((s.drainTimedOut s.inp.n1).post 0x0702 s.inp.n1) := by
  have hn : d.num = s.inp.n1 := by simpa using List.find?_some hd
  have late : ¬ (d.timedOut = true ∨ s.now < d.start_ + 10000) := by simp [ho, hlate]
  change execDrainTimeout s = _
  rw [execDrainTimeout, hd]
  dsimp only
  rw [if_neg late, hn, ht]
  rfl

/-! ### Permits (R44, R45, R186) -/

/-- A consumer grants a permit while its slots are not all taken by held permits, permits in flight and filled slots. -/
def Permit.granted (p : Permit) : Permit :=
  if p.held + p.inFlight + p.filled < p.slots then { p with inFlight := p.inFlight + 1 } else p

theorem Permit.granted_eq (p : Permit) :
    p.granted = { p with inFlight := if p.held + p.inFlight + p.filled < p.slots then p.inFlight + 1 else p.inFlight } := by
  unfold Permit.granted
  split <;> rfl

theorem exec_permitGrant_link {s : State} (hn : s.inp.n1 < 2560) :
    ∃ t q, exec .permitGrant s = .next t ∧ find? t.fab.permits (permitKey s.inp.n4 s.inp.n1) = some q ∧ s.SameButFab t ∧
      let p := (find? s.fab.permits (permitKey s.inp.n4 s.inp.n1)).getD {}
      q = match s.inp.n3 with
        | 1 => p.arrive
        | 2 => { p with inFlight := p.inFlight - 1 }
        | 3 => if p.inFlight = 0 then p else { p with inFlight := p.inFlight + 1 }
        | _ => (if s.inp.n4 < 10240 then s.slotsNow s.inp.n4 p
            else { p with slots := s.inp.n2, filled := if s.inp.ok then p.filled - 1 else p.filled }).granted :=
  ⟨_, _, congrArg Host.Outcome.next (if_pos hn), find?_put_self _ _ _, rfl, rfl⟩

/-- The permits of an on-chip link for one consumer after an audit. -/
def State.audited (s : State) (key : Nat) (p : Permit) : Permit :=
  let c := s.slotsNow (key / 2560) p
  { c with held := c.slots - c.filled, inFlight := 0 }

theorem State.auditOne_permits (s : State) (key : Nat) (p : Permit) :
    (s.auditOne key p).fab.permits = put s.fab.permits key (s.audited key p) := by
  unfold State.auditOne
  dsimp only
  split
  · rfl
  · rw [(State.keepsFabric_post _ _ _).fab]
    rfl

/-- An audit changes permits and posts: memory, the cores and the dies stay. -/
theorem State.auditOne_frame (s : State) (key : Nat) (p : Permit) :
    (s.auditOne key p).mem = s.mem ∧ (s.auditOne key p).cores = s.cores ∧ (s.auditOne key p).pkg = s.pkg := by
  unfold State.auditOne
  dsimp only
  split
  · exact ⟨rfl, rfl, rfl⟩
  · rw [State.post_eq]
    exact ⟨rfl, rfl, rfl⟩

theorem State.audited_congr {s t : State} (h : t.cores = s.cores) (key : Nat) (p : Permit) : t.audited key p = s.audited key p := by
  have core : t.core = s.core := funext fun n => by rw [State.core, h]; rfl
  have slots : t.slotsNow (key / 2560) p = s.slotsNow (key / 2560) p := by rw [State.slotsNow, core]; rfl
  rw [State.audited, slots]
  rfl

/-- The audit of several entries of the table. -/
def State.auditAll (s : State) (l : List (Nat × Permit)) : State := l.foldl (fun s e => s.auditOne e.1 e.2) s

theorem State.auditAll_frame (s : State) (l : List (Nat × Permit)) :
    (s.auditAll l).mem = s.mem ∧ (s.auditAll l).cores = s.cores ∧ (s.auditAll l).pkg = s.pkg :=
  have frame (t : State) (e : Nat × Permit) := t.auditOne_frame e.1 e.2
  ⟨foldl_keeps (π := State.mem) (f := fun (s : State) (e : Nat × Permit) => s.auditOne e.1 e.2) (fun t e => (frame t e).1) l s,
    foldl_keeps (π := State.cores) (f := fun (s : State) (e : Nat × Permit) => s.auditOne e.1 e.2) (fun t e => (frame t e).2.1) l s,
    foldl_keeps (π := State.pkg) (f := fun (s : State) (e : Nat × Permit) => s.auditOne e.1 e.2) (fun t e => (frame t e).2.2) l s⟩

/-- An audit leaves the entries that it does not concern. -/
theorem State.auditAll_other {l : List (Nat × Permit)} {k : Nat} (hk : k ∉ l.map Prod.fst) (s : State) :
    find? (s.auditAll l).fab.permits k = find? s.fab.permits k := by
  induction l generalizing s with
  | nil => rfl
  | cons e l ih =>
    obtain ⟨hne, hl⟩ := not_or.1 (fun h => hk (List.mem_cons.2 h) : ¬ (k = e.1 ∨ k ∈ l.map Prod.fst))
    refine (ih hl (s.auditOne e.1 e.2)).trans ?_
    rw [State.auditOne_permits, find?_put_ne _ _ hne]

/-- Each entry that it concerns is audited once. -/
theorem State.auditAll_entry {l : List (Nat × Permit)} {k : Nat} {p : Permit} (hl : (l.map Prod.fst).Nodup) (hk : (k, p) ∈ l)
    (s : State) : find? (s.auditAll l).fab.permits k = some (s.audited k p) := by
  induction l generalizing s with
  | nil => simp at hk
  | cons e l ih =>
    obtain ⟨he, hl⟩ := List.nodup_cons.1 hl
    rcases List.mem_cons.1 hk with rfl | hk
    · refine (State.auditAll_other he _).trans ?_
      rw [State.auditOne_permits, find?_put_self]
    · refine (ih hl hk (s.auditOne e.1 e.2)).trans ?_
      rw [State.audited_congr (s.auditOne_frame e.1 e.2).2.1]

/-- What is found in a keyed list stands in it. -/
theorem mem_of_find? {α : Type} {l : List (Nat × α)} {k : Nat} {v : α} (h : find? l k = some v) : (k, v) ∈ l := by
  induction l with
  | nil => simp [find?] at h
  | cons e l ih =>
    obtain ⟨j, u⟩ := e
    simp only [find?] at h
    split at h
    · next hj => simp_all
    · exact List.mem_cons_of_mem _ (ih h)

theorem exec_permitAudit_due {s : State} (hn : s.inp.n1 < 10) (hp : (s.die s.inp.n1).power = .on ∨ (s.die s.inp.n1).power = .gating)
    (hdue : (s.die s.inp.n1).auditAt + s.fab.auditMs * 1000 ≤ s.now) :
    exec .permitAudit s = .next ((s.setDie s.inp.n1 { s.die s.inp.n1 with auditAt := s.now }).auditAll
      (s.fab.permits.filter (fun e => e.1 % 2560 / 256 == s.inp.n1))) :=
  congrArg Host.Outcome.next (if_pos ⟨hn, hp, hdue⟩)

/-! ### The statement -/

/-- Settles O49, by what each event does to its link, port, drain or permits; a link or port that goes down keeps the fabric
through the loss of what it no longer reaches. -/
theorem linksPeersDrainsPermits : Obligations.LinksPeersDrainsPermits := by
  unfold Obligations.LinksPeersDrainsPermits
  refine ⟨fun s => ⟨?_, ?_, ?_, ?_, ?_⟩, fun s => ⟨?_, ?_, ?_, ?_, ?_⟩⟩
  · intro hf hn hstep
    rw [exec_linkctlGo_link hf hn, State.requestRate_eq, Link.requested_beyond hstep]
    exact ⟨_, rfl, s.link_setLink _ _, rfl, rfl, fun m hm => s.link_setLink_ne _ hm⟩
  · intro hf hn h1 h2
    rw [exec_linkctlGo_link hf hn, State.requestRate_eq]
    refine ⟨fun hs hne => ?_, fun hs he => ?_, fun hs => ?_, fun hs => ?_⟩
    · rw [Link.requested_trains h1 h2 hs hne]
      exact ⟨_, rfl, ⟨rfl, rfl, fun m hm => s.link_setLink_ne _ hm⟩, s.link_setLink _ _⟩
    · rw [Link.requested_unchanged h1 h2 hs he]
      exact ⟨_, rfl, ⟨rfl, rfl, fun m hm => s.link_setLink_ne _ hm⟩, s.link_setLink _ _⟩
    · rw [Link.requested_held h1 h2 hs]
      exact ⟨_, rfl, ⟨rfl, rfl, fun m hm => s.link_setLink_ne _ hm⟩, s.link_setLink _ _⟩
    · rw [Link.requested_dead h1 h2 hs]
      exact ⟨_, rfl, ⟨rfl, rfl, fun m hm => s.link_setLink_ne _ hm⟩, s.link_setLink _ _⟩
  · intro hn hst hnums hfail hcmd
    obtain ⟨t, ht, hlinks⟩ := exec_linkTrainComplete_clean hn hst hnums hfail hcmd
    have here := s.link_setLink s.inp.n1 (s.link s.inp.n1)
    have still : ((s.setLink s.inp.n1 (s.link s.inp.n1)).link s.inp.n1).st = .retrain := by rw [here, hst]
    refine ⟨fun hok hh h2 => ⟨t, ht, ?_⟩, fun hok hh h2 => ⟨t, ht, ?_⟩, fun hok h2 => ⟨t, ht, ?_⟩, fun hok h2 => ⟨t, ht, ?_⟩⟩
    · rw [hlinks, hok, State.link_trainEnds_up still hn (by rw [here, hh]), here, h2, if_neg (by decide)]
      refine ⟨rfl, by simp [Link.trained, h2], by simp [Link.trained, hh], fun d _ => ?_⟩
      rw [Link.dir_trained]
      exact ⟨rfl, numbered_map_body _ _⟩
    · rw [hlinks, hok, State.link_trainEnds_up still hn (by rw [here, hh]), here, h2, if_pos rfl]
      exact ⟨rfl, by simp [Link.latch, Link.trained, h2], by simp [Link.latch, Link.trained, hh], rfl⟩
    · rw [hlinks, hok, State.trainEnds_again still (by rw [here, h2]), State.link_setLink, here]
    · rw [hlinks, hok, State.trainEnds_down still (by rw [here, h2])]
      have down := (s.setLink s.inp.n1 (s.link s.inp.n1)).link_linkDown hn
      rwa [here] at down
  · intro hn hl hst herr hsp
    exact exec_laneRetire_spare hn hl hst herr hsp
  · refine ⟨fun hn hst => ?_, fun hf hn hv => ?_, fun hn hst => ?_⟩
    · obtain ⟨t, ht, hdown⟩ := exec_peerPortDown_goes hn hst
      exact ⟨_, ht, by rw [State.peer_linkEvent]; exact hdown, by rw [State.peer_linkEvent]⟩
    · exact ⟨_, exec_peerstatWrite_clears hf hn hv, ⟨rfl, rfl, fun m hm => rfl⟩, s.peer_setPeer _ _⟩
    · exact ⟨_, exec_peerTrainComplete_ends hn hst, ⟨rfl, rfl, fun m hm => rfl⟩, s.peer_setPeer _ _⟩
  · intro d rest hd hn hrest hm ha hl hf hg hgate hcmds hdg hdt
    rw [exec_drainMarkerAck_taken hd hn hm ha hl]
    by_cases hr : rest = []
    · rw [State.runDrains_over (s := s.acknowledged d s.inp.mark) (d := { d with markers := d.markers.filter (· != s.inp.mark) })
        rfl hf hg (hrest.trans hr) hdt hdg]
      exact ⟨_, congrArg Host.Outcome.next (State.nextGate_takeHeldCmds_of_nil hgate hcmds), rfl, rfl, fun h => absurd hr h,
        fun _ => by simp [State.drainLeft, State.acknowledged]⟩
    · rw [State.runDrains_waits (s := s.acknowledged d s.inp.mark)
        (d := { d with markers := d.markers.filter (· != s.inp.mark) }) rfl hf hg (fun h => hr (hrest.symm.trans h))]
      exact ⟨_, congrArg Host.Outcome.next (State.nextGate_takeHeldCmds_of_nil hgate hcmds), rfl, rfl,
        fun _ => by rw [← hrest]; rfl, fun h => absurd h hr⟩
  · intro d hd ha
    exact exec_drainMarkerAck_early hd ha
  · intro d hd ho hlate ht
    exact ⟨_, exec_drainTimeout_posts hd ho hlate ht, rfl, rfl, rfl⟩
  · intro hn
    obtain ⟨t, q, ht, hq, hsame, hqv⟩ := exec_permitGrant_link hn
    obtain ⟨hmem, hcores, -⟩ := hsame.frame
    refine ⟨t, q, ht, hq, hmem, hcores, fun h3 hc => ?_, fun h3 hc hok => ?_, fun h3 hf => ?_⟩ <;> rw [hqv, h3]
    · simp only [if_pos hc, Permit.granted_eq, State.slotsNow]
    · simp only [if_neg (Nat.not_lt.2 hc), hok, Permit.granted_eq]
      rfl
    · exact if_neg hf
  · intro hn hp hdue hnd
    rw [exec_permitAudit_due hn hp hdue]
    obtain ⟨hmem, hcores, hpkg⟩ := (s.setDie s.inp.n1 { s.die s.inp.n1 with auditAt := s.now }).auditAll_frame
      (s.fab.permits.filter (fun e => e.1 % 2560 / 256 == s.inp.n1))
    refine ⟨_, rfl, ?_, hmem, hcores, fun place p hp => ?_⟩
    · rw [State.die, hpkg]
      exact s.die_setDie _ _
    · split
      · next hin =>
        rw [State.auditAll_entry (hnd.sublist (List.filter_sublist.map _)) (List.mem_filter.2 ⟨mem_of_find? hp, by simpa using hin⟩)]
        rfl
      · next hout =>
        rw [State.auditAll_other]
        · exact hp
        · intro hk
          obtain ⟨e, he, rfl⟩ := List.mem_map.1 hk
          exact hout (by simpa using (List.mem_filter.1 he).2)

end Sys2Proof.Machine
end

section
/-! PROOFS. Stores to a line at hand, harvests of dirty pages, and the link operations: the statement about DIRTYH, LINKQ and
LINKSET (spec/09_memory.md R170, R204, R226; spec/10_consistency.md R227 to R232; spec/13_isa_scalar.md R331 to R333). -/

namespace Sys2Proof.Machine

open Sys2Proof.Bits

/-! ### What the agent's op finds unchanged -/

/-- What an op reads of a core: its mode and its registers. -/
def Core.own (c : Core) : Bool × Scalar × Regs := (c.frame, c.fr, c.pt)

/-- Memory, the bundle and every agent's mode and registers are as they were; logical times, lines and caches may differ. -/
structure State.KeepsAgent (s t : State) : Prop where
  mem : t.mem = s.mem
  bundle : t.bundle = s.bundle
  focus : t.focus = s.focus
  core : ∀ n, (t.core n).own = (s.core n).own
  seq : ∀ n, (t.seq n).sc = (s.seq n).sc

namespace State.KeepsAgent

theorem refl (s : State) : s.KeepsAgent s := ⟨rfl, rfl, rfl, fun _ => rfl, fun _ => rfl⟩

theorem trans {s t u : State} (h : s.KeepsAgent t) (h' : t.KeepsAgent u) : s.KeepsAgent u :=
  ⟨h'.mem.trans h.mem, h'.bundle.trans h.bundle, h'.focus.trans h.focus, fun n => (h'.core n).trans (h.core n),
    fun n => (h'.seq n).trans (h.seq n)⟩

theorem foldl {β : Type} {f : State → β → State} (hf : ∀ (s : State) b, s.KeepsAgent (f s b)) (l : List β) (s : State) :
    s.KeepsAgent (l.foldl f s) :=
  List.foldlRecOn (motive := fun t => s.KeepsAgent t) l f (refl s) fun t ht b _ => ht.trans (hf t b)

/-- What happens at the homes of lines does not reach the agents. -/
theorem of_homes {s t : State} (h : s.SameButHomes t) : s.KeepsAgent t := by
  rw [h]
  exact ⟨rfl, rfl, rfl, fun _ => rfl, fun _ => rfl⟩

variable {s t : State}

theorem scalar (h : s.KeepsAgent t) : t.scalar = s.scalar := by
  have core (n : Nat) := h.core n
  simp only [Core.own, Prod.mk.injEq] at core
  unfold State.scalar
  rw [h.focus]
  cases s.focus with
  | core n => simp only [(core n).1, (core n).2.1, (core n).2.2]
  | seq n => exact h.seq n
  | jig n => simp only [(core n).2.2]

theorem mode (h : s.KeepsAgent t) : t.mode = s.mode := by
  have core (n : Nat) := h.core n
  simp only [Core.own, Prod.mk.injEq] at core
  unfold State.mode
  rw [h.focus]
  cases s.focus with
  | core n => simp only [(core n).1]
  | seq n => rfl
  | jig n => rfl

end State.KeepsAgent

theorem State.keepsAgent_modCore (s : State) (n : Nat) {f : Core → Core} (hf : ∀ c, (f c).own = c.own) :
    s.KeepsAgent (s.modCore n f) := by
  refine ⟨rfl, rfl, rfl, fun i => ?_, fun _ => rfl⟩
  by_cases h : i = n
  · rw [h, State.core_modCore, hf]
  · rw [State.core_modCore_ne s f h]

theorem State.keepsAgent_setPts (s : State) (t : Nat) : s.KeepsAgent (s.setPts t) := by
  unfold State.setPts
  split
  · next n _ =>
    refine ⟨rfl, rfl, rfl, fun _ => rfl, fun i => ?_⟩
    by_cases h : i = n
    · rw [h, State.seq_setSeq]
    · rw [State.seq_setSeq_ne _ _ h]
  · exact s.keepsAgent_modCore _ fun _ => rfl

theorem State.keepsAgent_setLine (s : State) (n : Nat) (l : LineRec) : s.KeepsAgent (s.setLine n l) :=
  ⟨rfl, rfl, rfl, fun _ => rfl, fun _ => rfl⟩

theorem State.keepsAgent_putL1 (s : State) (n : Nat) (k : L1Copy) : s.KeepsAgent (s.putL1 n k) := by
  unfold State.putL1
  extract_lets old kept v t
  have placed : s.KeepsAgent t := s.keepsAgent_modCore n fun _ => rfl
  split
  · exact s.keepsAgent_modCore n fun _ => rfl
  · split
    · exact placed.trans ((State.KeepsAgent.of_homes (t.sameButHomes_touchLine _)).trans (State.keepsAgent_setLine _ _ _))
    · exact placed

theorem State.keepsAgent_readFor (s : State) (q : Req) (line : Nat) : s.KeepsAgent (s.readFor q line) := by
  have read := State.KeepsAgent.of_homes (s.sameButHomes_readLine line q.leaf q.hint)
  unfold State.readFor
  dsimp only
  split
  · exact read
  · exact read.trans (State.keepsAgent_modCore _ _ fun _ => rfl)

theorem State.keepsAgent_giveOwner (s : State) (q : Req) (line : Nat) (data : Bool) :
    s.KeepsAgent (s.giveOwner q line data) := by
  unfold State.giveOwner
  extract_lets bad s1 r s2
  have read : s.KeepsAgent s1 := by
    unfold s1
    split
    · exact s.keepsAgent_readFor q line
    · exact .refl s
  have given : s.KeepsAgent s2 := read.trans (s1.keepsAgent_setLine _ _)
  split
  · exact given.trans (s2.keepsAgent_modCore _ fun _ => rfl)
  · exact given.trans (s2.keepsAgent_putL1 _ _)

/-- A result on its way changes the agent's landing buffer alone (R176, R329). -/
theorem State.scalar_setScalar (s : State) (r : Scalar) : (s.setScalar r).scalar = r := by
  unfold State.setScalar
  split
  · next n h => simp [State.scalar, h]
  · next n h =>
    simp only [State.scalar, State.modCore_focus, h, State.core_modCore]
    unfold Core.setScalar
    split <;> simp_all
  · next n h => simp [State.scalar, h]

theorem State.putX_answer (s : State) (d : BitVec 5) (v : W64) :
    (s.putX d 6 v).bundle = s.bundle ∧ (s.putX d 6 v).scalar.pend =
      s.scalar.pend ++ if d = 0#5 then [] else [{ dest := .x d v, togo := 6, slot := s.bundle.slot }] := by
  unfold State.putX
  split
  · exact ⟨rfl, (List.append_nil _).symm⟩
  · exact ⟨State.setScalar_bundle _ _, by rw [State.issue, State.scalar_setScalar]; rfl⟩

@[simp] theorem State.putX_mem (s : State) (d : BitVec 5) (v : W64) : (s.putX d 6 v).mem = s.mem := by
  unfold State.putX
  split
  · rfl
  · exact State.setScalar_mem _ _

@[simp] theorem State.putX_tlb (s : State) (d : BitVec 5) (v : W64) : (s.putX d 6 v).tlb = s.tlb := by
  unfold State.putX
  split
  · rfl
  · exact State.setScalar_tlb _ _

@[simp] theorem State.putX_link (s : State) (d : BitVec 5) (v : W64) (n : Nat) : (s.putX d 6 v).link n = s.link n := by
  have fab : (s.putX d 6 v).fab = s.fab := by
    unfold State.putX
    split
    · rfl
    · exact State.setScalar_fab _ _
  rw [State.link, fab]
  rfl

/-- What an op answers after the state beside its agent has changed. -/
theorem State.KeepsAgent.putX_answer {s t : State} (h : s.KeepsAgent t) (d : BitVec 5) (v : W64) :
    (t.putX d 6 v).bundle = s.bundle ∧ (t.putX d 6 v).scalar.pend =
      s.scalar.pend ++ if d = 0#5 then [] else [{ dest := .x d v, togo := 6, slot := s.bundle.slot }] := by
  obtain ⟨hbundle, hpend⟩ := t.putX_answer d v
  exact ⟨hbundle.trans h.bundle, by rw [hpend, h.scalar, h.bundle]⟩

/-! ### Noting a translation and advancing a logical time (R204, R227) -/

/-- A state with other cores and command sequencers. -/
def State.withAgents (s : State) (cs : List (Nat × Core)) (qs : List (Nat × Seq)) : State := { s with cores := cs, seqs := qs }

/-- The cores of two lists have the same slices, so their caches have the same size. -/
def SameSlices (a b : List (Nat × Core)) : Prop :=
  ∀ n, ((find? b n).getD {}).pt.dslices = ((find? a n).getD {}).pt.dslices ∧
    ((find? b n).getD {}).lowered = ((find? a n).getD {}).lowered

section Agents
variable {s : State} {cs : List (Nat × Core)} (qs : List (Nat × Seq)) (h : SameSlices s.cores cs)
include h

theorem State.cacheLines_withAgents (die : Nat) : (s.withAgents cs qs).cacheLines die = s.cacheLines die := by
  unfold State.cacheLines
  simp only [State.core, State.withAgents, (h _).1, (h _).2]
  rfl

theorem State.cacheHit_withAgents (line : Nat) : (s.withAgents cs qs).cacheHit line = s.cacheHit line := by
  unfold State.cacheHit State.cached
  simp only [State.cacheLines_withAgents qs h]
  rfl

theorem State.rowHeld_withAgents (line : Nat) : (s.withAgents cs qs).rowHeld line = s.rowHeld line := by
  rw [State.rowHeld, State.cacheHit_withAgents qs h]
  rfl

theorem State.touchLine_withAgents (line : Nat) : (s.withAgents cs qs).touchLine line = (s.touchLine line).withAgents cs qs := by
  have row : (s.withAgents cs qs).accessRow line = (s.accessRow line).withAgents cs qs := by
    unfold State.accessRow
    split <;> rfl
  unfold State.touchLine
  rw [State.cacheHit_withAgents qs h, row]
  split <;> rfl

theorem State.allocate_withAgents (line hint : Nat) :
    (s.withAgents cs qs).allocate line hint = (s.allocate line hint).withAgents cs qs := by
  unfold State.allocate State.cached
  simp only [State.cacheLines_withAgents qs h]
  split
  · rfl
  · split <;> rfl

theorem State.fetchData_withAgents (line hint : Nat) :
    (s.withAgents cs qs).fetchData line hint = (s.fetchData line hint).withAgents cs qs := by
  have same : SameSlices (s.touchLine line).cores cs := by rwa [(s.sameButHomes_touchLine line).cores_eq]
  rw [State.fetchData, State.touchLine_withAgents qs h, State.allocate_withAgents qs same, State.fetchData]

theorem State.fetchAll_withAgents (ls : List Nat) :
    ls.foldl (fun s line => s.fetchData line 0) (s.withAgents cs qs) =
      (ls.foldl (fun s line => s.fetchData line 0) s).withAgents cs qs := by
  induction ls generalizing s with
  | nil => rfl
  | cons l ls ih =>
    have same : SameSlices (s.fetchData l 0).cores cs := by rwa [(s.sameButHomes_fetchData l 0).cores_eq]
    rw [List.foldl_cons, State.fetchData_withAgents qs h, ih same, List.foldl_cons]

omit h in
theorem State.putTlbs_withAgents (f : Nat → TlbEntry) (us : List Nat) (s : State) :
    us.foldl (fun s u => s.putTlb (f u)) (s.withAgents cs qs) = (us.foldl (fun s u => s.putTlb (f u)) s).withAgents cs qs := by
  have one (s : State) (e : TlbEntry) : (s.withAgents cs qs).putTlb e = (s.putTlb e).withAgents cs qs := by
    by_cases c : (s.tlb.filter (fun x => x.unit == e.unit)).contains e = true
    · exact (if_pos c).trans (congrArg (State.withAgents · cs qs) (if_pos c : s.putTlb e = _)).symm
    · exact (if_neg c).trans (congrArg (State.withAgents · cs qs) (if_neg c : s.putTlb e = _)).symm
  induction us generalizing s with
  | nil => rfl
  | cons u us ih => rw [List.foldl_cons, one, ih, List.foldl_cons]

theorem State.noteTlb_withAgents (v : View) (va : Nat) :
    (s.withAgents cs qs).noteTlb v va = (s.noteTlb v va).withAgents cs qs := by
  have leaf : (s.withAgents cs qs).leafFor v.units v.stream va = s.leafFor v.units v.stream va := rfl
  have hit : (s.withAgents cs qs).tlbHit v.units v.stream va = s.tlbHit v.units v.stream va := rfl
  have lines : (s.withAgents cs qs).walkLines v.stream va = s.walkLines v.stream va := rfl
  unfold State.noteTlb
  rw [leaf]
  split
  · rfl
  · dsimp only
    rw [hit, lines, State.fetchAll_withAgents qs h, ← State.putTlbs_withAgents]
    split <;> rfl

end Agents

theorem State.setPts_eq (s : State) (t : Nat) : s.setPts t = s.withAgents (s.setPts t).cores (s.setPts t).seqs := by
  unfold State.setPts
  split <;> rfl

theorem State.sameSlices_setPts (s : State) (t : Nat) : SameSlices s.cores (s.setPts t).cores := by
  have core (n : Nat) : ((s.setPts t).core n).pt = (s.core n).pt ∧ ((s.setPts t).core n).lowered = (s.core n).lowered := by
    unfold State.setPts
    split
    · exact ⟨rfl, rfl⟩
    · by_cases h : n = s.me
      · rw [h, State.modMy, State.core_modCore]
        exact ⟨rfl, rfl⟩
      · rw [State.modMy, State.core_modCore_ne _ _ h]
        exact ⟨rfl, rfl⟩
  exact fun n => ⟨congrArg Regs.dslices (core n).1, (core n).2⟩

theorem State.noteTlb_setPts (s : State) (t : Nat) (v : View) (va : Nat) (h : s.noteTlb v va = s) :
    (s.setPts t).noteTlb v va = s.setPts t := by
  rw [s.setPts_eq t, State.noteTlb_withAgents _ (s.sameSlices_setPts t), h]

theorem State.rowHeld_setPts (s : State) (t line : Nat) : (s.setPts t).rowHeld line = s.rowHeld line := by
  rw [s.setPts_eq t, State.rowHeld_withAgents _ (s.sameSlices_setPts t)]

/-! ### A line that the agent can write at once (R227, R229, R230) -/

/-- Replacing one entry leaves what the others give. -/
theorem filterMap_put {α β : Type} (l : List (Nat × α)) (k : Nat) (v : α) (f : Nat × α → Option β) :
    (put l k v).filterMap (fun e => if some e.1 = some k then none else f e) =
      l.filterMap (fun e => if some e.1 = some k then none else f e) := by
  induction l with
  | nil => simp [put]
  | cons e l ih =>
    obtain ⟨j, u⟩ := e
    unfold put
    split
    · simp
    · split
      · next h => simp [h]
      · rw [List.filterMap_cons, ih, List.filterMap_cons]

/-- The agent can write `n` bytes from cell `pa` on at once, and finds no error where they merge. -/
structure State.WriteReady (s : State) (pa n : Nat) (leaf : Option Nat) : Prop where
  free : s.holderOf (pa / 128) = none
  home : (s.owns (pa / 128) = true ∧ isTier pa = true) ∨ ((s.line (pa / 128)).queue = [] ∧
    (isTier pa = false ∨ ((s.line (pa / 128)).home = .idle ∧ s.rowHeld (pa / 128) = false)))
  data : s.owns (pa / 128) = true → isTier pa = true → (s.line (pa / 128)).bad = none
  merge : s.mergeFault pa n leaf = none

theorem State.holderOf_setPts (s : State) (t line : Nat) : (s.setPts t).holderOf line = s.holderOf line := by
  have others (f : Core → Core) : (s.modMy f).heldBut (some s.me) line = s.heldBut (some s.me) line := by
    simp only [State.heldBut, State.modMy, State.modCore, State.setCore]
    rw [filterMap_put]
  unfold State.holderOf State.setPts
  cases hf : s.focus with
  | seq n => simp only [State.setSeq_focus, hf]; rfl
  | core n => simp only [State.modMy_focus, hf]; exact others _
  | jig n => simp only [State.modMy_focus, hf]; exact others _

theorem State.owns_setPts (s : State) (t line : Nat) : (s.setPts t).owns line = s.owns line := by
  unfold State.owns State.setPts
  cases hf : s.focus with
  | seq n => simp only [State.setSeq_focus, hf]
  | core n => simp only [State.modMy_focus, hf, State.my_modMy]; rfl
  | jig n => simp only [State.modMy_focus, hf, State.my_modMy]; rfl

theorem State.line_setPts (s : State) (t line : Nat) : (s.setPts t).line line = s.line line := by
  rw [s.setPts_eq t]
  rfl

theorem State.mergeFault_setPts (s : State) (t pa n : Nat) (leaf : Option Nat) :
    (s.setPts t).mergeFault pa n leaf = s.mergeFault pa n leaf := by
  rw [s.setPts_eq t]
  rfl

theorem State.WriteReady.setPts {s : State} {pa n : Nat} {leaf : Option Nat} (h : s.WriteReady pa n leaf) (t : Nat) :
    (s.setPts t).WriteReady pa n leaf where
  free := (s.holderOf_setPts t _).trans h.free
  home := by rw [State.owns_setPts, State.line_setPts, State.rowHeld_setPts]; exact h.home
  data := by rw [State.owns_setPts, State.line_setPts]; exact h.data
  merge := (s.mergeFault_setPts t pa n leaf).trans h.merge

/-- A translation is noted at the homes of lines, and finds no error. -/
theorem State.noteTlb_health (s : State) (v : View) (va : Nat) : (s.noteTlb v va).health = s.health := by
  have row (s : State) (l : Nat) : (s.touchLine l).health = s.health := by
    unfold State.touchLine State.accessRow
    split
    · rfl
    · split <;> rfl
  have fetched (s : State) (l : Nat) : (s.fetchData l 0).health = s.health := by
    unfold State.fetchData State.allocate
    split
    · exact row s l
    · exact row s l
  have entry (s : State) (e : TlbEntry) : (s.putTlb e).health = s.health := by
    unfold State.putTlb
    dsimp only
    split <;> rfl
  unfold State.noteTlb
  split
  · rfl
  · dsimp only
    rw [foldl_keeps (π := State.health) (f := fun (s : State) (u : Nat) => s.putTlb _) (fun t u => entry t _)]
    split
    · rfl
    · exact foldl_keeps (π := State.health) (f := fun (s : State) (l : Nat) => s.fetchData l 0) fetched _ _

theorem State.WriteReady.noteTlb {s : State} {pa n : Nat} {leaf : Option Nat} (h : s.WriteReady pa n leaf) (v : View) (va : Nat)
    (hw : s.owns (pa / 128) = true ∨ bankOfLine (pa / 128) = none ∨ s.noteTlb v va = s) :
    (s.noteTlb v va).WriteReady pa n leaf := by
  have homes := s.sameButHomes_noteTlb v va
  have health := s.noteTlb_health v va
  have owns : (s.noteTlb v va).owns (pa / 128) = s.owns (pa / 128) := by rw [homes]; rfl
  have line : (s.noteTlb v va).line (pa / 128) = s.line (pa / 128) := by rw [homes]; rfl
  refine ⟨?_, ?_, by rw [owns, line]; exact h.data, ?_⟩
  · rw [homes]
    exact h.free
  · rw [owns, line]
    rcases h.home with hown | ⟨hqueue, htier | ⟨hidle, hrow⟩⟩
    · exact .inl hown
    · exact .inr ⟨hqueue, .inl htier⟩
    · cases ht : isTier pa with
      | false => exact .inr ⟨hqueue, .inl rfl⟩
      | true =>
        rcases hw with hown | hbank | hsame
        · exact .inl ⟨hown, rfl⟩
        · exact .inr ⟨hqueue, .inr ⟨hidle, by simp [State.rowHeld, State.bankHeld, hbank]⟩⟩
        · exact .inr ⟨hqueue, .inr ⟨hidle, by rwa [hsame]⟩⟩
  · rw [homes, health]
    exact h.merge

/-- An access within a line has one part. -/
theorem segments_one {fuel va n : Nat} (h0 : 0 < n) (hn : va % 128 + n ≤ 128) : segments (fuel + 1) va n = [(va, n)] := by
  have rest (f x : Nat) : segments f x 0 = [] := by cases f <;> rfl
  have whole : min n (128 - va % 128) = n := Nat.min_eq_left (by omega)
  simp only [segments, if_neg (Nat.ne_of_gt h0), whole, Nat.sub_self, rest]

/-- An access of one line notes one translation, at a logical time that a publish may have advanced. -/
theorem State.atAccess_one (s : State) (v : View) {va n : Nat} (h0 : 0 < n) (hn : va % 128 + n ≤ 128) :
    ∃ t, (t = s ∨ ∃ k, t = s.setPts k) ∧ s.atAccess v va n = if fieldN va 48 4 < 13 then t.noteTlb v va else t := by
  unfold State.atAccess
  rw [segments_one h0 hn]
  split
  · exact ⟨_, .inr ⟨_, rfl⟩, rfl⟩
  · exact ⟨s, .inl rfl, rfl⟩

theorem isTier_line (pa : Nat) : isTier (128 * (pa / 128)) = isTier pa := by
  simp only [isTier]
  congr 1
  simp only [eq_iff_iff]
  omega

section Reaches
variable {s : State} {va n pa : Nat} {leaf : Option Nat} (hr : s.Reaches .store va n pa leaf) (hg : s.Good pa n leaf)
include hr

include hg in
theorem State.Reaches.writeReady (hj : ∀ m, s.focus ≠ .jig m) : s.WriteReady pa n leaf := by
  obtain ⟨hfree, hhome, -⟩ := hr.serves
  rw [isTier_line] at hhome
  refine ⟨hfree, hhome, fun hown ht => ?_, hg.merge⟩
  have fault := hg.data 0 hr.size
  rw [Nat.add_zero, State.lineFault, ht, if_neg (by decide)] at fault
  cases hf : s.focus with
  | seq m => simp [State.owns, hf] at hown
  | core m => simpa [hf, hown] using fault
  | jig m => exact absurd hf (hj m)

include hg in
/-- The line stays at hand where the access begins. -/
theorem State.Reaches.atAccess (hj : ∀ m, s.focus ≠ .jig m) :
    (s.atAccess s.view va n).WriteReady pa n leaf ∧ s.KeepsAgent (s.atAccess s.view va n) ∧
      (14 * 2 ^ 48 ≤ va → (s.atAccess s.view va n).tlb = s.tlb) := by
  have ready := hr.writeReady hg hj
  obtain ⟨t, ht, heq⟩ := s.atAccess_one s.view hr.size hr.line
  have timed : t.WriteReady pa n leaf ∧ s.KeepsAgent t ∧ t.tlb = s.tlb := by
    rcases ht with rfl | ⟨k, rfl⟩
    · exact ⟨ready, .refl t, rfl⟩
    · exact ⟨ready.setPts k, s.keepsAgent_setPts k, by rw [s.setPts_eq k]; rfl⟩
  have walked : t.owns (pa / 128) = true ∨ bankOfLine (pa / 128) = none ∨ t.noteTlb s.view va = t := by
    rcases ht with rfl | ⟨k, rfl⟩
    · exact hr.walked
    · rw [State.owns_setPts]
      exact hr.walked.imp_right fun h => h.imp_right fun h => s.noteTlb_setPts k _ _ h
  obtain ⟨tready, tkeeps, ttlb⟩ := timed
  rw [heq]
  split
  · next hlow =>
    refine ⟨tready.noteTlb _ _ walked, tkeeps.trans (.of_homes (t.sameButHomes_noteTlb _ _)), fun hv => ?_⟩
    have space := hr.space
    simp only [fieldN] at hlow
    omega
  · exact ⟨tready, tkeeps, fun _ => ttlb⟩

end Reaches

/-- What a write meets in the line that it has opened. -/
def State.writeFault (s : State) (pa n : Nat) (leaf : Option Nat) : Option Nat :=
  if isTier pa ∧ s.owns (pa / 128) then (s.line (pa / 128)).bad else s.mergeFault pa n leaf

/-- The logical time of a write to a line, which is above its leases and becomes the agent's. -/
def State.writeTime (s : State) (line : Nat) : Nat := max s.pts ((s.line line).rts + 1)
/-- The state in which the line's bytes are written at that time. -/
def State.writeAt (s : State) (line : Nat) : State :=
  { s.setPts (s.writeTime line) with wtsTop := max s.wtsTop (s.writeTime line) }

/-- A state from which the write of an opened line goes on without a fault. -/
structure State.Opens (s t : State) (pa n : Nat) (leaf : Option Nat) : Prop where
  keeps : s.KeepsAgent t
  fault : t.writeFault pa n leaf = none

theorem State.Opens.writeAt {s t : State} {pa n : Nat} {leaf : Option Nat} (h : s.Opens t pa n leaf) (line : Nat) :
    s.Opens (t.writeAt line) pa n leaf where
  keeps := by
    obtain ⟨hmem, hbundle, hfocus, hcore, hseq⟩ := t.keepsAgent_setPts (t.writeTime line)
    exact h.keeps.trans ⟨hmem, hbundle, hfocus, hcore, hseq⟩
  fault := by
    have fault := h.fault
    rw [State.writeFault, ← State.owns_setPts t (t.writeTime line), ← State.line_setPts t (t.writeTime line),
      ← State.mergeFault_setPts t (t.writeTime line)] at fault
    exact fault

theorem State.leaveQueue_of_nil {s : State} {line : Nat} (h : (s.line line).queue = []) : s.leaveQueue line = s := by
  simp [State.leaveQueue, h]

theorem State.behind_of_nil {s : State} {line : Nat} (h : (s.line line).queue = []) : s.behind line = false := by
  simp [State.behind, h]

section OpenWrite
variable {s : State} {line : Nat} (leaf : Option Nat) (hfree : s.holderOf line = none)
include hfree

theorem State.openWrite_vault (ht : isTier (128 * line) = false) (hq : (s.line line).queue = []) :
    s.openWrite line leaf = .ok (s.writeAt line) (s.writeTime line) := by
  simp [State.openWrite, hfree, ht, State.behind_of_nil hq, State.leaveQueue_of_nil hq]
  exact ⟨rfl, rfl⟩

theorem State.openWrite_owned (ht : isTier (128 * line) = true) (hown : s.owns line = true) :
    s.openWrite line leaf = .ok (s.writeAt line) (s.writeTime line) := by
  cases hf : s.focus with
  | seq m => simp [State.owns, hf] at hown
  | core m => simp [State.openWrite, hfree, ht, hown, hf]; exact ⟨rfl, rfl⟩
  | jig m => simp [State.openWrite, hfree, ht, hown, hf]; exact ⟨rfl, rfl⟩

/-- A command sequencer writes at the home itself. -/
theorem State.openWrite_seq {m : Nat} (ht : isTier (128 * line) = true) (hf : s.focus = .seq m) (hq : (s.line line).queue = [])
    (hidle : (s.line line).home = .idle) (hrow : s.rowHeld line = false) :
    s.openWrite line leaf = .ok ((s.readLine line leaf s.hint).writeAt line) ((s.readLine line leaf s.hint).writeTime line) := by
  have read := s.sameButHomes_readLine line leaf s.hint
  have queue : ((s.readLine line leaf s.hint).line line).queue = [] := by rw [read]; exact hq
  have home : s.seqFree line = true := by simp [State.seqFree, State.behind_of_nil hq, hrow, hidle]
  have back : s.writtenBack line = s := by simp [State.writtenBack, hidle]
  simp only [State.openWrite, hfree, ht, hf, home, back, State.leaveQueue_of_nil queue]
  rfl

/-- A core that does not own a line with an idle home becomes its owner. -/
theorem State.openWrite_core {m : Nat} (ht : isTier (128 * line) = true) (hf : s.focus = .core m) (hown : s.owns line = false)
    (hq : (s.line line).queue = []) (hidle : (s.line line).home = .idle) (hrow : s.rowHeld line = false) :
    ∃ k data, let t := s.giveOwner ⟨k, m, s.hint, leaf⟩ line data
      s.openWrite line leaf = .ok (t.writeAt line) (t.writeTime line) := by
  have asker : s.asker = m := by simp [State.asker, State.me, hf]
  have held : s.heldBy m line = none := by simpa [State.holderOf, hf, State.me, State.heldBy] using hfree
  have home (q : Req) : s.homeFree line q = true := by simp [State.homeFree, hq, hrow, hidle]
  cases hfresh : decide (m < 640) && s.freshCopy s.me line with
  | true =>
    refine ⟨.up, !s.freshCopy m line, ?_⟩
    simp [State.openWrite, hfree, ht, hf, hown, asker, hfresh, home, State.serveIdle, held]
    exact ⟨rfl, rfl⟩
  | false =>
    refine ⟨.ex, true, ?_⟩
    simp [State.openWrite, hfree, ht, hf, hown, asker, hfresh, home, State.serveIdle, held]
    exact ⟨rfl, rfl⟩

end OpenWrite

/-! ### Becoming the owner of a line (R209, R230) -/

theorem nth_eq_getElem {α : Type} {l : List α} {i : Nat} (h : i < l.length) (d : α) : nth l i d = l[i] := by
  induction l generalizing i with
  | nil => simp at h
  | cons a l ih =>
    cases i with
    | zero => rfl
    | succ i => exact ih (by simpa using h)

/-- A full cache gives up one of its lines. -/
theorem victimIndex_lt {prios : List Nat} (h : 0 < prios.length) (draw : Nat) : victimIndex prios draw < prios.length := by
  unfold victimIndex
  extract_lets low idx
  by_cases hi : Config.freeNat draw % max 1 idx.length < idx.length
  · rw [nth_eq_getElem hi]
    exact List.mem_range.1 (List.mem_of_mem_filter (List.getElem_mem hi))
  · have none_low : idx.length = 0 := by
      have := Nat.mod_lt (Config.freeNat draw) (show 0 < max 1 idx.length by omega)
      omega
    rw [List.length_eq_zero_iff.1 none_low]
    exact h

/-- The line that enters a cache is not the one that it gives up. -/
theorem State.line_putL1 (s : State) (n : Nat) (k : L1Copy) : (s.putL1 n k).line k.line = s.line k.line := by
  unfold State.putL1
  extract_lets old kept v t
  split
  · rfl
  · next hfull =>
    have hk : victimIndex (kept.map (·.prio)) s.free < kept.length := by
      have big : l1Lines ≤ kept.length := by simpa using (not_or.1 hfull).2
      have := victimIndex_lt (prios := kept.map (·.prio)) (by rw [List.length_map]; simp only [l1Lines] at big; omega) s.free
      rwa [List.length_map] at this
    have hv : v ∈ old := by
      simp only [v, nth_eq_getElem hk]
      exact List.mem_of_mem_filter (List.getElem_mem hk)
    have other : k.line ≠ v.line := fun h => by
      have kept := (List.mem_filter.1 hv).2
      rw [← h] at kept
      simp at kept
    split
    · rw [State.line_setLine_ne _ _ other, t.sameButHomes_touchLine]
      rfl
    · rfl

theorem State.giveOwner_line {s : State} {q : Req} {line : Nat} (data : Bool) (hb : s.dataFault (128 * line) q.leaf = none) :
    ((s.giveOwner q line data).line line).home = .excl q.core ∧ ((s.giveOwner q line data).line line).bad = none := by
  have good : (if data then s.dataFault (128 * line) q.leaf else none) = none := by rw [hb, ite_self]
  unfold State.giveOwner
  extract_lets bad s1 r s2
  have given : (s2.line line).home = .excl q.core ∧ (s2.line line).bad = none := by
    simp only [s2, State.line_setLine]
    exact ⟨trivial, good⟩
  split
  · exact given
  · rw [s2.line_putL1]
    exact given

/-! ### Reading good data at a line's home (R221) -/

/-- The errors of data that a read's check finds; the sectors that it reads again are beside them. -/
def Health.SameFaults (h k : Health) : Prop :=
  k.poison = h.poison ∧ k.eccBad = h.eccBad ∧ k.tagBad = h.tagBad ∧ k.keys = h.keys ∧ k.vaultBad = h.vaultBad

theorem State.dataFault_congr {s t : State} (hm : t.mem = s.mem) (hh : s.health.SameFaults t.health) (pa : Nat) (leaf : Option Nat) :
    t.dataFault pa leaf = s.dataFault pa leaf := by
  obtain ⟨hpoison, hecc, htag, hkeys, hvault⟩ := hh
  simp only [State.dataFault, State.keyOf, hm, hpoison, hecc, htag, hkeys, hvault]
  rfl

theorem State.countRead_health (s : State) (pa kind : Nat) : (s.countRead pa kind).health = s.health := by
  unfold State.countRead
  split <;> rfl

/-- The check of a sector without an error leaves it so. -/
theorem State.sameFaults_checkRead {s : State} {pa : Nat} {leaf : Option Nat} (h : s.dataFault pa leaf = none) :
    s.health.SameFaults (s.checkRead pa leaf).health := by
  have same : s.health.SameFaults s.health := ⟨rfl, rfl, rfl, rfl, rfl⟩
  unfold State.checkRead
  split
  · exact same
  · next ht =>
    extract_lets sec health s1 s2
    have retried : s.health.SameFaults s1.health := by
      unfold s1
      split
      · rw [State.countRead_health]
        exact same
      · exact same
    have corrected : s.health.SameFaults s2.health := by
      unfold s2
      split
      · rwa [State.countRead_health]
      · exact retried
    have tier : isTier pa = true := by simpa using ht
    have sound : s2.health.eccBad.contains sec ≠ true := fun hbad => by
      rw [corrected.2.1] at hbad
      simp only [State.dataFault, tier, if_true] at h
      rw [if_pos (by rw [Bool.or_eq_true]; exact .inr hbad)] at h
      exact absurd h (by simp)
    split
    · exact corrected
    · split
      · rwa [State.countRead_health]
      · exact corrected

theorem State.dataFault_readLine {s : State} {line : Nat} {leaf : Option Nat} (h : s.dataFault (128 * line) leaf = none)
    (hint : Nat) :
    (s.readLine line leaf hint).dataFault (128 * line) leaf = none := by
  have row (t : State) : (t.accessRow line).health = t.health := by
    unfold State.accessRow
    split <;> rfl
  have kept (t : State) : (t.allocate line hint).health = t.health := by
    unfold State.allocate
    split
    · rfl
    · split <;> rfl
  refine (State.dataFault_congr (s.sameButHomes_readLine line leaf hint).mem_eq ?_ _ _).trans h
  unfold State.readLine
  split
  · rw [kept]
    exact ⟨rfl, rfl, rfl, rfl, rfl⟩
  · rw [h, Option.isSome_none, if_neg Bool.false_ne_true, kept, row]
    exact State.sameFaults_checkRead h

theorem State.dataFault_line (s : State) {pa : Nat} (h : isTier pa = true) (leaf : Option Nat) :
    s.dataFault (128 * (pa / 128)) leaf = s.dataFault pa leaf := by
  have sector : 128 * (pa / 128) / 512 = pa / 512 := by omega
  simp only [State.dataFault, isTier_line, h, sector, if_true]

theorem State.mergeFault_tier (s : State) {pa : Nat} (h : isTier pa = true) (n : Nat) (leaf : Option Nat) :
    s.mergeFault pa n leaf = s.dataFault pa leaf := by simp [State.mergeFault, h]

/-- A line at hand opens for a write, and nothing is found in it. -/
theorem State.WriteReady.openWrite {s : State} {pa n : Nat} {leaf : Option Nat} (h : s.WriteReady pa n leaf)
    (hj : ∀ m, s.focus ≠ .jig m) :
    ∃ t w, s.openWrite (pa / 128) leaf = .ok t w ∧ s.Opens t pa n leaf ∧ (isTier pa = false → t.tlb = s.tlb) := by
  cases ht : isTier pa with
  | false =>
    have queue : (s.line (pa / 128)).queue = [] := (h.home.resolve_left fun ⟨_, h⟩ => by simp [ht] at h).1
    have here : s.Opens s pa n leaf := ⟨.refl s, by rw [State.writeFault, if_neg (by simp [ht])]; exact h.merge⟩
    refine ⟨_, _, State.openWrite_vault leaf h.free (by rwa [isTier_line]) queue, here.writeAt _, fun _ => ?_⟩
    rw [State.writeAt, s.setPts_eq]
    rfl
  | true =>
    have tier : isTier (128 * (pa / 128)) = true := by rwa [isTier_line]
    have data : s.dataFault (128 * (pa / 128)) leaf = none := by
      rw [s.dataFault_line ht, ← s.mergeFault_tier ht n]
      exact h.merge
    cases hown : s.owns (pa / 128) with
    | true =>
      have here : s.Opens s pa n leaf := ⟨.refl s, by rw [State.writeFault, if_pos ⟨ht, hown⟩]; exact h.data hown ht⟩
      exact ⟨_, _, State.openWrite_owned leaf h.free tier hown, here.writeAt _, fun h => absurd h (by simp)⟩
    | false =>
      obtain ⟨queue, hidle⟩ := h.home.resolve_left fun ⟨ho, _⟩ => by simp [hown] at ho
      obtain ⟨idle, row⟩ := hidle.resolve_left (by simp [ht])
      cases hf : s.focus with
      | seq m =>
        have homes := s.sameButHomes_readLine (pa / 128) leaf s.hint
        have fault : (s.readLine (pa / 128) leaf s.hint).writeFault pa n leaf = none := by
          have owns : (s.readLine (pa / 128) leaf s.hint).owns (pa / 128) = s.owns (pa / 128) := by rw [homes]; rfl
          rw [State.writeFault, owns, hown, if_neg (by simp), State.mergeFault_tier _ ht, ← State.dataFault_line _ ht]
          exact State.dataFault_readLine data _
        exact ⟨_, _, State.openWrite_seq leaf h.free tier hf queue idle row,
          (State.Opens.mk (.of_homes homes) fault).writeAt _, fun h => absurd h (by simp)⟩
      | core m =>
        obtain ⟨k, data', hopen⟩ := State.openWrite_core leaf h.free tier hf hown queue idle row
        have keeps := s.keepsAgent_giveOwner ⟨k, m, s.hint, leaf⟩ (pa / 128) data'
        obtain ⟨home, bad⟩ := State.giveOwner_line (q := ⟨k, m, s.hint, leaf⟩) data' data
        have owned : (s.giveOwner ⟨k, m, s.hint, leaf⟩ (pa / 128) data').owns (pa / 128) = true := by
          simp [State.owns, State.ownedBy, State.me, keeps.focus, hf, home]
        have fault : (s.giveOwner ⟨k, m, s.hint, leaf⟩ (pa / 128) data').writeFault pa n leaf = none := by
          rw [State.writeFault, if_pos ⟨ht, owned⟩, bad]
        exact ⟨_, _, hopen, (State.Opens.mk keeps fault).writeAt _, fun h => absurd h (by simp)⟩
      | jig m => exact absurd hf (hj m)

/-! ### A write joins (R169, R226, R244) -/

theorem State.KeepsAgent.withMem {s t : State} (h : s.KeepsAgent t) (m : List Host.Cell) :
    ({ s with mem := m } : State).KeepsAgent { t with mem := m } :=
  ⟨rfl, h.bundle, h.focus, h.core, h.seq⟩

theorem State.keepsAgent_wake (s : State) (pa : Nat) : s.KeepsAgent (s.wake pa) := by
  have woken (c : Core) : c.wakeHere.own = c.own := by
    unfold Core.wakeHere
    split <;> rfl
  unfold State.wake
  split
  · refine ⟨rfl, rfl, rfl, fun n => ?_, fun _ => rfl⟩
    have entries : s.cores.map (fun e => if e.2.watches pa then (e.1, e.2.wakeHere) else e) =
        s.cores.map (fun e => (e.1, if e.2.watches pa then e.2.wakeHere else e.2)) :=
      List.map_congr_left fun e _ => by split <;> rfl
    simp only [State.core, entries]
    rw [find?_map (fun _ (c : Core) => if c.watches pa then c.wakeHere else c)]
    cases find? s.cores n with
    | none => rfl
    | some c =>
      simp only [Option.map_some, Option.getD_some]
      split
      · exact woken c
      · rfl
  · exact .refl s

/-- Keys and checks of a write stay beside the agents and memory. -/
theorem State.keepsAgent_covered (s : State) (sec line : Nat) (bytes : List (Nat × Byte)) (leaf : Option Nat) :
    s.KeepsAgent ((s.noteKey sec leaf).coverWords line bytes) := by
  have key : s.KeepsAgent (s.noteKey sec leaf) := by
    unfold State.noteKey
    split
    · exact .refl s
    · split
      · exact ⟨rfl, rfl, rfl, fun _ => rfl, fun _ => rfl⟩
      · split
        · exact .refl s
        · exact ⟨rfl, rfl, rfl, fun _ => rfl, fun _ => rfl⟩
  refine key.trans ?_
  unfold State.coverWords
  split
  · exact .refl _
  · exact ⟨rfl, rfl, rfl, fun _ => rfl, fun _ => rfl⟩

/-- Memory once the page of a leaf is marked dirty. -/
def Memory.dirtied (m : List Host.Cell) : Option Nat → List Host.Cell
  | none => m
  | some a => if (Memory.get m (a + 6)).getLsbD 4 then m else Memory.set m (a + 6) (Memory.get m (a + 6) ||| 0x10#8)

theorem Memory.wf_dirtied {m : List Host.Cell} (h : Memory.wf m = true) (leaf : Option Nat) :
    Memory.wf (Memory.dirtied m leaf) = true := by
  unfold Memory.dirtied
  split
  · exact h
  · split
    · exact h
    · exact Memory.wf_set h _ _

theorem State.keepsAgent_setDirty (s : State) (leaf : Option Nat) :
    ({ s with mem := Memory.dirtied s.mem leaf } : State).KeepsAgent (s.setDirty leaf) := by
  cases leaf with
  | none => exact .refl s
  | some a =>
    by_cases h : (Memory.get s.mem (a + 6)).getLsbD 4 = true
    · simp only [Memory.dirtied, State.setDirty, if_pos h]
      exact .refl s
    · simp only [Memory.dirtied, State.setDirty, if_neg h]
      exact (State.KeepsAgent.of_homes (s.sameButHomes_touchLine _)).withMem _

theorem offsets_cons (off : Nat) (b : Byte) (bs : List Byte) : offsets off (b :: bs) = (off, b) :: offsets (off + 1) bs := by
  simp only [offsets, List.length_cons, List.range_succ_eq_map, List.map_cons, List.map_map, List.zip_cons_cons, Nat.zero_add]
  congr 3
  funext i
  simp only [Function.comp]
  omega

/-- Bytes written by their offsets in a line are bytes written one after another. -/
theorem foldl_set_offsets (base off : Nat) (bs : List Byte) (m : List Host.Cell) :
    (offsets off bs).foldl (fun m (b : Nat × Byte) => Memory.set m (base + b.1) b.2) m = Memory.setAll m (base + off) bs := by
  induction bs generalizing off m with
  | nil => rfl
  | cons b bs ih => rw [offsets_cons, List.foldl_cons, ih, Memory.setAll, Nat.add_assoc]

/-- A write that joins: memory takes its bytes, the agents keep what they have. -/
theorem State.keepsAgent_join (s : State) (pa w : Nat) (bs : List Byte) (leaf : Option Nat) :
    ({ s with mem := Memory.setAll (Memory.dirtied s.mem leaf) pa bs } : State).KeepsAgent
      (s.join (pa / 128) w (offsets (pa % 128) bs) leaf) := by
  have place : 128 * (pa / 128) + pa % 128 = pa := Nat.div_add_mod pa 128
  unfold State.join
  extract_lets r s1 s2 s3 s4
  have written : s3.mem = Memory.setAll (Memory.dirtied s.mem leaf) pa bs :=
    (foldl_set_offsets (128 * (pa / 128)) (pa % 128) bs s1.mem).trans (by rw [place, (s.keepsAgent_setDirty leaf).mem])
  have lined : ({ s with mem := Memory.setAll (Memory.dirtied s.mem leaf) pa bs } : State).KeepsAgent s3 := by
    have kept := s.keepsAgent_setDirty leaf
    exact ⟨written, kept.bundle, kept.focus, kept.core, kept.seq⟩
  exact (lined.trans (s3.keepsAgent_covered _ _ _ leaf)).trans
    (State.KeepsAgent.foldl (fun s b => s.keepsAgent_wake _) (offsets (pa % 128) bs) s4)

/-- A write to a vault leaves the TLBs. -/
theorem State.join_tlb (s : State) (line w : Nat) (bs : List (Nat × Byte)) : (s.join line w bs none).tlb = s.tlb := by
  have woken (s : State) (pa : Nat) : (s.wake pa).tlb = s.tlb := by
    unfold State.wake
    split <;> rfl
  have covered (s : State) : (s.coverWords line bs).tlb = s.tlb := by
    unfold State.coverWords
    split <;> rfl
  unfold State.join
  extract_lets r s1 s2 s3 s4
  rw [foldl_keeps (π := State.tlb) (f := fun (s : State) (b : Nat × Byte) => s.wake (128 * line + b.1)) (fun t b => woken t _)]
  exact covered s3

/-! ### A store of one line (R226, R298, R299) -/

/-- A store of one line that is at hand, where nothing is withheld: its bytes join the global order. -/
theorem State.Reaches.store {s : State} {va pa : Nat} {leaf : Option Nat} {bs : List Byte} (slot : Nat)
    (hr : s.Reaches .store va bs.length pa leaf) (hg : s.Good pa bs.length leaf) (hj : ∀ m, s.focus ≠ .jig m)
    (hp : s.mode ≠ .point) :
    ∃ t, s.store s.view slot va bs = .ok t () ∧
      ({ s with mem := Memory.setAll (Memory.dirtied s.mem leaf) pa bs } : State).KeepsAgent t ∧
      (leaf = none → isTier pa = false → 14 * 2 ^ 48 ≤ va → t.tlb = s.tlb) := by
  obtain ⟨ready, kept, tlb⟩ := hr.atAccess hg hj
  obtain ⟨t, w, hopen, ⟨keeps, fault⟩, opened⟩ := ready.openWrite (by rw [kept.focus]; exact hj)
  have agent := kept.trans keeps
  have unwithheld : t.mode ≠ .point := by rwa [agent.mode]
  have window : ¬ fieldN va 48 4 = 13 := by
    have := hr.window
    have := hr.space
    simp only [fieldN]
    omega
  have written : s.store s.view slot va bs = .ok (t.join (pa / 128) w (offsets (pa % 128) bs) leaf) () := by
    rw [State.store, if_neg fun h => window h.1, segments_one hr.size hr.line]
    simp only [State.resolveAll, hr.cell, State.writeParts, hopen, List.take_length]
    rw [State.writeFault] at fault
    rw [fault]
  refine ⟨_, written, ?_, fun hl ht hv => ?_⟩
  · have joined := t.keepsAgent_join pa w bs leaf
    rw [agent.mem] at joined
    exact (agent.withMem _).trans joined
  · subst hl
    rw [State.join_tlb, opened ht, tlb hv]

/-! ### A store to a vault while pages change (R199, R205) -/

theorem State.vaultPlace_cell {s : State} {task lbay core off pa : Nat} {engine : Bool} {leaf : Option Nat}
    (h : s.vaultPlace task lbay core off engine = .ok (.cell pa leaf)) : 20 * 2 ^ 40 ≤ pa := by
  unfold State.vaultPlace at h
  split at h
  · dsimp only at h
    split at h
    · cases h
    · split at h
      · cases h
        simp only [vaultCell]
        omega
      · cases h
  · split at h
    · cases h
    · dsimp only at h
      split at h
      · cases h
        simp only [rotCell]
        omega
      · cases h

theorem State.translate_leaf {s : State} {units : List Nat} {stream va pa : Nat} {frame : Bool} {leaf : Option Nat}
    (h : s.translate units stream frame .store va = .ok (.cell pa leaf)) : leaf ≠ none := by
  rintro rfl
  unfold State.translate at h
  split at h
  · cases h
  · dsimp only at h
    split at h
    · cases h
    · split at h
      · cases h
      · split at h
        · cases h
        · split at h
          · cases h
          · cases h

/-- A state with other pages: memory and what the hardware knows of it beside. -/
def State.withPages (s : State) (free : Nat) (hbm : List (Nat × Stack)) (mem : List Host.Cell) (tlb : List TlbEntry) : State :=
  { s with free := free, hbm := hbm, mem := mem, tlb := tlb }

section Pages
variable {s : State} {va n pa : Nat} (f : Nat) (b : List (Nat × Stack)) (m : List Host.Cell) (e : List TlbEntry)

/-- An address of a vault resolves without the pages. -/
theorem State.resolve_vault {v : View} (h : s.resolve v .store va = .ok (.cell pa none)) :
    20 * 2 ^ 40 ≤ pa ∧ (s.withPages f b m e).resolve v .store va = .ok (.cell pa none) := by
  have live : (s.withPages f b m e).resolve v .store va =
    (s.withPages f b m e).resolveRaw v .store (s.liveVa v.stream v.task va) := rfl
  rw [live]
  change s.resolveRaw v .store (s.liveVa v.stream v.task va) = _ at h
  generalize s.liveVa v.stream v.task va = x at h ⊢
  unfold State.resolveRaw at h ⊢
  split at h
  · cases h
  · next hx =>
    rw [if_neg hx]
    split at h
    · cases h
    · refine ⟨?_, h⟩
      rw [if_neg (by decide)] at h
      split at h
      · cases h
      · split at h
        · cases h
        · split at h
          · exact State.vaultPlace_cell h
          · cases h
    · refine ⟨?_, h⟩
      rw [if_neg (by decide)] at h
      split at h
      · cases h
      · split at h
        · cases h
        · split at h
          · exact State.vaultPlace_cell h
          · cases h
    · exact absurd rfl (State.translate_leaf h)

theorem State.Reaches.vault (hr : s.Reaches .store va n pa none) : 20 * 2 ^ 40 ≤ pa :=
  (State.resolve_vault s.free s.hbm s.mem s.tlb hr.cell).1

/-- A store to a vault reaches its cell whatever the pages are. -/
theorem State.Reaches.withPages (hr : s.Reaches .store va n pa none) : (s.withPages f b m e).Reaches .store va n pa none := by
  have vault := hr.vault
  have line : isTier (128 * (pa / 128)) = false := by rw [isTier_line]; simpa [isTier] using vault
  have bank : bankOfLine (pa / 128) = none := if_neg (show ¬ 128 * (pa / 128) < 10 * 2 ^ 40 by omega)
  have queue := (hr.serves.home.resolve_left fun ⟨_, ht⟩ => by simp [line] at ht).1
  exact { hr with
    cell := (State.resolve_vault f b m e hr.cell).2
    serves := ⟨hr.serves.free, .inr ⟨queue, .inl line⟩, hr.serves.copy⟩
    walked := .inr (.inl bank) }

theorem State.Good.withPages (hg : s.Good pa n none) (hp : 20 * 2 ^ 40 ≤ pa) : (s.withPages f b m e).Good pa n none := by
  have vault (k : Nat) : isTier (pa + k) = false := by
    have : ¬ pa + k < 20 * 2 ^ 40 := by omega
    simpa [isTier] using this
  have merge (t : State) : t.mergeFault pa n none = if pa % 8 ≠ 0 ∧ (t.dataFault pa none).isSome then t.dataFault pa none
      else if (pa + n) % 8 ≠ 0 then t.dataFault (pa + n) none else none := by
    have := vault 0
    simp only [Nat.add_zero] at this
    simp only [State.mergeFault, this]
    rfl
  have fault (k : Nat) : (s.withPages f b m e).dataFault (pa + k) none = s.dataFault (pa + k) none := by
    simp only [State.dataFault, vault k]
    rfl
  refine ⟨fun k hk => ?_, ?_, hg.stores⟩
  · have data := hg.data k hk
    simp only [State.lineFault, vault k, Bool.not_false, if_true] at data ⊢
    rw [fault]
    exact data
  · rw [merge, show (s.withPages f b m e).dataFault pa none = s.dataFault pa none from fault 0, fault, ← merge]
    exact hg.merge

/-- A store of one line to a vault, where the pages have changed. -/
theorem State.Reaches.store_vault {bs : List Byte} (hr : s.Reaches .store va bs.length pa none) (hg : s.Good pa bs.length none)
    (hj : ∀ m, s.focus ≠ .jig m) (hp : s.mode ≠ .point) (hv : 14 * 2 ^ 48 ≤ va) :
    ∃ t, (s.withPages f b m e).store (s.withPages f b m e).view (s.withPages f b m e).bundle.slot va bs = .ok t () ∧
      (s.withPages f b (Memory.setAll m pa bs) e).KeepsAgent t ∧ t.tlb = e := by
  have vault := hr.vault
  obtain ⟨t, hs, kept, tlb⟩ := (hr.withPages f b m e).store s.bundle.slot (hg.withPages f b m e vault) hj hp
  exact ⟨t, hs, kept, tlb rfl (by simpa [isTier] using vault) hv⟩

end Pages

/-! ### Bytes and entries (R5, R200, R201) -/

theorem Memory.read_congr {m m' : List Host.Cell} {a n : Nat} (h : ∀ k, k < n → Memory.get m' (a + k) = Memory.get m (a + k)) :
    Memory.read m' a n = Memory.read m a n := by
  unfold Memory.read
  congr 1
  induction n generalizing a with
  | zero => rfl
  | succ n ih =>
    have first := h 0 (by omega)
    have rest := ih (a := a + 1) fun k hk => by have := h (k + 1) (by omega); rwa [show a + (k + 1) = a + 1 + k by omega] at this
    simp only [Memory.getAll, rest, Nat.add_zero] at first ⊢
    rw [first]

theorem Memory.read_setAll {m : List Host.Cell} (h : Memory.wf m = true) (a : Nat) (vs : List Byte) :
    Memory.read (Memory.setAll m a vs) a vs.length = leNat vs := by
  unfold Memory.read
  congr 1
  induction vs generalizing m a with
  | nil => rfl
  | cons v vs ih =>
    rw [Memory.setAll, List.length_cons, Memory.getAll, ih (Memory.wf_set h a v), Memory.get_setAll_out _ _ (by omega),
      Memory.get_set_self h]

theorem leNat_leBytes {n v : Nat} (h : v < 256 ^ n) : leNat (leBytes n v) = v := by
  induction n generalizing v with
  | zero => simp only [leBytes, leNat]; omega
  | succ n ih =>
    have rest : v / 256 < 256 ^ n := by rw [Nat.pow_succ] at h; omega
    simp only [leBytes, leNat, ih rest, BitVec.toNat_ofNat]
    omega

/-- An entry of a page table by its byte with DIRTY. -/
theorem Memory.read_entry (m : List Host.Cell) (a : Nat) : ∃ lo, lo < 2 ^ 48 ∧ lo = Memory.read m a 6 ∧
    Memory.read m a 8 = lo + 2 ^ 48 * (Memory.get m (a + 6)).toNat + 2 ^ 56 * (Memory.get m (a + 7)).toNat := by
  refine ⟨_, ?_, rfl, ?_⟩
  · simp only [Memory.read, Memory.getAll, leNat]
    omega
  · simp only [Memory.read, Memory.getAll, leNat, Nat.add_assoc, Nat.reduceAdd]
    omega

theorem bit_byte_six {lo : Nat} (h : lo < 2 ^ 48) (b c : Nat) : bit (lo + 2 ^ 48 * b + 2 ^ 56 * c) 52 = bit b 4 := by
  unfold bit
  congr 1
  omega

/-- DIRTY is bit 52 of an entry, bit 4 of its byte at 6. -/
theorem bit_read_dirty (m : List Host.Cell) (a : Nat) : bit (Memory.read m a 8) 52 = (Memory.get m (a + 6)).getLsbD 4 := by
  obtain ⟨lo, hlo, -, hread⟩ := Memory.read_entry m a
  rw [hread, bit_byte_six hlo, bit_toNat]

/-- Memory with DIRTY of an entry cleared. -/
def Memory.cleaned (m : List Host.Cell) (a : Nat) : List Host.Cell := Memory.set m (a + 6) (Memory.get m (a + 6) &&& 0xEF#8)

theorem clear_dirty (b : Byte) : (b.getLsbD 4 = true → (b &&& 0xEF#8).toNat + 16 = b.toNat) ∧
    (b.getLsbD 4 = false → b &&& 0xEF#8 = b) := by
  revert b
  decide

/-- A dirty entry loses one bit. -/
theorem Memory.read_cleaned {m : List Host.Cell} (h : Memory.wf m = true) {a : Nat} (hd : bit (Memory.read m a 8) 52 = true) :
    Memory.read (Memory.cleaned m a) a 8 + 2 ^ 52 = Memory.read m a 8 := by
  have dirty := (clear_dirty (Memory.get m (a + 6))).1 ((bit_read_dirty m a).symm.trans hd)
  obtain ⟨lo, -, hlo, hread⟩ := Memory.read_entry m a
  obtain ⟨lo', -, hlo', hread'⟩ := Memory.read_entry (Memory.cleaned m a) a
  have low : lo' = lo := by
    rw [hlo, hlo']
    exact Memory.read_congr fun k hk => Memory.get_set_ne _ _ (by omega)
  have byte : Memory.get (Memory.cleaned m a) (a + 6) = Memory.get m (a + 6) &&& 0xEF#8 := Memory.get_set_self h _ _
  have last : Memory.get (Memory.cleaned m a) (a + 7) = Memory.get m (a + 7) := Memory.get_set_ne _ _ (by omega)
  rw [hread, hread', low, byte, last]
  omega

/-- DIRTY does not make a leaf's entry invalid (R201). -/
theorem entryOk_dirty {lvl e : Nat} (frames : List (Nat × Nat)) (hd : bit (e + 2 ^ 52) 52 = true) (hl : bit (e + 2 ^ 52) 1 = true) :
    bit e 1 = true ∧ entryOk lvl e frames = entryOk lvl (e + 2 ^ 52) frames := by
  have even : e / 2 ^ 52 % 2 = 0 := by
    simp only [bit, beq_iff_eq] at hd
    omega
  have b0 : bit (e + 2 ^ 52) 0 = bit e 0 := by unfold bit; congr 1; omega
  have b1 : bit (e + 2 ^ 52) 1 = bit e 1 := by unfold bit; congr 1; omega
  have f58 : fieldN (e + 2 ^ 52) 58 2 = fieldN e 58 2 := by unfold fieldN; omega
  have f54 : fieldN (e + 2 ^ 52) 54 4 = fieldN e 54 4 := by unfold fieldN; omega
  have f9 : fieldN (e + 2 ^ 52) 9 32 = fieldN e 9 32 := by unfold fieldN; omega
  have f41 : fieldN (e + 2 ^ 52) 41 11 = fieldN e 41 11 := by unfold fieldN; omega
  have f6 : fieldN (e + 2 ^ 52) 6 3 = fieldN e 6 3 := by unfold fieldN; omega
  rw [b1] at hl
  exact ⟨hl, by simp only [entryOk, b0, b1, f58, f54, f9, f41, f6, hl, if_true]⟩

theorem entryBase_aligned (e : Nat) : entryBase e % 8 = 0 := by
  unfold entryBase tierBase
  split <;> omega

/-! ### Walks that end at one leaf (R200, R204) -/

/-- A walk by the entry that it reads first. -/
theorem walk_succ (m : List Host.Cell) (frames : List (Nat × Nat)) {va n lvl table a e : Nat}
    (ha : table + 8 * walkIndex lvl va = a) (he : Memory.read m a 8 = e) : walk m frames va (n + 1) lvl table = if !entryOk lvl e frames then none
      else if bit e 1 then some ⟨a, e, nth [0, 31, 25, 19] lvl 19⟩ else walk m frames va n (lvl + 1) (entryBase e) := by
  rw [← he, ← ha, walk]

/-- A walk ends at an entry of a table, which is a leaf. -/
theorem walk_leaf {m : List Host.Cell} {frames : List (Nat × Nat)} {va n lvl table : Nat} {l : Leaf}
    (h : walk m frames va n lvl table = some l) (ht : table % 8 = 0) :
    l.at_ % 8 = 0 ∧ l.val = Memory.read m l.at_ 8 ∧ bit l.val 1 = true := by
  induction n generalizing lvl table with
  | zero => simp [walk] at h
  | succ n ih =>
    obtain ⟨a, ha⟩ : ∃ a, table + 8 * walkIndex lvl va = a := ⟨_, rfl⟩
    obtain ⟨e, he⟩ : ∃ e, Memory.read m a 8 = e := ⟨_, rfl⟩
    rw [walk_succ m frames ha he] at h
    split at h
    · simp at h
    · split at h
      · next hleaf =>
        obtain rfl := Option.some.inj h
        exact ⟨by simp only; omega, he.symm, hleaf⟩
      · exact ih h (entryBase_aligned e)

section Cleaned
variable {m : List Host.Cell} {p : Nat} (hm : Memory.wf m = true) (hd : bit (Memory.read m p 8) 52 = true)
  (hp : p % 8 = 0) (hleaf : bit (Memory.read m p 8) 1 = true)

include hp in
theorem read_cleaned_ne {a : Nat} (ha : a ≠ p) (h8 : a % 8 = 0) : Memory.read (Memory.cleaned m p) a 8 = Memory.read m a 8 :=
  Memory.read_congr fun k hk => Memory.get_set_ne _ _ (by omega)

include hm hd hp hleaf in
/-- Once DIRTY of a leaf is cleared, the walks that end at it still do. -/
theorem walk_cleaned {frames : List (Nat × Nat)} {va n lvl table : Nat} {l : Leaf}
    (h : walk m frames va n lvl table = some l) (hl : l.at_ = p) (ht : table % 8 = 0) :
    ∃ l', walk (Memory.cleaned m p) frames va n lvl table = some l' ∧ l'.at_ = p := by
  induction n generalizing lvl table with
  | zero => simp [walk] at h
  | succ n ih =>
    obtain ⟨a, ha⟩ : ∃ a, table + 8 * walkIndex lvl va = a := ⟨_, rfl⟩
    obtain ⟨e, he⟩ : ∃ e, Memory.read m a 8 = e := ⟨_, rfl⟩
    rw [walk_succ m frames ha he] at h
    have valid : entryOk lvl e frames = true := by
      by_contra hn
      simp [hn] at h
    by_cases hap : a = p
    · obtain ⟨e', he'⟩ : ∃ e', Memory.read (Memory.cleaned m p) a 8 = e' := ⟨_, rfl⟩
      have less : e' + 2 ^ 52 = Memory.read m p 8 := by rw [← he', hap, Memory.read_cleaned hm hd]
      rw [← less] at hd hleaf
      obtain ⟨leaf', same⟩ := entryOk_dirty (lvl := lvl) frames hd hleaf
      have entry : e' + 2 ^ 52 = e := by rw [less, ← hap, he]
      refine ⟨⟨a, e', nth [0, 31, 25, 19] lvl 19⟩, ?_, hap⟩
      rw [walk_succ _ frames ha he', same, entry, valid, leaf']
      rfl
    · rw [walk_succ _ frames ha ((read_cleaned_ne hp hap (by omega)).trans he)]
      rw [valid, Bool.not_true, if_neg Bool.false_ne_true] at h ⊢
      split at h
      · exact absurd (by rw [← hl, ← Option.some.inj h]) hap
      · next hin =>
        rw [if_neg hin]
        exact ih h (entryBase_aligned e)

end Cleaned

/-! ### Harvesting (R170, R331) -/

theorem State.harvestAt_none {s : State} {va : Nat} (seen : List (Nat × Bool)) (h : s.walk s.stream va = none) :
    s.harvestAt seen va = (s, seen, false) := by
  simp only [State.harvestAt, h, ite_self]

theorem State.harvestAt_seen {s : State} {va : Nat} {seen : List (Nat × Bool)} {l : Leaf} {b : Bool} (hv : va < 13 * 2 ^ 48)
    (h : s.walk s.stream va = some l) (hs : find? seen l.at_ = some b) : s.harvestAt seen va = (s, seen, b) := by
  simp only [State.harvestAt, if_pos hv, h, hs]

/-- DIRTY of a page is cleared, and no TLB holds its leaf any longer. -/
def State.cleaned (s : State) (l : Leaf) : State :=
  ({ s.touchLine ((l.at_ + 6) / 128) with mem := Memory.cleaned s.mem l.at_ }).dropTlb (fun e => e.at_ == l.at_)

theorem State.harvestAt_first {s : State} {va : Nat} {l : Leaf} (hv : va < 13 * 2 ^ 48) (h : s.walk s.stream va = some l) :
    s.harvestAt [] va = (if bit l.val 52 then s.cleaned l else s, [(l.at_, bit l.val 52)], bit l.val 52) := by
  simp only [State.harvestAt, if_pos hv, h]
  rfl

theorem State.cleaned_eq (s : State) (l : Leaf) : s.cleaned l =
    s.withPages (s.touchLine ((l.at_ + 6) / 128)).free (s.touchLine ((l.at_ + 6) / 128)).hbm (Memory.cleaned s.mem l.at_)
      (s.tlb.filter (fun e => !(e.at_ == l.at_))) := by
  have row : s.touchLine ((l.at_ + 6) / 128) = s.withPages (s.touchLine ((l.at_ + 6) / 128)).free
      (s.touchLine ((l.at_ + 6) / 128)).hbm s.mem s.tlb := by
    unfold State.touchLine State.accessRow
    split
    · rfl
    · split <;> rfl
  unfold State.cleaned
  rw [row]
  rfl

theorem State.harvestWord_zero (s : State) (seen : List (Nat × Bool)) (va i acc : Nat) :
    s.harvestWord seen va 0 i acc = (s, seen, acc) := rfl

/-- One granule of a word. The definition is unfolded on both sides at once, so that no states are compared. -/
theorem State.harvestWord_step (s : State) (seen : List (Nat × Bool)) (va n i acc : Nat) :
    s.harvestWord seen va (n + 1) i acc = State.harvestWord (s.harvestAt seen (va + i * 2 ^ 19)).1
      (s.harvestAt seen (va + i * 2 ^ 19)).2.1 va n (i + 1) (acc + boolN (s.harvestAt seen (va + i * 2 ^ 19)).2.2 * 2 ^ i) := by
  delta State.harvestWord
  exact rfl

theorem State.harvestWord_succ {s t : State} {seen seen' : List (Nat × Bool)} {va i : Nat} {b : Bool} (n acc : Nat)
    (h : s.harvestAt seen (va + i * 2 ^ 19) = (t, seen', b)) :
    s.harvestWord seen va (n + 1) i acc = t.harvestWord seen' va n (i + 1) (acc + boolN b * 2 ^ i) := by
  rw [State.harvestWord_step, h]

theorem bitmap_part (c n i : Nat) : c * 2 ^ i + c * ((2 ^ n - 1) * 2 ^ (i + 1)) = c * ((2 ^ (n + 1) - 1) * 2 ^ i) := by
  obtain ⟨p, hp⟩ : ∃ p, 2 ^ n = p + 1 := ⟨2 ^ n - 1, by have := Nat.two_pow_pos n; omega⟩
  have next : 2 ^ (n + 1) - 1 = 2 * p + 1 := by omega
  rw [next, hp, Nat.pow_succ 2 i, Nat.add_sub_cancel]
  ring

/-- Granules that all give one answer fill their part of a bitmap word. -/
theorem State.harvestWord_const {s : State} {seen : List (Nat × Bool)} {va n i acc : Nat} {b : Bool}
    (h : ∀ k, k < n → s.harvestAt seen (va + (i + k) * 2 ^ 19) = (s, seen, b)) :
    s.harvestWord seen va n i acc = (s, seen, acc + boolN b * ((2 ^ n - 1) * 2 ^ i)) := by
  induction n generalizing i acc with
  | zero => simp [State.harvestWord_zero]
  | succ n ih =>
    have first : s.harvestAt seen (va + i * 2 ^ 19) = (s, seen, b) := h 0 (by omega)
    have rest (k : Nat) (hk : k < n) : s.harvestAt seen (va + (i + 1 + k) * 2 ^ 19) = (s, seen, b) := by
      rw [Nat.add_assoc, Nat.add_comm 1 k]
      exact h (k + 1) (by omega)
    rw [State.harvestWord_succ n acc first, ih rest, Nat.add_assoc, bitmap_part]

/-- A harvest of one word stores it, and answers with the dirty pages that it met. -/
theorem State.harvestTo_word {s u t : State} {seen : List (Nat × Bool)} {va map n w : Nat} (h0 : 0 < n) (hn : n ≤ 64)
    (hw : s.harvestWord [] va n 0 0 = (u, seen, w)) (hs : u.store u.view u.bundle.slot map (leBytes 8 w) = .ok t ()) :
    s.harvestTo va map n = (t, (seen.filter (·.2)).length) := by
  have one : ceilDiv n 64 = 1 := by unfold ceilDiv; omega
  have harvested : s.harvest {} va map 1 n = (u, { seen := seen, words := [w] }) := by
    simp only [State.harvest, Nat.min_eq_left hn, hw, hs]
    rfl
  simp only [State.harvestTo, one, harvested, State.storeMap, hs]

/-- A leaf that a walk in a stream's context finds, as memory holds it. -/
theorem State.walk_entry {s : State} {k va : Nat} {l : Leaf} (h : s.walk k va = some l) :
    l.at_ % 8 = 0 ∧ l.val = Memory.read s.mem l.at_ 8 ∧ bit l.val 1 = true := by
  unfold State.walk at h
  dsimp only at h
  split at h
  · exact walk_leaf h (entryBase_aligned _)
  · simp at h

/-- Walks that end at a leaf end there once its DIRTY is cleared. -/
theorem State.walk_cleaned {s : State} {k va : Nat} {l : Leaf} (hm : Memory.wf s.mem = true) (hd : bit l.val 52 = true)
    (h : s.walk k va = some l) : ∃ l', (s.cleaned l).walk k va = some l' ∧ l'.at_ = l.at_ := by
  obtain ⟨h8, hval, hleaf⟩ := State.walk_entry h
  rw [hval] at hd hleaf
  rw [s.cleaned_eq l]
  unfold State.walk at h ⊢
  dsimp only at h
  split at h
  · next hroot =>
    obtain ⟨l', hwalk, hat⟩ := Machine.walk_cleaned hm hd h8 hleaf h rfl (entryBase_aligned _)
    exact ⟨l', (if_pos hroot).trans hwalk, hat⟩
  · simp at h

/-- A range that one page covers: the page is harvested once, and each granule gets its answer. -/
theorem State.harvestWord_page {s : State} {va n : Nat} {l : Leaf} (hm : Memory.wf s.mem = true) (h0 : 0 < n)
    (h : ∀ k, k < n → va + k * 2 ^ 19 < 13 * 2 ^ 48 ∧ s.walk s.stream (va + k * 2 ^ 19) = some l) :
    s.harvestWord [] va n 0 0 = (if bit l.val 52 then s.cleaned l else s, [(l.at_, bit l.val 52)],
      boolN (bit l.val 52) * (2 ^ n - 1)) := by
  obtain ⟨n, rfl⟩ : ∃ k, n = k + 1 := ⟨n - 1, by omega⟩
  obtain ⟨hlow, hwalk⟩ := h 0 h0
  have again (k : Nat) (hk : k < n) : State.harvestAt (if bit l.val 52 then s.cleaned l else s) [(l.at_, bit l.val 52)]
      (va + (1 + k) * 2 ^ 19) = (if bit l.val 52 then s.cleaned l else s, [(l.at_, bit l.val 52)], bit l.val 52) := by
    obtain ⟨hv, hw⟩ := h (1 + k) (by omega)
    cases hd : bit l.val 52 with
    | false => exact State.harvestAt_seen hv hw (if_pos rfl)
    | true =>
      obtain ⟨l', hw', hat⟩ := State.walk_cleaned hm hd hw
      have stream : (s.cleaned l).stream = s.stream := by rw [s.cleaned_eq l]; rfl
      exact State.harvestAt_seen (l := l') hv (by rw [if_pos rfl, stream, hw']) (by rw [hat]; exact if_pos rfl)
  rw [State.harvestWord_succ n 0 (State.harvestAt_first hlow hwalk), State.harvestWord_const again]
  have all : 0 + boolN (bit l.val 52) * 2 ^ 0 + boolN (bit l.val 52) * ((2 ^ n - 1) * 2 ^ (0 + 1)) =
      boolN (bit l.val 52) * (2 ^ (n + 1) - 1) := by
    have := Nat.two_pow_pos n
    cases bit l.val 52 with
    | false => simp [boolN]
    | true => simp only [boolN, if_true]; omega
  rw [all]

/-! ### DIRTYH, LINKQ and LINKSET -/

section Dirtyh
variable {s : State} {g : BitVec 3} (d : BitVec 5) {a y : BitVec 5} (hg : s.pr g = true) (hm : s.mode ≠ .point)

theorem exec_dirtyh (g : BitVec 3) (d a y : BitVec 5) (s : State) : exec (.dirtyh g d a y) s = execDirtyh g d a y s := rfl

include hg hm in
/-- DIRTYH under its guard, outside point mode. -/
theorem exec_dirtyh_of_guard : exec (.dirtyh g d a y) s = .next (
    if (s.xr a).toNat % 2 ^ 19 ≠ 0 then s.trapAt tcAlignment 8 ((s.xr a).toNat % 2 ^ 52)
    else if (s.xr (a + 1#5)).toNat % 8 ≠ 0 then s.trapAt tcAlignment 8 ((s.xr (a + 1#5)).toNat % 2 ^ 52)
    else if (s.xr y).toNat = 0 ∨ 65536 < (s.xr y).toNat then s.putStatus d (2 ^ 64 - 1)
    else if 2 ^ 52 ≤ (s.xr (a + 1#5)).toNat then s.trapAt tcTranslation 8 ((s.xr (a + 1#5)).toNat % 2 ^ 52)
    else (s.harvestTo (s.xr a).toNat (s.xr (a + 1#5)).toNat (s.xr y).toNat).1.putStatus d
      (s.harvestTo (s.xr a).toNat (s.xr (a + 1#5)).toNat (s.xr y).toNat).2) := by
  rw [exec_dirtyh, execDirtyh, systemOp, anyOp_of_guard hg, if_neg hm]
  rfl

include hg hm in
/-- A DIRTYH of at most 64 granules whose word is stored. -/
theorem exec_dirtyh_word {u t : State} {seen : List (Nat × Bool)} {w : Nat} (ha : (s.xr a).toNat % 2 ^ 19 = 0)
    (hmap : (s.xr (a + 1#5)).toNat % 8 = 0) (h0 : 0 < (s.xr y).toNat) (hn : (s.xr y).toNat ≤ 64)
    (hspace : (s.xr (a + 1#5)).toNat < 2 ^ 52) (hw : s.harvestWord [] (s.xr a).toNat (s.xr y).toNat 0 0 = (u, seen, w))
    (hs : u.store u.view u.bundle.slot (s.xr (a + 1#5)).toNat (leBytes 8 w) = .ok t ()) :
    exec (.dirtyh g d a y) s = .next (t.putStatus d (seen.filter (·.2)).length) := by
  rw [exec_dirtyh_of_guard d hg hm, if_neg (by omega), if_neg (by omega), if_neg (by omega), if_neg (by omega),
    State.harvestTo_word h0 hn hw hs]

end Dirtyh

theorem address_mod (c slot x : Nat) : (c * 2 ^ 56 + slot * 2 ^ 52 + x % 2 ^ 52 % 2 ^ 52) % 2 ^ 64 % 2 ^ 52 = x % 2 ^ 52 := by
  omega

theorem accessInfo_address (size slot x : Nat) : (accessInfo size slot (x % 2 ^ 52)).extractLsb' 0 52 = BitVec.ofNat 52 x := by
  apply BitVec.eq_of_toNat_eq
  rw [BitVec.extractLsb'_toNat, accessInfo, BitVec.toNat_ofNat, BitVec.toNat_ofNat, Nat.shiftRight_zero]
  exact address_mod _ _ _

/-- ALIGNMENT names the misaligned address (R145). -/
theorem State.trapAt_alignment {s : State} (h : s.bundle.trap = none) (x : Nat) :
    ∃ r, (s.trapAt tcAlignment 8 (x % 2 ^ 52)).bundle.trap = some r ∧ r.cause = 0x12#8 ∧
      r.info.extractLsb' 0 52 = BitVec.ofNat 52 x := by
  refine ⟨accessTrap tcAlignment 8 s.bundle.slot (x % 2 ^ 52), by rw [State.trapAt, State.trap_of_none h], rfl,
    accessInfo_address 8 s.bundle.slot x⟩

/-- A link with the latched bits cleared that LINKSET names. -/
def Link.clearedBy (l : Link) (x : W64) : Link := { l with
  refused := l.refused && !x.getLsbD 16, evHalf := l.evHalf && !x.getLsbD 17,
  evReplay := l.evReplay && !x.getLsbD 18, evTrain := l.evTrain && !x.getLsbD 19 }

/-- What LINKSET does to a link, and its answer. -/
def Link.setBy (l : Link) (x : W64) : Link × Nat :=
  if x.getLsbD 20 then (l.clearedBy x).requested (x.extractLsb' 8 3).toNat else (l.clearedBy x, 0)

theorem State.linkSet_beyond {s : State} {x : W64} (h : 24 ≤ (x.extractLsb' 0 5).toNat) : s.linkSet x.toNat = (s, 3) := by
  rw [State.linkSet, fieldN_toNat, if_pos h]

theorem State.linkSet_link {s : State} {x : W64} (h : (x.extractLsb' 0 5).toNat < 24) :
    ∃ t, s.linkSet x.toNat = (t, ((s.link (x.extractLsb' 0 5).toNat).setBy x).2) ∧ s.SameButFab t ∧
      t.link (x.extractLsb' 0 5).toNat = ((s.link (x.extractLsb' 0 5).toNat).setBy x).1 ∧
      ∀ m, m ≠ (x.extractLsb' 0 5).toNat → t.link m = s.link m := by
  generalize hn : (x.extractLsb' 0 5).toNat = n at h
  simp only [State.linkSet, fieldN_toNat, hn, if_neg (Nat.not_le.2 h), bit_toNat, Link.setBy]
  have here := s.link_setLink n ((s.link n).clearedBy x)
  have there (m : Nat) (hm : m ≠ n) := s.link_setLink_ne ((s.link n).clearedBy x) hm
  split
  · have request := State.requestRate_eq (s.setLink n ((s.link n).clearedBy x)) n (x.extractLsb' 8 3).toNat
    rw [here] at request
    exact ⟨_, request, rfl, State.link_setLink _ _ _, fun m hm => (State.link_setLink_ne _ _ hm).trans (there m hm)⟩
  · exact ⟨_, rfl, rfl, here, there⟩

/-- LINKSET of a link in frame mode: what becomes of the link, with the answer. -/
theorem exec_linkset_link {s : State} {g : BitVec 3} (d : BitVec 5) {a : BitVec 5} (hg : s.pr g = true) (hm : s.mode = .frame)
    {n : Nat} (hn : ((s.xr a).extractLsb' 0 5).toNat = n) (hlt : n < 24) {l : Link} {v : Nat}
    (hl : (s.link n).setBy (s.xr a) = (l, v)) :
    ∃ t, exec (.linkset g d a) s = .next t ∧ (t.bundle = s.bundle ∧ t.scalar.pend = s.scalar.pend ++
      if d = 0#5 then [] else [{ dest := .x d (BitVec.ofNat 64 v), togo := 6, slot := s.bundle.slot }]) ∧ t.mem = s.mem ∧
      t.link n = l ∧ ∀ m, m ≠ n → t.link m = s.link m := by
  subst hn
  obtain ⟨u, hset, hfab, hlink, hother⟩ := State.linkSet_link hlt
  have kept : s.KeepsAgent u := by
    rw [hfab]
    exact ⟨rfl, rfl, rfl, fun _ => rfl, fun _ => rfl⟩
  have done : exec (.linkset g d a) s = .next (u.putX d 6 (BitVec.ofNat 64 v)) := by
    change frameOp 0x15 g s (fun s => (s.linkSet (s.xr a).toNat).1.putStatus d (s.linkSet (s.xr a).toNat).2) = _
    rw [frameOp, anyOp_of_guard hg, if_pos hm, hset, hl]
    rfl
  refine ⟨_, done, kept.putX_answer d _, by rw [State.putX_mem, kept.mem], by rw [State.putX_link, hlink, hl], fun m hm => ?_⟩
  rw [State.putX_link, hother m hm]

/-- The pages after a harvest of one page: DIRTY is clear, no other byte has changed, and no TLB holds a leaf that was dirty. -/
theorem State.harvested_pages {s : State} {k va : Nat} {l : Leaf} (hm : Memory.wf s.mem = true) (h : s.walk k va = some l) :
    ∃ f b m e, (if bit l.val 52 then s.cleaned l else s) = s.withPages f b m e ∧ Memory.wf m = true ∧
      Memory.get m (l.at_ + 6) = Memory.get s.mem (l.at_ + 6) &&& 0xEF#8 ∧
      (∀ x, x ≠ l.at_ + 6 → Memory.get m x = Memory.get s.mem x) ∧ (bit l.val 52 = true → ∀ x ∈ e, x.at_ ≠ l.at_) := by
  obtain ⟨-, hval, -⟩ := State.walk_entry h
  cases hd : bit l.val 52 with
  | false =>
    refine ⟨s.free, s.hbm, s.mem, s.tlb, rfl, hm, ?_, fun _ _ => rfl, fun h => by simp at h⟩
    rw [hval, bit_read_dirty] at hd
    rw [(clear_dirty _).2 hd]
  | true =>
    refine ⟨_, _, _, _, s.cleaned_eq l, Memory.wf_set hm _ _, Memory.get_set_self hm _ _, fun x hx => Memory.get_set_ne _ _ hx,
      fun _ x hx => ?_⟩
    simpa using (List.mem_filter.1 hx).2

theorem bit_ofNat (v : Nat) : bit v 52 = (BitVec.ofNat 64 v).getLsbD 52 := by
  rw [← bit_toNat, BitVec.toNat_ofNat]
  unfold bit
  congr 1
  omega

/-- Settles O30: a store of one line that is at hand joins, by what its line's home does; a harvest of a range that one page
covers reads DIRTY once, and its word is stored to a vault, which no page maps; LINKSET is `Link.setBy` of its link. -/
theorem dirtyHarvestAndLinks : Obligations.DirtyHarvestAndLinks := by
  unfold Obligations.DirtyHarvestAndLinks
  intro s g d a y hg
  extract_lets va map n link step answers misaligned l cleared left
  refine ⟨?_, ?_, ?_, ?_, ?_, ?_, ?_, ?_⟩
  · intro hm ha hmap hn
    rw [exec_dirtyh_of_guard d hg hm, if_neg (by omega), if_neg (by omega), if_pos hn]
    rfl
  · intro hm htrap ha
    obtain ⟨r, hr, hcause, hinfo⟩ := State.trapAt_alignment htrap va
    exact ⟨_, r, by rw [exec_dirtyh_of_guard d hg hm, if_pos ha], hr, hcause, hinfo, State.trap_mem _ _, State.trap_scalar _ _⟩
  · intro hm htrap ha hmap
    obtain ⟨r, hr, hcause, hinfo⟩ := State.trapAt_alignment htrap map
    exact ⟨_, r, by rw [exec_dirtyh_of_guard d hg hm, if_neg (by omega), if_pos hmap], hr, hcause, hinfo, State.trap_mem _ _,
      State.trap_scalar _ _⟩
  · intro pa leaf hm ha hmap h0 hn hwalk hr hgood hwf hj
    obtain ⟨t, hs, kept, -⟩ := State.Reaches.store (bs := leBytes 8 0) s.bundle.slot hr hgood hj hm
    have word : s.harvestWord [] va n 0 0 = (s, [], 0) := by
      have granule (k : Nat) (hk : k < n) : s.harvestAt [] (va + (0 + k) * 2 ^ 19) = (s, [], false) :=
        State.harvestAt_none [] (by rw [Nat.zero_add]; exact hwalk k hk)
      rw [State.harvestWord_const granule]
      simp [boolN]
    refine ⟨_, exec_dirtyh_word d hg hm ha hmap h0 hn hr.space word hs, kept.putX_answer d _, fun k hk => ?_⟩
    rw [State.putStatus, State.putX_mem, kept.mem]
    rw [Memory.get_setAll_in (Memory.wf_dirtied hwf leaf) (vs := leBytes 8 0) hk]
    interval_cases k <;> rfl
  · intro pa l hframe ha hmap hhigh h0 hn hwalk hr hgood hwf hj hapart dirty
    have hm : s.mode ≠ .point := by rw [hframe]; decide
    have word := State.harvestWord_page hwf h0 hwalk
    obtain ⟨f, b, m, e, hu, hwfm, hclean, hother, htlb⟩ := State.harvested_pages hwf (hwalk 0 h0).2
    have small : boolN (bit l.val 52) * (2 ^ n - 1) < 256 ^ 8 := by
      have := Nat.pow_le_pow_right (n := 2) (by decide) hn
      cases bit l.val 52 with
      | false => simp [boolN]
      | true => simp only [boolN, if_true]; omega
    obtain ⟨t, hs, kept, hetlb⟩ := State.Reaches.store_vault (bs := leBytes 8 (boolN (bit l.val 52) * (2 ^ n - 1))) f b m e
      hr hgood hj hm hhigh
    rw [hu] at word
    have hdirty : bit l.val 52 = dirty := bit_ofNat l.val
    have status : BitVec.ofNat 64 ([(l.at_, bit l.val 52)].filter (·.2)).length = if dirty then 1#64 else 0#64 := by
      rw [hdirty]
      cases dirty <;> rfl
    refine ⟨_, exec_dirtyh_word d hg hm ha hmap h0 hn hr.space word hs, ?_, ?_, ?_, ?_, ?_⟩
    · rw [← status]
      exact kept.putX_answer d _
    · rw [State.putStatus, State.putX_mem, kept.mem]
      refine (Memory.read_setAll hwfm pa (leBytes 8 _)).trans ((leNat_leBytes small).trans ?_)
      rw [hdirty]
      cases dirty <;> simp [boolN]
    · rw [State.putStatus, State.putX_mem, kept.mem, ← hclean]
      exact Memory.get_setAll_out _ _ hapart
    · intro x hx hout
      rw [State.putStatus, State.putX_mem, kept.mem, ← hother x hx]
      exact Memory.get_setAll_out _ _ hout
    · intro h x hx
      rw [State.putStatus, State.putX_tlb, hetlb] at hx
      exact htlb (hdirty.trans h) x hx
  · exact congrArg Host.Outcome.next (if_pos hg)
  · intro hm hlink
    change frameOp 0x15 g s (fun s => (s.linkSet (s.xr a).toNat).1.putStatus d (s.linkSet (s.xr a).toNat).2) = _
    rw [frameOp, anyOp_of_guard hg, if_pos hm, State.linkSet_beyond hlink]
    rfl
  · intro hm hlink
    have sets {l' : Link} {v : Nat} (h : (s.link link).setBy (s.xr a) = (l', v)) : left (BitVec.ofNat 64 v) l' :=
      exec_linkset_link d hg hm rfl hlink h
    refine ⟨fun hgo => sets (if_neg (ne_true_of_eq_false hgo)), fun hgo => ?_⟩
    have request {l' : Link} {v : Nat} (h : cleared.requested step = (l', v)) : left (BitVec.ofNat 64 v) l' :=
      sets ((if_pos hgo).trans h)
    refine ⟨fun hstep => request (Link.requested_beyond hstep), fun h4 hmax => ⟨?_, ?_, ?_, ?_⟩⟩
    · exact fun hup hne => request (Link.requested_trains h4 hmax hup hne)
    · exact fun hup he => request (Link.requested_unchanged h4 hmax hup he)
    · exact fun htrain => request (Link.requested_held h4 hmax htrain)
    · exact fun hdead => request (Link.requested_dead h4 hmax hdead)

end Sys2Proof.Machine
end

section
/-! PROOFS. The host's records and the device's answers to it: device events in their notification queues, the traps of a
command sequencer and the order among traps, the state after reset, the sealer and attestation. -/

namespace Sys2Proof.Machine

open Sys2Proof.Bits

/-! ### Bytes written to a memory (R5) -/

/-- Bytes written one after another, every other byte as it was. -/
theorem bytesAre_setAll {m : List Host.Cell} (h : Memory.wf m = true) (a : Nat) (bs : List Byte) :
    BytesAre m (Memory.setAll m a bs) a bs :=
  ⟨fun _ hk => Memory.get_setAll_in h hk, fun _ hx => Memory.get_setAll_out m bs hx⟩

/-! ### Messages and records (R65 to R68) -/

/-- One state differs from another at most in the notification queues, the vectors, the messages and host memory. -/
def State.SameButRecords (s t : State) : Prop :=
  t = { s with host := { s.host with nq := t.host.nq, msix := t.host.msix, messages := t.host.messages, mem := t.host.mem } }

namespace State.SameButRecords

theorem trans {s t u : State} (h : s.SameButRecords t) (h' : t.SameButRecords u) : s.SameButRecords u :=
  Eq.trans h' (by rw [h])

variable {s t : State} (h : s.SameButRecords t)
include h

theorem frame : t.mem = s.mem ∧ t.cores = s.cores ∧ t.pow = s.pow ∧ t.tab = s.tab := by
  rw [h]
  exact ⟨rfl, rfl, rfl, rfl⟩

theorem seq (n : Nat) : t.seq n = s.seq n := by
  rw [h]
  rfl

theorem strm (n : Nat) : t.strm n = s.strm n := by
  rw [h]
  rfl

theorem att : t.host.att = s.host.att := by rw [h]

theorem staging : t.host.staging = s.host.staging := by rw [h]

theorem linkUp : t.host.linkUp = s.host.linkUp := by rw [h]

end State.SameButRecords

/-! What a write of host memory, of a queue or of a vector changes. -/

@[simp] theorem State.hostWrite_mem (s : State) (a : Nat) (bs : List Byte) :
    (s.hostWrite a bs).host.mem = Memory.setAll s.host.mem a bs := rfl
@[simp] theorem State.hostWrite_msix (s : State) (a : Nat) (bs : List Byte) (v : Nat) : (s.hostWrite a bs).msix v = s.msix v := rfl
@[simp] theorem State.hostWrite_messages (s : State) (a : Nat) (bs : List Byte) :
    (s.hostWrite a bs).host.messages = s.host.messages := rfl
@[simp] theorem State.setNq_hostMem (s : State) (v : Nat) (q : NotifQ) : (s.setNq v q).host.mem = s.host.mem := rfl
@[simp] theorem State.setNq_msix (s : State) (n : Nat) (q : NotifQ) (v : Nat) : (s.setNq n q).msix v = s.msix v := rfl
@[simp] theorem State.setNq_messages (s : State) (v : Nat) (q : NotifQ) : (s.setNq v q).host.messages = s.host.messages := rfl
@[simp] theorem State.setMsix_hostMem (s : State) (v : Nat) (m : Msix) : (s.setMsix v m).host.mem = s.host.mem := rfl
@[simp] theorem State.setMsix_nq (s : State) (v : Nat) (m : Msix) (n : Nat) : (s.setMsix v m).nq n = s.nq n := rfl
@[simp] theorem State.setMsix_messages (s : State) (v : Nat) (m : Msix) : (s.setMsix v m).host.messages = s.host.messages := rfl

theorem State.sameButRecords_hostWrite (s : State) (a : Nat) (bs : List Byte) : s.SameButRecords (s.hostWrite a bs) := rfl
theorem State.sameButRecords_setNq (s : State) (v : Nat) (q : NotifQ) : s.SameButRecords (s.setNq v q) := rfl
theorem State.sameButRecords_setMsix (s : State) (v : Nat) (m : Msix) : s.SameButRecords (s.setMsix v m) := rfl

theorem State.message_masked {s : State} {v : Nat} (h : (s.msix v).masked = true) :
    s.message v = s.setMsix v { s.msix v with pending := true } := if_pos h

theorem State.message_sent {s : State} {v : Nat} (h : (s.msix v).masked = false) :
    (s.message v).host.messages = s.host.messages ++ [v] ∧ ∀ n, (s.message v).msix n = s.msix n := by
  simp only [State.message, h]
  exact ⟨rfl, fun _ => rfl⟩

@[simp] theorem State.message_nq (s : State) (v n : Nat) : (s.message v).nq n = s.nq n := by
  unfold State.message
  dsimp only
  split <;> rfl

theorem State.sameButRecords_message (s : State) (v : Nat) : s.SameButRecords (s.message v) := by
  unfold State.message
  dsimp only
  split <;> exact rfl

/-- The state once a record has its place in its queue and NQTAIL has advanced, before a message or a window. -/
def State.recorded (s : State) (n : Notif) : State :=
  let q := s.nq n.vec
  (s.hostWrite (q.base.toNat + q.tail % q.size * 32) (recordBytes n q s.now)).setNq n.vec
    { q with tail := (q.tail + 1) % 2 ^ 32 }

/-- A record brings a message at once, or falls into a coalescing window, which it opens if none is open (R67). -/
theorem State.putRecord_eq (s : State) (n : Notif) :
    let t := s.recorded n
    s.putRecord n = if (s.nq n.vec).window = 0 then t.message n.vec
      else if (t.msix n.vec).closes.isSome then t
      else t.setMsix n.vec { t.msix n.vec with closes := some (t.now + (s.nq n.vec).window) } := by
  unfold State.putRecord State.recorded
  rfl

theorem State.sameButRecords_recorded (s : State) (n : Notif) : s.SameButRecords (s.recorded n) :=
  (s.sameButRecords_hostWrite _ _).trans (State.sameButRecords_setNq _ _ _)

@[simp] theorem State.recorded_msix (s : State) (n : Notif) (v : Nat) : (s.recorded n).msix v = s.msix v := by
  rw [State.recorded, State.setNq_msix, State.hostWrite_msix]

@[simp] theorem State.recorded_messages (s : State) (n : Notif) : (s.recorded n).host.messages = s.host.messages := by
  rw [State.recorded, State.setNq_messages, State.hostWrite_messages]

@[simp] theorem State.recorded_mem (s : State) (n : Notif) : (s.recorded n).host.mem =
    Memory.setAll s.host.mem ((s.nq n.vec).base.toNat + (s.nq n.vec).tail % (s.nq n.vec).size * 32)
      (recordBytes n (s.nq n.vec) s.now) := by
  rw [State.recorded, State.setNq_hostMem, State.hostWrite_mem]

theorem State.sameButRecords_putRecord (s : State) (n : Notif) : s.SameButRecords (s.putRecord n) := by
  rw [State.putRecord_eq]
  split
  · exact (s.sameButRecords_recorded n).trans (State.sameButRecords_message _ _)
  · split
    · exact s.sameButRecords_recorded n
    · exact (s.sameButRecords_recorded n).trans (State.sameButRecords_setMsix _ _ _)

@[simp] theorem State.putRecord_nq (s : State) (n : Notif) :
    (s.putRecord n).nq n.vec = { s.nq n.vec with tail := ((s.nq n.vec).tail + 1) % 2 ^ 32 } := by
  have placed : (s.recorded n).nq n.vec = { s.nq n.vec with tail := ((s.nq n.vec).tail + 1) % 2 ^ 32 } := State.nq_setNq _ _ _
  rw [State.putRecord_eq]
  split
  · rw [State.message_nq, placed]
  · split
    · exact placed
    · rw [State.setMsix_nq, placed]

/-- A record whose message does not go at once stands in host memory, and the message, if one is due, is pending. -/
theorem State.putRecord_quiet {s : State} {n : Notif} (h : (s.nq n.vec).window ≠ 0 ∨ (s.msix n.vec).masked = true) :
    (s.putRecord n).host.mem = Memory.setAll s.host.mem
        ((s.nq n.vec).base.toNat + (s.nq n.vec).tail % (s.nq n.vec).size * 32) (recordBytes n (s.nq n.vec) s.now) ∧ (s.putRecord n).host.messages = s.host.messages ∧
      ((s.nq n.vec).window = 0 → ((s.putRecord n).msix n.vec).pending = true) := by
  rw [State.putRecord_eq]
  by_cases hw : (s.nq n.vec).window = 0
  · have masked : ((s.recorded n).msix n.vec).masked = true := by
      rw [State.recorded_msix]
      exact h.resolve_left fun h => h hw
    simp [hw, State.message_masked masked]
  · rw [if_neg hw]
    split <;> simp [hw]

theorem State.putRecord_sends {s : State} {n : Notif} (hw : (s.nq n.vec).window = 0) (hm : (s.msix n.vec).masked = false) :
    (s.putRecord n).host.messages = s.host.messages ++ [n.vec] := by
  rw [State.putRecord_eq, if_pos hw, (State.message_sent (s := s.recorded n) (by rwa [State.recorded_msix])).1,
    State.recorded_messages]

theorem NotifQ.ready_iff (q : NotifQ) :
    q.ready = true ↔ q.en = true ∧ (q.tail + 2 ^ 32 - q.head) % 2 ^ 32 < 2 ^ (q.logSize + 4) := by
  rw [NotifQ.ready, Bool.and_eq_true, decide_eq_true_eq]
  rfl

/-! ### Device events (R68) -/

/-- The record of a device event. -/
def eventRecord (vec code detail stream : Nat) : Notif :=
  { token := 0, code := code * 2 ^ 16 + detail % 2 ^ 16, src := 128 + stream, vec := vec }

theorem State.event_of_ready {s : State} {vec : Nat} (h : (s.nq vec).ready = true) (code detail stream : Nat) :
    s.event vec code detail stream = s.putRecord (eventRecord vec code detail stream) := if_pos h

theorem State.event_of_not_ready {s : State} {vec : Nat} (h : ¬ (s.nq vec).ready = true) (code detail stream : Nat) :
    s.event vec code detail stream = s.overflow vec := if_neg h

theorem State.sameButRecords_event (s : State) (vec code detail stream : Nat) :
    s.SameButRecords (s.event vec code detail stream) := by
  unfold State.event
  split
  · exact s.sameButRecords_putRecord _
  · exact rfl

theorem recordBytes_eventRecord (vec code detail stream : Nat) (q : NotifQ) (now : Nat) :
    recordBytes (eventRecord vec code detail stream) q now =
      List.replicate 8 0#8 ++ leBytes 4 (code * 2 ^ 16 + detail % 2 ^ 16) ++ [BitVec.ofNat 8 (128 + stream), 0#8] ++
        leBytes 2 q.tail ++ leBytes 8 now ++ List.replicate 7 0#8 ++ [if q.tail / q.size % 2 = 0 then 1#8 else 0#8] := by
  have parity : leBytes 1 (boolN (q.tail / q.size % 2 == 0)) = [if q.tail / q.size % 2 = 0 then 1#8 else 0#8] := by
    by_cases h : q.tail / q.size % 2 = 0 <;> simp [h, boolN, leBytes]
  have token : leBytes 8 0 = List.replicate 8 0#8 := by decide
  simp only [recordBytes, eventRecord, parity, token]
  simp [leBytes]

/-- Settles O44: an event is a record or an overflow by the state of its queue, and a record's bytes stay as written where no
message follows at once. -/
theorem eventRecords : Obligations.EventRecords := by
  unfold Obligations.EventRecords
  intro s vec code detail stream q size ready t
  have record (h : ready) : t = s.putRecord (eventRecord vec code detail stream) :=
    State.event_of_ready (q.ready_iff.2 h) code detail stream
  obtain ⟨hmem, hcores, hpow, htab⟩ := (s.sameButRecords_event vec code detail stream).frame
  refine ⟨fun h hwf hquiet => ?_, fun h hw hm => ?_, fun h => ?_, fun h => ?_, hmem, hcores, hpow, htab⟩
  · obtain ⟨bytes, messages, pending⟩ := State.putRecord_quiet (n := eventRecord vec code detail stream) hquiet
    rw [recordBytes_eventRecord] at bytes
    rw [record h, bytes]
    exact ⟨bytesAre_setAll hwf _ _, messages, pending⟩
  · rw [record h]
    exact State.putRecord_sends (n := eventRecord vec code detail stream) hw hm
  · rw [record h]
    exact s.putRecord_nq (eventRecord vec code detail stream)
  · have dropped : t = s.overflow vec := State.event_of_not_ready (fun hr => h (q.ready_iff.1 hr)) code detail stream
    rw [dropped]
    exact ⟨rfl, State.nq_setNq _ _ _, rfl⟩

/-! ### Traps of a command sequencer and the order among traps (R143, R147, R299) -/

theorem State.takeTrap_seq {s : State} {n : Nat} (h : s.focus = .seq n) (r : TrapRec) (addr : BitVec 52) :
    s.takeTrap r addr = (s.modStrm n (fun x => { x with st := .fault })).postStream n 0x0303 r.cause.toNat := by
  simp only [State.takeTrap, h]

/-- The first pending trap of a kind is pending, and of that kind. -/
theorem mem_kind_of_find? {l : List AsyncTrap} {k : AsyncKind} {a : AsyncTrap} (h : l.find? (fun a => a.kind == k) = some a) :
    a ∈ l ∧ a.kind = k :=
  ⟨List.mem_of_find?_eq_some h, by simpa using List.find?_some h⟩

/-- A trap of a kind is pending where one is found. -/
theorem not_pending_of_find?_none {l : List AsyncTrap} {k : AsyncKind} (h : l.find? (fun a => a.kind == k) = none) :
    ¬ ∃ b ∈ l, b.kind = k := by
  rintro ⟨b, hb, hk⟩
  exact absurd hk (by simpa using List.find?_eq_none.1 h b hb)

/-- The asynchronous trap that is taken first: of each kind, only where none of an earlier kind is pending (R147). -/
theorem Core.firstAsync_cases {c : Core} {a : AsyncTrap} (h : c.firstAsync = some a) : a ∈ c.async ∧
    (a.kind = .cancel ∨ (¬ ∃ b ∈ c.async, b.kind = .cancel) ∧
      (a.kind = .curtail ∨ (¬ ∃ b ∈ c.async, b.kind = .curtail) ∧
        (a.kind = .preempt ∨ (¬ ∃ b ∈ c.async, b.kind = .preempt) ∧ a.kind = .linkEvent))) := by
  simp only [Core.firstAsync, Option.or_eq_some_iff] at h
  obtain h | ⟨no1, h | ⟨no2, h | ⟨no3, h⟩⟩⟩ := h
  · exact ⟨(mem_kind_of_find? h).1, .inl (mem_kind_of_find? h).2⟩
  · exact ⟨(mem_kind_of_find? h).1, .inr ⟨not_pending_of_find?_none no1, .inl (mem_kind_of_find? h).2⟩⟩
  · exact ⟨(mem_kind_of_find? h).1, .inr ⟨not_pending_of_find?_none no1, .inr ⟨not_pending_of_find?_none no2,
      .inl (mem_kind_of_find? h).2⟩⟩⟩
  · exact ⟨(mem_kind_of_find? h).1, .inr ⟨not_pending_of_find?_none no1, .inr ⟨not_pending_of_find?_none no2,
      .inr ⟨not_pending_of_find?_none no3, (mem_kind_of_find? h).2⟩⟩⟩⟩

/-- Settles O11: a sequencer's trap changes its stream's STATE and posts an event; a bundle's trap is its first; the pending
traps are tried kind by kind. -/
theorem sequencerTrapsAndTrapOrder : Obligations.SequencerTrapsAndTrapOrder := by
  unfold Obligations.SequencerTrapsAndTrapOrder
  refine ⟨fun s n r addr hf => ?_, fun s r q hn => ?_, fun c a h => ?_⟩
  · have posted : (s.modStrm n (fun x => { x with st := .fault })).SameButRecords (s.takeTrap r addr) := by
      rw [State.takeTrap_seq hf]
      exact State.sameButRecords_event _ _ _ _ _
    obtain ⟨hmem, hcores, -, -⟩ := posted.frame
    refine ⟨?_, posted.seq n, hmem, hcores⟩
    rw [posted.strm n, State.strm_modStrm]
  · rw [State.trap_of_none hn]
    exact ⟨rfl, rfl⟩
  · obtain ⟨hmem, hkind⟩ := Core.firstAsync_cases h
    refine ⟨hmem, fun hb => ?_, fun hb => ?_, fun hb => ?_⟩
    · exact hkind.resolve_right fun ⟨no, _⟩ => no hb
    · exact hkind.imp_right fun ⟨_, hk⟩ => hk.resolve_right fun ⟨no, _⟩ => no hb
    · rcases hkind with hk | ⟨-, hk | ⟨-, hk | ⟨no, -⟩⟩⟩
      · simp [hk]
      · simp [hk]
      · simp [hk]
      · exact absurd hb no

/-! ### The state after reset -/

/-- After reset every core, command sequencer, stream and stack is in its initial state. -/
theorem State.parts_reset (n : Nat) : State.reset.core n = {} ∧ State.reset.seq n = {} ∧ State.reset.strm n = {} ∧
    State.reset.stack n = {} := ⟨rfl, rfl, rfl, rfl⟩

/-- Settles O60: nothing is listed after reset, so each part holds the initial values of its fields. -/
theorem resetState : Obligations.ResetState := by
  unfold Obligations.ResetState
  refine ⟨rfl, Memory.wf_reset, fun n => ?_, fun n => ?_, fun n => ?_, fun n => ?_⟩ <;>
    obtain ⟨hcore, hseq, hstrm, hstack⟩ := State.parts_reset n
  · rw [hstack]
  · rw [hseq]
  · rw [hstrm]
  · rw [hcore]
    exact ⟨rfl, rfl, rfl, rfl⟩

/-! ### The sealer (R71, R203) -/

theorem lt_ceilDiv_granule {i n : Nat} : i < ceilDiv n (2 ^ 19) ↔ 2 ^ 19 * i < n := by
  unfold ceilDiv
  omega

/-- The granules of an image are those of the leaves that map it. -/
theorem State.mem_imageGranules {s : State} {stream va len k : Nat} :
    k ∈ (s.imageLeaves stream va len).flatMap Leaf.granules ↔
      ∃ i l, 2 ^ 19 * i < len ∧ s.leafFor [hubTlb stream] stream (va + i * 2 ^ 19) = some l ∧ k ∈ l.granules := by
  simp only [State.imageLeaves, List.mem_flatMap, List.mem_eraseDups, List.mem_filterMap, List.mem_range, lt_ceilDiv_granule]
  exact ⟨fun ⟨l, ⟨i, hi, hl⟩, hk⟩ => ⟨i, l, hi, hl, hk⟩, fun ⟨i, l, hi, hl, hk⟩ => ⟨l, ⟨i, hi, hl⟩, hk⟩⟩

/-- The context of a sealing request. -/
theorem sealContext_eq (ctx : W32) : ctx.toNat % 8 = (ctx.extractLsb' 0 3).toNat := by
  simp [BitVec.extractLsb'_toNat]

/-- The state once the sealer has read the image of its registers in a context. -/
def State.sealRead (s : State) (stream : Nat) : State :=
  s.touchRead { stream := stream, frame := true, units := [hubTlb stream] } s.host.sealer.addr.toNat s.host.sealer.len.toNat

theorem exec_sealGo_begins {s : State} (hf : s.host.full = false) (hq : s.host.sealer.req = none) :
    let q := s.host.sealer
    let st := (q.ctx.extractLsb' 0 3).toNat
    let t := s.sealRead st
    exec .sealGo s = .next { t with host := { t.host with sealer := { q with
      req := some (q.addr, q.len, q.ctx), done := false, off := 0, code := 0, seen := t.imageBytes st q.addr.toNat q.len.toNat,
      verdict := t.sealVerdict st q.addr.toNat q.len.toNat (bit q.ctx.toNat 8),
      hold := (t.imageLeaves st q.addr.toNat q.len.toNat).flatMap Leaf.granules } } } := by
  intro q st t
  refine (hostAct_of_room hf _).trans (congrArg _ ?_)
  dsimp only
  rw [if_neg (by simp [hq])]
  simp only [sealContext_eq]
  rfl

/-- A second request has no effect while one is under check. -/
theorem exec_sealGo_busy {s : State} (hq : s.host.sealer.req ≠ none) : exec .sealGo s = .next s := by
  refine congrArg Host.Outcome.next ?_
  dsimp only
  rw [if_pos (Option.isSome_iff_ne_none.2 hq), ite_self]

/-- The sealer with its check ended. -/
def Sealer.ended (q : Sealer) : Sealer := { q with req := none, done := true, hold := [], seen := [], verdict := none }

/-- The state in which a request is refused with a code at an offset. -/
def State.sealRefused (s : State) (code off : Nat) : State :=
  { s with host := { s.host with sealer := { s.host.sealer.ended with code := code, off := off } } }

/-- The state in which a check has ended with the image's hash. -/
def State.endSeal (s : State) (hash : List Byte) : State :=
  { s with host := { s.host with sealer := { s.host.sealer.ended with hash := hash } } }

theorem exec_sealComplete_refused {s : State} {addr : W64} {len ctx : W32} {code off : Nat}
    (hq : s.host.sealer.req = some (addr, len, ctx)) (hv : s.host.sealer.verdict = some (code, off)) :
    exec .sealComplete s = .next (s.sealRefused code off) := by
  refine congrArg Host.Outcome.next ?_
  simp only [hq, hv]
  rfl

@[simp] theorem State.sealLeaf_host (s : State) (l : Leaf) : (s.sealLeaf l).host = s.host := by
  have touched := s.sameButHomes_touchLine ((l.at_ + 6) / 128)
  simp only [State.sealLeaf]
  rw [touched]

@[simp] theorem State.sealLeaves_host (s : State) (ls : List Leaf) : (ls.foldl State.sealLeaf s).host = s.host :=
  foldl_keeps (π := State.host) State.sealLeaf_host ls s

@[simp] theorem State.endSeal_sealer (s : State) (hash : List Byte) :
    (s.endSeal hash).host.sealer = { s.host.sealer.ended with hash := hash } := rfl
@[simp] theorem State.endSeal_sealSet (s : State) (hash : List Byte) : (s.endSeal hash).sealSet = s.sealSet := rfl
theorem State.withAtt_sealer (s : State) (a : Attest) :
    ({ s with host := { s.host with att := a } } : State).host.sealer = s.host.sealer := rfl
@[simp] theorem State.measure_sealer (s : State) (kind : Nat) (hash : List Byte) :
    (s.measure kind hash).host.sealer = s.host.sealer := by
  unfold State.measure
  exact s.withAtt_sealer _
@[simp] theorem State.measure_sealSet (s : State) (kind : Nat) (hash : List Byte) : (s.measure kind hash).sealSet = s.sealSet := by
  unfold State.measure
  rfl

@[simp] theorem State.endSeal_chain (s : State) (hash : List Byte) : (s.endSeal hash).host.att.chain = s.host.att.chain := rfl

theorem State.measure_chain (s : State) (kind : Nat) (hash : List Byte) :
    (s.measure kind hash).host.att.chain = Sha.sha256 (s.host.att.chain ++ logEntry kind hash) := rfl

theorem State.mem_sealLeaf {s : State} {l : Leaf} {k : Nat} : k ∈ (s.sealLeaf l).sealSet ↔ k ∈ s.sealSet ∨ k ∈ l.granules := by
  simp [State.sealLeaf]

/-- The granules of leaves sealed one after another are in the seal set. -/
theorem State.mem_sealLeaves {ls : List Leaf} {l : Leaf} (hl : l ∈ ls) {k : Nat} (hk : k ∈ l.granules) (s : State) :
    k ∈ (ls.foldl State.sealLeaf s).sealSet :=
  foldl_of_mem (P := fun s : State => k ∈ s.sealSet) (fun _ => State.mem_sealLeaf.2 (.inr hk))
    (fun _ _ h => State.mem_sealLeaf.2 (.inl h)) hl s

section SealComplete
variable {s : State} {addr : W64} {len ctx : W32} (hq : s.host.sealer.req = some (addr, len, ctx))
  (hv : s.host.sealer.verdict = none)
include hq hv

/-- An image whose bytes have changed since the check is refused with IMAGE_HASH. -/
theorem exec_sealComplete_changed
    (hb : s.imageBytes (ctx.extractLsb' 0 3).toNat addr.toNat len.toNat ≠ s.host.sealer.seen) :
    exec .sealComplete s = .next (s.sealRefused 0x0E 0) := by
  refine congrArg Host.Outcome.next ?_
  simp only [hq, hv, sealContext_eq, if_neg hb]
  rfl

/-- An image that stands as checked: its leaves are sealed, and its hash is entered in the log. -/
theorem exec_sealComplete_seals
    (hb : s.imageBytes (ctx.extractLsb' 0 3).toNat addr.toNat len.toNat = s.host.sealer.seen) :
    exec .sealComplete s = .next ((((s.imageLeaves (ctx.extractLsb' 0 3).toNat addr.toNat len.toNat).foldl State.sealLeaf s).endSeal
      (Sha.sha256 s.host.sealer.seen)).measure (if ctx.getLsbD 8 then 4 else 3) (Sha.sha256 s.host.sealer.seen)) := by
  refine congrArg Host.Outcome.next ?_
  simp only [hq, hv, sealContext_eq, if_pos hb, bit_toNat, State.endSeal, State.sealLeaves_host, Sealer.ended]

end SealComplete

/-! ### Attestation (R72) -/

theorem exec_attestGo_begins {s : State} (hf : s.host.full = false) (hr : s.host.att.req = none) :
    exec .attestGo s = .next { s with host := { s.host with
      att := { s.host.att with req := some (s.host.att.nonce, s.host.att.buf) } } } := by
  refine (hostAct_of_room hf _).trans (congrArg _ ?_)
  simp [hr]

/-- The state with the signed report in the host's buffer. -/
def State.reported (s : State) (nonce : BitVec 256) (buf : W64) : State :=
  ({ s with host := { s.host with att := { s.host.att with req := none } } } : State).hostWrite buf.toNat
    (s.report nonce ++ Config.sign (s.report nonce))

@[simp] theorem State.reported_mem (s : State) (nonce : BitVec 256) (buf : W64) : (s.reported nonce buf).host.mem =
    Memory.setAll s.host.mem buf.toNat (s.report nonce ++ Config.sign (s.report nonce)) := by
  rw [State.reported, State.hostWrite_mem]

theorem exec_attestDone_reports {s : State} {nonce : BitVec 256} {buf : W64} (hr : s.host.att.req = some (nonce, buf)) :
    exec .attestDone s = .next ((s.reported nonce buf).post 0x0302 0) := by
  refine congrArg Host.Outcome.next ?_
  simp only [hr]
  rfl

/-- Settles O53: GO reads the image and holds its leaves' granules; completion refuses, or seals leaf by leaf and measures;
the report is written as signed. -/
theorem sealingAndAttestation : Obligations.SealingAndAttestation := by
  unfold Obligations.SealingAndAttestation
  intro s q a free
  refine ⟨fun hf hq => ?_, exec_sealGo_busy, fun addr len ctx code off hq hv => ?_, fun addr len ctx hq hv => ⟨fun hb => ?_, fun hb => ?_⟩,
    exec_attestGo_begins, fun nonce buf hr => ?_⟩
  · have read : s.SameButHomes (s.sealRead (q.ctx.extractLsb' 0 3).toNat) := s.sameButHomes_touchRead _ _ _
    have seals : (s.sealRead (q.ctx.extractLsb' 0 3).toNat).sealSet = s.sealSet := by rw [read]
    exact ⟨_, exec_sealGo_begins hf hq, read.mem_eq, rfl, rfl, seals, fun k => State.mem_imageGranules⟩
  · exact ⟨_, exec_sealComplete_refused hq hv, rfl, rfl, rfl, rfl, rfl, rfl, rfl⟩
  · have kind : BitVec.ofNat 8 (if ctx.getLsbD 8 then 4 else 3) = if ctx.getLsbD 8 then 4#8 else 3#8 := by
      cases ctx.getLsbD 8 <;> rfl
    refine ⟨_, exec_sealComplete_seals hq hv hb, ?_, ?_, ?_, fun l hl k hk => ?_, ?_⟩
    · rw [State.measure_sealer, State.endSeal_sealer, State.sealLeaves_host]
      rfl
    · rw [State.measure_sealer, State.endSeal_sealer, State.sealLeaves_host]
      rfl
    · rw [State.measure_sealer, State.endSeal_sealer]
    · rw [State.measure_sealSet, State.endSeal_sealSet]
      exact State.mem_sealLeaves hl hk s
    · rw [State.measure_chain, State.endSeal_chain, State.sealLeaves_host, logEntry, kind, List.append_assoc]
  · exact ⟨s.sealRefused 0x0E 0, exec_sealComplete_changed hq hv hb, rfl, rfl, rfl⟩
  · refine ⟨_, exec_attestDone_reports hr, rfl, rfl, fun hwf => ?_⟩
    rw [State.reported_mem]
    exact bytesAre_setAll hwf _ _

end Sys2Proof.Machine
end

section
/-! PROOFS. Command programs: fields of the staging record, job numbers, records read from memory, the close of a job, and the
statement about jobs and the staging record. -/

namespace Sys2Proof.Machine

open Sys2Proof.Bits

/-! ### Fields of a number (R4) -/

/-- A field replaced, between the bits above it and those below it. -/
theorem setField_eq (w lo n v : Nat) :
    setField w lo n v = 2 ^ lo * (2 ^ n * (w / 2 ^ lo / 2 ^ n) + v % 2 ^ n) + w % 2 ^ lo := by
  have parts : 2 ^ lo * (2 ^ n * (w / 2 ^ lo / 2 ^ n) + w / 2 ^ lo % 2 ^ n) + w % 2 ^ lo = w := by
    rw [Nat.div_add_mod, Nat.div_add_mod]
  unfold setField fieldN
  rw [Nat.mul_comm _ (2 ^ lo), Nat.mul_comm _ (2 ^ lo)]
  rw [Nat.mul_add] at parts ⊢
  omega

/-- A replaced field holds the bits of its value, and every other bit stays. -/
theorem testBit_setField (w lo n v k : Nat) :
    (setField w lo n v).testBit k = if lo ≤ k ∧ k < lo + n then v.testBit (k - lo) else w.testBit k := by
  rw [setField_eq, Nat.testBit_two_pow_mul_add _ (Nat.mod_lt _ (Nat.two_pow_pos lo))]
  by_cases below : k < lo
  · rw [if_pos below, if_neg (by omega), Nat.testBit_mod_two_pow]
    simp [below]
  · rw [if_neg below, Nat.testBit_two_pow_mul_add _ (Nat.mod_lt _ (Nat.two_pow_pos n))]
    by_cases inside : k - lo < n
    · rw [if_pos inside, if_pos (by omega), Nat.testBit_mod_two_pow]
      simp [inside]
    · rw [if_neg inside, if_neg (by omega), Nat.testBit_div_two_pow, Nat.testBit_div_two_pow]
      congr 1
      omega

/-! ### Operations of a command sequencer (R287, R299, R334) -/

section OnSequencer
variable {s : State} {n : Nat} (hf : s.focus = .seq n)
include hf

theorem streamOp_of_seq (op : Nat) (k : State → State) : streamOp op s k = .next (k s) := by
  simp [streamOp, State.mode, hf]

theorem State.stream_of_seq : s.stream = n := by simp [State.stream, hf]

theorem State.scalar_of_seq : s.scalar = (s.seq n).sc := by simp [State.scalar, hf]

end OnSequencer

/-- The state with a staging record. -/
def State.withStaging (s : State) (n : Nat) (w : BitVec 2048) : State := s.setSeq n { s.seq n with staging := w }

@[simp] theorem State.staging_withStaging (s : State) (n : Nat) (w : BitVec 2048) : ((s.withStaging n w).seq n).staging = w := by
  simp [State.withStaging]

/-- A sequencer changed beside its registers and results. -/
theorem State.keepsAgent_setSeq {s : State} {n : Nat} {q : Seq} (h : q.sc = (s.seq n).sc) : s.KeepsAgent (s.setSeq n q) := by
  refine ⟨rfl, rfl, rfl, fun _ => rfl, fun m => ?_⟩
  by_cases hm : m = n
  · rw [hm, State.seq_setSeq, h]
  · rw [State.seq_setSeq_ne _ _ hm]

theorem State.keepsAgent_withStaging (s : State) (n : Nat) (w : BitVec 2048) : s.KeepsAgent (s.withStaging n w) :=
  State.keepsAgent_setSeq rfl

theorem State.stage_of_seq {s : State} {n : Nat} (hf : s.focus = .seq n) (f : Nat → Nat) :
    s.stage f = s.withStaging n (BitVec.ofNat 2048 (f (s.seq n).staging.toNat)) := by
  simp [State.stage, State.withStaging, State.mySeq, State.stream_of_seq hf]

/-- A bit of a staging record that is a number. -/
theorem getLsbD_staged {k : Nat} (hk : k < 2048) (x : Nat) : (BitVec.ofNat 2048 x).getLsbD k = x.testBit k := by
  rw [BitVec.getLsbD_ofNat, decide_eq_true hk, Bool.true_and]

/-- A field of the staging record as a word leaves it, with nothing else of the state changed. -/
theorem State.stage_field {s : State} {n : Nat} (hf : s.focus = .seq n) (lo len : Nat) (v : W64) :
    let t := s.stage (fun w => setField w lo len v.toNat)
    t.bundle = s.bundle ∧ t.scalar = s.scalar ∧ t.mem = s.mem ∧ ∀ k, k < 2048 → (t.seq n).staging.getLsbD k =
      if lo ≤ k ∧ k < lo + len then v.getLsbD (k - lo) else (s.seq n).staging.getLsbD k := by
  intro t
  have staged : t = s.withStaging n _ := State.stage_of_seq hf _
  have kept := s.keepsAgent_withStaging n (BitVec.ofNat 2048 (setField (s.seq n).staging.toNat lo len v.toNat))
  rw [staged]
  refine ⟨kept.bundle, kept.scalar, kept.mem, fun k hk => ?_⟩
  rw [State.staging_withStaging, getLsbD_staged hk, testBit_setField, BitVec.testBit_toNat, BitVec.testBit_toNat]

/-! ### Job numbers (R73) -/

/-- A search for a free number ends at the first that is not used, unless all of them are used. -/
theorem freeJob_cases (used : List Nat) (n c : Nat) :
    (∃ k, freeJob used n c = (c + k) % 8192 ∧ (c + k) % 8192 ∉ used ∧ ∀ i, i < k → (c + i) % 8192 ∈ used) ∨
      ∀ i, i < n → (c + i) % 8192 ∈ used := by
  induction n generalizing c with
  | zero => exact .inr fun i hi => absurd hi (Nat.not_lt_zero i)
  | succ n ih =>
    by_cases h : c % 8192 ∈ used
    · have later : freeJob used (n + 1) c = freeJob used n (c + 1) := if_pos (List.contains_iff_mem.2 h)
      have shift (i : Nat) : c + 1 + i = c + (i + 1) := by omega
      have first {P : Nat → Prop} (h0 : P 0) (hs : ∀ i, P (i + 1)) (i : Nat) : P i := by
        cases i with
        | zero => exact h0
        | succ i => exact hs i
      rcases ih (c + 1) with ⟨k, hk, hfree, hused⟩ | hused
      · simp only [shift] at hk hfree hused
        exact .inl ⟨k + 1, later.trans hk, hfree, first (fun _ => h) fun i hi => hused i (by omega)⟩
      · simp only [shift] at hused
        exact .inr (first (fun _ => h) fun i hi => hused i (by omega))
    · exact .inl ⟨0, if_neg fun hc => h (List.contains_iff_mem.1 hc), h, fun i hi => absurd hi (Nat.not_lt_zero i)⟩

/-- With fewer than 256 numbers used, one of 256 in a row is free. -/
theorem freeJob_free {used : List Nat} (h : used.length < 256) (c : Nat) :
    ∃ k, freeJob used 256 c = (c + k) % 8192 ∧ (c + k) % 8192 ∉ used ∧ ∀ i, i < k → (c + i) % 8192 ∈ used := by
  refine (freeJob_cases used 256 c).resolve_right fun all => ?_
  have distinct : ((List.range 256).map fun i => (c + i) % 8192).Nodup :=
    List.Nodup.map_on (fun i hi j hj hij => by simp only [List.mem_range] at hi hj; omega) List.nodup_range
  have within : (List.range 256).map (fun i => (c + i) % 8192) ⊆ used := fun x hx => by
    obtain ⟨i, hi, rfl⟩ := List.mem_map.1 hx
    exact all i (List.mem_range.1 hi)
  have := (distinct.subperm within).length_le
  simp only [List.length_map, List.length_range] at this
  omega

theorem find?_eq_none_iff {α : Type} {l : List (Nat × α)} {k : Nat} : find? l k = none ↔ k ∉ l.map Prod.fst := by
  induction l with
  | nil => simp [find?]
  | cons e l ih =>
    obtain ⟨j, v⟩ := e
    by_cases h : j = k
    · simp [find?, h]
    · simp [find?, h, ih, Ne.symm h]

theorem State.job_eq_none_iff {s : State} {n j : Nat} : s.job n j = none ↔ j ∉ (s.strm n).jobs.map Prod.fst := find?_eq_none_iff

/-! ### Results and waits of a sequencer (R173, R335) -/

/-- A result for a register, of any latency, is on its way; nothing but the agent's own part changes. -/
theorem State.putX_pends (s : State) (d : BitVec 5) (lat : Nat) (v : W64) :
    (s.putX d lat v).bundle = s.bundle ∧ (s.putX d lat v).mem = s.mem ∧ (s.putX d lat v).host = s.host ∧
      (s.putX d lat v).scalar.pend =
        s.scalar.pend ++ if d = 0#5 then [] else [{ dest := .x d v, togo := lat, slot := s.bundle.slot }] := by
  unfold State.putX
  split
  · exact ⟨rfl, rfl, rfl, (List.append_nil _).symm⟩
  · exact ⟨State.setScalar_bundle _ _, State.setScalar_mem _ _, State.setScalar_host _ _,
      by rw [State.issue, State.scalar_setScalar]; rfl⟩

theorem State.stall_of_none {s : State} (h : s.bundle.stall = .none) (w : Wait) :
    s.stall w = { s with bundle := { s.bundle with stall := w } } := if_pos h

/-- The job number that an operand gives. -/
theorem jobNum_eq (v : W64) : jobNum v = (v.extractLsb' 0 13).toNat := fieldN_toNat v 0 13

theorem State.modJob_of_some {s : State} {n j : Nat} {b : Job} (h : s.job n j = some b) (f : Job → Job) :
    s.modJob n j f = s.modStrm n (fun x => { x with jobs := put x.jobs j (f b) }) := by
  simp only [State.modJob, h]

theorem State.job_modJob {s : State} {n j : Nat} {b : Job} (h : s.job n j = some b) (f : Job → Job) :
    (s.modJob n j f).job n j = some (f b) := by
  rw [State.modJob_of_some h, State.job, State.strm_modStrm]
  exact find?_put_self _ _ _

/-- A job with a task is closed, and waits for its task. -/
theorem State.closeJob_waits {s : State} {n j : Nat} {b : Job} (h : s.job n j = some b)
    (ht : ∃ t ∈ s.tab.tasks, t.stream = n ∧ t.job = j) :
    s.closeJob n j = s.modJob n j (fun b => { b with closed := true }) := by
  have busy : (s.modJob n j fun b => { b with closed := true }).tab.tasks.any (fun t => t.stream == n && t.job == j) = true := by
    rw [State.modJob_of_some h]
    obtain ⟨t, hm, hn, hj⟩ := ht
    exact List.any_eq_true.2 ⟨t, hm, by simp [hn, hj]⟩
  simp only [State.closeJob, State.finishJob, State.job_modJob h, busy]
  rfl

/-! ### What a write that joins leaves (R226, R244) -/

/-- The agent that acts, the host's side, and which agents wait at an HWIN are the same in two states. -/
structure State.KeepsHost (s t : State) : Prop where
  focus : t.focus = s.focus
  host : t.host = s.host
  waits : ∀ a, t.waitsHwin a = s.waitsHwin a

namespace State.KeepsHost

theorem refl (s : State) : s.KeepsHost s := ⟨rfl, rfl, fun _ => rfl⟩

theorem trans {s t u : State} (h : s.KeepsHost t) (h' : t.KeepsHost u) : s.KeepsHost u :=
  ⟨h'.focus.trans h.focus, h'.host.trans h.host, fun a => (h'.waits a).trans (h.waits a)⟩

theorem foldl {β : Type} {f : State → β → State} (hf : ∀ (s : State) b, s.KeepsHost (f s b)) (l : List β) (s : State) :
    s.KeepsHost (l.foldl f s) :=
  List.foldlRecOn (motive := s.KeepsHost) l f (refl s) fun t ht b _ => ht.trans (hf t b)

/-- What happens at the homes of lines reaches neither the host nor an agent. -/
theorem of_homes {s t : State} (h : s.SameButHomes t) : s.KeepsHost t := by
  rw [h]
  exact ⟨rfl, rfl, fun a => by cases a <;> rfl⟩

end State.KeepsHost

theorem State.keepsHost_setLine (s : State) (n : Nat) (l : LineRec) : s.KeepsHost (s.setLine n l) :=
  ⟨rfl, rfl, fun a => by cases a <;> rfl⟩

theorem State.keepsHost_health (s : State) (h : Health) : s.KeepsHost { s with health := h } :=
  ⟨rfl, rfl, fun a => by cases a <;> rfl⟩

theorem State.keepsHost_mem (s : State) (m : List Host.Cell) (w : Nat) : s.KeepsHost { s with mem := m, wtsTop := w } :=
  ⟨rfl, rfl, fun a => by cases a <;> rfl⟩

theorem State.keepsHost_modCore (s : State) (n : Nat) {f : Core → Core} (h : ∀ c, (f c).wait = c.wait) : s.KeepsHost (s.modCore n f) := by
  have core (m : Nat) : ((s.modCore n f).core m).wait = (s.core m).wait := by
    by_cases hm : m = n
    · rw [hm, State.core_modCore, h]
    · rw [State.core_modCore_ne s f hm]
  refine ⟨rfl, rfl, fun a => ?_⟩
  cases a with
  | core m => exact congrArg (· == Wait.hwin) (core m)
  | jig m => exact congrArg (· == Wait.hwin) (core m)
  | seq m => rfl

/-- A wake event ends no wait at an HWIN and begins none. -/
theorem Core.wakeHere_hwin (c : Core) : (c.wakeHere.wait == .hwin) = (c.wait == .hwin) := by
  unfold Core.wakeHere
  split
  · next h => rw [h]; rfl
  · rfl

theorem State.keepsHost_wake (s : State) (pa : Nat) : s.KeepsHost (s.wake pa) := by
  unfold State.wake
  split
  · have entries : s.cores.map (fun e => if e.2.watches pa then (e.1, e.2.wakeHere) else e) =
        s.cores.map (fun e => (e.1, if e.2.watches pa then e.2.wakeHere else e.2)) :=
      List.map_congr_left fun e _ => by split <;> rfl
    have core (n : Nat) : (((find? (s.cores.map fun (e : Nat × Core) => if e.2.watches pa then (e.1, e.2.wakeHere) else e) n).getD {}).wait == .hwin) =
        (((find? s.cores n).getD {}).wait == .hwin) := by
      rw [entries, find?_map (fun _ (c : Core) => if c.watches pa then c.wakeHere else c)]
      cases find? s.cores n with
      | none => rfl
      | some c =>
        simp only [Option.map_some, Option.getD_some]
        split
        · exact c.wakeHere_hwin
        · rfl
    refine ⟨rfl, rfl, fun a => ?_⟩
    cases a with
    | core n => exact core n
    | jig n => exact core n
    | seq n => rfl
  · exact .refl s

theorem State.keepsHost_noteKey (s : State) (sec : Nat) (leaf : Option Nat) : s.KeepsHost (s.noteKey sec leaf) := by
  unfold State.noteKey
  split
  · exact .refl s
  · split
    · exact s.keepsHost_health _
    · split
      · exact .refl s
      · exact s.keepsHost_health _

theorem State.keepsHost_coverWords (s : State) (line : Nat) (bytes : List (Nat × Byte)) : s.KeepsHost (s.coverWords line bytes) := by
  unfold State.coverWords
  split
  · exact .refl s
  · exact s.keepsHost_health _

theorem State.keepsHost_setDirty (s : State) (leaf : Option Nat) : s.KeepsHost (s.setDirty leaf) := by
  unfold State.setDirty
  split
  · exact .refl s
  · split
    · exact .refl s
    · next a _ =>
      have touched := s.sameButHomes_touchLine ((a + 6) / 128)
      exact (State.KeepsHost.of_homes touched).trans (State.keepsHost_mem _ _ _)

theorem State.keepsHost_join (s : State) (line w : Nat) (bytes : List (Nat × Byte)) (leaf : Option Nat) :
    s.KeepsHost (s.join line w bytes leaf) := by
  unfold State.join
  extract_lets r s1 s2 s3 s4
  have written : s.KeepsHost s3 :=
    ((s.keepsHost_setDirty leaf).trans (s1.keepsHost_setLine _ _)).trans (s2.keepsHost_mem _ _)
  have covered : s.KeepsHost s4 := (written.trans (s3.keepsHost_noteKey _ _)).trans (State.keepsHost_coverWords _ _ _)
  exact covered.trans (.foldl (fun s b => s.keepsHost_wake _) bytes s4)

/-! ### A read of memory keeps its agent (R227, R230) -/

theorem State.focus_giveRead (s : State) (q : Req) (line : Nat) (bound : Option Nat) : (s.giveRead q line bound).focus = s.focus := by
  unfold State.giveRead
  extract_lets r ts fin fin' bad t u
  exact (u.keepsAgent_readFor q line).focus.trans (t.keepsAgent_putL1 _ _).focus

theorem State.focus_applyNr (s : State) (core line : Nat) : (s.applyNr core line).focus = s.focus := by
  unfold State.applyNr
  extract_lets c
  split
  · rfl
  · extract_lets old ts bad t u
    have read : t.focus = s.focus := (State.KeepsAgent.of_homes (s.sameButHomes_readLine _ _ _)).focus
    have joined : u.focus = t.focus := by
      unfold u
      split
      · rfl
      · exact (t.keepsHost_join _ _ _ _).focus
    exact joined.trans read

theorem State.focus_serveIdle {s t : State} {line : Nat} {q : Req} (h : s.serveIdle line q = some t) : t.focus = s.focus := by
  unfold State.serveIdle at h
  dsimp only at h
  split at h
  · split at h
    · split at h
      · rw [← Option.some.inj h, State.focus_giveRead]
      · cases h
    · rw [← Option.some.inj h, State.focus_giveRead]
  · split at h
    · cases h
    · rw [← Option.some.inj h, (s.keepsAgent_giveOwner _ _ _).focus]
  · split at h
    · cases h
    · rw [← Option.some.inj h, (s.keepsAgent_giveOwner _ _ _).focus]
  · split at h
    · cases h
    · rw [← Option.some.inj h, State.focus_applyNr]

theorem State.focus_serveQueue (s : State) (line n : Nat) : (s.serveQueue line n).focus = s.focus := by
  induction n generalizing s with
  | zero => rfl
  | succ n ih =>
    unfold State.serveQueue
    dsimp only
    split
    · rfl
    · split
      · split
        · rfl
        · exact ih _
      · split
        · rfl
        · split
          · exact ih _
          · rfl
        · split
          · rfl
          · split
            · rfl
            · next h => exact (ih _).trans ((State.focus_serveIdle h).trans rfl)

theorem State.focus_leaveQueue (s : State) (line : Nat) : (s.leaveQueue line).focus = s.focus := by
  unfold State.leaveQueue
  dsimp only
  split
  · rfl
  · exact State.focus_serveQueue _ _ _

theorem State.focus_readHere (s : State) (line wts : Nat) : (s.readHere line wts).focus = s.focus :=
  (State.keepsAgent_setPts _ _).focus

theorem State.focus_writtenBack (s : State) (line : Nat) : (s.writtenBack line).focus = s.focus := by
  unfold State.writtenBack
  dsimp only
  split <;> rfl

theorem State.focus_writtenBack_unless (s : State) (line : Nat) (held : Prop) [Decidable held] :
    (if held then s else s.writtenBack line).focus = s.focus := by
  split
  · rfl
  · exact s.focus_writtenBack line

theorem State.focus_openRead {s t : State} {line : Nat} {leaf : Option Nat} (h : s.openRead line leaf = .ok t ()) :
    t.focus = s.focus := by
  unfold State.openRead at h
  extract_lets r q early at h
  split at h
  · cases h
    exact s.focus_readHere _ _
  · split at h
    · split at h
      · cases h
      · cases h
        exact (State.focus_leaveQueue _ _).trans (s.focus_readHere _ _)
    · split at h
      · split at h
        · cases h
        · cases h
          exact (State.focus_leaveQueue _ _).trans ((State.focus_readHere _ _ _).trans
            ((State.KeepsAgent.of_homes (State.sameButHomes_readLine _ _ _ _)).focus.trans (s.focus_writtenBack_unless line _)))
      · split at h
        · cases h
          exact (s.keepsAgent_setPts _).focus
        · split at h
          · cases h
          · split at h
            · cases h
            · next hserve =>
              cases h
              exact (State.keepsAgent_setPts _ _).focus.trans (State.focus_serveIdle hserve)

theorem State.focus_dropOnce (s : State) (line : Nat) : (s.dropOnce line).focus = s.focus := by
  unfold State.dropOnce
  split
  · rfl
  · split <;> rfl

theorem State.focus_readParts {parts : List (Place × Nat)} {s t : State} {va : Nat} {r : List Byte × Option (Nat × Nat)}
    (h : s.readParts va parts = .ok t r) : t.focus = s.focus := by
  induction parts generalizing s va r with
  | nil => cases h; rfl
  | cons p rest ih =>
    obtain ⟨p, k⟩ := p
    unfold State.readParts at h
    dsimp only at h
    split at h
    · split at h
      · next hrest =>
        cases h
        exact ih hrest
      · next hne => exact absurd h (hne _ _ _)
    · split at h
      · cases h
      · cases h
      · next hopen =>
        split at h
        · next hrest =>
          cases h
          exact (ih hrest).trans ((State.focus_dropOnce _ _).trans (State.focus_openRead hopen))
        · next hne => exact absurd h (hne _ _ _)

theorem State.keepsAgent_atAccess (s : State) (v : View) (va n : Nat) : s.KeepsAgent (s.atAccess v va n) := by
  unfold State.atAccess
  extract_lets u
  have published : s.KeepsAgent u := by
    unfold u
    split
    · exact s.keepsAgent_setPts _
    · exact .refl s
  refine published.trans (.foldl (fun t p => ?_) _ u)
  split
  · exact .of_homes (t.sameButHomes_noteTlb v _)
  · exact .refl t

theorem State.focus_load {s t : State} {v : View} {va n : Nat} {r : List Byte × Option (Nat × Nat)}
    (h : s.load v va n = .ok t r) : t.focus = s.focus := by
  unfold State.load at h
  split at h
  · cases h
  · split at h
    · cases h
    · exact (State.focus_readParts h).trans (s.keepsAgent_atAccess v va n).focus

/-! ### Jobs (R73, R335) -/

/-- The state once a stream has opened a job. -/
def State.jobOpened (s : State) (n j : Nat) : State :=
  s.modStrm n (fun x => { x with jobCtr := (j + 1) % 8192, jobs := put x.jobs j {} })

/-- The answer to a JOB: the number it has opened, and no other job changed. -/
theorem State.jobOpened_answered (s : State) (n : Nat) (d : BitVec 5) (j : Nat) :
    let t := (s.jobOpened n j).putX d 1 (BitVec.ofNat 64 j)
    t.bundle = s.bundle ∧ t.mem = s.mem ∧ t.job n j = some {} ∧ (∀ i, i ≠ j → t.job n i = s.job n i) ∧
      (t.strm n).jobCtr = (j + 1) % 8192 ∧ t.scalar.pend = s.scalar.pend ++ if d = 0#5 then [] else
        [{ dest := .x d (BitVec.ofNat 64 j), togo := 1, slot := s.bundle.slot }] := by
  intro t
  obtain ⟨hbundle, hmem, hhost, hpend⟩ := (s.jobOpened n j).putX_pends d 1 (BitVec.ofNat 64 j)
  have strm : t.strm n = { s.strm n with jobCtr := (j + 1) % 8192, jobs := put (s.strm n).jobs j {} } :=
    (congrArg (fun h : HostSide => (find? h.streams n).getD {}) hhost).trans (State.strm_modStrm _ _ _)
  refine ⟨hbundle, hmem, ?_, fun i hi => ?_, ?_, hpend⟩
  · rw [State.job, strm, find?_put_self]
  · rw [State.job, strm, find?_put_ne _ _ hi, State.job]
  · rw [strm]

section Jobs
variable {s : State} {n : Nat} (hf : s.focus = .seq n)
include hf

theorem exec_job_waits (d : BitVec 5) (h : 256 ≤ (s.strm n).jobs.length) : exec (.job d) s = .next (s.stall .table) := by
  change execJob d s = _
  rw [execJob, streamOp_of_seq hf]
  simp only [State.stream_of_seq hf, if_pos h]

theorem exec_job_opens (d : BitVec 5) (h : (s.strm n).jobs.length < 256) {j : Nat}
    (hj : freeJob ((s.strm n).jobs.map Prod.fst) 256 (s.strm n).jobCtr = j) :
    exec (.job d) s = .next ((s.jobOpened n j).putX d 1 (BitVec.ofNat 64 j)) := by
  change execJob d s = _
  rw [execJob, streamOp_of_seq hf]
  simp only [State.stream_of_seq hf, if_neg (Nat.not_le.2 h), hj]
  rfl

theorem exec_task_zero : exec (.task 0#5) s = .next (s.stage fun _ => 0) := by
  change execTask 0#5 s = _
  rw [execTask, streamOp_of_seq hf]
  simp

/-- TASK of a record that its load brings without a fault. -/
theorem exec_task_record {s1 : State} {a : BitVec 5} {bs : List Byte} (ha : a ≠ 0#5) (h256 : (s.xr a).toNat % 256 = 0)
    (h52 : (s.xr a).toNat < 2 ^ 52) (hl : s.load s.view (s.xr a).toNat 256 = .ok s1 (bs, none)) :
    exec (.task a) s = .next (s1.stage fun _ => (BitVec.ofNat 2048 (leNat bs)).toNat) := by
  change execTask a s = _
  rw [execTask, streamOp_of_seq hf]
  simp only [if_neg ha, State.readRecord, h256, State.withEa, if_pos h52, hl, State.onGot]
  rfl

theorem exec_opt_stages (a y : BitVec 5) : exec (.opt a y) s = .next (s.stage fun w =>
    setField (setField w (8 * 0x28) 64 (s.xr a).toNat) 38 4 (s.xr y).toNat) := by
  change execOpt a y s = _
  rw [execOpt, streamOp_of_seq hf]

theorem exec_depv_stages (i : BitVec 2) (a : BitVec 5) : exec (.depv i a) s = .next (s.stage fun w =>
    setField w (8 * (0x18 + 2 * i.toNat)) 16 (s.xr a).toNat) := by
  change execDepv i a s = _
  rw [execDepv, streamOp_of_seq hf]

theorem exec_tset_stages (k a : BitVec 5) : exec (.tset k a) s = .next (s.stage fun w =>
    setField w (64 * k.toNat) 64 (s.xr a).toNat) := by
  change execTset k a s = _
  rw [execTset, streamOp_of_seq hf]

theorem exec_curveq_reads (d a : BitVec 5) : exec (.curveq d a) s =
    .next (s.putX d 1 (BitVec.ofNat 64 (s.pow.item ((s.xr a).extractLsb' 0 4).toNat))) := by
  change execCurveq d a s = _
  rw [execCurveq, streamOp_of_seq hf]
  simp only [fieldN_toNat]

theorem exec_launch_answers (d a : BitVec 5) {s' : State} {st id : Nat}
    (h : s.submit n ((s.xr a).extractLsb' 0 13).toNat (s.seq n).staging false = some (s', st, id)) :
    exec (.launch d a) s = .next (s'.putX d 1 (BitVec.ofNat 64 (st + id * 2 ^ 32))) := by
  change execLaunch d a s = _
  rw [execLaunch, streamOp_of_seq hf]
  simp only [State.stream_of_seq hf, jobNum_eq, State.mySeq, h, submitWord]

theorem exec_launch_waits (d a : BitVec 5) (h : s.submit n ((s.xr a).extractLsb' 0 13).toNat (s.seq n).staging false = none) :
    exec (.launch d a) s = .next (s.stall .table) := by
  change execLaunch d a s = _
  rw [execLaunch, streamOp_of_seq hf]
  simp only [State.stream_of_seq hf, jobNum_eq, State.mySeq, h]

theorem exec_jwait_none (d a : BitVec 5) (h : s.job n ((s.xr a).extractLsb' 0 13).toNat = none) :
    exec (.jwait d a) s = .next (s.putX d 1 0xFF#64) := by
  change execJwait d a s = _
  rw [execJwait, streamOp_of_seq hf]
  simp only [State.stream_of_seq hf, jobNum_eq, h]

theorem exec_notify_waits (a y : BitVec 5) (h : 256 ≤ (s.strm n).backlog.length) :
    exec (.notify a y) s = .next (s.stall .table) := by
  change execNotify a y s = _
  rw [execNotify, streamOp_of_seq hf]
  simp only [State.stream_of_seq hf, if_pos h]

theorem exec_notify_none (a y : BitVec 5) (hb : (s.strm n).backlog.length < 256)
    (h : s.job n ((s.xr a).extractLsb' 0 13).toNat = none) : exec (.notify a y) s =
      .next (s.formRecord n ⟨(s.xr y).toNat, 0xFF, n, ((s.xr a).extractLsb' 16 6).toNat, 0⟩ (s.egress n)) := by
  change execNotify a y s = _
  rw [execNotify, streamOp_of_seq hf]
  simp only [State.stream_of_seq hf, jobNum_eq, h, if_neg (Nat.not_le.2 hb), fieldN_toNat]

theorem exec_notify_keeps (a y : BitVec 5) {b : Job} (hb : (s.strm n).backlog.length < 256)
    (h : s.job n ((s.xr a).extractLsb' 0 13).toNat = some b) : exec (.notify a y) s =
      .next ((s.modJob n ((s.xr a).extractLsb' 0 13).toNat (fun k => { k with
        notes := k.notes ++ [((s.xr y).toNat, ((s.xr a).extractLsb' 16 6).toNat, s.egress n)] })).closeJob n
          ((s.xr a).extractLsb' 0 13).toNat) := by
  change execNotify a y s = _
  rw [execNotify, streamOp_of_seq hf]
  simp only [State.stream_of_seq hf, jobNum_eq, h, if_neg (Nat.not_le.2 hb), fieldN_toNat]

end Jobs

/-- The result that a JWAIT leaves on its way until its job completes. -/
def jwaitResult (d : BitVec 5) : Pending := { dest := .x d 0#64, togo := 1, arrived := false, awaits := .job }

/-- The state in which a stream is held for a job. -/
def State.heldFor (s : State) (n : Nat) (d : BitVec 5) (j : Nat) : State :=
  let t := s.issue [jwaitResult d]
  (t.setSeq n { t.seq n with jwait := some j }).modStrm n (fun x => { x with st := .wait })

theorem exec_jwait_holds {s : State} {n : Nat} (hf : s.focus = .seq n) (d a : BitVec 5) {b : Job}
    (h : s.job n ((s.xr a).extractLsb' 0 13).toNat = some b) :
    exec (.jwait d a) s = .next ((s.heldFor n d ((s.xr a).extractLsb' 0 13).toNat).closeJob n ((s.xr a).extractLsb' 0 13).toNat) := by
  change execJwait d a s = _
  rw [execJwait, streamOp_of_seq hf]
  simp only [State.stream_of_seq hf, jobNum_eq, h]
  rfl

/-- What a hold leaves: nothing of the job, the tasks and memory changes. -/
theorem State.heldFor_keeps (s : State) (n : Nat) (d : BitVec 5) (j : Nat) :
    (∀ i, (s.heldFor n d j).job n i = s.job n i) ∧ (s.heldFor n d j).tab = s.tab ∧ (s.heldFor n d j).bundle = s.bundle ∧
      (s.heldFor n d j).mem = s.mem := by
  refine ⟨fun i => ?_, State.setScalar_tab _ _, State.setScalar_bundle _ _, State.setScalar_mem _ _⟩
  rw [State.job, State.heldFor, State.strm_modStrm]
  simp only [State.strm, State.setSeq_host, State.issue, State.setScalar_host, State.job]

theorem State.heldFor_pend (s : State) (n : Nat) (d : BitVec 5) (j : Nat) :
    (s.heldFor n d j).scalar.pend = s.scalar.pend ++ [{ jwaitResult d with slot := s.bundle.slot }] := by
  have kept : (s.issue [jwaitResult d]).KeepsAgent (s.heldFor n d j) :=
    (State.keepsAgent_setSeq (q := { (s.issue [jwaitResult d]).seq n with jwait := some j }) rfl).trans
      ⟨rfl, rfl, rfl, fun _ => rfl, fun _ => rfl⟩
  rw [kept.scalar, State.issue, State.scalar_setScalar]
  rfl

/-- Settles O31: JOB's search ends at a free number, the staging ops replace fields, a record's load keeps its sequencer, and
a job with a task stays open to its notes and its JWAIT. -/
theorem jobsAndStaging : Obligations.JobsAndStaging := by
  unfold Obligations.JobsAndStaging
  refine ⟨fun s n d a y i hf => ?_, fun s n d a y hf hstall => ?_⟩
  · intro w x only
    refine ⟨exec_job_waits hf d, fun hroom => ?_, ⟨_, exec_task_zero hf, ?_⟩, fun s1 bs ha h256 h52 hl => ?_,
      ⟨_, exec_opt_stages hf a y, ?_⟩, ⟨_, exec_depv_stages hf i a, State.stage_field hf _ _ _⟩,
      ⟨_, exec_tset_stages hf y a, State.stage_field hf _ _ _⟩, exec_curveq_reads hf d a⟩
    · obtain ⟨k, hj, hfree, hused⟩ := freeJob_free (used := x.jobs.map Prod.fst) (by rwa [List.length_map]) x.jobCtr
      obtain ⟨hbundle, hmem, hopen, hother, hctr, hpend⟩ := s.jobOpened_answered n d ((x.jobCtr + k) % 8192)
      exact ⟨_, (x.jobCtr + k) % 8192, k, exec_job_opens hf d hroom hj, hbundle, hmem, rfl, State.job_eq_none_iff.2 hfree,
        fun i hi hn => State.job_eq_none_iff.1 hn (hused i hi), hopen, hother, hctr, hpend⟩
    · have kept := s.keepsAgent_withStaging n 0#2048
      rw [State.stage_of_seq hf]
      refine ⟨kept.bundle, kept.scalar, kept.mem, fun k hk => ?_⟩
      rw [State.staging_withStaging, if_pos ⟨Nat.zero_le k, by omega⟩]
      simp
    · refine ⟨_, exec_task_record hf ha h256 h52 hl, ?_, ?_⟩ <;> rw [State.stage_of_seq ((State.focus_load hl).trans hf)]
      · exact (s1.keepsAgent_withStaging n _).bundle
      · rw [State.staging_withStaging, BitVec.ofNat_toNat, BitVec.setWidth_eq]
    · rw [State.stage_of_seq hf]
      have kept (v : BitVec 2048) := s.keepsAgent_withStaging n v
      refine ⟨(kept _).bundle, (kept _).scalar, (kept _).mem, ?_, ?_, fun k h38 h28 => ?_⟩
      · refine BitVec.eq_of_getLsbD_eq fun k hk => ?_
        rw [State.staging_withStaging, BitVec.getLsbD_extractLsb', getLsbD_staged (by omega), testBit_setField, testBit_setField,
          if_neg (by omega), if_pos (by omega), BitVec.testBit_toNat, Nat.add_sub_cancel_left]
        simp [hk]
      · refine BitVec.eq_of_getLsbD_eq fun k hk => ?_
        rw [State.staging_withStaging, BitVec.getLsbD_extractLsb', getLsbD_staged (by omega), testBit_setField,
          if_pos (by omega), BitVec.testBit_toNat, Nat.add_sub_cancel_left]
        simp [hk]
      · rw [State.staging_withStaging]
        by_cases hk : k < 2048
        · rw [getLsbD_staged hk, testBit_setField, if_neg (by omega), testBit_setField, if_neg (by omega), BitVec.testBit_toNat]
        · rw [BitVec.getLsbD_of_ge _ _ (Nat.le_of_not_lt hk), BitVec.getLsbD_of_ge _ _ (Nat.le_of_not_lt hk)]
  · intro j
    refine ⟨fun s' st id h => exec_launch_answers hf d a h, fun h => ?_, exec_jwait_none hf d a, fun b hb ht => ⟨?_, fun hroom => ?_⟩,
      fun h hroom => exec_notify_none hf a y hroom h, fun hfull => ?_⟩
    · rw [exec_launch_waits hf d a h, State.stall_of_none hstall]
    · obtain ⟨hjob, htab, hbundle, hmem⟩ := s.heldFor_keeps n d j
      have held : (s.heldFor n d j).job n j = some b := (hjob j).trans hb
      have closed : (s.heldFor n d j).closeJob n j = _ := State.closeJob_waits held (by rwa [htab])
      refine ⟨_, exec_jwait_holds hf d a hb, ?_⟩
      rw [closed]
      have jobs := State.job_modJob held fun b => { b with closed := true }
      rw [State.modJob_of_some held] at jobs ⊢
      refine ⟨hbundle, hmem, ?_, ?_, s.heldFor_pend n d j, _, jobs, rfl⟩
      · rw [State.strm_modStrm, State.heldFor, State.strm_modStrm]
      · exact congrArg Seq.jwait (State.seq_setSeq _ _ _)
    · have noted := State.job_modJob hb fun k => { k with
        notes := k.notes ++ [((s.xr y).toNat, ((s.xr a).extractLsb' 16 6).toNat, s.egress n)] }
      have tasks (f : Job → Job) : (s.modJob n j f).tab = s.tab := by
        rw [State.modJob_of_some hb]
        rfl
      have jobs := State.job_modJob noted fun b => { b with closed := true }
      refine ⟨_, _, exec_notify_keeps hf a y hroom hb, ?_, ?_, (congrArg (State.job · n j) (State.closeJob_waits noted
        (by rwa [tasks]))).trans jobs, rfl, rfl⟩ <;> rw [State.closeJob_waits noted (by rwa [tasks]), State.modJob_of_some noted, State.modJob_of_some hb] <;> rfl
    · rw [exec_notify_waits hf a y hfull, State.stall_of_none hstall]

end Sys2Proof.Machine
end

section
/-! PROOFS. The host's port: writes of its mailboxes and apertures, staging and the streams' buffers, resets of the link,
groups applied to memory, and the registers of streams, notification queues and vectors. -/

namespace Sys2Proof.Machine

open Sys2Proof.Bits

/-! ### Posted credits withheld (R61) -/

theorem hostBehind_of_blocked {s : State} (hb : s.host.blocked ≠ none) (t : State) : hostBehind s t = .next s := by
  simp [hostBehind, Option.isSome_iff_ne_none.2 hb]

theorem hostAct_of_full {s : State} (hf : s.host.full = true) (t : State) : hostAct s t = .next s := by
  simp [hostAct, hf]

theorem HostSide.full_of_blocked {h : HostSide} (hb : h.blocked ≠ none) : h.full = true := by
  simp [HostSide.full, Option.isSome_iff_ne_none.2 hb]

/-- A host write of a register that would change nothing changes nothing, held back or not. -/
theorem hostAct_self (s : State) : hostAct s s = .next s := by simp [hostAct]

/-! ### Host writes (R58, R60, R61, R63) -/

/-- An access that ends in its mailbox reaches memory there. -/
theorem State.hostSpot_mailbox {s : State} {off n : Nat} (h0 : 0 < n) (ho : off < 2 ^ 26) (hn : off % 2 ^ 23 + n ≤ 2 ^ 22) :
    s.hostSpot 2 off n = .inside (off / 2 ^ 23) (((s.strm (off / 2 ^ 23)).mbx.toNat + off % 2 ^ 23) % 2 ^ 64) := by
  unfold State.hostSpot
  rw [if_neg h0.ne', if_pos ⟨rfl, ho⟩]
  exact if_pos hn

section HostWrite
variable {s : State} (hb : s.host.blocked = none)
include hb

theorem exec_hostWriteTlp_staged {k va : Nat} (hl : s.host.linkUp = true)
    (hs : s.hostSpot s.inp.n1 s.inp.n2 s.inp.bytes.length = .inside k va)
    (hr : groupBytes s.host.staging + s.inp.bytes.length ≤ 2 ^ 20) :
    exec .hostWriteTlp s = .next { s with host := { s.host with staging := s.host.staging ++ [⟨k, va, s.inp.bytes⟩] } } := by
  refine (hostBehind_of_free hb _).trans (congrArg _ ?_)
  simp only [hl, hs, if_pos hr]
  rfl

theorem exec_hostWriteTlp_blocks {k va : Nat} (hl : s.host.linkUp = true)
    (hs : s.hostSpot s.inp.n1 s.inp.n2 s.inp.bytes.length = .inside k va)
    (hr : ¬ groupBytes s.host.staging + s.inp.bytes.length ≤ 2 ^ 20) :
    exec .hostWriteTlp s = .next { s with host := { s.host with blocked := some ⟨k, va, s.inp.bytes⟩ } } := by
  refine (hostBehind_of_free hb _).trans (congrArg _ ?_)
  simp only [hl, hs, if_neg hr]
  rfl

theorem exec_hostWriteTlp_crosses {k : Nat} (hl : s.host.linkUp = true)
    (hs : s.hostSpot s.inp.n1 s.inp.n2 s.inp.bytes.length = .crosses k) :
    exec .hostWriteTlp s = .next (s.dropWrite k 0x81) := by
  refine (hostBehind_of_free hb _).trans (congrArg _ ?_)
  simp only [hl, hs]
  rfl

end HostWrite

/-- While the link is down a host write has no effect. -/
theorem exec_hostWriteTlp_down {s : State} (hl : s.host.linkUp = false) : exec .hostWriteTlp s = .next s := by
  refine congrArg Host.Outcome.next ?_
  dsimp only
  rw [hl]
  exact ite_self _

/-- A dropped write sets WRERR; what was staged before it stays. -/
theorem State.dropWrite_keeps (s : State) (k detail : Nat) : (s.dropWrite k detail).mem = s.mem ∧
    ((s.dropWrite k detail).strm k).wrerr = true ∧ (s.dropWrite k detail).host.staging = s.host.staging := by
  have posted : (s.modStrm k fun x => { x with wrerr := true }).SameButRecords (s.dropWrite k detail) :=
    State.sameButRecords_event _ _ _ _ _
  refine ⟨posted.frame.1, ?_, posted.staging⟩
  rw [posted.strm, State.strm_modStrm]

/-! ### Staging and the streams' buffers (R61) -/

theorem takeFirst_head {n : Nat} {w : Tlp} (h : w.stream = n) (rest : List Tlp) : takeFirst n (w :: rest) = some (w, rest) :=
  if_pos h

/-- The state once a staged write has moved to its stream's buffer. -/
def State.moved (s : State) (n : Nat) (w : Tlp) (rest : List Tlp) : State :=
  let t : State := { s with host := { s.host with staging := rest } }
  t.modStrm n (fun x => { x with ingress := x.ingress ++ [w],
                                 fullSince := if (s.strm n).used + w.bytes.length = 2 ^ 22 then some t.now else x.fullSince })

theorem State.ingress_moved (s : State) (n : Nat) (w : Tlp) (rest : List Tlp) :
    ((s.moved n w rest).strm n).ingress = (s.strm n).ingress ++ [w] := by
  rw [State.moved, State.strm_modStrm]
  rfl

theorem exec_ingressStagingMove_moves {s : State} {w : Tlp} {rest : List Tlp} (hs : s.host.staging = w :: rest)
    (hw : w.stream = s.inp.n1) (hr : groupBytes (s.strm s.inp.n1).ingress + w.bytes.length ≤ 2 ^ 22) :
    exec .ingressStagingMove s = .next (s.moved s.inp.n1 w rest).unblock := by
  refine congrArg Host.Outcome.next ?_
  dsimp only
  rw [hs, takeFirst_head hw]
  exact if_neg (Nat.not_lt.2 hr)

theorem State.unblock_of_free {s : State} (hb : s.host.blocked = none) : s.unblock = s := by
  simp only [State.unblock, hb]

/-- The write that waits enters staging once it has room there. -/
theorem State.unblock_enters {s : State} {b : Tlp} (hb : s.host.blocked = some b)
    (hr : groupBytes s.host.staging + b.bytes.length ≤ 2 ^ 20) :
    s.unblock = { s with host := { s.host with staging := s.host.staging ++ [b], blocked := none } } := by
  simp only [State.unblock, hb, if_pos hr]

theorem exec_ingressStall_sets {s : State} {t0 : Nat} (h : (s.strm s.inp.n1).fullSince = some t0) (ht : t0 + 10000 ≤ s.now) :
    exec .ingressStall s = .next ((s.setStrm s.inp.n1 { s.strm s.inp.n1 with stallBit := true, fullSince := none }).postStream
      s.inp.n1 0x0304 0) := by
  refine congrArg Host.Outcome.next ?_
  simp only [h, if_pos ht]
  rfl

theorem exec_ingressStall_waits {s : State} {t0 : Nat} (h : (s.strm s.inp.n1).fullSince = some t0) (ht : s.now < t0 + 10000) :
    exec .ingressStall s = .next s := by
  refine congrArg Host.Outcome.next ?_
  simp only [h, if_neg (Nat.not_le.2 ht)]

/-! ### The link's reset and return (R61, R68) -/

/-- A stream as a reset of the link leaves it: what is pending for it is lost. -/
def State.losing (s : State) (n : Nat) : Stream :=
  if (s.strm n).ingress.isEmpty && !s.host.staging.any (fun t => t.stream == n) then s.strm n
  else { s.strm n with ingress := [], fullSince := none, lost := true, tellLost := true }

/-- The state once a reset has reached a stream. -/
def State.lose (s : State) (n : Nat) : State :=
  if (s.strm n).ingress.isEmpty && !s.host.staging.any (fun t => t.stream == n) then s
  else s.modStrm n (fun x => { x with ingress := [], fullSince := none, lost := true, tellLost := true })

theorem State.lose_strm (s : State) (n : Nat) : (s.lose n).strm n = s.losing n := by
  unfold State.lose State.losing
  split
  · rfl
  · exact State.strm_modStrm _ _ _

theorem State.lose_strm_ne (s : State) {n k : Nat} (h : k ≠ n) : (s.lose n).strm k = s.strm k := by
  unfold State.lose
  split
  · rfl
  · exact State.strm_modStrm_ne _ _ h

theorem State.lose_keeps (s : State) (n : Nat) :
    (s.lose n).mem = s.mem ∧ (s.lose n).host.staging = s.host.staging ∧ (s.lose n).host.cuts = s.host.cuts := by
  unfold State.lose
  split <;> exact ⟨rfl, rfl, rfl⟩

theorem State.losing_congr {s t : State} {n : Nat} (hn : t.strm n = s.strm n) (hs : t.host.staging = s.host.staging) :
    t.losing n = s.losing n := by
  simp only [State.losing, hn, hs]

/-- A reset reaches each stream once. -/
theorem State.strm_foldl_lose {l : List Nat} (hl : l.Nodup) {k : Nat} (hk : k ∈ l) (s : State) :
    (l.foldl State.lose s).strm k = s.losing k := by
  have after {l : List Nat} (hk : k ∉ l) (s : State) : (l.foldl State.lose s).strm k = s.strm k :=
    List.foldlRecOn (motive := fun t : State => t.strm k = s.strm k) l State.lose rfl fun t ht n hn =>
      (t.lose_strm_ne (by rintro rfl; exact hk hn)).trans ht
  induction l generalizing s with
  | nil => cases hk
  | cons n l ih =>
    obtain ⟨hn, hl⟩ := List.nodup_cons.1 hl
    rcases List.mem_cons.1 hk with rfl | hk
    · exact (after hn _).trans (s.lose_strm k)
    · have ne : k ≠ n := fun h => hn (h ▸ hk)
      exact (ih hl hk _).trans (State.losing_congr (s.lose_strm_ne ne) (s.lose_keeps n).2.1)

/-- A stream that loses something has its buffer emptied and LOST set; LOST that is set stays. -/
theorem State.losing_spec (s : State) (n : Nat) : (s.losing n).ingress = [] ∧
    ((s.losing n).lost = true ↔ (s.strm n).lost = true ∨ (s.strm n).ingress ≠ [] ∨ ∃ w ∈ s.host.staging, w.stream = n) := by
  unfold State.losing
  split
  · next h =>
    simp only [Bool.and_eq_true, List.isEmpty_iff, Bool.not_eq_true', List.any_eq_false, beq_iff_eq] at h
    obtain ⟨empty, none⟩ := h
    exact ⟨empty, fun h => .inl h, fun h => h.resolve_right fun h => h.elim (fun h => h empty) fun ⟨w, hw, hn⟩ => none w hw hn⟩
  · next h =>
    refine ⟨rfl, fun _ => .inr ?_, fun _ => rfl⟩
    by_contra no
    simp only [not_or, not_exists, not_and, not_not] at no
    refine h ?_
    simp only [Bool.and_eq_true, List.isEmpty_iff, Bool.not_eq_true', List.any_eq_false, beq_iff_eq]
    exact no

theorem exec_pcieReset (s : State) : exec .pcieReset s =
    let t := (List.range 8).foldl State.lose s
    .next { t with host := { t.host with staging := [], blocked := none, linkUp := false } } := by
  change execPcieReset s = _
  unfold execPcieReset State.lose
  rfl

/-- A reset of the link loses what is pending for the streams; a group once cut is kept. -/
theorem exec_pcieReset_loses (s : State) : ∃ t, exec .pcieReset s = .next t ∧ t.host.staging = [] ∧ t.host.blocked = none ∧
    t.host.linkUp = false ∧ t.mem = s.mem ∧ t.host.cuts = s.host.cuts ∧ ∀ k, k < 8 → (t.strm k).ingress = [] ∧
      ((t.strm k).lost = true ↔ (s.strm k).lost = true ∨ (s.strm k).ingress ≠ [] ∨ ∃ w ∈ s.host.staging, w.stream = k) := by
  have mem : ((List.range 8).foldl State.lose s).mem = s.mem := foldl_keeps (fun t n => (t.lose_keeps n).1) _ _
  have cuts : ((List.range 8).foldl State.lose s).host.cuts = s.host.cuts :=
    foldl_keeps (π := fun t : State => t.host.cuts) (fun t n => (t.lose_keeps n).2.2) _ _
  have lost (k : Nat) (hk : k < 8) := State.strm_foldl_lose List.nodup_range (List.mem_range.2 hk) s
  rw [exec_pcieReset]
  generalize (List.range 8).foldl State.lose s = t at mem cuts lost ⊢
  refine ⟨_, rfl, rfl, rfl, rfl, mem, cuts, fun k hk => ?_⟩
  have spec := s.losing_spec k
  rwa [← lost k hk] at spec

/-- The state once a stream's loss, if it is owed, has been told. -/
def State.tell (s : State) (n : Nat) : State :=
  if (s.strm n).tellLost then (s.modStrm n (fun x => { x with tellLost := false })).postStream n 0x0306 0 else s

theorem State.tell_keeps (s : State) (n : Nat) : (s.tell n).mem = s.mem ∧ (s.tell n).host.linkUp = s.host.linkUp := by
  unfold State.tell
  split
  · have posted := (s.modStrm n fun x => { x with tellLost := false }).sameButRecords_event
      ((s.modStrm n fun x => { x with tellLost := false }).strm n).errVec.toNat 0x0306 0 n
    exact ⟨posted.frame.1, posted.linkUp⟩
  · exact ⟨rfl, rfl⟩

/-- Nothing is owed to a stream that has been told, and none that has been told is owed anything later. -/
theorem State.tell_strm (s : State) (n k : Nat) :
    ((s.tell n).strm n).tellLost = false ∧ ((s.strm k).tellLost = false → ((s.tell n).strm k).tellLost = false) := by
  have posted := (s.modStrm n fun x => { x with tellLost := false }).sameButRecords_event
    ((s.modStrm n fun x => { x with tellLost := false }).strm n).errVec.toNat 0x0306 0 n
  have told : (((s.modStrm n fun x => { x with tellLost := false }).postStream n 0x0306 0).strm n).tellLost = false := by
    rw [State.postStream, posted.strm, State.strm_modStrm]
  unfold State.tell
  split
  · refine ⟨told, fun hk => ?_⟩
    by_cases h : k = n
    · rw [h, told]
    · rw [State.postStream, posted.strm, State.strm_modStrm_ne _ _ h, hk]
  · next h => exact ⟨by simpa using h, fun hk => hk⟩

/-- Every stream reached has been told. -/
theorem State.foldl_tell_strm {l : List Nat} {k : Nat} (hk : k ∈ l) (s : State) : ((l.foldl State.tell s).strm k).tellLost = false := by
  induction l generalizing s with
  | nil => cases hk
  | cons n l ih =>
    rcases List.mem_cons.1 hk with rfl | hk
    · exact List.foldlRecOn (motive := fun t : State => (t.strm k).tellLost = false) l State.tell (s.tell_strm k k).1
        fun t ht n _ => (t.tell_strm n k).2 ht
    · exact ih hk _

theorem exec_pcieLinkUp_returns {s : State} (hl : s.host.linkUp = false) : exec .pcieLinkUp s =
    .next ((List.range 8).foldl State.tell { s with host := { s.host with linkUp := true } }) := by
  refine congrArg Host.Outcome.next ?_
  dsimp only
  rw [hl]
  rfl

theorem exec_pcieLinkUp_tells {s : State} (hl : s.host.linkUp = false) : ∃ t, exec .pcieLinkUp s = .next t ∧
    t.host.linkUp = true ∧ t.mem = s.mem ∧ ∀ k, k < 8 → (t.strm k).tellLost = false := by
  refine ⟨_, exec_pcieLinkUp_returns hl, ?_, ?_, fun k hk => ?_⟩
  · exact foldl_keeps (π := fun t : State => t.host.linkUp) (fun t n => (t.tell_keeps n).2) _ _
  · exact foldl_keeps (π := State.mem) (fun t n => (t.tell_keeps n).1) _ _
  · exact State.foldl_tell_strm (List.mem_range.2 hk) _

/-! ### A cut group applied (R63, R239) -/

/-- A host write to one line whose bytes the stream may store: it is of one piece, and meets no error where it is merged. -/
structure State.TakesWrite (s : State) (n : Nat) (w : Tlp) (pa : Nat) (leaf : Option Nat) : Prop where
  nonempty : 0 < w.bytes.length
  line : w.va % 128 + w.bytes.length ≤ 128
  allowed : ∀ i, i < w.bytes.length → s.hostStoreFault n (w.va + i) = none
  place : s.resolve (hostView n) .store w.va = .ok (.cell pa leaf)
  merge : s.mergeFault pa w.bytes.length leaf = none
  bank : s.bankHeld (pa / 128) = false

namespace State.TakesWrite
variable {s : State} {n : Nat} {w : Tlp} {pa : Nat} {leaf : Option Nat} (h : s.TakesWrite n w pa leaf)
include h

theorem segments : segments (w.bytes.length / 128 + 2) w.va w.bytes.length = [(w.va, w.bytes.length)] :=
  segments_one h.nonempty h.line

theorem tlpsHeld : s.tlpsHeld n [w] = [] := by
  simp [State.tlpsHeld, State.hostHeld, h.segments, h.place, State.rowHeld, h.bank]

theorem tlpFault : s.tlpFault n w = none := by
  have bytes : (List.range w.bytes.length).findSome? (fun i => s.hostStoreFault n (w.va + i)) = none :=
    List.findSome?_eq_none_iff.2 fun i hi => h.allowed i (List.mem_range.1 hi)
  simp [State.tlpFault, bytes, h.segments, State.hostMerge, h.place, h.merge]

theorem tlpParts : s.tlpParts n w = [(pa, w.bytes, leaf)] := by
  simp [State.tlpParts, h.segments, h.place]

/-- The group's time is above the RTS of the line. -/
theorem groupTime : s.groupTime n [w] = 1 + (s.line (pa / 128)).rts := by
  simp [State.groupTime, h.tlpFault, h.tlpParts]

end State.TakesWrite

theorem State.keepsHost_writtenBack (s : State) (line : Nat) :
    s.KeepsHost (s.writtenBack line) ∧ (s.writtenBack line).mem = s.mem := by
  unfold State.writtenBack
  extract_lets r
  split
  · exact ⟨(s.keepsHost_setLine _ _).trans (State.keepsHost_modCore _ _ fun _ => rfl), rfl⟩
  · exact ⟨.refl s, rfl⟩

theorem State.joinOutside_writes (s : State) (pa time : Nat) (bs : List Byte) (leaf : Option Nat) :
    s.KeepsHost (s.joinOutside pa time (offsets (pa % 128) bs) leaf) ∧
      (s.joinOutside pa time (offsets (pa % 128) bs) leaf).mem = Memory.setAll (Memory.dirtied s.mem leaf) pa bs := by
  unfold State.joinOutside
  extract_lets line
  split
  · exact ⟨s.keepsHost_join _ _ _ _, (s.keepsAgent_join pa time bs leaf).mem⟩
  · obtain ⟨kept, same⟩ := s.keepsHost_writtenBack line
    exact ⟨kept.trans (State.keepsHost_join _ _ _ _ _), by rw [((s.writtenBack line).keepsAgent_join pa time bs leaf).mem, same]⟩

theorem State.keepsHost_freshSectors (s : State) (n : Nat) (w : Tlp) :
    s.KeepsHost (s.freshSectors n w) ∧ (s.freshSectors n w).mem = s.mem := by
  unfold State.freshSectors
  refine ⟨.foldl (fun s p => ?_) _ s, foldl_keeps (π := State.mem) (fun t p => ?_) _ _⟩
  · dsimp only
    split
    · exact s.keepsHost_health _
    · exact .refl s
  · dsimp only
    split <;> rfl

theorem State.sameButHomes_noteTlps (s : State) (n : Nat) (w : Tlp) : s.SameButHomes (s.noteTlps n w) := by
  unfold State.noteTlps
  refine .foldl (fun s p => ?_) _ s
  dsimp only
  split
  · exact s.sameButHomes_noteTlb _ _
  · exact .refl s

theorem State.joinOutside_after {s t u : State} (kept : s.KeepsHost t) (same : t.mem = s.mem) (homes : t.SameButHomes u)
    (time pa : Nat) (bs : List Byte) (leaf : Option Nat) : s.KeepsHost (u.joinOutside pa time (offsets (pa % 128) bs) leaf) ∧
      (u.joinOutside pa time (offsets (pa % 128) bs) leaf).mem = Memory.setAll (Memory.dirtied s.mem leaf) pa bs := by
  obtain ⟨joined, mem⟩ := u.joinOutside_writes pa time bs leaf
  exact ⟨(kept.trans (.of_homes homes)).trans joined, by rw [mem, (State.KeepsAgent.of_homes homes).mem, same]⟩

/-- A write that a stream takes reaches memory, and touches neither the host's side nor a waiting agent. -/
theorem State.TakesWrite.applied {s : State} {n : Nat} {w : Tlp} {pa : Nat} {leaf : Option Nat} (h : s.TakesWrite n w pa leaf)
    (time : Nat) : s.KeepsHost (s.applyTlp n time w) ∧
      (s.applyTlp n time w).mem = Memory.setAll (Memory.dirtied s.mem leaf) pa w.bytes := by
  unfold State.applyTlp
  simp only [h.tlpFault, h.tlpParts, List.foldl_cons, List.foldl_nil]
  obtain ⟨fresh, freshMem⟩ := s.keepsHost_freshSectors n w
  have noted := (s.freshSectors n w).sameButHomes_noteTlps n w
  refine State.joinOutside_after fresh freshMem ?_ _ pa w.bytes leaf
  split
  · exact noted.trans (State.sameButHomes_fetchData _ _ _)
  · exact noted

theorem exec_hostGroupApplied_one {s : State} {c : Cut} {w : Tlp} {pa : Nat} {leaf : Option Nat} (hc : s.host.cuts = [c])
    (hw : c.who = s.inp.who) (ha : c.applied = false) (ht : c.tlps = [w]) (h : s.TakesWrite c.stream w pa leaf) :
    ∃ t, exec .hostGroupApplied s = .next t ∧ t.mem = Memory.setAll (Memory.dirtied s.mem leaf) pa w.bytes ∧
      t.host.cuts = if s.waitsHwin c.who then [{ c with applied := true, time := 1 + (s.line (pa / 128)).rts }] else [] := by
  obtain ⟨kept, mem⟩ := h.applied (1 + (s.line (pa / 128)).rts)
  refine ⟨_, rfl, ?_⟩
  simp only [hc, List.find?_cons, hw, ha, beq_self_eq_true, Bool.not_false, Bool.and_self, ne_eq, not_true_eq_false, if_false,
    ht, h.tlpsHeld, h.groupTime, List.foldl_cons, List.foldl_nil, List.isEmpty_nil, Bool.not_true, Bool.false_eq_true, kept.waits, kept.host]
  exact ⟨mem, by simp [State.hostServed, hw, ht]⟩

/-- Memory once the bytes of a write have joined: they are there, and all else stays but the page's dirty bit. -/
theorem Memory.get_written {m : List Host.Cell} (hm : Memory.wf m = true) (pa : Nat) (bs : List Byte) (leaf : Option Nat) :
    (∀ i, (h : i < bs.length) → Memory.get (Memory.setAll (Memory.dirtied m leaf) pa bs) (pa + i) = bs[i]) ∧
    ∀ y, y < pa ∨ pa + bs.length ≤ y → (∀ a, leaf = some a → y ≠ a + 6) →
      Memory.get (Memory.setAll (Memory.dirtied m leaf) pa bs) y = Memory.get m y := by
  refine ⟨fun i h => Memory.get_setAll_in (Memory.wf_dirtied hm leaf) h, fun y hy page => ?_⟩
  rw [Memory.get_setAll_out _ _ hy]
  unfold Memory.dirtied
  split
  · rfl
  · next a =>
    split
    · rfl
    · exact Memory.get_set_ne _ _ (page a rfl)

/-! ### Streams' registers (R58, R59) -/

@[simp] theorem State.modStrm_seq (s : State) (n : Nat) (f : Stream → Stream) (k : Nat) : (s.modStrm n f).seq k = s.seq k := rfl

/-- The writes of registers that act only while staging has room do nothing when it is full. -/
theorem exec_heldWrites {s : State} (hf : s.host.full = true) : ∀ i ∈ ([.registerWrite, .strmctlGo, .strmctlHalt, .streamRegWrite,
    .nqbaseWrite, .nqctlWrite, .nqheadWrite, .msixVectorUnmask] : List Instr), exec i s = .next s := by
  simp only [List.forall_mem_cons, List.not_mem_nil, false_implies, implies_true, and_true]
  refine ⟨?_, ?_, ?_, ?_, ?_, ?_, ?_, ?_⟩ <;> exact hostAct_of_full hf _

section Registers
variable {s : State} (hf : s.host.full = false)
include hf

theorem exec_strmctlGo_starts (h : (s.strm s.inp.n1).st = .idle ∨ (s.strm s.inp.n1).st = .fault) :
    exec .strmctlGo s = .next ((s.setSeq s.inp.n1 { s.seq s.inp.n1 with
      sc := { (s.seq s.inp.n1).sc with pc := (s.strm s.inp.n1).entry.extractLsb' 0 52, pend := [], just := 0 },
      wait := .none, woken := false, jwait := none, staging := 0#2048 }).modStrm s.inp.n1 fun x => { x with st := .run }) :=
  (hostAct_of_room hf _).trans (congrArg _ (if_pos h))

theorem exec_strmctlHalt_stops :
    exec .strmctlHalt s = .next ((s.setSeq s.inp.n1 { s.seq s.inp.n1 with
      wait := .none, jwait := none, sc := { (s.seq s.inp.n1).sc with pend := (s.seq s.inp.n1).sc.pend.filter (·.arrived) } }).modStrm
        s.inp.n1 fun x => { x with st := .idle }) :=
  hostAct_of_room hf _

theorem exec_streamRegWrite_refused (hx : (s.strm s.inp.n1).st = .run ∨ (s.strm s.inp.n1).st = .wait)
    (ho : s.inp.n2 = 0x08 ∨ s.inp.n2 = 0x10 ∨ s.inp.n2 = 0x18) :
    exec .streamRegWrite s = .next (s.setStrm s.inp.n1 { s.strm s.inp.n1 with refused := true }) := by
  refine (hostAct_of_room hf _).trans (congrArg _ ?_)
  dsimp only
  rw [if_neg (by omega), if_pos hx]

/-- A stream that does not run takes a value of its entry, its mailbox or its aperture. -/
theorem exec_streamRegWrite_takes (hx : (s.strm s.inp.n1).st = .idle ∨ (s.strm s.inp.n1).st = .fault) :
    (s.inp.n2 = 0x08 → exec .streamRegWrite s = .next (s.setStrm s.inp.n1 { s.strm s.inp.n1 with entry := s.inp.v })) ∧
    (s.inp.n2 = 0x10 → s.inp.v.extractLsb' 0 22 = 0#22 →
      exec .streamRegWrite s = .next (s.setStrm s.inp.n1 { s.strm s.inp.n1 with mbx := s.inp.v })) ∧
    (s.inp.n2 = 0x18 → s.inp.v.extractLsb' 0 31 = 0#31 →
      exec .streamRegWrite s = .next (s.setStrm s.inp.n1 { s.strm s.inp.n1 with ap := s.inp.v })) := by
  have stopped : ¬ ((s.strm s.inp.n1).st = .run ∨ (s.strm s.inp.n1).st = .wait) := by
    rcases hx with h | h <;> simp [h]
  have aligned {k : Nat} (h : s.inp.v.extractLsb' 0 k = 0#k) : s.inp.v.toNat % 2 ^ k = 0 := by
    simpa [BitVec.extractLsb'_toNat] using congrArg BitVec.toNat h
  refine ⟨fun ho => ?_, fun ho hv => ?_, fun ho hv => ?_⟩ <;> refine (hostAct_of_room hf _).trans (congrArg _ ?_) <;> dsimp only
  · rw [if_neg (by omega), if_neg stopped, if_pos ho]
  · rw [if_neg (by omega), if_neg stopped, if_neg (by omega), if_pos ho, if_pos (aligned hv)]
  · rw [if_neg (by omega), if_neg stopped, if_neg (by omega), if_neg (by omega), if_pos (aligned hv)]

end Registers

/-- A stream that runs is not started. -/
theorem exec_strmctlGo_running {s : State} (h : (s.strm s.inp.n1).st = .run ∨ (s.strm s.inp.n1).st = .wait) :
    exec .strmctlGo s = .next s := by
  have running : ¬ ((s.strm s.inp.n1).st = .idle ∨ (s.strm s.inp.n1).st = .fault) := by
    rcases h with h | h <;> simp [h]
  refine (congrArg (hostAct s) ?_).trans (hostAct_self s)
  exact if_neg running

/-! ### Notification queues and vectors (R65, R67) -/

/-- Where no stream holds a record back none is released. -/
theorem State.releaseBacklogs_quiet {s : State} (h : ∀ k, k < 8 → (s.strm k).backlog = []) : s.releaseBacklogs = s := by
  have none : (List.range 8).flatMap (fun n => (s.strm n).backlog.map fun r => (n, r)) = [] :=
    List.flatMap_eq_nil_iff.2 fun k hk => by rw [h k (List.mem_range.1 hk), List.map_nil]
  simp [State.releaseBacklogs, none]

theorem exec_nqbaseWrite_enabled {s : State} (he : (s.nq s.inp.n1).en = true) : exec .nqbaseWrite s = .next s :=
  (congrArg (hostAct s) (if_pos he)).trans (hostAct_self s)

theorem exec_nqbaseWrite_takes {s : State} (hf : s.host.full = false) (he : (s.nq s.inp.n1).en = false) :
    exec .nqbaseWrite s = .next (s.setNq s.inp.n1 { s.nq s.inp.n1 with base := s.inp.v &&& ~~~0xFFF#64 }) :=
  (hostAct_of_room hf _).trans (congrArg _ (if_neg (by simp [he])))

theorem exec_nqctlWrite_reserved {s : State} (h : 13 ≤ (s.inp.v.extractLsb' 26 4).toNat ∨ 1000 < (s.inp.v.extractLsb' 0 10).toNat) :
    exec .nqctlWrite s = .next s := by
  simp only [← fieldN_toNat] at h
  exact (congrArg (hostAct s) (if_pos (by tauto))).trans (hostAct_self s)

theorem exec_nqctlWrite_takes {s : State} (hf : s.host.full = false) (quiet : ∀ k, k < 8 → (s.strm k).backlog = [])
    (hl : (s.inp.v.extractLsb' 26 4).toNat ≤ 12) (hw : (s.inp.v.extractLsb' 0 10).toNat ≤ 1000)
    (he : (s.nq s.inp.n1).en = true → (s.inp.v.extractLsb' 26 4).toNat = (s.nq s.inp.n1).logSize) :
    exec .nqctlWrite s = .next (s.setNq s.inp.n1 { s.nq s.inp.n1 with
      en := s.inp.v.getLsbD 31, ovf := (s.nq s.inp.n1).ovf && !s.inp.v.getLsbD 30, logSize := (s.inp.v.extractLsb' 26 4).toNat,
      window := (s.inp.v.extractLsb' 0 10).toNat }) := by
  refine (hostAct_of_room hf _).trans (congrArg _ ?_)
  simp only [fieldN_toNat, bit_toNat]
  rw [if_neg (by rintro (h | h | ⟨e, ne⟩); exacts [by omega, by omega, ne (he e)])]
  exact State.releaseBacklogs_quiet quiet

theorem exec_nqheadWrite {s : State} (hf : s.host.full = false) (quiet : ∀ k, k < 8 → (s.strm k).backlog = []) :
    exec .nqheadWrite s = .next (
      if 2 ^ ((s.nq s.inp.n1).logSize + 4) < ((s.nq s.inp.n1).tail + 2 ^ 32 - s.inp.v.toNat % 2 ^ 32) % 2 ^ 32 then s
      else s.setNq s.inp.n1 { s.nq s.inp.n1 with head := s.inp.v.toNat % 2 ^ 32 }) := by
  refine (hostAct_of_room hf _).trans (congrArg _ ?_)
  exact ite_congr rfl (fun _ => rfl) fun _ => State.releaseBacklogs_quiet quiet

/-- The close of a vector's window sends its message, or marks it pending where the vector is masked. -/
theorem exec_msixWindowClose_closes {s : State} {c : Nat} (hc : (s.msix s.inp.n1).closes = some c) (ht : c ≤ s.now) :
    exec .msixWindowClose s =
      .next ((s.setMsix s.inp.n1 { s.msix s.inp.n1 with closes := none }).message s.inp.n1) := by
  refine congrArg Host.Outcome.next ?_
  simp only [hc, if_pos ht]

/-- A message of a vector leaves its window as it is; it is sent, or marked pending where the vector is masked. -/
theorem State.message_spec (s : State) (v : Nat) : ((s.message v).msix v).closes = (s.msix v).closes ∧
    ((s.msix v).masked = false → (s.message v).host.messages = s.host.messages ++ [v]) ∧
    ((s.msix v).masked = true → ((s.message v).msix v).pending = true ∧ (s.message v).host.messages = s.host.messages) := by
  cases h : (s.msix v).masked with
  | false =>
    obtain ⟨sent, same⟩ := State.message_sent h
    exact ⟨by rw [same], fun _ => sent, by simp⟩
  | true => simp [State.message_masked h]

/-- The unmasking of a vector sends the message that is pending. -/
theorem exec_msixVectorUnmask_sends {s : State} (hf : s.host.full = false) : ∃ t, exec .msixVectorUnmask s = .next t ∧
    (t.msix s.inp.n1).masked = false ∧ (t.msix s.inp.n1).pending = false ∧ t.host.messages =
      if (s.msix s.inp.n1).masked && (s.msix s.inp.n1).pending then s.host.messages ++ [s.inp.n1] else s.host.messages := by
  refine ⟨_, hostAct_of_room hf _, ?_⟩
  split
  · obtain ⟨sent, same⟩ := State.message_sent (v := s.inp.n1)
      (s := s.setMsix s.inp.n1 { s.msix s.inp.n1 with masked := false, pending := false }) (by simp)
    simp [sent, same]
  · simp

/-! ### The host's writes and the registers of its streams and queues (R58 to R68) -/

/-- A write that waits enters staging as the one before it leaves. -/
theorem exec_ingressStagingMove_admits {s : State} {w b : Tlp} (hs : s.host.staging = [w]) (hb : s.host.blocked = some b)
    (hl : b.bytes.length ≤ 2 ^ 20) (hw : w.stream = s.inp.n1)
    (hr : groupBytes (s.strm s.inp.n1).ingress + w.bytes.length ≤ 2 ^ 22) :
    ∃ t, exec .ingressStagingMove s = .next t ∧ t.host.staging = [b] ∧ t.host.blocked = none ∧
      (t.strm s.inp.n1).ingress = (s.strm s.inp.n1).ingress ++ [w] := by
  have room : groupBytes (s.moved s.inp.n1 w []).host.staging + b.bytes.length ≤ 2 ^ 20 := by
    change 0 + b.bytes.length ≤ 2 ^ 20
    omega
  have enters := State.unblock_enters (s := s.moved s.inp.n1 w []) hb room
  refine ⟨_, exec_ingressStagingMove_moves hs hw hr, ?_⟩
  rw [enters]
  exact ⟨rfl, rfl, s.ingress_moved s.inp.n1 w []⟩

/-- Settles O51: each clause by the lemma that says what the event does, and what a full staging holds back. -/
theorem hostWritesAndStreams : Obligations.HostWritesAndStreams := by
  unfold Obligations.HostWritesAndStreams
  refine ⟨fun s => ?_, fun s => ?_⟩ <;> dsimp only
  · refine ⟨fun hb hl h0 hr => ⟨fun hn ho hlen => ?_, fun hn ho hlen => ?_, fun hn ho hlen => ?_⟩, fun hb hl h0 hr hn ho hlen => ?_,
      exec_hostWriteTlp_down, fun hb => ⟨hostBehind_of_blocked hb _, hostBehind_of_blocked hb _,
        hostAct_of_full (HostSide.full_of_blocked hb) _⟩, fun w b hs hb hlen hw hr => exec_ingressStagingMove_admits hs hb hlen hw hr,
      fun w rest hb hs hw hr => ?_, fun t0 ht => ⟨fun h => ?_, exec_ingressStall_waits ht⟩, exec_pcieReset_loses s, exec_pcieLinkUp_tells,
      fun c w pa leaf hc hw ha ht h0 hlen _ allowed place hm merge bank _ => ?_⟩
    · exact exec_hostWriteTlp_staged hb hl (by rw [hn]; exact State.hostSpot_mailbox h0 ho hlen) hr
    · exact exec_hostWriteTlp_staged hb hl (by rw [hn]; exact State.hostSpot_aperture h0 ho hlen) hr
    · exact ⟨_, exec_hostWriteTlp_crosses hb hl (by rw [hn]; exact State.hostSpot_aperture_crosses ho hlen), s.dropWrite_keeps _ _⟩
    · exact exec_hostWriteTlp_blocks hb hl (by rw [hn]; exact State.hostSpot_aperture h0 ho hlen) hr
    · have free := State.unblock_of_free (s := s.moved s.inp.n1 w rest) hb
      exact ⟨_, exec_ingressStagingMove_moves hs hw hr, by rw [free]; exact ⟨rfl, s.ingress_moved _ w rest, rfl⟩⟩
    · exact ⟨_, exec_ingressStall_sets ht h, State.strm_setStrm _ _ _, rfl⟩
    · obtain ⟨t, run, mem, cuts⟩ := exec_hostGroupApplied_one hc hw ha ht ⟨h0, hlen, allowed, place, merge, bank⟩
      obtain ⟨written, others⟩ := Memory.get_written hm pa w.bytes leaf
      refine ⟨t, run, by rw [mem]; exact written, by rw [mem]; exact others, fun waits => ⟨_, by rw [cuts, if_pos waits], by omega⟩,
        fun waits => by simp [cuts, waits]⟩
  · refine ⟨exec_heldWrites, fun hf h => ?_, exec_strmctlGo_running, fun hf => ?_, exec_streamRegWrite_takes,
      exec_streamRegWrite_refused, exec_nqbaseWrite_takes, exec_nqbaseWrite_enabled, exec_nqctlWrite_takes, exec_nqctlWrite_reserved,
      fun hf quiet => ?_, fun c hc ht => ?_, exec_msixVectorUnmask_sends⟩
    · refine ⟨_, exec_strmctlGo_starts hf h, ?_⟩
      simp
    · refine ⟨_, exec_strmctlHalt_stops hf, ?_⟩
      simp
    · rw [exec_nqheadWrite hf quiet]
      exact ⟨fun h => by rw [if_neg (Nat.not_lt.2 h)], fun h => by rw [if_pos h]⟩
    · refine ⟨_, exec_msixWindowClose_closes hc ht, ?_⟩
      simpa using State.message_spec (s.setMsix s.inp.n1 { s.msix s.inp.n1 with closes := none }) s.inp.n1

end Sys2Proof.Machine
end

section
/-! PROOFS. Tasks and their points: what the end of points, of tasks and of dies leaves as it was, the entries of the table
under their changes, and the statement about SPAWN, CANCELJ, PHASE and OPREQ (spec/04_tasks.md R79 to R92,
spec/06_energy.md R120, spec/09_memory.md R207, spec/13_isa_scalar.md R325 to R328). -/

namespace Sys2Proof.Machine

open Sys2Proof.Bits

/-! ### What the end of points and tasks leaves as it was (R88, R89, R91, R98) -/

/-- One state differs from another at most in the table, the bays with the rotation area, and the cores. -/
def State.SameButTasks (s t : State) : Prop :=
  t = { s with cores := t.cores, bays := t.bays, rotated := t.rotated, tab := t.tab }

namespace State.SameButTasks

theorem refl (s : State) : s.SameButTasks s := rfl

theorem trans {s t u : State} (h1 : s.SameButTasks t) (h2 : t.SameButTasks u) : s.SameButTasks u :=
  Eq.trans h2 (by rw [h1])

theorem foldl {β : Type} {f : State → β → State} (hf : ∀ (s : State) b, s.SameButTasks (f s b)) (l : List β) (s : State) :
    s.SameButTasks (l.foldl f s) :=
  List.foldlRecOn (motive := s.SameButTasks) l f (refl s) fun t ht b _ => ht.trans (hf t b)

variable {s t : State} (h : s.SameButTasks t)
include h

theorem bundle : t.bundle = s.bundle := by rw [h]
theorem host : t.host = s.host := by rw [h]
theorem pkg : t.pkg = s.pkg := by rw [h]

end State.SameButTasks

theorem State.sameButTasks_modTask (s : State) (id : Nat) (f : Task → Task) : s.SameButTasks (s.modTask id f) := rfl
theorem State.sameButTasks_modCore (s : State) (n : Nat) (f : Core → Core) : s.SameButTasks (s.modCore n f) := rfl
theorem State.sameButTasks_cancelCopies (s : State) (p : Copy → Bool) : s.SameButTasks (s.cancelCopies p) := rfl

theorem State.sameButTasks_dropPoint (s : State) (n : Nat) : s.SameButTasks (s.dropPoint n) := by
  unfold State.dropPoint
  split <;> exact rfl

theorem State.sameButTasks_cancelPoints (s : State) (id : Nat) : s.SameButTasks (s.cancelPoints id) := by
  refine .trans (t := s.pendOnTask id .cancel) rfl (.foldl (fun s n => ?_) _ _)
  dsimp only
  split
  · exact (s.sameButTasks_modCore n _).trans (State.sameButTasks_dropPoint _ n)
  · exact .refl s

theorem State.sameButTasks_settlePoints (s : State) (id : Nat) : s.SameButTasks (s.settlePoints id) := by
  unfold State.settlePoints
  split
  · exact .refl s
  · exact .foldl (fun s x => s.sameButTasks_modTask id _) _ s

theorem State.sameButTasks_discardRotated (s : State) (id : Nat) : s.SameButTasks (s.discardRotated id) := by
  unfold State.discardRotated
  split
  · exact .refl s
  · extract_lets out s1 s2
    have left : s.SameButTasks s2 := rfl
    exact left.trans (.foldl (fun s x => s.sameButTasks_modTask id _) _ s2)

theorem State.sameButTasks_haltTask (s : State) (id code : Nat) : s.SameButTasks (s.haltTask id code) := by
  have stopped : s.SameButTasks (s.stopTask id code) :=
    .trans (t := s.modTask id _) rfl (State.sameButTasks_discardRotated _ id)
  exact stopped.trans (.trans (t := (s.stopTask id code).cancelCopies _) rfl (State.sameButTasks_settlePoints _ id))

theorem State.sameButTasks_cancelTask (s : State) (t : Task) : s.SameButTasks (s.cancelTask t) := by
  unfold State.cancelTask
  split
  · exact .refl s
  · split
    · exact s.sameButTasks_modTask _ _
    · split
      · exact (s.sameButTasks_haltTask _ _).trans (State.sameButTasks_cancelPoints _ _)
      · exact s.sameButTasks_modTask _ _

theorem State.sameButTasks_unbindLost (s : State) (t : Task) (d : Nat) : s.SameButTasks (s.unbindLost t d) := by
  unfold State.unbindLost
  extract_lets lost on s1 s2 s3
  have freed : s1.SameButTasks s2 := by
    refine .foldl (fun s m => ?_) _ _
    exact .trans (t := s.setBay m.1 {}) rfl (.foldl (fun s n => s.sameButTasks_modCore n _) _ _)
  have rotated : s2.SameButTasks s3 := rfl
  exact (s.sameButTasks_cancelCopies _).trans (freed.trans (rotated.trans (s3.sameButTasks_modTask t.id _)))

theorem State.sameButTasks_taskLoses (s : State) (d : Nat) (t : Task) : s.SameButTasks (s.taskLoses d t) := by
  unfold State.taskLoses
  extract_lets claimed leader s1 s2
  have led : s.SameButTasks s2 := by
    unfold s2
    split
    · exact (s.sameButTasks_unbindLost t d).trans (s1.sameButTasks_modTask _ _)
    · exact s.sameButTasks_unbindLost t d
  split
  · exact led
  · split
    · exact led.trans (s2.sameButTasks_modTask _ _)
    · exact led.trans ((s2.sameButTasks_haltTask _ _).trans (State.sameButTasks_cancelPoints _ _))

/-- One state differs from another at most in swap buffers, the host's side and the command sequencers. -/
def State.SameButAnswers (s t : State) : Prop := t = { s with ctxs := t.ctxs, host := t.host, seqs := t.seqs }

namespace State.SameButAnswers

theorem refl (s : State) : s.SameButAnswers s := rfl

theorem trans {s t u : State} (h1 : s.SameButAnswers t) (h2 : t.SameButAnswers u) : s.SameButAnswers u :=
  Eq.trans h2 (by rw [h1])

theorem foldl {β : Type} {f : State → β → State} (hf : ∀ (s : State) b, s.SameButAnswers (f s b)) (l : List β) (s : State) :
    s.SameButAnswers (l.foldl f s) :=
  List.foldlRecOn (motive := s.SameButAnswers) l f (refl s) fun t ht b _ => ht.trans (hf t b)

variable {s t : State} (h : s.SameButAnswers t)
include h

theorem tab : t.tab = s.tab := by rw [h]
theorem bays : t.bays = s.bays := by rw [h]
theorem pow : t.pow = s.pow := by rw [h]
theorem pkg : t.pkg = s.pkg := by rw [h]

end State.SameButAnswers

theorem State.sameButAnswers_modBuf (s : State) (n a : Nat) (f : SwapBuf → SwapBuf) : s.SameButAnswers (s.modBuf n a f) := rfl
theorem State.sameButAnswers_modStrm (s : State) (n : Nat) (f : Stream → Stream) : s.SameButAnswers (s.modStrm n f) := rfl

theorem State.sameButAnswers_markRenames (s : State) (t : Task) : s.SameButAnswers (s.markRenames t) := by
  unfold State.markRenames
  split
  · exact .foldl (fun s a => s.sameButAnswers_modBuf _ _ _) _ s
  · exact .refl s

/-! ### Entries of the table (R74) -/

/-- An entry is found by its id. -/
theorem State.id_of_task {s : State} {id : Nat} {t : Task} (h : s.task id = some t) : t.id = id := by
  simpa using List.find?_some h

/-- A change that keeps the entries' ids reaches the entry with its id alone. -/
theorem State.task_modTask (s : State) (k id : Nat) {f : Task → Task} (hf : ∀ t, (f t).id = t.id) :
    (s.modTask k f).task id = (s.task id).map (fun t => if t.id = k then f t else t) := by
  have same : ((fun t : Task => t.id == id) ∘ fun t => if t.id = k then f t else t) = fun t => t.id == id := by
    funext t
    simp only [Function.comp]
    split <;> simp [hf]
  simp only [State.task, State.modTask, List.find?_map, same]

theorem State.task_modTask_self {s : State} {id : Nat} {t : Task} (h : s.task id = some t) {f : Task → Task}
    (hf : ∀ t, (f t).id = t.id) : (s.modTask id f).task id = some (f t) := by
  rw [State.task_modTask s id id hf, h, Option.map_some, if_pos (State.id_of_task h)]

/-! ### SPAWN and CANCELJ (R79, R89, R325, R326) -/

/-- An op that issues on a core has its effect there under its guard. -/
theorem coreOp_of_guard {g : BitVec 3} {s : State} (hg : s.pr g = true) (hm : s.mode ≠ .seq) (op : Nat) (k : State → State) :
    coreOp op g s k = .next (k s) := by
  rw [coreOp, anyOp_of_guard hg, if_neg hm]

/-- A record that fails a check answers with a status that is not 0 (R78). -/
theorem State.checkRecord_error_ne_zero {s : State} {n count e : Nat} {r : BitVec 2048} {tb : Tables} {swapOk : Nat → Nat → Bool}
    (h : s.checkRecord n count r tb swapOk = .error e) : e ≠ 0 := by
  unfold State.checkRecord at h
  split at h
  · cases h; decide
  · split at h
    · cases h; decide
    · split at h
      · cases h; decide
      · split at h
        · split at h
          · cases h; decide
          · split at h
            · cases h; decide
            · split at h
              · cases h; decide
              · split at h <;> cases h
                decide
        · cases h; decide

/-- An accepted record stands in the table as a task of its job (R74). -/
theorem State.mem_addTask (s : State) (n j : Nat) (r : BitVec 2048) (x : List Nat × List TileEnt × List TileEnt) :
    ∃ k ∈ (s.addTask n j r x id).1.tab.tasks, k.id = (s.addTask n j r x id).2 ∧ k.stream = n ∧ k.job = j := by
  unfold State.addTask State.enterTask
  rw [(State.sameButAnswers_markRenames _ _).tab]
  exact ⟨_, List.mem_append_right _ (List.mem_singleton_self _), rfl, rfl, rfl⟩

theorem State.submit_accepted {s t : State} {n j task : Nat} {r : BitVec 2048} {spawn : Bool}
    (h : s.submit n j r spawn = some (t, 0, task)) : ∃ k ∈ t.tab.tasks, k.id = task ∧ k.stream = n ∧ k.job = j := by
  unfold State.submit at h
  dsimp only at h
  split at h
  · next hst =>
    simp only [Option.some.injEq, Prod.mk.injEq] at h
    exact absurd h.2.1 hst
  · split at h
    · next e he =>
      simp only [Option.some.injEq, Prod.mk.injEq] at h
      exact absurd h.2.1 (State.checkRecord_error_ne_zero he)
    · next x _ =>
      split at h
      · simp only [Option.some.injEq, Prod.mk.injEq, true_and] at h
        obtain ⟨rfl, rfl⟩ := h
        exact State.mem_addTask _ n j r x
      · cases h

section Spawn
variable {s s1 : State} {g : BitVec 3} {a : BitVec 5} {bs : List Byte} (hg : s.pr g = true) (hm : s.mode ≠ .seq)
  (h256 : (s.xr a).toNat % 256 = 0) (h52 : (s.xr a).toNat < 2 ^ 52) (hl : s.load s.view (s.xr a).toNat 256 = .ok s1 (bs, none))
include hg hm h256 h52 hl

/-- SPAWN of a record that its load brings without a fault answers as the submission does. -/
theorem exec_spawn_answers (d : BitVec 5) {t : State} {status task : Nat}
    (h : s1.submit s1.stream s1.my.job (BitVec.ofNat 2048 (leNat bs)) true = some (t, status, task)) :
    exec (.spawn g d a) s = .next (t.putX d 6 (BitVec.ofNat 64 (status + task * 2 ^ 32))) := by
  change execSpawn g d a s = _
  rw [execSpawn, coreOp_of_guard hg hm]
  simp only [State.readRecord, h256, State.withEa, if_pos h52, hl, State.onGot, h, State.putStatus, submitWord]
  rfl

theorem exec_spawn_full (d : BitVec 5) (h : s1.submit s1.stream s1.my.job (BitVec.ofNat 2048 (leNat bs)) true = none) :
    exec (.spawn g d a) s = .next (s1.putX d 6 2#64) := by
  change execSpawn g d a s = _
  rw [execSpawn, coreOp_of_guard hg hm]
  simp only [State.readRecord, h256, State.withEa, if_pos h52, hl, State.onGot, h, State.putStatus, submitWord]
  rfl

end Spawn

theorem State.cancelJob_none {s : State} {n j : Nat} (h : s.job n j = none) : s.cancelJob n j = (s, 1) := by
  simp only [State.cancelJob, h]

/-- The cancel of an incomplete job answers 0, leaves the bundle, and leaves the job cancelled. -/
theorem State.cancelJob_some {s : State} {n j : Nat} {b : Job} (h : s.job n j = some b) :
    (s.cancelJob n j).2 = 0 ∧ (s.cancelJob n j).1.bundle = s.bundle ∧
      ∃ c, (s.cancelJob n j).1.job n j = some c ∧ c.cancelled = true := by
  simp only [State.cancelJob, h]
  split
  · next hc => exact ⟨rfl, rfl, b, h, hc⟩
  · have marked := State.job_modJob h fun b => { b with cancelled := true }
    have cancels (l : List Task) (u : State) : u.SameButTasks (l.foldl State.cancelTask u) :=
      .foldl (fun s t => s.sameButTasks_cancelTask t) l u
    refine ⟨rfl, ?_, { b with cancelled := true }, ?_, rfl⟩
    · rw [(cancels _ _).bundle, State.modJob_of_some h]
      rfl
    · rw [State.job, State.strm, (cancels _ _).host]
      exact marked

/-- An answer leaves the jobs as they were. -/
theorem State.job_putX (s : State) (d : BitVec 5) (lat : Nat) (v : W64) (n j : Nat) : (s.putX d lat v).job n j = s.job n j := by
  obtain ⟨-, -, hhost, -⟩ := s.putX_pends d lat v
  simp only [State.job, State.strm, hhost]

theorem exec_cancelj_of_guard {s : State} {g : BitVec 3} (hg : s.pr g = true) (d a : BitVec 5) :
    exec (.cancelj g d a) s = .next ((s.cancelJob s.stream ((s.xr a).extractLsb' 0 13).toNat).1.putX d 6
      (BitVec.ofNat 64 (s.cancelJob s.stream ((s.xr a).extractLsb' 0 13).toNat).2)) := by
  change execCancelj g d a s = _
  rw [execCancelj, anyOp_of_guard hg, fieldN_toNat]
  rfl

/-! ### PHASE and OPREQ (R120, R207, R327, R328) -/

/-- A result on its way leaves the carve-out as it was. -/
theorem State.carve_setScalar (s : State) (r : Scalar) :
    (s.setScalar r).my.pt.dslices = s.my.pt.dslices ∧ (s.setScalar r).my.pt.phaseBusy = s.my.pt.phaseBusy := by
  unfold State.setScalar
  split
  · next n h => exact ⟨rfl, rfl⟩
  · next n h =>
    have my (t : State) (ht : t.focus = s.focus) : t.my = t.core n := by rw [State.my, State.me, ht, h]
    rw [my (s.modCore n _) rfl, my s rfl, State.core_modCore]
    unfold Core.setScalar
    split <;> exact ⟨rfl, rfl⟩
  · next n h =>
    have my (t : State) (ht : t.focus = s.focus) : t.my = t.core n := by rw [State.my, State.me, ht, h]
    rw [my (s.modCore n _) rfl, my s rfl, State.core_modCore]
    exact ⟨rfl, rfl⟩

/-- A change of the agent's core that keeps its mode and its scalar registers. -/
theorem State.scalar_modMy (s : State) {f : Core → Core}
    (hf : ∀ c, (f c).frame = c.frame ∧ (f c).fr = c.fr ∧ (f c).pt.sc = c.pt.sc) : (s.modMy f).scalar = s.scalar := by
  have core (n : Nat) (h : s.me = n) : (s.modMy f).core n = f (s.core n) := by rw [← h]; exact s.core_modCore s.me f
  unfold State.scalar
  rw [State.modMy_focus]
  split
  · rfl
  · next n h =>
    obtain ⟨hframe, hfr, hsc⟩ := hf (s.core n)
    simp only [core n (by rw [State.me, h]), hframe, hfr, hsc]
  · next n h => simp only [core n (by rw [State.me, h]), (hf (s.core n)).2.2]

theorem State.foldl_zero (a : Nat → Nat) (k : Nat) (l : List Nat) (s : State) :
    ∃ mem health, l.foldl (fun s i => s.zero (a i) k) s = { s with mem := mem, health := health } := by
  induction l generalizing s with
  | nil => exact ⟨_, _, rfl⟩
  | cons i l ih =>
    obtain ⟨mem, health, h⟩ := ih (s.zero (a i) k)
    exact ⟨mem, health, h⟩

/-- A change of DSLICES begins a conversion, and leaves what the op reads and answers with (R207). -/
theorem State.carve_spec (s : State) (n : Nat) : (s.carve n).bundle = s.bundle ∧ (s.carve n).late = s.late ∧
    (s.carve n).scalar = s.scalar ∧ (s.carve n).my.pt.dslices = n ∧ (s.carve n).my.pt.phaseBusy = true := by
  unfold State.carve
  extract_lets c old up down fresh me s1
  obtain ⟨mem, health, zeroed⟩ := State.foldl_zero (fun i => vaultCell me (i * sliceBytes)) sliceBytes fresh s
  have zeroed : s1 = { s with mem := mem, health := health } := zeroed
  clear_value s1
  subst zeroed
  refine ⟨rfl, rfl, State.scalar_modMy _ fun c => ⟨rfl, rfl, rfl⟩, ?_, ?_⟩ <;> rw [State.my_modMy]

section Phase
variable {s : State} {g : BitVec 3} (hg : s.pr g = true) (hm : s.mode ≠ .seq) (d : BitVec 5) (n : BitVec 4) (m : BitVec 8)
include hg hm

theorem exec_phase_busy (h : s.my.pt.phaseBusy = true) :
    exec (.phase g d n m) s = .next (s.putX d (if m = 0#8 then 255 else m.toNat) 2#64) := by
  change execPhase g d n m s = _
  rw [execPhase, coreOp_of_guard hg hm]
  simp only [h, if_true]

theorem exec_phase_pinned (h : s.my.pt.phaseBusy = false) (hp : (List.range 8).any (fun i =>
    decide (s.my.pt.dslices ≤ i) && decide (i < min n.toNat 8) && s.slicePinned s.me i) = true) :
    exec (.phase g d n m) s = .next (s.putX d 1 1#64) := by
  change execPhase g d n m s = _
  rw [execPhase, coreOp_of_guard hg hm]
  simp only [h, hp, if_true, Bool.false_eq_true, if_false]

theorem exec_phase_carves (h : s.my.pt.phaseBusy = false) (hp : (List.range 8).any (fun i =>
    decide (s.my.pt.dslices ≤ i) && decide (i < min n.toNat 8) && s.slicePinned s.me i) = false) :
    exec (.phase g d n m) s = .next ((s.carve (min n.toNat 8)).lateCode.2.issue [{
      dest := .phase d 0#64
      togo := if m = 0#8 then 255 else m.toNat
      arrived := (s.carve (min n.toNat 8)).lateCode.1 == 0 }]) := by
  change execPhase g d n m s = _
  rw [execPhase, coreOp_of_guard hg hm]
  simp only [h, hp, Bool.false_eq_true, if_false, State.lateNext, bne, Bool.not_not]

end Phase

/-- Whether a late result comes is drawn from the list of what is to come alone. -/
theorem State.lateCode_eq (s : State) : ∃ late, s.lateCode.2 = { s with late := late } := by
  unfold State.lateCode
  split <;> exact ⟨_, rfl⟩

theorem State.lateCode_congr {s t : State} (h : t.late = s.late) : t.lateCode.1 = s.lateCode.1 := by
  unfold State.lateCode
  rw [h]
  split <;> rfl

/-- PHASE that changes the slices: its result is on its way, and its landing ends the conversion. -/
theorem State.phase_spec (s : State) (d : BitVec 5) (w arr : Nat) (arrived : Bool) :
    let t := (s.carve w).lateCode.2.issue [{ dest := .phase d 0#64, togo := arr, arrived := arrived }]
    t.bundle = s.bundle ∧ t.my.pt.dslices = w ∧ t.my.pt.phaseBusy = true ∧ t.scalar.pend = s.scalar.pend ++
      [{ dest := .phase d 0#64, togo := arr, arrived := arrived, slot := s.bundle.slot }] ∧
      (t.landOne (.phase d 0#64)).my.pt.phaseBusy = false := by
  obtain ⟨hbundle, -, hscalar, hslices, hbusy⟩ := s.carve_spec w
  obtain ⟨late, drawn⟩ := (s.carve w).lateCode_eq
  intro t
  refine ⟨?_, (State.carve_setScalar _ _).1.trans ?_, (State.carve_setScalar _ _).2.trans ?_, ?_,
    congrArg (fun c : Core => c.pt.phaseBusy) (State.my_modMy _ _)⟩
  · refine (State.setScalar_bundle _ _).trans ?_
    rw [drawn]; exact hbundle
  · rw [drawn]; exact hslices
  · rw [drawn]; exact hbusy
  · refine (congrArg Scalar.pend (State.scalar_setScalar _ _)).trans ?_
    rw [drawn]
    change (s.carve w).scalar.pend ++
      [{ dest := .phase d 0#64, togo := arr, arrived := arrived, slot := (s.carve w).bundle.slot }] = _
    rw [hscalar, hbundle]

/-- A task with the hint that an OPREQ asks for (R120, R328). -/
def Task.hinted (t : Task) (v : W64) : Task := { t with
  hint := if v.getLsbD 3 = true ∧ (v.extractLsb' 0 3).toNat < t.opts.length then some (v.extractLsb' 0 3).toNat else none }

theorem exec_opreq_hints {s : State} {g : BitVec 3} {a : BitVec 5} {id : Nat} {p : List Nat} (hg : s.pr g = true)
    (hm : s.mode ≠ .seq) (h : s.my.point = some (id, p)) : exec (.opreq g a) s = .next (s.modTask id (·.hinted (s.xr a))) := by
  change execOpreq g a s = _
  rw [execOpreq, coreOp_of_guard hg hm]
  simp only [h, bit_toNat, fieldN_toNat]
  rfl

/-- Settles O28: SPAWN answers as its submission does, and one accepted has entered the table; a cancel of a job reaches its
tasks alone and leaves the job marked; PHASE splits by a conversion running and by pinned lines. -/
theorem spawnCancelPhaseOpreq : Obligations.SpawnCancelPhaseOpreq := by
  unfold Obligations.SpawnCancelPhaseOpreq
  refine ⟨fun s g d a hg hm => ⟨fun s1 bs h256 h52 hl => ?_, ?_⟩, fun s g d a n m hg hm _ => ?_⟩
  · intro r
    refine ⟨fun t status task hr => ⟨exec_spawn_answers hg hm h256 h52 hl d hr, fun h0 => ?_⟩,
      exec_spawn_full hg hm h256 h52 hl d⟩
    subst h0
    exact State.submit_accepted hr
  · intro j
    obtain ⟨hbundle, hpend⟩ := (s.cancelJob s.stream j).1.putX_answer d (BitVec.ofNat 64 (s.cancelJob s.stream j).2)
    refine ⟨_, (s.cancelJob s.stream j).1.scalar.pend, exec_cancelj_of_guard hg d a, ?_⟩
    rw [hbundle, hpend, State.job_putX]
    cases h : s.job s.stream j with
    | none =>
      rw [State.cancelJob_none h]
      exact ⟨rfl, rfl, fun h => (by cases h)⟩
    | some b =>
      obtain ⟨hstatus, kept, marked⟩ := State.cancelJob_some h
      rw [hstatus, kept]
      exact ⟨rfl, rfl, fun _ => marked⟩
  · intro c arr pinned
    refine ⟨exec_phase_busy hg hm d n m, exec_phase_pinned hg hm d n m, fun hb hp => ?_, fun id p u hpoint hu => ?_⟩
    · rw [← State.lateCode_congr (s.carve_spec (min n.toNat 8)).2.1]
      exact ⟨_, exec_phase_carves hg hm d n m hb hp, s.phase_spec d (min n.toNat 8) arr _⟩
    · exact ⟨_, _, exec_opreq_hints hg hm hpoint, rfl, State.task_modTask_self hu fun _ => rfl, rfl⟩

end Sys2Proof.Machine
end

section
/-! PROOFS. The device's steps for tasks: the dispatchers' round, slabs, firing, heartbeats, the loss of a die and the
completion of a task, and the statement about them (spec/04_tasks.md R82 to R92, spec/05_frontier.md R100). -/

namespace Sys2Proof.Machine

open Sys2Proof.Bits

/-! ### A task that is placed stays placed while others are (R83, R85, R86) -/

/-- A task stands in the table and is placed. -/
def State.IsPlaced (s : State) (id : Nat) : Prop := ∃ t, s.task id = some t ∧ t.st = .placed

/-- Every task that was placed is placed. -/
def State.KeepsPlaced (s t : State) : Prop := ∀ id, s.IsPlaced id → t.IsPlaced id

namespace State.KeepsPlaced

theorem refl (s : State) : s.KeepsPlaced s := fun _ h => h

theorem trans {s t u : State} (h1 : s.KeepsPlaced t) (h2 : t.KeepsPlaced u) : s.KeepsPlaced u := fun id h => h2 id (h1 id h)

theorem foldl {β : Type} {f : State → β → State} (hf : ∀ (s : State) b, s.KeepsPlaced (f s b)) (l : List β) (s : State) :
    s.KeepsPlaced (l.foldl f s) :=
  List.foldlRecOn (motive := s.KeepsPlaced) l f (refl s) fun t ht b _ => ht.trans (hf t b)

theorem of_tasks {s t : State} (h : t.tab.tasks = s.tab.tasks) : s.KeepsPlaced t := by
  intro id
  simp only [State.IsPlaced, State.task, h]
  exact fun placed => placed

theorem of_tab {s t : State} (h : t.tab = s.tab) : s.KeepsPlaced t := .of_tasks (congrArg Table.tasks h)

end State.KeepsPlaced

theorem State.keepsPlaced_modTask (s : State) (k : Nat) {f : Task → Task} (hid : ∀ t, (f t).id = t.id)
    (hst : ∀ t, t.st = .placed → (f t).st = .placed) : s.KeepsPlaced (s.modTask k f) := by
  rintro id ⟨t, ht, hp⟩
  refine ⟨if t.id = k then f t else t, by rw [State.task_modTask s k id hid, ht]; rfl, ?_⟩
  split
  · exact hst t hp
  · exact hp

/-- A run of changes that leave the table leaves it. -/
theorem State.tab_foldl {β : Type} {f : State → β → State} (hf : ∀ (s : State) b, (f s b).tab = s.tab) (l : List β) (s : State) :
    (l.foldl f s).tab = s.tab :=
  List.foldlRecOn (motive := fun t : State => t.tab = s.tab) l f rfl fun t ht b _ => (hf t b).trans ht

theorem State.tab_emptyL1 (s : State) (n : Nat) : (s.emptyL1 n).tab = s.tab := by
  refine State.tab_foldl (fun s e => ?_) _ s
  have touched : (s.touchLine e.1).tab = s.tab := by rw [s.sameButHomes_touchLine e.1]
  exact touched

theorem State.tab_relocate (s : State) (src dst n : Nat) : (s.relocate src dst n).tab = s.tab := rfl

theorem State.tab_moveImages (s : State) (t : Task) (pb lbay : Nat) (out : Bool) : (s.moveImages t pb lbay out).tab = s.tab := by
  refine State.tab_foldl (fun s c => ?_) _ s
  extract_lets n move
  have moved (s : State) (a b len : Nat) : (move s a b len).tab = s.tab := by
    unfold move
    split
    · exact State.tab_relocate _ a b len
    · exact State.tab_relocate _ b a len
  exact (moved _ _ _ _).trans (moved s _ _ _)

theorem State.tab_newArea (s : State) (t : Task) : (s.newArea t).tab = s.tab :=
  State.tab_foldl (fun _ _ => by exact State.tab_foldl (fun _ _ => by rfl) _ _) _ _

theorem State.tab_requestStep (s : State) (pb : Nat) (vl : Bool) (req slow : Nat) : (s.requestStep pb vl req slow).tab = s.tab := by
  unfold State.requestStep
  dsimp only
  split <;> exact rfl

theorem State.tab_applyEntry (s : State) (id : Nat) : (s.applyEntry id).tab = s.tab := by
  unfold State.applyEntry
  split
  · rfl
  · refine State.tab_foldl (fun s pb => ?_) _ s
    dsimp only
    split
    · rfl
    · exact s.tab_requestStep _ _ _ _

theorem State.tab_modEng (s : State) (a : Agent) (rot : List Nat) (f : Engine → Engine) : (s.modEng a rot f).tab = s.tab := by
  unfold State.modEng
  split
  · rfl
  · split <;> rfl

theorem State.tab_reissueAll (s : State) (t : Task) (is : List Intent) : (s.reissueAll t is).tab = s.tab :=
  State.tab_foldl (fun s _ => s.tab_modEng _ _ _) is s

theorem State.tab_loadCask (s : State) (t : Task) (c : Cask) : (s.loadCask t c).tab = s.tab := by
  unfold State.loadCask
  extract_lets fv floor s1 s2 s3 vc
  have cores : s3.tab = s2.tab := State.tab_foldl (fun _ _ => by rfl) _ s2
  exact (State.tab_foldl (fun _ _ => by exact State.tab_foldl (fun _ _ => by rfl) _ _) _ s3).trans (cores.trans (s.tab_newArea t))

theorem State.keepsPlaced_bringIn (s : State) (t : Task) (pb lbay : Nat) : s.KeepsPlaced (s.bringIn t pb lbay) := by
  unfold State.bringIn
  split
  · exact .refl s
  · extract_lets s1 s2 s3 s4 s5
    have zeroed : s1.tab = s.tab := State.tab_foldl (fun _ _ => by rfl) _ s
    have moved : s2.tab = s1.tab := s1.tab_moveImages _ _ _ _
    have seated : s3.tab = s2.tab := State.tab_foldl (fun s n => by exact s.tab_emptyL1 n) _ s2
    clear_value s3
    have bound : s5.tab = s3.tab := rfl
    refine .trans (t := s5) (.of_tab (bound.trans <| seated.trans (moved.trans zeroed))) ?_
    exact s5.keepsPlaced_modTask _ (fun _ => rfl) fun _ h => h

theorem State.keepsPlaced_bindAll (s : State) (id : Nat) (bs : List (Nat × Nat)) : s.KeepsPlaced (s.bindAll id bs) := by
  refine .foldl (fun s e => ?_) bs s
  split
  · exact s.keepsPlaced_bringIn _ _ _
  · exact .refl s

theorem State.keepsPlaced_settlePoints (s : State) (id : Nat) : s.KeepsPlaced (s.settlePoints id) := by
  unfold State.settlePoints
  split
  · exact .refl s
  · refine .foldl (fun s x => ?_) _ s
    exact s.keepsPlaced_modTask id (fun _ => rfl) fun _ h => h

theorem State.keepsPlaced_loadTickets (s : State) (t : Task) (c : Cask) : s.KeepsPlaced (s.loadTickets t c) := by
  refine .foldl (fun s e => ?_) _ s
  extract_lets va s1
  have written : s1.tab = s.tab := by
    unfold s1
    split <;> rfl
  exact .trans (.of_tab written) (s1.keepsPlaced_modTask _ (fun _ => rfl) fun _ h => h)

theorem State.keepsPlaced_loadSwaps (s : State) (t : Task) (c : Cask) : s.KeepsPlaced (s.loadSwaps t c) := by
  refine .foldl (fun s b => ?_) _ s
  extract_lets x old b' s1
  have restored : s.KeepsPlaced s1 := .of_tasks rfl
  split
  · exact restored.trans (s1.keepsPlaced_modTask _ (fun _ => rfl) fun _ h => h)
  · exact restored

/-- What a placement does once its task is placed: its bays are bound and, for a resume, its cask is loaded. -/
theorem State.place_after (s : State) (t : Task) : ∃ u, s.KeepsPlaced u ∧ (∀ x, s.task t.id = some x → u.IsPlaced t.id) ∧
    u.KeepsPlaced (s.place t) := by
  unfold State.place
  extract_lets e bays tab s1 s2 t1 first s3
  refine ⟨s2, s1.keepsPlaced_modTask t.id (fun _ => rfl) fun _ _ => rfl, fun x hx =>
    ⟨_, State.task_modTask_self (s := s1) hx fun _ => rfl, rfl⟩, .trans (t := s3) ?_ (.of_tab (s3.tab_applyEntry _))⟩
  unfold s3
  split
  · have area : s2.KeepsPlaced first := .trans (t := s2.newArea t1) (.of_tab (s2.tab_newArea t1))
      (State.keepsPlaced_modTask _ _ (fun _ => rfl) fun _ h => h)
    exact area.trans (first.keepsPlaced_bindAll _ _)
  · next c _ =>
    extract_lets s4 s5
    have loaded : s2.KeepsPlaced s4 := .trans (t := s2.loadCask t1 c) (.of_tab (s2.tab_loadCask t1 c))
      (State.keepsPlaced_modTask _ _ (fun _ => rfl) fun _ h => h)
    have bound : s4.KeepsPlaced s5 := .trans (s4.keepsPlaced_bindAll _ _)
      (State.keepsPlaced_modTask _ _ (fun _ => rfl) fun _ h => h)
    refine (loaded.trans bound).trans (.trans (t := ((s5.loadSwaps t1 c).loadTickets t1 c).reissueAll t1 c.intents) ?_
      (State.keepsPlaced_settlePoints _ _))
    exact (s5.keepsPlaced_loadSwaps t1 c).trans (.trans (State.keepsPlaced_loadTickets _ t1 c)
      (.of_tab (State.tab_reissueAll _ t1 _)))

/-- The task placed is placed, and those placed before it stay so. -/
theorem State.keepsPlaced_place (s : State) (t : Task) : s.KeepsPlaced (s.place t) := by
  obtain ⟨u, before, -, after⟩ := s.place_after t
  exact before.trans after

theorem State.isPlaced_place {s : State} {t x : Task} (h : s.task t.id = some x) : (s.place t).IsPlaced t.id := by
  obtain ⟨u, -, placed, after⟩ := s.place_after t
  exact after _ (placed x h)

/-! ### The dispatchers' round (R85, R86) -/

theorem State.keepsPlaced_headRule (s : State) : s.KeepsPlaced s.headRule := .of_tasks rfl

theorem State.keepsPlaced_examine (sp : State × List Nat) (id : Nat) : sp.1.KeepsPlaced (State.examine sp id).1 := by
  unfold State.examine
  dsimp only
  split
  · exact .refl sp.1
  · next t _ =>
    split
    · exact .refl sp.1
    · split
      · refine (sp.1.keepsPlaced_place t).trans (.trans (.foldl (fun s p => ?_) _ _) (State.keepsPlaced_headRule _))
        exact s.keepsPlaced_modTask p (fun _ => rfl) fun _ h => h
      · exact .refl sp.1

theorem State.keepsPlaced_ungateFor (s : State) : s.KeepsPlaced s.ungateFor := by
  unfold State.ungateFor
  split
  · exact .refl s
  · exact .of_tab (State.tab_foldl (fun _ _ => by rfl) _ s)

theorem State.keepsPlaced_addBays (s : State) (id : Nat) : s.KeepsPlaced (s.addBays id) := by
  unfold State.addBays
  split
  · exact .refl s
  · split
    · exact .refl s
    · exact (s.keepsPlaced_bindAll id _).trans (.of_tab (State.tab_applyEntry _ id))

/-- The drain rule holds at most for the head of the order, where it did before the round. -/
theorem State.drainRule_headRule {s : State} {t : Task} {rest : List Task} (hr : s.readyOrder = t :: rest)
    (hd : s.tab.drainRule = none ∨ s.tab.drainRule = some t.id) :
    s.headRule.tab.drainRule = none ∨ s.headRule.tab.drainRule = some t.id := by
  unfold State.headRule
  rcases hd with hd | hd
  · simp only [hr, hd]
    split
    · exact .inr rfl
    · exact .inl rfl
  · simp [hr, hd]

/-- The first task examined is placed where it fits and no other task's drain rule holds. -/
theorem State.examine_fits {s : State} {t : Task} (ht : s.task t.id = some t) (hf : s.fits t = true)
    (hd : s.tab.drainRule = none ∨ s.tab.drainRule = some t.id) : State.examine (s, []) t.id = ((s.place t).headRule, []) := by
  have free : ¬ (s.tab.drainRule.isSome = true ∧ s.tab.drainRule ≠ some t.id) := by
    rcases hd with hd | hd <;> simp [hd]
  simp only [State.examine, ht, if_neg free, hf, if_true, List.foldl_nil]

theorem exec_dispatch_places {s : State} {t : Task} {rest : List Task} (hr : s.readyOrder = t :: rest) (ht : s.task t.id = some t)
    (hf : s.fits t = true) (hd : s.tab.drainRule = none ∨ s.tab.drainRule = some t.id) :
    ∃ u, exec .dispatch s = .next u ∧ u.IsPlaced t.id := by
  refine ⟨_, rfl, ?_⟩
  have order : s.headRule.readyOrder = t :: rest := hr
  have first : State.examine (s.headRule, []) t.id = ((s.headRule.place t).headRule, []) :=
    State.examine_fits ht hf (State.drainRule_headRule hr hd)
  have placed : (s.headRule.place t).headRule.IsPlaced t.id :=
    State.keepsPlaced_headRule _ _ (State.isPlaced_place (s := s.headRule) ht)
  have examined (ids : List Nat) (sp : State × List Nat) : sp.1.KeepsPlaced (ids.foldl State.examine sp).1 :=
    List.foldlRecOn (motive := fun sq => sp.1.KeepsPlaced sq.1) ids State.examine (.refl sp.1) fun sq h id _ =>
      h.trans (State.keepsPlaced_examine sq id)
  have round : (((s.headRule.readyOrder.map (·.id)).foldl State.examine (s.headRule, [])).1).IsPlaced t.id := by
    rw [order, List.map_cons, List.foldl_cons, first]
    exact examined _ _ _ placed
  exact State.KeepsPlaced.foldl (fun s id => s.keepsPlaced_addBays id) _ _ _ (State.keepsPlaced_ungateFor _ _ round)

/-! ### Slabs and firing (R82, R87, R100) -/

/-- A task whose leader has issued a slab with its claim (R87). -/
def Task.issued (t : Task) (k : Nat) (die : Option Nat) : Task := { t with slabs := t.slabs ++ [{ k := k, die := die }], next := k + 1 }

theorem exec_slabIssue_issues {s : State} {t : Task} (h : s.task s.inp.n1 = some t) (hp : t.st = .placed) (hf : t.freeze = none)
    (hs : t.stop = false) {k : Nat} (hn : nextSlab t.slabs t.slabs.length t.next = k) (hk : k < slabCount t.rcd)
    (ho : (t.slabs.filter (fun sl => sl.k % rNlbay t.rcd == k % rNlbay t.rcd && !sl.done)).length < 2) :
    exec .slabIssue s = .next (s.modTask s.inp.n1 fun u => u.issued k ((s.bayOf u.id (k % rNlbay t.rcd)).map dieOfBay)) := by
  subst hn
  change execSlabIssue s = _
  simp only [execSlabIssue, h]
  rw [if_pos ⟨hp, by rw [hf]; rfl, by rw [hs]; rfl, hk, ho⟩, State.id_of_task h]
  rfl

/-- A task with one more point in flight, which no slab owes any more (R100, R105). -/
def Task.fired (t : Task) (x : Flight) : Task := { t with
  fr := { t.fr with flight := insertFlight x t.fr.flight }
  slabs := t.slabs.map (fun sl => if sl.k = slabOf t.rcd x.coord then
    { sl with redo := sl.redo.filter (· != slabIndex t.rcd x.coord) } else sl) }

theorem mem_insertFlight {x y : Flight} {l : List Flight} (h : y ∈ l) : y ∈ insertFlight x l := by
  induction l with
  | nil => cases h
  | cons z l ih =>
    unfold insertFlight
    split
    · exact List.mem_cons_of_mem x h
    · rcases List.mem_cons.1 h with rfl | h
      · exact List.mem_cons_self
      · exact List.mem_cons_of_mem z (ih h)

/-- The point that a core may fire is of a task in the table. -/
theorem State.task_of_firesNext {s : State} {n : Nat} {t : Task} {p : List Nat} (h : s.firesNext n = some (t, p)) :
    s.task t.id = some t := by
  unfold State.firesNext at h
  dsimp only at h
  split at h
  · cases h
  · split at h
    · cases h
    · split at h
      · cases h
      · next u hu =>
        split at h
        · obtain ⟨q, -, he⟩ := Option.map_eq_some_iff.1 h
          cases he
          rw [State.id_of_task hu, hu]
        · cases h

theorem exec_pointFire_fires {s : State} {t : Task} {p : List Nat} (h : s.firesNext s.inp.n1 = some (t, p)) :
    exec .pointFire s = .next ((s.modCore s.inp.n1 (·.fire t p (s.strm t.stream).frameEntry)).modTask t.id
      (·.fired { coord := p, lbay := lbayOf t.rcd p, lcid := lcidOf t.rcd p })) := by
  change execPointFire s = _
  simp only [execPointFire, h]
  rfl

/-! ### Heartbeats and the loss of a die (R88) -/

theorem State.sameButFab_sendFrom {s t : State} {x : Nat} {f : Flit} (h : s.sendFrom x f = some t) : s.SameButFab t := by
  unfold State.sendFrom at h
  extract_lets on at h
  have sent {l : Nat} (h : on l = some t) : s.SameButFab t := by
    unfold on at h
    split at h
    · cases h; exact s.sameButFab_transmit _ _ _
    · cases h
  split at h
  · split at h
    · exact sent h
    · cases h; exact rfl
  · obtain ⟨l, -, h⟩ := Option.bind_eq_some_iff.1 h
    exact sent h

theorem State.sameButFab_sendBeat (s : State) (d hub : Nat) : s.SameButFab (s.sendBeat d hub) := by
  unfold State.sendBeat
  split
  · exact rfl
  · next h => exact (State.sameButFab_sendFrom h).trans rfl

/-- A die whose 10 µs are over: its heartbeat is counted, and the next is due (R88). -/
def State.beatDue (s : State) (d : Nat) : State := s.setDie d { s.die d with
  beatAt := some (s.now / 10), beat := false, missed := if (s.die d).beat then 0 else (s.die d).missed + 1 }

theorem exec_heartbeat_counts {s : State} (hd : s.inp.n1 < 10) (hp : (s.die s.inp.n1).power = .on)
    (hl : (s.die s.inp.n1).lost = false) (hb : (s.die s.inp.n1).beatAt ≠ some (s.now / 10)) : exec .heartbeat s = .next (if s.inp.ok then
      ((s.beatDue s.inp.n1).sendBeat s.inp.n1 10).sendBeat s.inp.n1 11 else s.beatDue s.inp.n1) := by
  change execHeartbeat s = _
  simp only [execHeartbeat]
  rw [if_pos ⟨hd, hp, by rw [hl]; rfl, hb⟩]
  rfl

/-- The count of a heartbeat changes its die and, where the next is sent, the fabric. -/
theorem State.sameButFab_beats (s : State) (d : Nat) (ok : Bool) :
    s.SameButFab (if ok then (s.sendBeat d 10).sendBeat d 11 else s) := by
  split
  · exact (s.sameButFab_sendBeat d 10).trans (State.sameButFab_sendBeat _ d 11)
  · exact rfl

theorem State.SameButFab.die {s t : State} (h : s.SameButFab t) (e : Nat) : t.die e = s.die e := by
  rw [h]; rfl

theorem exec_dieLost_loses {s : State} (hd : s.inp.n1 < 10) (hp : (s.die s.inp.n1).power = .on)
    (hl : (s.die s.inp.n1).lost = false) (hm : 3 ≤ (s.die s.inp.n1).missed) : exec .dieLost s = .next (s.loseNow s.inp.n1) := by
  change execDieLost s = _
  simp only [execDieLost]
  rw [if_pos ⟨hd, by rw [hl]; rfl, hp, .inl hm⟩]

/-- A die that is declared lost is fenced, and the others are as they were. -/
theorem State.pkg_loseNow (s : State) (d : Nat) : (s.loseNow d).pkg = (s.setDie d { s.die d with lost := true, missed := 0 }).pkg := by
  have loses (l : List Task) (u : State) : u.SameButTasks (l.foldl (fun s t => s.taskLoses d t) u) :=
    .foldl (fun s t => s.sameButTasks_taskLoses d t) l u
  exact (loses _ _).pkg.trans (State.post_pkg _ _ _)

/-! ### The completion of a task (R81, R91, R92) -/

theorem State.sameButAnswers_notify (s : State) (n : Nat) (r : Notif) : s.SameButAnswers (s.notify n r) := by
  unfold State.notify
  split
  · rw [(s.sameButRecords_putRecord r)]
    exact rfl
  · exact rfl

theorem State.sameButAnswers_formRecord (s : State) (n : Nat) (r : Notif) (hs : List Nat) : s.SameButAnswers (s.formRecord n r hs) := by
  unfold State.formRecord
  split
  · exact s.sameButAnswers_modStrm _ _
  · exact s.sameButAnswers_notify n r

theorem State.sameButAnswers_answerJwait (s : State) (n j code : Nat) : s.SameButAnswers (s.answerJwait n j code) := by
  unfold State.answerJwait
  dsimp only
  split <;> exact rfl

theorem State.sameButAnswers_finishJob (s : State) (n j : Nat) : s.SameButAnswers (s.finishJob n j) := by
  unfold State.finishJob
  split
  · exact .refl s
  · next b _ =>
    split
    · extract_lets s1 s2
      have formed : s1.SameButAnswers s2 := .foldl (fun s r => s.sameButAnswers_formRecord _ _ _) _ _
      exact (s.sameButAnswers_modStrm n _).trans (formed.trans (s2.sameButAnswers_answerJwait _ _ _))
    · exact .refl s

theorem State.sameButAnswers_modJob (s : State) (n j : Nat) (f : Job → Job) : s.SameButAnswers (s.modJob n j f) := by
  unfold State.modJob
  split
  · exact .refl s
  · exact s.sameButAnswers_modStrm n _

theorem Task.release_id (u t : Task) (now : Nat) : (u.release t now).id = u.id := by
  unfold Task.release
  dsimp only
  split <;> split <;> rfl

/-- No bay is bound to a task whose bays are free (R85). -/
theorem State.bound_freeBays (s : State) (id pb : Nat) : ((s.freeBays id).bay pb).bound.map Prod.fst ≠ some id := by
  have entries : (s.freeBays id).bays = s.bays.map (fun e =>
      (e.1, if e.2.bound.map Prod.fst = some id then { e.2 with bound := none } else e.2)) :=
    List.map_congr_left fun e _ => by split <;> rfl
  rw [State.bay, entries, find?_map (fun _ (b : Bay) => if b.bound.map Prod.fst = some id then { b with bound := none } else b)]
  cases find? s.bays pb with
  | none => simp
  | some b =>
    simp only [Option.map_some, Option.getD_some]
    split
    · simp
    · assumption

/-- A completed task has no entry and no bay, and the power command and the management cores are as they were. -/
theorem State.completeTask_spec (s : State) (t : Task) : (s.completeTask t).task t.id = none ∧
    (∀ pb, ((s.completeTask t).bay pb).bound.map Prod.fst ≠ some t.id) ∧ (s.completeTask t).pow = s.pow ∧
    (s.completeTask t).pkg = s.pkg := by
  unfold State.completeTask
  extract_lets code s1 s2 tab s3 s4 s5
  have published : s.SameButAnswers s1 := by
    refine .foldl (fun s a => ?_) _ s
    split
    · exact .refl s
    · split
      · exact .refl s
      · dsimp only
        split <;> exact rfl
  have answered : s3.SameButAnswers (s5.finishJob t.stream t.job) :=
    .trans (t := s4) (.foldl (fun s u => s.sameButAnswers_markRenames u) _ s3)
      ((s4.sameButAnswers_modJob _ _ _).trans (s5.sameButAnswers_finishJob _ _))
  refine ⟨?_, fun pb => ?_, answered.pow.trans published.pow, answered.pkg.trans published.pkg⟩
  · rw [State.task, answered.tab]
    refine List.find?_eq_none.2 fun u hu => ?_
    obtain ⟨v, hv, rfl⟩ := List.mem_map.1 hu
    rw [Task.release_id]
    simpa using (List.mem_filter.1 hv).2
  · rw [State.bay, answered.bays]
    exact s1.bound_freeBays t.id pb

theorem State.parkOver_of_other {s : State} {id : Nat} (h : id ∉ s.pow.waitTasks) (parked noSpace : Bool) :
    s.parkOver id parked noSpace = s := by
  have other : (!s.pow.waitTasks.contains id) = true := by simpa using h
  rw [State.parkOver, if_pos other]

theorem State.nextGate_of_nil {s : State} (h : s.pow.gateNext = []) : s.nextGate = s := by
  simp [State.nextGate, h]

theorem State.takeHeldCmds_of_nil {s : State} (h : s.pkg.mgmt.heldCmds = []) : s.takeHeldCmds = s := by
  rw [State.takeHeldCmds, h]
  rfl

/-- A task that is over completes, and nothing more follows where no command waits for it. -/
theorem exec_taskComplete_completes {s : State} {t : Task} (h : s.task s.inp.n1 = some t) (ho : s.taskOver t = true)
    (hp : s.mayPublish t = true) (hc : s.pkg.mgmt.heldCmds = []) (hg : s.pow.gateNext = []) (hw : s.inp.n1 ∉ s.pow.waitTasks) :
    exec .taskComplete s = .next (s.completeTask t) := by
  obtain ⟨-, -, pow, pkg⟩ := s.completeTask_spec t
  have hid : t.id = s.inp.n1 := State.id_of_task h
  change execTaskComplete s = _
  simp only [execTaskComplete, h]
  rw [if_pos ⟨ho, hp⟩, State.parkOver_of_other (by rw [pow, hid]; exact hw), State.nextGate_of_nil (by rw [pow]; exact hg),
    State.takeHeldCmds_of_nil (by rw [pkg]; exact hc)]

/-! ### The statement -/

/-- Settles O55: the head of the ready order is examined first and stays placed through the round; each other event is one
change of its task, its core or its die. -/
theorem tasksAndDies : Obligations.TasksAndDies := by
  unfold Obligations.TasksAndDies
  intro s d
  refine ⟨fun t rest hr ht _ hf hd => ?_, fun t ht hp hz hs hk ho => ?_, fun t p h => ?_,
    fun hd hp hl => ⟨fun hb => ?_, fun hm => ?_⟩, fun t ht ho hp hc hg hw => ?_⟩
  · obtain ⟨u, run, x, hx, placed⟩ := exec_dispatch_places hr ht hf hd
    exact ⟨u, x, run, hx, placed⟩
  · refine ⟨_, _, exec_slabIssue_issues ht hp hz hs rfl hk ho, State.task_modTask_self ht fun _ => rfl, rfl, rfl, rfl, ?_⟩
    rw [State.id_of_task ht]
    rfl
  · have fired := State.core_modCore s d (·.fire t p (s.strm t.stream).frameEntry)
    have others (m : Nat) (hm : m ≠ d) := State.core_modCore_ne s (·.fire t p (s.strm t.stream).frameEntry) hm
    exact ⟨_, _, exec_pointFire_fires h, congrArg Core.point fired, congrArg (·.pt.sc.pc) fired, congrArg (·.pt.sc.x) fired,
      congrArg Core.frame fired, (congrArg Core.peg fired).trans (congrArg Core.pt fired).symm, rfl,
      others, State.task_modTask_self (State.task_of_firesNext h) fun _ => rfl,
      fun y hy => mem_insertFlight hy⟩
  · have sent := (s.beatDue d).sameButFab_beats d s.inp.ok
    have beaten : (s.beatDue d).die d = _ := State.die_setDie s d _
    refine ⟨_, exec_heartbeat_counts hd hp hl hb, sent.frame.1, ?_, ?_, fun e he => ?_⟩ <;> rw [sent.die]
    · rw [beaten]
    · rw [beaten]
    · exact State.die_setDie_ne s _ he
  · have die (e : Nat) : (s.loseNow d).die e = (s.setDie d { s.die d with lost := true, missed := 0 }).die e := by
      exact congrArg (fun p : Package => (find? p.dies e).getD {}) (s.pkg_loseNow d)
    refine ⟨_, exec_dieLost_loses hd hp hl hm, ?_, ?_, fun e he => ?_⟩ <;> rw [die]
    · rw [State.die_setDie]
    · rw [State.die_setDie]
    · exact State.die_setDie_ne s _ he
  · obtain ⟨gone, free, -⟩ := s.completeTask_spec t
    rw [State.id_of_task ht] at gone free
    exact ⟨_, exec_taskComplete_completes ht ho hp hc hg hw, gone, free⟩

end Sys2Proof.Machine
end

section
/-! PROOFS. Gatings, drains and freezes: what each leaves of the power registers, the dies and the table
(spec/01_package.md R22, spec/02_links.md R42, spec/07_casks.md R164). -/

namespace Sys2Proof.Machine

open Sys2Proof.Bits

/-! ### The start of drains (R42) -/

/-- One state differs from another at most in the fabric and the table. -/
def State.SameButDrains (s t : State) : Prop := t = { s with fab := t.fab, tab := t.tab }

namespace State.SameButDrains

theorem refl (s : State) : s.SameButDrains s := rfl

theorem trans {s t u : State} (h1 : s.SameButDrains t) (h2 : t.SameButDrains u) : s.SameButDrains u :=
  Eq.trans h2 (by rw [h1])

theorem of_sameButFab {s t : State} (h : s.SameButFab t) : s.SameButDrains t := by rw [h]; rfl

variable {s t : State} (h : s.SameButDrains t)
include h

theorem pow : t.pow = s.pow := by rw [h]
theorem die (e : Nat) : t.die e = s.die e := by rw [h]; rfl
theorem gateable (d : Nat) : t.gateable d = s.gateable d := by rw [h]; rfl

end State.SameButDrains

theorem State.sameButFab_injectMarker (s : State) (num stamp : Nat) (m : Nat × Nat × Nat) :
    s.SameButFab (s.injectMarker num stamp m) := rfl

/-- A freeze that changes is still a freeze. -/
theorem State.freezing_modTask_map (s : State) (k id : Nat) (g : Freeze → Freeze) :
    ((s.modTask k fun t => { t with freeze := t.freeze.map g }).freezing id).isSome = (s.freezing id).isSome := by
  rw [State.freezing, State.task_modTask s k id (f := fun t => { t with freeze := t.freeze.map g }) fun _ => rfl, State.freezing]
  cases s.task id with
  | none => rfl
  | some t => by_cases hk : t.id = k <;> simp [hk]

/-- What the start of a drain leaves: it changes only the fabric and the freeze it is for, which stays a freeze, and the
drain that may have joined those in progress gates what it was started for. -/
theorem State.startDrain_spec (s : State) (routers : List Nat) (task gate : Option Nat) :
    s.SameButDrains (s.startDrain routers task gate) ∧
      (∀ x ∈ (s.startDrain routers task gate).fab.drains, x ∈ s.fab.drains ∨ x.gate = gate) ∧
      ∀ id, ((s.startDrain routers task gate).freezing id).isSome = (s.freezing id).isSome := by
  unfold State.startDrain
  split
  · exact ⟨.refl s, fun x hx => .inl hx, fun _ => rfl⟩
  · extract_lets n d fab s1 s2
    have injected : s1.SameButFab s2 := .foldl (fun s m => s.sameButFab_injectMarker n d.stamp m) _ s1
    have drains : s2.fab.drains = s.fab.drains ++ [d] :=
      foldl_keeps (π := fun t : State => t.fab.drains) (f := fun t m => t.injectMarker n d.stamp m) (fun _ _ => rfl) d.markers s1
    have same : s.SameButDrains s2 := .trans (t := s1) rfl (.of_sameButFab injected)
    have joined : ∀ x ∈ s2.fab.drains, x ∈ s.fab.drains ∨ x.gate = gate := fun x hx => by
      rw [drains] at hx
      exact (List.mem_append.1 hx).imp_right fun h => by rw [List.mem_singleton.1 h]
    have frozen (id : Nat) : s2.freezing id = s.freezing id := by
      rw [State.freezing, State.task, injected.frame.2.2]
      rfl
    cases task with
    | none => exact ⟨same, joined, fun id => by rw [frozen id]⟩
    | some k => exact ⟨same.trans rfl, joined, fun id => by rw [s2.freezing_modTask_map, frozen id]⟩

/-- What holds before and is kept by each start of a drain, for a freeze or for a die that is being gated, holds once the
drains that wait have started. -/
theorem State.startDrains_rec {P : State → Prop} {s : State} (h : P s)
    (freezes : ∀ u routers t, P u → P (u.startDrain routers (some t) none))
    (gates : ∀ u routers d, P u → (u.die d).power = .gating → P (u.startDrain routers none (some d))) : P s.startDrains := by
  refine List.foldlRecOn _ _ (List.foldlRecOn _ _ h fun u hu t _ => ?_) fun u hu d _ => ?_
  · split
    · split
      · exact freezes u _ _ hu
      · exact hu
    · exact hu
  · split
    · next hd => exact gates u _ d hu hd.1
    · exact hu

theorem State.sameButDrains_startDrains (s : State) : s.SameButDrains s.startDrains :=
  State.startDrains_rec (.refl s) (fun u r _ hu => hu.trans (u.startDrain_spec r _ _).1)
    fun u r _ hu _ => hu.trans (u.startDrain_spec r _ _).1

/-- The drains in progress once those that wait have started: those before, those of freezes, those of dies being gated. -/
theorem State.gate_of_mem_startDrains {s : State} {x : Drain} (hx : x ∈ s.startDrains.fab.drains) :
    x ∈ s.fab.drains ∨ ∀ g, x.gate = some g → (s.die g).power = .gating := by
  refine (State.startDrains_rec (P := fun u => s.SameButDrains u ∧ ∀ x ∈ u.fab.drains, x ∈ s.fab.drains ∨
    ∀ g, x.gate = some g → (s.die g).power = .gating) ⟨.refl s, fun x hx => .inl hx⟩ ?_ ?_).2 x hx
  · rintro u r t ⟨same, joined⟩
    obtain ⟨started, drains, -⟩ := u.startDrain_spec r (some t) none
    refine ⟨same.trans started, fun x hx => ?_⟩
    rcases drains x hx with h | h
    · exact joined x h
    · exact .inr fun g hg => by simp [h] at hg
  · rintro u r d ⟨same, joined⟩ hd
    obtain ⟨started, drains, -⟩ := u.startDrain_spec r none (some d)
    refine ⟨same.trans started, fun x hx => ?_⟩
    rcases drains x hx with h | h
    · exact joined x h
    · refine .inr fun g hg => ?_
      obtain rfl : d = g := by simpa [h] using hg
      rw [← same.die]
      exact hd

theorem State.freezing_startDrains (s : State) (id : Nat) : (s.startDrains.freezing id).isSome = (s.freezing id).isSome :=
  State.startDrains_rec (P := fun u => (u.freezing id).isSome = (s.freezing id).isSome) rfl
    (fun u r _ hu => ((u.startDrain_spec r _ _).2.2 id).trans hu) fun u r _ hu _ => ((u.startDrain_spec r _ _).2.2 id).trans hu

/-! ### The gating of a die (R22) -/

/-- What the Maltster's loop and its window keep in the power registers (R121, R124, R126). -/
structure LoopAccount where
  loopAt : Option Nat
  base : Rat
  budget : Rat
  winLoops : Nat
  winPower : Rat
  winBudget : Rat
  starts : List Nat

/-- What the loop has noted. -/
def Power.account (p : Power) : LoopAccount :=
  ⟨p.loopAt, p.base, p.budget, p.winLoops, p.winPower, p.winBudget, p.starts⟩

/-- The power registers once a die no longer waits to be gated; a command about it is over. -/
def Power.gateLeft (p : Power) (d : Nat) (ended : Bool) : Power :=
  if ended then { p with gateNext := p.gateNext.filter (· != d), busy := false, waitTasks := [], drainDie := none }
  else { p with gateNext := p.gateNext.filter (· != d) }

@[simp] theorem Power.gateLeft_account (p : Power) (d : Nat) (ended : Bool) : (p.gateLeft d ended).account = p.account := by
  unfold Power.gateLeft
  split <;> rfl

/-- What the loss of a die's contents leaves: the power registers, the table, the drains, and every die's own part. -/
theorem State.loseDie_spec (s : State) (d : Nat) : (s.loseDie d).pow = s.pow ∧ (s.loseDie d).tab = s.tab ∧
    (s.loseDie d).fab.drains = s.fab.drains ∧ (s.loseDie d).pkg = (s.clearDiodes d).pkg := by
  unfold State.loseDie
  extract_lets cores gone h s1 fab s2 s3 s4
  have vacated : s4 = { s3 with cores := s4.cores } :=
    List.foldlRecOn (motive := fun t : State => t = { s3 with cores := t.cores }) cores _ rfl fun t ht n _ => by rw [ht]; rfl
  have pow : s4.pow = s3.pow := by rw [vacated]
  have tab : s4.tab = s3.tab := by rw [vacated]
  have drains : s4.fab.drains = s3.fab.drains := by rw [vacated]
  have pkg : s4.pkg = s3.pkg := by rw [vacated]
  clear_value s4
  exact ⟨pow, tab, drains, pkg⟩

@[simp] theorem State.drains_rewriteRoutes (s : State) : s.rewriteRoutes.fab.drains = s.fab.drains := by
  unfold State.rewriteRoutes
  refine foldl_keeps (π := fun t : State => t.fab.drains) (fun s p => ?_) allPairs s
  refine foldl_keeps (π := fun t : State => t.fab.drains) (fun s ch => ?_) (List.range 4) s
  dsimp only
  split <;> rfl

@[simp] theorem State.drains_requestRate (s : State) (n step : Nat) : (s.requestRate n step).1.fab.drains = s.fab.drains := by
  unfold State.requestRate
  dsimp only
  split
  · rfl
  · split
    · rfl
    · rfl
    · split <;> rfl
    · rfl

@[simp] theorem State.drains_takeHeld (s : State) (n : Nat) : (s.takeHeld n).fab.drains = s.fab.drains := by
  unfold State.takeHeld
  dsimp only
  split
  · rfl
  · exact State.drains_requestRate _ n _

/-- The links of a gated die change no drain. -/
@[simp] theorem State.drains_gateLinks (s : State) (d : Nat) : (s.gateLinks d).fab.drains = s.fab.drains := by
  rw [State.gateLinks, State.drains_rewriteRoutes]
  exact foldl_keeps (π := fun t : State => t.fab.drains) (fun s n => by exact State.drains_takeHeld _ n) (linksOf d) s

/-- A die as it goes off: gated, or on to its ungating where a repair goes on. -/
def Die.off (x : Die) : Die := { x with power := if x.repair then .ungating else .gated, held := false, drained := false }

theorem Die.off_power (x : Die) : x.off.power ≠ .on ∧ x.off.power ≠ .gating := by
  unfold Die.off
  cases x.repair <;> simp

/-- A die goes off at an instant, and its links with it. -/
def State.putOff (s : State) (d : Nat) (x : Die) : State :=
  { s.setDie d x with pkg := { (s.setDie d x).pkg with lastGate := some s.tick } }.gateLinks d

theorem State.putOff_spec (s : State) (d : Nat) (x : Die) : (s.putOff d x).pow = s.pow ∧ (s.putOff d x).tab = s.tab ∧
    (s.putOff d x).fab.drains = s.fab.drains ∧ (s.putOff d x).die d = x ∧ ∀ e, e ≠ d → (s.putOff d x).die e = s.die e := by
  unfold State.putOff
  have linked := State.sameButFab_gateLinks { s.setDie d x with pkg := { (s.setDie d x).pkg with lastGate := some s.tick } } d
  exact ⟨linked.pow_eq, linked.frame.2.2, State.drains_gateLinks _ d, (linked.die d).trans (s.die_setDie d x),
    fun e he => (linked.die e).trans (s.die_setDie_ne x he)⟩

/-- The state as a die goes off: its contents are lost. -/
def State.dieOff (s : State) (d : Nat) : State := (s.loseDie d).putOff d (s.die d).off

theorem State.dieOff_spec (s : State) (d : Nat) : (s.dieOff d).pow = s.pow ∧ (s.dieOff d).tab = s.tab ∧
    (s.dieOff d).fab.drains = s.fab.drains ∧ (s.dieOff d).die d = (s.die d).off ∧ ∀ e, e ≠ d → (s.dieOff d).die e = s.die e := by
  obtain ⟨pow, tab, drains, lost⟩ := s.loseDie_spec d
  obtain ⟨pow', tab', drains', off, other⟩ := (s.loseDie d).putOff_spec d (s.die d).off
  unfold State.dieOff
  refine ⟨pow'.trans pow, tab'.trans tab, drains'.trans drains, off, fun e he => (other e he).trans ?_⟩
  rw [State.die, lost]
  rfl

/-- A die no longer waits to be gated. -/
def State.gateDropped (s : State) (d : Nat) : State := { s with pow := { s.pow with gateNext := s.pow.gateNext.filter (· != d) } }

/-- A die no longer waits to be gated, and a command about it is over. -/
def State.gateOver (s : State) (d : Nat) : State := { s with pow := s.pow.gateLeft d (s.commandOn d) }

theorem State.commandOn_gateDropped (s : State) (d : Nat) : (s.gateDropped d).commandOn d = s.commandOn d := rfl

theorem State.gateDropped_over (s : State) (d : Nat) :
    (if (s.gateDropped d).commandOn d then (s.gateDropped d).commandDone else s.gateDropped d) = s.gateOver d := by
  rw [s.commandOn_gateDropped, State.gateOver]
  cases s.commandOn d <;> rfl

/-- A gating is the loss of the die and, unless a repair goes on, its event and the end of what waits for it. -/
theorem State.gateNow_eq (s : State) (d : Nat) :
    s.gateNow d = if (s.die d).repair then s.dieOff d else ((s.dieOff d).post 0x0608 d).gateOver d := by
  unfold State.gateNow State.dieOff
  generalize s.loseDie d = l
  extract_lets x s1 pkg s2 s3 s4 pow s5
  have off : l.putOff d x.off = s3 := rfl
  rw [off]
  exact congrArg (fun u => if x.repair then s3 else u) (s4.gateDropped_over d)

/-- A die whose gating is given up keeps its power. -/
def Die.staysOn (x : Die) : Die :=
  { x with power := if x.power = .gating then .on else x.power, held := false, drained := false, repair := false }

/-- A gate command that is given up leaves its die powered; a command in progress about it is refused. -/
theorem State.giveUpGate_eq (s : State) (d reason : Nat) : s.giveUpGate d reason =
    (if (s.setDie d (s.die d).staysOn).commandOn d then (s.setDie d (s.die d).staysOn).refuse reason
      else s.setDie d (s.die d).staysOn).gateOver d := by
  have refused (u : State) : (u.refuse reason).commandOn d = u.commandOn d := rfl
  refine Eq.trans (b := if ((s.setDie d (s.die d).staysOn).gateDropped d).commandOn d then
    (((s.setDie d (s.die d).staysOn).gateDropped d).refuse reason).commandDone
    else (s.setDie d (s.die d).staysOn).gateDropped d) rfl ?_
  rw [State.commandOn_gateDropped]
  cases h : (s.setDie d (s.die d).staysOn).commandOn d with
  | true =>
    rw [if_pos rfl, if_pos rfl, State.gateOver, refused, h]
    rfl
  | false =>
    rw [if_neg Bool.false_ne_true, if_neg Bool.false_ne_true, State.gateOver, h]
    rfl

/-- A gating is a change about one die: it leaves the table, the drains, the other dies and what the loop has noted; the
registers of a command in progress that is not about the die stay as they are. -/
structure State.TouchesDie (s t : State) (d : Nat) : Prop where
  tab : t.tab = s.tab
  drains : t.fab.drains = s.fab.drains
  die : ∀ e, e ≠ d → t.die e = s.die e
  account : t.pow.account = s.pow.account
  pow : s.commandOn d = false → t.pow = { s.pow with gateNext := t.pow.gateNext }

namespace State.TouchesDie
variable {s t u : State} {d : Nat}

theorem of_pow (tab : t.tab = s.tab) (drains : t.fab.drains = s.fab.drains) (die : ∀ e, e ≠ d → t.die e = s.die e)
    (pow : t.pow = s.pow) : s.TouchesDie t d :=
  ⟨tab, drains, die, congrArg Power.account pow, fun _ => by rw [pow]⟩

theorem trans (h1 : s.TouchesDie t d) (h2 : t.TouchesDie u d) : s.TouchesDie u d where
  tab := h2.tab.trans h1.tab
  drains := h2.drains.trans h1.drains
  die e he := (h2.die e he).trans (h1.die e he)
  account := h2.account.trans h1.account
  pow h := by
    have kept := h1.pow h
    have on : t.commandOn d = false := by rw [State.commandOn, kept]; exact h
    exact (h2.pow on).trans (by rw [kept])

theorem freezing (h : s.TouchesDie t d) (id : Nat) : t.freezing id = s.freezing id := by
  rw [State.freezing, State.task, h.tab]
  rfl

end State.TouchesDie

theorem State.touchesDie_setDie (s : State) (d : Nat) (x : Die) : s.TouchesDie (s.setDie d x) d :=
  .of_pow rfl rfl (fun _ he => s.die_setDie_ne x he) rfl

theorem State.touchesDie_post (s : State) (d code detail : Nat) : s.TouchesDie (s.post code detail) d := by
  rw [s.post_eq]
  exact .of_pow rfl rfl (fun _ _ => rfl) rfl

theorem State.pow_post (s : State) (code detail : Nat) : (s.post code detail).pow = s.pow := by rw [s.post_eq]

theorem State.die_post (s : State) (code detail e : Nat) : (s.post code detail).die e = s.die e := by
  rw [State.die, State.post_pkg]
  rfl

theorem State.die_gateOver (s : State) (d e : Nat) : (s.gateOver d).die e = s.die e := rfl

theorem State.touchesDie_gateOver (s : State) (d : Nat) : s.TouchesDie (s.gateOver d) d :=
  ⟨rfl, rfl, fun _ _ => rfl, s.pow.gateLeft_account d _, fun h => by rw [State.gateOver, h]; rfl⟩

theorem State.touchesDie_gateNow (s : State) (d : Nat) : s.TouchesDie (s.gateNow d) d := by
  obtain ⟨pow, tab, drains, -, other⟩ := s.dieOff_spec d
  have off : s.TouchesDie (s.dieOff d) d := .of_pow tab drains other pow
  rw [s.gateNow_eq]
  split
  · exact off
  · exact off.trans ((State.touchesDie_post _ d _ _).trans (State.touchesDie_gateOver _ d))

theorem State.die_gateNow (s : State) (d : Nat) : (s.gateNow d).die d = (s.die d).off := by
  obtain ⟨-, -, -, off, -⟩ := s.dieOff_spec d
  rw [s.gateNow_eq]
  split
  · exact off
  · rw [State.die_gateOver, State.die_post]
    exact off

theorem State.touchesDie_giveUpGate (s : State) (d reason : Nat) : s.TouchesDie (s.giveUpGate d reason) d := by
  have stays := s.touchesDie_setDie d (s.die d).staysOn
  rw [s.giveUpGate_eq]
  refine .trans ?_ (State.touchesDie_gateOver _ d)
  split
  · next on => exact stays.trans ⟨rfl, rfl, fun _ _ => rfl, rfl, fun h => absurd on (ne_true_of_eq_false h)⟩
  · exact stays

theorem State.die_giveUpGate (s : State) (d reason : Nat) : (s.giveUpGate d reason).die d = (s.die d).staysOn := by
  rw [s.giveUpGate_eq]
  refine Eq.trans ?_ (s.die_setDie d (s.die d).staysOn)
  split <;> rfl

theorem State.touchesDie_gateDue (s : State) (d : Nat) : s.TouchesDie (s.gateDue d) d := by
  unfold State.gateDue
  split
  · exact s.touchesDie_giveUpGate d 4
  · split
    · exact s.touchesDie_gateNow d
    · exact s.touchesDie_setDie d _

/-! ### The end of drains (R42) -/

/-- A drain is over: the freeze it was for goes on. -/
def State.drainOver (s : State) (d : Drain) : State :=
  match d.task with
  | none => s.drainLeft d
  | some t => (s.drainLeft d).modTask t fun t =>
      { t with freeze := t.freeze.map fun f => if f.drain = some d.num then { f with drained := true } else f }

theorem State.drainOver_spec (s : State) (d : Drain) : s.SameButDrains (s.drainOver d) ∧
    (∀ x ∈ (s.drainOver d).fab.drains, x ∈ s.fab.drains) ∧ ∀ id, ((s.drainOver d).freezing id).isSome = (s.freezing id).isSome := by
  have fewer : ∀ x ∈ (s.drainLeft d).fab.drains, x ∈ s.fab.drains := fun x hx => List.mem_of_mem_filter hx
  unfold State.drainOver
  split
  · exact ⟨rfl, fewer, fun _ => rfl⟩
  · exact ⟨rfl, fewer, fun id => (s.drainLeft d).freezing_modTask_map _ id _⟩

theorem State.endDrain_eq_drainOver {d : Drain} (s : State) (hg : d.gate = none) : s.endDrain d = s.drainOver d := by
  cases ht : d.task <;> simp only [State.endDrain, State.drainOver, State.drainLeft, ht, hg]

theorem State.endDrain_eq_gateDue {d : Drain} {g : Nat} (s : State) (hg : d.gate = some g) :
    s.endDrain d = (s.drainOver d).gateDue g := by
  cases ht : d.task <;> simp only [State.endDrain, State.drainOver, State.drainLeft, ht, hg]

/-- What holds before and is kept by the start of the drains that wait, and by the end of each drain of a kind that is then in
progress, holds once the drains have run. -/
theorem State.runDrains_rec {P : State → Prop} {Q : Drain → Prop} {s : State} (h : P s)
    (starts : ∀ u, P u → P u.startDrains ∧ ∀ x ∈ u.startDrains.fab.drains, Q x)
    (ends : ∀ u x, P u → Q x → P (u.endDrain x)) : P s.runDrains := by
  have round (u : State) (hu : P u) : P ((u.startDrains.fab.drains.filter (fun d => d.markers.isEmpty)).foldl State.endDrain
      u.startDrains) := by
    obtain ⟨started, kind⟩ := starts u hu
    exact List.foldlRecOn _ _ started fun v hv x hx => ends v x hv (kind x (List.mem_of_mem_filter hx))
  unfold State.runDrains
  exact round _ (round s h)

theorem State.account_endDrain (s : State) (d : Drain) : (s.endDrain d).pow.account = s.pow.account := by
  have ended : (s.drainOver d).pow.account = s.pow.account := by rw [(s.drainOver_spec d).1.pow]
  cases hg : d.gate with
  | none => rw [s.endDrain_eq_drainOver hg, ended]
  | some g => rw [s.endDrain_eq_gateDue hg, (State.touchesDie_gateDue _ g).account, ended]

@[simp] theorem State.account_runDrains (s : State) : s.runDrains.pow.account = s.pow.account :=
  State.runDrains_rec (P := fun u => u.pow.account = s.pow.account) (Q := fun _ => True) rfl
    (fun u hu => ⟨by rw [u.sameButDrains_startDrains.pow]; exact hu, fun _ _ => trivial⟩)
    fun u x hu _ => (u.account_endDrain x).trans hu

/-- A freeze goes on while drains end. -/
theorem State.freezing_endDrain (s : State) (d : Drain) (id : Nat) :
    ((s.endDrain d).freezing id).isSome = (s.freezing id).isSome := by
  obtain ⟨-, -, frozen⟩ := s.drainOver_spec d
  cases hg : d.gate with
  | none => rw [s.endDrain_eq_drainOver hg, frozen]
  | some g => rw [s.endDrain_eq_gateDue hg, (State.touchesDie_gateDue _ g).freezing, frozen]

theorem State.freezing_runDrains (s : State) (id : Nat) : (s.runDrains.freezing id).isSome = (s.freezing id).isSome :=
  State.runDrains_rec (P := fun u => (u.freezing id).isSome = (s.freezing id).isSome) (Q := fun _ => True) rfl
    (fun u hu => ⟨(u.freezing_startDrains id).trans hu, fun _ _ => trivial⟩) fun u x hu _ => (u.freezing_endDrain x id).trans hu

/-! ### A power command during drains (R133) -/

/-- A power command goes on: its registers are as they were, and a die that it is about is not being gated. -/
structure State.Spares (p : Power) (s : State) : Prop where
  pow : s.pow = { p with gateNext := s.pow.gateNext }
  die : ∀ e, p.drainDie = some e → (s.die e).power ≠ .gating
  drains : ∀ e, p.drainDie = some e → ∀ x ∈ s.fab.drains, x.gate ≠ some e

namespace State.Spares
variable {p : Power} {s t : State} (h : s.Spares p)
include h

theorem of_same (pow : t.pow = s.pow) (die : ∀ e, t.die e = s.die e) (drains : ∀ x ∈ t.fab.drains, x ∈ s.fab.drains) :
    t.Spares p where
  pow := by rw [pow]; exact h.pow
  die e he := by rw [die]; exact h.die e he
  drains e he x hx := h.drains e he x (drains x hx)

theorem touches {g : Nat} (ht : s.TouchesDie t g) (hg : p.drainDie ≠ some g) : t.Spares p where
  pow := by
    have other : s.commandOn g = false := by
      rw [State.commandOn, h.pow]
      simp [hg]
    refine (ht.pow other).trans ?_
    rw [h.pow]
  die e he := by
    rw [ht.die e fun heq => hg (heq ▸ he)]
    exact h.die e he
  drains e he := by
    rw [ht.drains]
    exact h.drains e he

theorem startDrains : s.startDrains.Spares p where
  pow := by
    rw [s.sameButDrains_startDrains.pow]
    exact h.pow
  die e he := by
    rw [s.sameButDrains_startDrains.die]
    exact h.die e he
  drains e he x hx hg := by
    rcases State.gate_of_mem_startDrains hx with before | gated
    · exact h.drains e he x before hg
    · exact h.die e he (gated e hg)

theorem endDrain {d : Drain} (hd : ∀ e, p.drainDie = some e → d.gate ≠ some e) : (s.endDrain d).Spares p := by
  obtain ⟨same, fewer, -⟩ := s.drainOver_spec d
  have ended : (s.drainOver d).Spares p := h.of_same same.pow same.die fewer
  cases hg : d.gate with
  | none => rw [s.endDrain_eq_drainOver hg]; exact ended
  | some g =>
    rw [s.endDrain_eq_gateDue hg]
    exact ended.touches (State.touchesDie_gateDue _ g) fun hp => hd g hp hg

theorem runDrains : s.runDrains.Spares p :=
  State.runDrains_rec (P := State.Spares p) (Q := fun d => ∀ e, p.drainDie = some e → d.gate ≠ some e) h
    (fun _ hu => ⟨hu.startDrains, fun x hx e he => hu.startDrains.drains e he x hx⟩) fun _ _ hu hx => hu.endDrain hx

end State.Spares

/-! ### Freezes (R164) -/

@[simp] theorem State.account_startFreeze (s : State) (id : Nat) (f : Freeze) : (s.startFreeze id f).pow.account = s.pow.account := by
  unfold State.startFreeze
  split
  · rfl
  · rw [State.account_runDrains]
    rfl

theorem State.Spares.startFreeze {p : Power} {s : State} (h : s.Spares p) (id : Nat) (f : Freeze) : (s.startFreeze id f).Spares p := by
  unfold State.startFreeze
  split
  · exact h.of_same rfl (fun _ => rfl) fun _ hx => hx
  · exact State.Spares.runDrains (h.of_same rfl (fun _ => rfl) fun _ hx => hx)

/-- A task in the table is in a freeze once one has started. -/
theorem State.freezing_startFreeze {s : State} {id : Nat} {t : Task} (ht : s.task id = some t) (f : Freeze) :
    ((s.startFreeze id f).freezing id).isSome = true := by
  have frozen (g : Freeze) : ((s.modTask id fun t => { t with freeze := some g }).freezing id).isSome = true := by
    rw [State.freezing, State.task_modTask_self ht (f := fun t => { t with freeze := some g }) fun _ => rfl]
    rfl
  unfold State.startFreeze
  split
  · exact frozen _
  · rw [State.freezing_runDrains]
    exact frozen f

/-! ### Gate commands (R22, R133, R216) -/

@[simp] theorem State.account_carryGate (s : State) (d : Nat) : (s.carryGate d).pow.account = s.pow.account := by
  unfold State.carryGate
  split
  · exact (s.touchesDie_gateDue d).account
  · split
    · exact (s.touchesDie_giveUpGate d 4).account
    · rw [State.account_runDrains]
      rfl

@[simp] theorem State.account_startGate (s : State) (d : Nat) : (s.startGate d).pow.account = s.pow.account := by
  unfold State.startGate
  split
  · exact s.account_carryGate d
  · rfl

/-- What the move of pages leaves: the power registers, the package, and the time. -/
structure State.KeepsPower (s t : State) : Prop where
  pow : t.pow = s.pow
  pkg : t.pkg = s.pkg
  tick : t.tick = s.tick

namespace State.KeepsPower

theorem refl (s : State) : s.KeepsPower s := ⟨rfl, rfl, rfl⟩

theorem trans {s t u : State} (h1 : s.KeepsPower t) (h2 : t.KeepsPower u) : s.KeepsPower u :=
  ⟨h2.pow.trans h1.pow, h2.pkg.trans h1.pkg, h2.tick.trans h1.tick⟩

theorem foldl {β : Type} {f : State → β → State} (hf : ∀ (s : State) b, s.KeepsPower (f s b)) (l : List β) (s : State) :
    s.KeepsPower (l.foldl f s) :=
  List.foldlRecOn (motive := s.KeepsPower) l f (refl s) fun t ht b _ => ht.trans (hf t b)

end State.KeepsPower

theorem State.keepsPower_moveCells (s : State) (src dst n : Nat) : s.KeepsPower (s.moveCells src dst n) := ⟨rfl, rfl, rfl⟩
theorem State.keepsPower_relocate (s : State) (src dst n : Nat) : s.KeepsPower (s.relocate src dst n) := ⟨rfl, rfl, rfl⟩
theorem State.keepsPower_mapCores (s : State) (f : Core → Core) : s.KeepsPower (s.mapCores f) := ⟨rfl, rfl, rfl⟩

theorem State.keepsPower_moveFrame (s : State) (src dst bits : Nat) : s.KeepsPower (s.moveFrame src dst bits) := by
  unfold State.moveFrame
  extract_lets n line sec s1 h
  have moved : s.KeepsPower s1 := (s.keepsPower_moveCells src dst n).trans
    ((State.keepsPower_relocate _ src dst n).trans (State.keepsPower_mapCores _ _))
  clear_value s1
  exact moved.trans ⟨rfl, rfl, rfl⟩

theorem State.keepsPower_movePages (s : State) (d : Nat) : s.KeepsPower (s.movePages d) := by
  unfold State.movePages
  extract_lets leaves s1
  have cleared : s.KeepsPower s1 := ⟨rfl, rfl, rfl⟩
  split
  · exact cleared
  · extract_lets moved s2
    have rewritten : s1.KeepsPower s2 := .foldl (fun s l => by
      split <;> exact ⟨rfl, rfl, rfl⟩) _ s1
    refine cleared.trans (rewritten.trans (.foldl (fun s p => ?_) _ s2))
    exact .trans (t := { s with frames := s.frames ++ [(p.2.2, 2 ^ p.2.1)] }) ⟨rfl, rfl, rfl⟩ (State.keepsPower_moveFrame _ _ _ _)

@[simp] theorem State.account_moveAndGate (s : State) (d : Nat) : (s.moveAndGate d).pow.account = s.pow.account := by
  unfold State.moveAndGate
  split
  · rw [State.account_startGate, (s.keepsPower_movePages d).pow]
  · exact (s.touchesDie_giveUpGate d 6).account

@[simp] theorem State.account_nextGate (s : State) : s.nextGate.pow.account = s.pow.account := by
  unfold State.nextGate
  split
  · rfl
  · split
    · rfl
    · split
      · rfl
      · split
        · exact State.account_moveAndGate s _
        · rw [State.pow_post]
          exact (s.touchesDie_giveUpGate _ 6).account

end Sys2Proof.Machine
end

section
/-! PROOFS. The Maltster: the choice of entries, curtailment, its loop and the error band, and the statement about them
(spec/06_energy.md R113, R114, R121 to R129). -/

namespace Sys2Proof.Machine

open Sys2Proof.Bits

/-! ### The budget of the moment (R113, R114) -/

theorem State.budgetAt_of_none {s : State} (h : s.pow.inForce = none) : s.budgetAt = s.pow.defBudget := by
  simp only [State.budgetAt, h]

theorem nth_length_sub_one {α : Type} {l : List α} {a : α} (h : l.getLast? = some a) (d : α) : nth l (l.length - 1) d = a := by
  have hne : l ≠ [] := by rintro rfl; simp at h
  rw [nth_eq_getElem (Nat.sub_one_lt (List.length_pos_iff.2 hne).ne'), ← List.getLast_eq_getElem hne]
  rw [List.getLast?_eq_some_getLast hne] at h
  exact Option.some.inj h

/-- Once its every segment has started, a curve stands at its last point. -/
theorem Curve.valueAt_of_started {c : Curve} {q : Nat × Nat × Nat} {now : Nat} (hq : c.points.getLast? = some q)
    (h : ∀ x ∈ c.points, c.vfrom + x.1 ≤ now) : c.valueAt now = q.2.1 := by
  have all : c.points.filter (fun p => decide (c.vfrom + p.1 ≤ now)) = c.points :=
    List.filter_eq_self.2 fun x hx => decide_eq_true (h x hx)
  have last : c.segmentAt now = c.points.length - 1 := by rw [Curve.segmentAt, all]
  have none_after : c.points.drop (c.points.length - 1 + 1) = [] := List.drop_eq_nil_of_le (by omega)
  unfold Curve.valueAt
  simp only [last, nth_length_sub_one hq, none_after]

/-! ### The choice for a task (R121) -/

theorem margin_nonneg (b : Rat) : 0 ≤ margin b := le_max_of_le_right (by norm_num)

/-- What a task's choice spends over its floor entry: never less than nothing, and never more than is left. -/
theorem State.chooseFor_extra (s : State) (t : Task) (b left : Rat) :
    0 ≤ (oPwr (t.opt (s.chooseFor t b left)) : Rat) - (oPwr (t.opt (s.floorEnt t)) : Rat) ∧
      (0 ≤ left → (oPwr (t.opt (s.chooseFor t b left)) : Rat) - (oPwr (t.opt (s.floorEnt t)) : Rat) ≤ left) := by
  unfold State.chooseFor
  extract_lets f pwr
  cases h : (s.cands t).find? _ with
  | none => simp [f]
  | some e =>
    have chosen := List.find?_some h
    simp only [Bool.and_eq_true, decide_eq_true_eq] at chosen
    obtain ⟨above, affordable⟩ := chosen
    refine ⟨above, fun _ => ?_⟩
    split at affordable
    · simp only [Bool.and_eq_true, decide_eq_true_eq] at affordable
      exact (le_add_of_nonneg_right (margin_nonneg b)).trans affordable.2
    · simpa using affordable

/-! ### What the loop has noted during curtailment (R126 to R129) -/

theorem State.account_parkEach (s : State) (src : Nat) (enough : List Nat → Bool) (ts : List Task) (taken : List Nat) :
    (s.parkEach src enough ts taken).1.pow.account = s.pow.account := by
  induction ts generalizing s taken with
  | nil => rfl
  | cons t ts ih =>
    unfold State.parkEach
    split
    · rfl
    · split
      · rw [ih, State.pow_post]
      · rw [ih, State.account_startFreeze]

theorem State.account_gateEach (s : State) (taken ds : List Nat) (bytes : Nat) :
    (s.gateEach taken ds bytes).1.pow.account = s.pow.account := by
  induction ds generalizing s bytes with
  | nil => rfl
  | cons d ds ih =>
    unfold State.gateEach
    split
    · exact ih s bytes
    · dsimp only
      split
      · rw [ih]
        rfl
      · rw [ih, State.pow_post]

theorem State.keepsFabric_shedTask (s : State) (id : Nat) : s.KeepsFabric (s.shedTask id) := by
  refine .trans (.foldl (fun s n => ?_) _ s) (State.keepsFabric_haltTask _ id 2)
  split
  · exact s.keepsFabric_dropPoint n
  · exact .refl s

theorem State.pow_shedEach (s : State) (enough : List Nat → Bool) (ts : List Task) (taken : List Nat) :
    (s.shedEach enough ts taken).1.pow = s.pow := by
  induction ts generalizing s taken with
  | nil => rfl
  | cons t ts ih =>
    unfold State.shedEach
    split
    · rfl
    · rw [ih, (s.keepsFabric_shedTask t.id).pow]

theorem Responses.account_run (r : Responses) (grade : Nat) (base b : Rat) : (r.run grade base b).s.pow.account = r.s.pow.account := by
  unfold Responses.run
  extract_lets enough p parked g q
  split
  · rfl
  · split
    · exact (State.account_gateEach _ _ _ _).trans (State.account_parkEach _ _ _ _ _)
    · exact congrArg Power.account (State.pow_shedEach _ _ _ _)

/-- An event that begins leaves what the loop has noted. -/
theorem State.account_curtail (s : State) (declared : Nat) (base b : Rat) :
    (s.curtail declared base b).pow.account = s.pow.account := by
  unfold State.curtail
  extract_lets s1 r0 r1 r2 r s2 e
  have posted : s1.pow.account = s.pow.account := by rw [State.pow_post]
  have asked : r1.s.pow.account = s1.pow.account := by
    unfold r1
    split
    · exact Responses.account_run _ _ _ _
    · rfl
  have answered : r.s.pow.account = r1.s.pow.account := (r2.account_run 3 base b).trans (r1.account_run 2 base b)
  have told : s2.pow.account = r.s.pow.account := by
    unfold s2
    split
    · rw [State.pow_post]
    · rfl
  rw [State.account_nextGate]
  exact told.trans (answered.trans (asked.trans posted))

/-! ### The loop (R121) -/

/-- A step request changes its bay's rail and step alone. -/
theorem State.requestStep_eq_setBp (s : State) (pb : Nat) (vl : Bool) (req slow : Nat) :
    ∃ b, s.requestStep pb vl req slow = s.setBp pb b := by
  unfold State.requestStep
  dsimp only
  split <;> exact ⟨_, rfl⟩

theorem State.resettleAll_keeps (s : State) : s.resettleAll.pow = s.pow ∧ s.resettleAll.tick = s.tick := by
  refine List.foldlRecOn (motive := fun t : State => t.pow = s.pow ∧ t.tick = s.tick) _ _ ⟨rfl, rfl⟩ fun t ht e _ => ?_
  unfold State.retry State.resettle
  dsimp only
  split
  · obtain ⟨b, hb⟩ := t.requestStep_eq_setBp e.1 (t.bp e.1).reqVl (t.bp e.1).reqStep (t.bp e.1).slow
    rw [hb]
    exact ht
  · exact ht

theorem State.pow_applyEntry (s : State) (id : Nat) : (s.applyEntry id).pow = s.pow := by
  unfold State.applyEntry
  split
  · rfl
  · refine foldl_keeps (π := State.pow) (fun s pb => ?_) _ s
    dsimp only
    split
    · rfl
    · obtain ⟨b, hb⟩ := s.requestStep_eq_setBp pb _ _ _
      rw [hb]
      rfl

theorem State.pow_setEntry (s : State) (id choice : Nat) : (s.setEntry id choice).pow = s.pow := by
  unfold State.setEntry
  split
  · rfl
  · dsimp only
    split <;> exact State.pow_applyEntry _ id

theorem State.pow_chooseAll (s : State) (b left : Rat) (ids : List Nat) : (s.chooseAll b left ids).pow = s.pow := by
  induction ids generalizing s left with
  | nil => rfl
  | cons id ids ih =>
    unfold State.chooseAll
    split
    · exact ih s left
    · rw [ih, State.pow_setEntry]

theorem State.pow_resumeOne (s : State) : s.resumeOne.pow = s.pow := by
  unfold State.resumeOne
  extract_lets waiting s1 ready
  split
  · rfl
  · extract_lets s2
    split
    · exact (s2.sameButAnswers_markRenames _).pow
    · rfl

theorem Power.account_noteStarts (p : Power) (now : Nat) :
    { p.noteStarts now with starts := [] }.account = { p with starts := [] }.account := by
  unfold Power.noteStarts
  split <;> rfl

/-- The end of a loop: it counts into the band window. -/
def State.countLoop (s : State) (m b : Rat) : State :=
  { s with pow := { s.pow with
    winLoops := s.pow.winLoops + 1, winPower := s.pow.winPower + m, winBudget := s.pow.winBudget + b,
    winEvent := s.pow.winEvent || s.pow.event.isSome, winTop := s.pow.winTop && s.atTop } }

theorem State.account_countLoop (s : State) (m b : Rat) : (s.countLoop m b).pow.account =
    { s.pow.account with
      winLoops := s.pow.account.winLoops + 1, winPower := s.pow.account.winPower + m, winBudget := s.pow.account.winBudget + b } := rfl

/-- A loop that is due notes its instant, the base and the budget, takes the segments that have started, and counts. -/
theorem exec_maltsterLoop_due {s : State} (h : ¬ (s.tick % 1000 ≠ 0 ∨ s.pow.loopAt = some (s.now / 10))) :
    ∃ t, exec .maltsterLoop s = .next t ∧ t.pow.account =
      { loopAt := some (s.now / 10), base := (s.inp.n1 : Rat) / 1000 - (s.cntSum : Rat), budget := s.budgetAt,
        winLoops := s.pow.winLoops + 1, winPower := s.pow.winPower + (s.inp.n1 : Rat) / 1000,
        winBudget := s.pow.winBudget + s.budgetAt, starts := [] } := by
  change ∃ t, execMaltsterLoop s = .next t ∧ _
  unfold execMaltsterLoop
  rw [if_neg h]
  extract_lets m b order base need s1 p1 s2 s3 p3 grades s4 s5 s6 p6 s7 p7
  obtain ⟨settled, time⟩ : s1.pow = s.pow ∧ s1.tick = s.tick := s.resettleAll_keeps
  have chosen : s3.pow = s2.pow := s2.pow_chooseAll _ _ _
  have noted : s4.pow.account = ⟨some (s.now / 10), base, b, s.pow.winLoops, s.pow.winPower, s.pow.winBudget, []⟩ := by
    refine (Power.account_noteStarts s3.pow s3.now).trans ?_
    rw [chosen]
    change (⟨some (s1.tick / 100 / 10), base, b, s1.pow.winLoops, s1.pow.winPower, s1.pow.winBudget, []⟩ : LoopAccount) = _
    rw [settled, time]
    rfl
  have curtailed : s5.pow.account = s4.pow.account :=
    foldl_keeps (π := fun t : State => t.pow.account) (fun s g => s.account_curtail g base b) grades s4
  have overdrawn : s6.pow.account = s5.pow.account := by
    unfold s6
    split
    · exact s5.account_curtail 0 base b
    · rfl
  have resumed : s7.pow.account = s6.pow.account := by
    change (State.resumeOne _).pow.account = _
    rw [State.pow_resumeOne]
    rfl
  refine ⟨s7.countLoop m b, rfl, ?_⟩
  rw [State.account_countLoop, resumed, overdrawn, curtailed, noted]

/-! ### The end of an event (R126) -/

theorem exec_curtailmentEnd (s : State) : exec .curtailmentEnd s = execCurtailmentEnd s := rfl

/-- An event is over once its interval has passed and the casks of its park are written. -/
theorem exec_curtailmentEnd_ends {s : State} {e : Curtail} (he : s.pow.event = some e) (hend : e.ends ≤ 20000 * s.tick)
    (hpark : e.deepest = 2 → ∀ id ∈ e.tried, s.freezing id = none) :
    exec .curtailmentEnd s = .next { s with pow := { s.pow with event := none } } := by
  rw [exec_curtailmentEnd, execCurtailmentEnd, he]
  dsimp only
  rw [if_pos]
  refine ⟨by omega, ?_⟩
  by_cases h2 : e.deepest = 2
  · simpa [h2] using hpark h2
  · simp [h2]

theorem exec_curtailmentEnd_early {s : State} {e : Curtail} (he : s.pow.event = some e) (h : 20000 * s.tick < e.ends) :
    exec .curtailmentEnd s = .next s := by
  rw [exec_curtailmentEnd, execCurtailmentEnd, he]
  dsimp only
  rw [if_neg fun hend => absurd hend.1 (by omega)]

theorem exec_curtailmentEnd_parking {s : State} {e : Curtail} {id : Nat} (he : s.pow.event = some e) (hid : id ∈ e.tried)
    (h2 : e.deepest = 2) (hf : s.freezing id ≠ none) : exec .curtailmentEnd s = .next s := by
  have freezes : e.tried.any (fun id => (s.freezing id).isSome) = true :=
    List.any_eq_true.2 ⟨id, hid, Option.isSome_iff_ne_none.2 hf⟩
  rw [exec_curtailmentEnd, execCurtailmentEnd, he]
  dsimp only
  rw [if_neg fun hend => by simp [h2, freezes] at hend]

/-! ### The error band (R124) -/

/-- The half-width of the band about a target. -/
def bandWidth (target : Rat) : Rat := max (target / 50) 25

theorem bandWidth_pos (target : Rat) : 0 < bandWidth target := lt_max_of_lt_right (by norm_num)

/-- The state as a band window ends and the next one begins. -/
def State.nextWindow (s : State) : State :=
  { s with pow := { s.pow with
    pwrAvg := truncRat (s.pow.winPower / (s.pow.winLoops : Rat)) % 2 ^ 16, bandAt := s.now / 10000, winLoops := 0, winPower := 0,
    winBudget := 0, winEvent := s.pow.event.isSome, winTop := true } }

section Band
variable {s : State} {mean target : Rat} (hat : s.pow.bandAt < s.now / 10000) (hloops : s.pow.winLoops ≠ 0)
  (hmean : s.pow.winPower / (s.pow.winLoops : Rat) = mean) (htarget : s.pow.winBudget / (s.pow.winLoops : Rat) = target)
include hat hloops hmean htarget

/-- At the end of a window the excess or the shortfall of its mean is posted, unless it is exempt. -/
theorem exec_bandCheck_of_window : exec .bandCheck s = .next
    (if (decide (mean < target - bandWidth target) || decide (target + bandWidth target < mean)) &&
        !(s.pow.winEvent || (decide (mean < target - bandWidth target) && s.pow.winTop)) then
      s.nextWindow.post 0x0606 (boolN (decide (mean < target - bandWidth target)) * 2 ^ 15 +
        min (truncRat (if target ≤ mean then mean - target else target - mean)) 32767)
    else s.nextWindow) := by
  subst hmean htarget
  exact congrArg Host.Outcome.next (if_neg (not_or.2 ⟨by omega, hloops⟩))

theorem exec_bandCheck_exempt (h : (target - bandWidth target ≤ mean ∧ mean ≤ target + bandWidth target) ∨
    s.pow.winEvent = true ∨ (mean < target - bandWidth target ∧ s.pow.winTop = true)) :
    exec .bandCheck s = .next s.nextWindow := by
  rw [exec_bandCheck_of_window hat hloops hmean htarget, if_neg]
  rcases h with ⟨low, high⟩ | event | ⟨low, top⟩
  · simp [not_lt.2 low, not_lt.2 high]
  · simp [event]
  · simp [low, top]

theorem exec_bandCheck_below (hlow : mean < target - bandWidth target) (he : s.pow.winEvent = false) (ht : s.pow.winTop = false) :
    exec .bandCheck s = .next (s.nextWindow.post 0x0606 (2 ^ 15 + min (target - mean).floor.toNat 32767)) := by
  have below : ¬ target ≤ mean := by linarith [bandWidth_pos target]
  rw [exec_bandCheck_of_window hat hloops hmean htarget, if_pos (by simp [hlow, he, ht]), if_neg below, decide_eq_true hlow]
  rfl

theorem exec_bandCheck_above (hhigh : target + bandWidth target < mean) (he : s.pow.winEvent = false) :
    exec .bandCheck s = .next (s.nextWindow.post 0x0606 (min (mean - target).floor.toNat 32767)) := by
  have above : target ≤ mean := by linarith [bandWidth_pos target]
  have notLow : ¬ mean < target - bandWidth target := by linarith [bandWidth_pos target]
  rw [exec_bandCheck_of_window hat hloops hmean htarget, if_pos (by simp [hhigh, he, notLow]), if_pos above, decide_eq_false notLow]
  simp [boolN, truncRat]

end Band

/-! ### The statement -/

/-- Settles O46: a due loop keeps through choices, curtailment and resumes what it notes at its start, and counts at its end;
the choice takes the first candidate that what is left affords; a window's end posts by the side of the band. -/
theorem budgetLoop : Obligations.BudgetLoop := by
  unfold Obligations.BudgetLoop
  intro s p m
  refine ⟨fun ht hl => ?_, fun h => congrArg Host.Outcome.next (if_pos h), fun u b left hl _ => (s.chooseFor_extra u b left).2 hl,
    fun u b left => ?_, fun h => State.budgetAt_of_none h, fun c q hq h => Curve.valueAt_of_started hq h, fun e he => ?_,
    fun hat hloops => ?_⟩
  · obtain ⟨t, run, noted⟩ := exec_maltsterLoop_due (not_or.2 ⟨not_not.2 ht, hl⟩)
    exact ⟨t, run, congrArg LoopAccount.loopAt noted, congrArg LoopAccount.budget noted, congrArg LoopAccount.base noted,
      congrArg LoopAccount.winLoops noted, congrArg LoopAccount.winPower noted, congrArg LoopAccount.winBudget noted,
      congrArg LoopAccount.starts noted⟩
  · exact Nat.cast_le.1 (sub_nonneg.1 (s.chooseFor_extra u b left).1)
  · exact ⟨fun hend hpark => exec_curtailmentEnd_ends he hend hpark, fun h => exec_curtailmentEnd_early he h,
      fun id hid h2 hf => exec_curtailmentEnd_parking he hid h2 hf⟩
  · exact ⟨s.nextWindow, rfl, rfl, rfl, rfl, rfl, rfl, fun h => exec_bandCheck_exempt hat hloops rfl rfl h,
      fun hlow hev htop => exec_bandCheck_below hat hloops rfl rfl hlow hev htop,
      fun hhigh hev => exec_bandCheck_above hat hloops rfl rfl hhigh hev⟩

end Sys2Proof.Machine
end

section
/-! PROOFS. Power commands: which are carried out, refused, noted or held, and the statement about them
(spec/06_energy.md R133, spec/01_package.md R22, R28). -/

namespace Sys2Proof.Machine

open Sys2Proof.Bits

/-! ### The submission of a command (R28, R133) -/

/-- The state as a command is taken, with none in progress. -/
def State.taken (s : State) (code arg : Nat) : State :=
  { s with pow := { s.pow with cmdCode := code, cmdArg := arg, lastCode := code, reason := 0 } }

/-- While a command is in progress another is only noted. -/
theorem hostAct_submitCmd_of_busy {s : State} (hf : s.host.full = false) (hb : s.pow.busy = true) (code arg : Nat) :
    hostAct s (s.submitCmd code arg) = .next { s with pow := { s.pow with cmdCode := code, cmdArg := arg } } :=
  (hostAct_of_room hf _).trans (congrArg _ (if_pos hb))

/-- During a hand-over nothing that is held goes on. -/
theorem State.takeHeldCmds_of_moving {s : State} (h : s.pkg.mgmt.moving = true) : s.takeHeldCmds = s := by
  unfold State.takeHeldCmds
  cases hc : s.pkg.mgmt.heldCmds with
  | nil => rfl
  | cons e rest =>
    obtain ⟨code, arg⟩ := e
    simp only [List.length_cons, State.heldGo, hc, h, Bool.or_true, if_true]

/-- During a hand-over a command is held behind those before it. -/
theorem hostAct_submitCmd_of_moving {s : State} (hf : s.host.full = false) (hb : s.pow.busy = false)
    (hm : s.pkg.mgmt.moving = true) (code arg : Nat) :
    hostAct s (s.submitCmd code arg) = .next { s with
      pow := { s.pow with cmdCode := code, cmdArg := arg }
      pkg := { s.pkg with mgmt := { s.pkg.mgmt with heldCmds := s.pkg.mgmt.heldCmds ++ [(code, arg)] } } } := by
  have held : (s.pkg.mgmt.moving || !s.pkg.mgmt.heldCmds.isEmpty) = true := by rw [hm, Bool.true_or]
  refine (hostAct_of_room hf _).trans (congrArg _ ?_)
  refine (if_neg (ne_true_of_eq_false hb)).trans ((if_pos held).trans ?_)
  exact State.takeHeldCmds_of_moving hm

section Free
variable {s : State} (hf : s.host.full = false) (hb : s.pow.busy = false) (hm : s.pkg.mgmt.moving = false)
  (hc : s.pkg.mgmt.heldCmds = [])
include hf hb hm hc

/-- With no command in progress, none held and no hand-over, a command runs at once. -/
theorem hostAct_submitCmd_of_free (code arg : Nat) : hostAct s (s.submitCmd code arg) =
    .next ({ s with pow := { s.pow with cmdCode := code, cmdArg := arg } }.runCommand code arg) := by
  have free : ¬ (s.pkg.mgmt.moving || !s.pkg.mgmt.heldCmds.isEmpty) = true := by simp [hm, hc]
  exact (hostAct_of_room hf _).trans (congrArg _ ((if_neg (ne_true_of_eq_false hb)).trans (if_neg free)))

theorem exec_parktask_free : exec .parktask s = .next ((s.taken 1 (cmdArg s)).cmdParktask (cmdArg s)) :=
  hostAct_submitCmd_of_free hf hb hm hc 1 (cmdArg s)
theorem exec_resumetask_free : exec .resumetask s = .next ((s.taken 2 (cmdArg s)).cmdResumetask (cmdArg s)) :=
  hostAct_submitCmd_of_free hf hb hm hc 2 (cmdArg s)
theorem exec_gatedie_free : exec .gatedie s = .next ((s.taken 3 (cmdArg s)).cmdGatedie (cmdArg s)) :=
  hostAct_submitCmd_of_free hf hb hm hc 3 (cmdArg s)
theorem exec_ungatedie_free : exec .ungatedie s = .next ((s.taken 4 (cmdArg s)).cmdUngatedie (cmdArg s)) :=
  hostAct_submitCmd_of_free hf hb hm hc 4 (cmdArg s)
theorem exec_draindie_free : exec .draindie s = .next ((s.taken 5 (cmdArg s)).cmdDraindie (cmdArg s)) :=
  hostAct_submitCmd_of_free hf hb hm hc 5 (cmdArg s)
theorem exec_repairdie_free : exec .repairdie s = .next ((s.taken 6 (cmdArg s)).cmdRepairdie (cmdArg s)) :=
  hostAct_submitCmd_of_free hf hb hm hc 6 (cmdArg s)
theorem exec_repairlink_free : exec .repairlink s = .next ((s.taken 7 (cmdArg s)).cmdRepairlink (cmdArg s)) :=
  hostAct_submitCmd_of_free hf hb hm hc 7 (cmdArg s)

/-- A code that is none of the seven is refused. -/
theorem exec_pwrcmdBadCode_free (h : s.inp.n2 % 256 = 0 ∨ 7 < s.inp.n2 % 256) :
    exec .pwrcmdBadCode s = .next ((s.taken (s.inp.n2 % 256) (cmdArg s)).refuse 1) := by
  have bad : ¬ (1 ≤ s.inp.n2 % 256 ∧ s.inp.n2 % 256 ≤ 7) := by omega
  have none_of_seven (u : State) {code : Nat} (hcode : code = 0 ∨ 7 < code) (arg : Nat) :
      u.runCommand code arg = State.refuse { u with pow := { u.pow with lastCode := code, reason := 0 } } 1 := by
    unfold State.runCommand
    split
    case h_8 => rfl
    all_goals omega
  refine (congrArg (hostAct s) (if_neg bad)).trans ((hostAct_submitCmd_of_free hf hb hm hc _ _).trans ?_)
  rw [none_of_seven _ h]
  rfl

end Free

/-! ### The command in progress (R133) -/

/-- A command is in progress about a die, a link or neither, and none has been refused since it was submitted. -/
def State.Begun (s : State) (about : Option Nat) : Prop := s.pow.busy = true ∧ s.pow.drainDie = about ∧ s.pow.reason = 0

theorem State.Begun.of_pow {s t : State} {about : Option Nat} (h : s.Begun about) (pow : t.pow = s.pow) : t.Begun about := by
  rw [State.Begun, pow]
  exact h

section Begun
variable {s : State} (hr : s.pow.reason = 0) (about : Option Nat) (tasks : List Nat)
include hr

theorem State.begun_commandBusy : (s.commandBusy about tasks).Begun about := ⟨rfl, rfl, hr⟩

/-- A command that waits for tasks is still in progress where it has been spared. -/
theorem State.Spares.begun {t : State} (h : t.Spares (s.commandBusy about tasks).pow) : t.Begun about ∧ t.pow.waitTasks = tasks := by
  rw [State.Begun, h.pow]
  exact ⟨⟨rfl, rfl, hr⟩, rfl⟩

end Begun

/-- A command is spared as it begins where it is about no die, or about one that is not being gated and that no drain gates. -/
theorem State.spares_commandBusy (s : State) (about : Option Nat) (tasks : List Nat)
    (die : ∀ e, about = some e → (s.die e).power ≠ .gating) (drains : ∀ e, about = some e → ∀ x ∈ s.fab.drains, x.gate ≠ some e) :
    (s.commandBusy about tasks).Spares (s.commandBusy about tasks).pow := ⟨rfl, die, drains⟩

/-! ### PARKTASK and RESUMETASK (R133, R216) -/

theorem State.cmdParktask_reserved {s : State} {arg : Nat} (h : 2 ^ 32 ≤ arg) : s.cmdParktask arg = s.refuse 7 := if_pos h
theorem State.cmdResumetask_reserved {s : State} {arg : Nat} (h : 2 ^ 32 ≤ arg) : s.cmdResumetask arg = s.refuse 7 := if_pos h

/-- A task in a freeze stands in the table. -/
theorem State.task_of_freezing {s : State} {id : Nat} (h : (s.freezing id).isSome = true) :
    ∃ k, s.task id = some k ∧ k.freeze ≠ none := by
  obtain ⟨f, hf⟩ := Option.isSome_iff_exists.1 h
  obtain ⟨k, hk, hkf⟩ := Option.bind_eq_some_iff.1 hf
  exact ⟨k, hk, by simp [hkf]⟩

section Task
variable {s : State} {arg : Nat} (ha : arg < 2 ^ 32)
include ha

theorem State.cmdParktask_unknown (h : s.task arg = none) : s.cmdParktask arg = s.refuse 2 := by
  rw [State.cmdParktask, if_neg (Nat.not_le.2 ha), h]

theorem State.cmdResumetask_unknown (h : s.task arg = none) : s.cmdResumetask arg = s.refuse 2 := by
  rw [State.cmdResumetask, if_neg (Nat.not_le.2 ha), h]

/-- A task that is not placed, or is on its way to completion, is not parked. -/
theorem State.cmdParktask_wrongState {k : Task} (h : s.task arg = some k)
    (hk : k.st ≠ .placed ∨ k.code ≠ none ∨ k.finished = true) : s.cmdParktask arg = s.refuse 3 := by
  rw [State.cmdParktask, if_neg (Nat.not_le.2 ha), h]
  exact if_pos (by rwa [Option.isSome_iff_ne_none])

/-- A placed task whose cask fits is frozen. -/
theorem State.cmdParktask_freezes {k : Task} (h : s.task arg = some k) (hp : k.st = .placed) (hc : k.code = none)
    (hf : k.finished = false) (hroom : k.freeze ≠ none ∨ s.areaUsed + k.largestCask ≤ areaBytes) :
    s.cmdParktask arg = (s.commandBusy none [arg]).startFreeze arg { src := 0, room := k.largestCask, cmd := true } := by
  have room : ¬ (k.freeze.isNone ∧ areaBytes < s.areaUsed + k.largestCask) := by
    rintro ⟨fresh, short⟩
    rcases hroom with frozen | fits
    · exact frozen (Option.isNone_iff_eq_none.1 fresh)
    · omega
  rw [State.cmdParktask, if_neg (Nat.not_le.2 ha), h]
  exact (if_neg (by simp [hp, hc, hf])).trans (if_neg room)

theorem State.cmdParktask_begins {k : Task} (hr : s.pow.reason = 0) (h : s.task arg = some k) (hp : k.st = .placed)
    (hc : k.code = none) (hf : k.finished = false) (hroom : k.freeze ≠ none ∨ s.areaUsed + k.largestCask ≤ areaBytes) :
    ∃ k', (s.cmdParktask arg).Begun none ∧ (s.cmdParktask arg).pow.waitTasks = [arg] ∧ (s.cmdParktask arg).task arg = some k' ∧
      k'.freeze ≠ none := by
  have busy := s.spares_commandBusy none [arg] (fun _ h => by simp at h) fun _ h => by simp at h
  rw [State.cmdParktask_freezes ha h hp hc hf hroom]
  obtain ⟨k', hk', frozen⟩ := State.task_of_freezing (State.freezing_startFreeze (s := s.commandBusy none [arg]) h
    { src := 0, room := k.largestCask, cmd := true })
  obtain ⟨begun, waits⟩ := (busy.startFreeze arg { src := 0, room := k.largestCask, cmd := true }).begun hr
  exact ⟨k', begun, waits, hk', frozen⟩

theorem State.cmdResumetask_parked {k : Task} (h : s.task arg = some k) (hp : k.st = .parked) :
    s.cmdResumetask arg = s.modTask arg fun t => { t with resumable := true, parkedByEvent := false } := by
  rw [State.cmdResumetask, if_neg (Nat.not_le.2 ha), h]
  exact if_neg (by simp [hp])

end Task

/-! ### The gating of a die at once (R22, R42) -/

/-- A die is off or about to be: it is gated, ungated, or being gated while nothing stands in the way, and no other die
is being gated. -/
structure State.Gates (s : State) (d : Nat) : Prop where
  off : (s.die d).power ≠ .on
  able : (s.die d).power = .gating → s.gateable d = true
  others : ∀ e, e ≠ d → (s.die e).power ≠ .gating
  drains : ∀ x ∈ s.fab.drains, ∀ g, x.gate = some g → g = d

namespace State.Gates
variable {s : State} {d : Nat} (h : s.Gates d)
include h

theorem sameButDrains {t : State} (same : s.SameButDrains t) (drains : ∀ x ∈ t.fab.drains, ∀ g, x.gate = some g → g = d) :
    t.Gates d where
  off := by rw [same.die]; exact h.off
  able hp := by
    rw [same.gateable]
    rw [same.die] at hp
    exact h.able hp
  others e he := by rw [same.die]; exact h.others e he
  drains := drains

theorem startDrains : s.startDrains.Gates d := by
  refine h.sameButDrains s.sameButDrains_startDrains fun x hx g hg => ?_
  rcases State.gate_of_mem_startDrains hx with before | gated
  · exact h.drains x before g hg
  · by_contra other
    exact h.others g other (gated g hg)

theorem gateDue : (s.gateDue d).Gates d := by
  have touched := s.touchesDie_gateDue d
  have settled (hp : ((s.gateDue d).die d).power ≠ .on ∧ (((s.gateDue d).die d).power = .gating → (s.gateDue d).gateable d = true)) :
      (s.gateDue d).Gates d :=
    ⟨hp.1, hp.2, fun e he => by rw [touched.die e he]; exact h.others e he, by rw [touched.drains]; exact h.drains⟩
  refine settled ?_
  by_cases able : s.gateable d = true
  · by_cases time : s.gateTime = true
    · have gone : s.gateDue d = s.gateNow d := (if_neg (by simp [able])).trans (if_pos time)
      rw [gone, s.die_gateNow]
      exact ⟨(s.die d).off_power.1, fun hp => absurd hp (s.die d).off_power.2⟩
    · have waits : s.gateDue d = s.setDie d { s.die d with held := true, drained := true } :=
        (if_neg (by simp [able])).trans (if_neg time)
      rw [waits, State.die_setDie]
      exact ⟨h.off, fun _ => able⟩
  · have notGating : (s.die d).power ≠ .gating := fun hp => able (h.able hp)
    have stays : (s.die d).staysOn.power = (s.die d).power := if_neg notGating
    have given : s.gateDue d = s.giveUpGate d 4 := if_pos (by simp [able])
    rw [given, s.die_giveUpGate, stays]
    exact ⟨h.off, fun hp => absurd hp notGating⟩

theorem endDrain {x : Drain} (hx : ∀ g, x.gate = some g → g = d) : (s.endDrain x).Gates d := by
  obtain ⟨same, fewer, -⟩ := s.drainOver_spec x
  have ended : (s.drainOver x).Gates d := h.sameButDrains same fun y hy => h.drains y (fewer y hy)
  cases hg : x.gate with
  | none => rw [s.endDrain_eq_drainOver hg]; exact ended
  | some g =>
    rw [s.endDrain_eq_gateDue hg, hx g hg]
    exact ended.gateDue

theorem runDrains : s.runDrains.Gates d :=
  State.runDrains_rec (P := fun u => u.Gates d) (Q := fun x => ∀ g, x.gate = some g → g = d) h
    (fun _ hu => ⟨hu.startDrains, hu.startDrains.drains⟩) fun _ _ hu hx => hu.endDrain hx

end State.Gates

/-- With no other gating and no drain in progress, a gate command for a die that may be gated takes the die off. -/
theorem State.die_carryGate_off {s : State} {d : Nat} (hl : (s.die d).lost = false) (hg : s.gateable d = true) (ht : s.gateTime = true)
    (hd : s.fab.drains = []) (ho : ∀ e, (s.die e).power ≠ .gating) : ((s.carryGate d).die d).power ≠ .on := by
  unfold State.carryGate
  by_cases drained : (s.die d).drained = true
  · have gone : s.gateDue d = s.gateNow d := (if_neg (by simp [hg])).trans (if_pos ht)
    rw [if_pos (.inr drained), gone, s.die_gateNow]
    exact (s.die d).off_power.1
  · rw [if_neg (by simp [hl, drained]), if_neg (by simp [hg])]
    have start : (s.setDie d { s.die d with power := .gating, held := false }).Gates d := by
      refine ⟨by simp [State.die_setDie], fun _ => hg, fun e he => ?_, fun x hx => ?_⟩
      · rw [State.die_setDie_ne _ _ he]
        exact ho e
      · rw [show (s.setDie d { s.die d with power := .gating, held := false }).fab.drains = [] from hd] at hx
        simp at hx
    exact start.runDrains.off

/-! ### Commands about dies (R22, R23, R133) -/

/-- The freeze of a task that a DRAINDIE of a die waits for. -/
def State.drainTask (d : Nat) (s : State) (t : Task) : State :=
  (s.modTask t.id (fun t => { t with away := some d })).startFreeze t.id
    { src := 0, room := t.largestCask, cmd := true, resume := true }

theorem State.Spares.drainTasks {p : Power} {s : State} (h : s.Spares p) (d : Nat) (ts : List Task) :
    (ts.foldl (State.drainTask d) s).Spares p :=
  List.foldlRecOn (motive := State.Spares p) ts _ h fun u hu t _ =>
    State.Spares.startFreeze (hu.of_same (t := u.modTask t.id _) rfl (fun _ => rfl) fun _ hx => hx) t.id _

/-- A move of pages and a gating for which 250 µs have not passed: the gating is held. -/
theorem State.moveAndGate_held {s : State} {d : Nat} (hfit : s.pagesFit d 0 = true) (ht : s.gateTime = false) :
    (s.moveAndGate d).pow = s.pow ∧ (s.moveAndGate d).die d = { s.die d with held := true } := by
  have moved := s.keepsPower_movePages d
  have die : (s.movePages d).die d = s.die d := by
    rw [State.die, moved.pkg]
    rfl
  have early : ¬ (s.movePages d).gateTime = true := by
    rw [State.gateTime, moved.pkg, moved.tick]
    exact ne_true_of_eq_false ht
  rw [State.moveAndGate, if_pos hfit, State.startGate, if_neg early]
  rw [State.setDie_pow, State.die_setDie, die]
  exact ⟨moved.pow, rfl⟩

section Die
variable {s : State} {d : Nat}

theorem State.cmdGatedie_reserved (h : 10 ≤ d) : s.cmdGatedie d = s.refuse 7 := if_pos h
theorem State.cmdUngatedie_reserved (h : 10 ≤ d) : s.cmdUngatedie d = s.refuse 7 := if_pos h
theorem State.cmdDraindie_reserved (h : 10 ≤ d) : s.cmdDraindie d = s.refuse 7 := if_pos h
theorem State.cmdRepairdie_reserved (h : 10 ≤ d) : s.cmdRepairdie d = s.refuse 7 := if_pos h

variable (hd : d < 10)
include hd

theorem State.cmdGatedie_lost (h : (s.die d).lost = true) : s.cmdGatedie d = s.refuse 5 :=
  (if_neg (Nat.not_le.2 hd)).trans (if_pos h)
theorem State.cmdUngatedie_lost (h : (s.die d).lost = true) : s.cmdUngatedie d = s.refuse 5 :=
  (if_neg (Nat.not_le.2 hd)).trans (if_pos h)
theorem State.cmdDraindie_lost (h : (s.die d).lost = true) : s.cmdDraindie d = s.refuse 5 :=
  (if_neg (Nat.not_le.2 hd)).trans (if_pos h)

theorem State.cmdRepairdie_begins (hr : s.pow.reason = 0) (hp : (s.die d).power = .gated) (hg : s.gateable d = true) :
    (s.cmdRepairdie d).Begun (some d) ∧ (s.cmdRepairdie d).die d = { s.die d with repair := true, power := .ungating } ∧
      (s.cmdRepairdie d).mem = s.mem := by
  have ungates : s.cmdRepairdie d = ((s.commandBusy (some d) []).setDie d { s.die d with repair := true }).startUngate d := by
    unfold State.cmdRepairdie
    dsimp only
    rw [if_neg (Nat.not_le.2 hd), if_neg (by simp [hp]), if_neg (by simp [hg]), if_neg (by simp [hp])]
  rw [ungates, State.startUngate, State.die_setDie, State.die_setDie]
  exact ⟨(State.begun_commandBusy hr (some d) []).of_pow rfl, rfl, rfl⟩

variable (hl : (s.die d).lost = false)
include hl

theorem State.cmdUngatedie_begins (hr : s.pow.reason = 0) (hp : (s.die d).power = .gated) :
    (s.cmdUngatedie d).Begun (some d) ∧ (s.cmdUngatedie d).die d = { s.die d with power := .ungating } ∧
      (s.cmdUngatedie d).mem = s.mem := by
  rw [State.cmdUngatedie, if_neg (Nat.not_le.2 hd), if_neg (by simp [hl]), if_neg (by simp [hp])]
  exact ⟨(State.begun_commandBusy hr (some d) []).of_pow rfl, State.die_setDie _ d _, rfl⟩

variable (hp : (s.die d).power = .on)
include hp

theorem State.cmdGatedie_busy (hg : s.gateable d = false) : s.cmdGatedie d = s.refuse 4 := by
  rw [State.cmdGatedie, if_neg (Nat.not_le.2 hd), if_neg (by simp [hl]), if_neg (by simp [hp]), if_pos (by simp [hg])]

theorem State.cmdGatedie_gates (hg : s.gateable d = true) : s.cmdGatedie d = (s.commandBusy (some d) []).startGate d := by
  rw [State.cmdGatedie, if_neg (Nat.not_le.2 hd), if_neg (by simp [hl]), if_neg (by simp [hp]), if_neg (by simp [hg])]

/-- A gating for which 250 µs have not passed is held. -/
theorem State.cmdGatedie_begins (hr : s.pow.reason = 0) (hg : s.gateable d = true) (ht : s.gateTime = false) :
    (s.cmdGatedie d).Begun (some d) ∧ (s.cmdGatedie d).die d = { s.die d with held := true } ∧ (s.cmdGatedie d).mem = s.mem := by
  have early : ¬ (s.commandBusy (some d) []).gateTime = true := ne_true_of_eq_false ht
  rw [State.cmdGatedie_gates hd hl hp hg, State.startGate, if_neg early]
  exact ⟨(State.begun_commandBusy hr (some d) []).of_pow rfl, State.die_setDie _ d _, rfl⟩

/-- Any other is carried out at once. -/
theorem State.die_cmdGatedie_off (hg : s.gateable d = true) (ht : s.gateTime = true) (hdrains : s.fab.drains = [])
    (ho : ∀ e, (s.die e).power ≠ .gating) : ((s.cmdGatedie d).die d).power ≠ .on := by
  have time : (s.commandBusy (some d) []).gateTime = true := ht
  rw [State.cmdGatedie_gates hd hl hp hg, State.startGate, if_pos time]
  exact State.die_carryGate_off (s := s.commandBusy (some d) []) hl hg ht hdrains ho

/-- Where no task has a live bay on the die, its pages move at once; its gating is held. -/
theorem State.cmdDraindie_begins_empty (hr : s.pow.reason = 0) (hfit : s.pagesFit d 0 = true) (hts : s.tasksOn d = [])
    (ht : s.gateTime = false) : (s.cmdDraindie d).Begun (some d) ∧ (s.cmdDraindie d).die d = { s.die d with held := true } := by
  have moves : s.cmdDraindie d = (s.commandBusy (some d) []).moveAndGate d := by
    unfold State.cmdDraindie
    rw [if_neg (Nat.not_le.2 hd), if_neg (by simp [hl]), if_neg (by simp [hp])]
    simp only [hts, List.filter_nil, List.map_nil, List.sum_nil, hfit, Bool.not_true, Bool.false_eq_true, if_false,
      List.isEmpty_nil, if_true]
  obtain ⟨pow, die⟩ := State.moveAndGate_held (s := s.commandBusy (some d) []) (d := d) hfit ht
  rw [moves]
  exact ⟨(State.begun_commandBusy hr (some d) []).of_pow pow, die⟩

/-- Else the tasks on the die that are not about to complete are frozen. -/
theorem State.cmdDraindie_begins_tasks (hr : s.pow.reason = 0) (hdrains : ∀ x ∈ s.fab.drains, x.gate ≠ some d)
    (hts : s.tasksOn d ≠ [])
    (hfit : s.pagesFit d (((s.tasksOn d).filter (fun t => t.freeze.isNone && !t.finished)).map Task.largestCask).sum = true) :
    (s.cmdDraindie d).Begun (some d) ∧ (s.cmdDraindie d).pow.waitTasks = (s.tasksOn d).map (·.id) := by
  have some_task : ¬ (s.tasksOn d).isEmpty = true := by simpa using hts
  have freezes : s.cmdDraindie d = ((s.tasksOn d).filter (fun t => !t.finished)).foldl (State.drainTask d)
      (s.commandBusy (some d) ((s.tasksOn d).map (·.id))) := by
    unfold State.cmdDraindie
    rw [if_neg (Nat.not_le.2 hd), if_neg (by simp [hl]), if_neg (by simp [hp])]
    dsimp only
    rw [if_neg (by simp [hfit]), if_neg some_task]
    rfl
  have busy := s.spares_commandBusy (some d) ((s.tasksOn d).map (·.id))
    (fun e he => by obtain rfl := Option.some.inj he; simp [hp]) fun e he => by obtain rfl := Option.some.inj he; exact hdrains
  rw [freezes]
  exact (busy.drainTasks d _).begun hr

end Die

/-! ### REPAIRLINK (R39, R133) -/

theorem State.cmdRepairlink_reserved {s : State} {n : Nat} (h : 24 ≤ n) : s.cmdRepairlink n = s.refuse 7 := if_pos h

/-- A link that is GATED, or whole and UP, is not repaired. -/
theorem State.cmdRepairlink_whole {s : State} {n : Nat} (hn : n < 24)
    (h : (s.link n).st = .gated ∨ ((s.link n).st = .up ∧ (s.link n).half = false ∧ (s.link n).spares = 0)) :
    s.cmdRepairlink n = s.refuse 3 :=
  (if_neg (Nat.not_le.2 hn)).trans (if_pos (by simpa using h))

/-- Any other link goes down, its traffic moves, and it trains afresh. -/
theorem State.cmdRepairlink_begins {s : State} {n : Nat} (hn : n < 24) (hr : s.pow.reason = 0)
    (h : (s.link n).st = .down ∨ (s.link n).st = .retrain ∨ ((s.link n).st = .up ∧ ((s.link n).half = true ∨ (s.link n).spares ≠ 0))) :
    (s.cmdRepairlink n).Begun (some (100 + n)) ∧ (s.cmdRepairlink n).link n = { s.link n with st := .down }.afresh ∧
      (s.cmdRepairlink n).mem = s.mem := by
  have broken : ¬ ((s.link n).st = .gated ∨ ((s.link n).st = .up ∧ !(s.link n).half ∧ (s.link n).spares = 0)) := by
    rcases h with h | h | ⟨h, half | spare⟩
    · simp [h]
    · simp [h]
    · simp [h, half]
    · simp [h, spare]
  have routed := State.sameButFab_rewriteRoutes ((s.commandBusy (some (100 + n)) []).setLink n { s.link n with st := .down })
  have repairs : s.cmdRepairlink n = State.setLink
      (((s.commandBusy (some (100 + n)) []).setLink n { s.link n with st := .down }).rewriteRoutes) n
      { s.link n with st := .down }.afresh := by
    refine (if_neg (Nat.not_le.2 hn)).trans ((if_neg broken).trans ?_)
    dsimp only
    rw [State.link_rewriteRoutes, State.link_setLink]
  rw [repairs]
  refine ⟨(State.begun_commandBusy hr (some (100 + n)) []).of_pow ?_, State.link_setLink _ _ _, ?_⟩
  · rw [State.setLink_pow, routed.pow_eq]
    rfl
  · rw [State.setLink_mem, routed.frame.1]
    rfl

/-! ### The statement -/

/-- Settles O47: with none in progress a command is refused by the branch of its check that its target meets, or begins; a
freeze, a move of pages or a held gating that it starts leaves its registers, since no drain then gates its die. -/
theorem powerCommands : Obligations.PowerCommands := by
  unfold Obligations.PowerCommands
  intro s hf a p x l refused begun
  refine ⟨fun hb hm hc => ?_, fun e he => ?_⟩
  · have park : exec .parktask s = .next ((s.taken 1 a).cmdParktask a) := exec_parktask_free hf hb hm hc
    have resume : exec .resumetask s = .next ((s.taken 2 a).cmdResumetask a) := exec_resumetask_free hf hb hm hc
    have gate : exec .gatedie s = .next ((s.taken 3 a).cmdGatedie a) := exec_gatedie_free hf hb hm hc
    have ungate : exec .ungatedie s = .next ((s.taken 4 a).cmdUngatedie a) := exec_ungatedie_free hf hb hm hc
    have drain : exec .draindie s = .next ((s.taken 5 a).cmdDraindie a) := exec_draindie_free hf hb hm hc
    have repair : exec .repairdie s = .next ((s.taken 6 a).cmdRepairdie a) := exec_repairdie_free hf hb hm hc
    have link : exec .repairlink s = .next ((s.taken 7 a).cmdRepairlink a) := exec_repairlink_free hf hb hm hc
    have refuses {o : Out} {u : State} {code reason : Nat} (run : o = .next u) (h : u = (s.taken code a).refuse reason) :
        refused o code reason := run.trans (congrArg _ h)
    refine ⟨fun k ha hk hp hcode hfin hroom => ?_, fun k ha hk h => refuses park (State.cmdParktask_wrongState ha hk h),
      fun ha hk => ⟨refuses park (State.cmdParktask_unknown ha hk), refuses resume (State.cmdResumetask_unknown ha hk)⟩,
      fun ha => ⟨refuses park (State.cmdParktask_reserved ha), refuses resume (State.cmdResumetask_reserved ha)⟩,
      fun k ha hk hp => ?_,
      fun ha => ⟨refuses gate (State.cmdGatedie_reserved ha), refuses ungate (State.cmdUngatedie_reserved ha),
        refuses drain (State.cmdDraindie_reserved ha), refuses repair (State.cmdRepairdie_reserved ha)⟩,
      fun ha hl => ⟨refuses gate (State.cmdGatedie_lost ha hl), refuses ungate (State.cmdUngatedie_lost ha hl),
        refuses drain (State.cmdDraindie_lost ha hl)⟩,
      fun ha hl hp hg => refuses gate (State.cmdGatedie_busy ha hl hp hg),
      fun ha hl hp hg ht => ⟨_, gate, State.cmdGatedie_begins ha hl hp rfl hg ht⟩,
      fun ha hl hp hg ht hd ho => ⟨_, gate, State.die_cmdGatedie_off ha hl hp hg ht hd ho⟩,
      fun ha hl hp => ⟨_, ungate, State.cmdUngatedie_begins ha hl rfl hp⟩,
      fun ha hl hp hfit hts ht => ⟨_, drain, State.cmdDraindie_begins_empty ha hl hp rfl hfit hts ht⟩,
      fun ha hl hp hdr hts hfit => ⟨_, drain, State.cmdDraindie_begins_tasks ha hl hp rfl hdr hts hfit⟩,
      fun ha hp hg => ⟨_, repair, State.cmdRepairdie_begins ha rfl hp hg⟩, fun ha h => ?_,
      fun ha h => refuses link (State.cmdRepairlink_whole ha h),
      fun ha => refuses link (State.cmdRepairlink_reserved ha), fun h => exec_pwrcmdBadCode_free hf hb hm hc h⟩
    · obtain ⟨k', begins⟩ := State.cmdParktask_begins (s := s.taken 1 a) ha rfl hk hp hcode hfin hroom
      exact ⟨_, k', park, begins⟩
    · rw [State.cmdResumetask_parked ha (by exact hk) hp] at resume
      exact ⟨_, _, resume, State.task_modTask_self (s := s.taken 2 a) hk fun _ => rfl, rfl, rfl⟩
    · obtain ⟨begins, trained, mem⟩ := State.cmdRepairlink_begins (s := s.taken 7 a) ha rfl h
      refine ⟨_, link, begins, ?_, ?_, ?_, mem⟩ <;> rw [trained] <;> rfl
  · have submits : e.1 = hostAct s (s.submitCmd e.2 a) := by
      revert e
      simp only [List.forall_mem_cons]
      exact ⟨rfl, rfl, rfl, rfl, rfl, rfl, rfl, by simp⟩
    rw [submits]
    exact ⟨fun hb => hostAct_submitCmd_of_busy hf hb e.2 a,
      fun hb hm => ⟨_, hostAct_submitCmd_of_moving hf hb hm e.2 a, rfl, rfl⟩⟩

end Sys2Proof.Machine
end

section
/-! PROOFS. The hard-wired registers and the frame of a result. -/
namespace Sys2Proof.Machine
open Sys2Proof.Bits

/-- Settles O8: each accessor and each landing tests for the hard-wired register first. -/
theorem hardWiredRegisters : Obligations.HardWiredRegisters := fun _ =>
  ⟨rfl, rfl, rfl, rfl, fun _ => rfl, fun _ => rfl, fun _ => rfl, fun _ => rfl, fun _ _ => rfl, fun _ _ => rfl⟩

theorem State.scalar_issue (s : State) (ps : List Pending) :
    (s.issue ps).scalar = { s.scalar with pend := s.scalar.pend ++ ps.map (fun p => { p with slot := s.bundle.slot }) } :=
  s.scalar_setScalar _

theorem State.putX_of_ne {d : BitVec 5} (hd : d ≠ 0#5) (s : State) (lat : Nat) (v : W64) :
    s.putX d lat v = s.issue [{ dest := .x d v, togo := lat }] := if_neg hd

theorem State.putPair_of_ne {p : BitVec 2} (hp : p ≠ 0#2) (s : State) (lat : Nat) (c : Bool) :
    s.putPair p lat c = s.issue [{ dest := .p (p ++ 0#1) c, togo := lat }, { dest := .p (p ++ 1#1) (!c), togo := lat }] :=
  if_neg hp

theorem RegisterFrame.refl (s : State) : RegisterFrame s s := by
  simp [RegisterFrame]

/-- Replacing the scalar registers of a core keeps the rest of it. -/
theorem Core.setScalar_eq (c : Core) (r : Scalar) :
    c.setScalar r = { c with fr := (c.setScalar r).fr, pt := { c.pt with sc := (c.setScalar r).pt.sc } } := by
  unfold Core.setScalar
  split <;> rfl

/-- The scalar registers of a core's agent stand apart from its flags, its vector registers and its engine. -/
theorem State.my_setScalar_core {s : State} {n : Nat} (hf : s.focus = .core n) (r : Scalar) :
    (s.setScalar r).my = s.my.setScalar r := by
  have me : s.me = n := by rw [State.me, hf]
  rw [State.my, show (s.setScalar r).me = n by rw [State.me, State.setScalar_focus, hf], State.my, me, State.setScalar, hf]
  exact s.core_modCore n _

theorem State.my_setScalar_seq {s : State} {n : Nat} (hf : s.focus = .seq n) (r : Scalar) : (s.setScalar r).my = s.my := by
  rw [State.my, State.me, State.setScalar_focus, State.my, State.me, State.setScalar, hf]
  rfl

theorem State.core_setScalar_ne {s : State} {k : Nat} (hj : ∀ n, s.focus ≠ .jig n) (h : s.focus ≠ .core k) (r : Scalar) :
    (s.setScalar r).core k = s.core k := by
  cases hf : s.focus with
  | jig n => exact absurd hf (hj n)
  | core n =>
    rw [State.setScalar, hf]
    exact s.core_modCore_ne _ fun e => h (e ▸ hf)
  | seq n => rw [State.setScalar, hf]; rfl

theorem State.seq_setScalar_ne {s : State} {k : Nat} (h : s.focus ≠ .seq k) (r : Scalar) :
    (s.setScalar r).seq k = s.seq k := by
  cases hf : s.focus with
  | seq n =>
    rw [State.setScalar, hf]
    exact s.seq_setSeq_ne _ fun e => h (e ▸ hf)
  | core n => rw [State.setScalar, hf]; rfl
  | jig n => rw [State.setScalar, hf]; rfl

theorem State.arith_setScalar {s : State} (hj : ∀ n, s.focus ≠ .jig n) (r : Scalar) : (s.setScalar r).arith = s.arith := by
  cases hf : s.focus with
  | jig n => exact absurd hf (hj n)
  | core n =>
    rw [State.arith, State.setScalar_focus, State.my_setScalar_core hf, State.arith, hf, Core.setScalar_eq]
  | seq n =>
    have seq : (s.setScalar r).seq n = { s.seq n with sc := r } := by
      rw [State.setScalar, hf]
      exact s.seq_setSeq n _
    simp only [State.arith, State.setScalar_focus, hf, seq]

theorem registerFrame_issue {s : State} (hj : ∀ n, s.focus ≠ .jig n) (ps : List Pending) :
    RegisterFrame s (s.issue ps) := by
  have my : ∃ f r, (s.issue ps).my = { s.my with fr := f, pt := { s.my.pt with sc := r } } := by
    cases hf : s.focus with
    | jig n => exact absurd hf (hj n)
    | core n => exact ⟨_, _, (State.my_setScalar_core hf _).trans (Core.setScalar_eq _ _)⟩
    | seq n => exact ⟨_, _, State.my_setScalar_seq hf _⟩
  obtain ⟨f, r, my⟩ := my
  have arith : (s.issue ps).arith = s.arith := State.arith_setScalar hj _
  unfold RegisterFrame
  rw [State.scalar_issue, State.regs, my, arith]
  simpa [State.issue, State.regs] using
    ⟨fun n h => State.core_setScalar_ne hj h _, fun n h => State.seq_setScalar_ne h _⟩

/-- Settles O16: a result is issued to the scalar registers of its agent, or dropped. -/
theorem resultsOnly : Obligations.ResultsOnly := by
  refine fun s d p lat v c => ⟨fun hd => ?_, fun hp => ?_, fun hj => ⟨?_, ?_⟩⟩
  · rw [State.putX_of_ne hd, State.scalar_issue]
    rfl
  · rw [State.putPair_of_ne hp, State.scalar_issue]
    rfl
  · by_cases hd : d = 0#5
    · subst hd
      exact .refl s
    · rw [State.putX_of_ne hd]
      exact registerFrame_issue hj _
  · by_cases hp : p = 0#2
    · subst hp
      exact .refl s
    · rw [State.putPair_of_ne hp]
      exact registerFrame_issue hj _

/-- Core 0 takes the transfer in slot 6 of its bundle, through a prepared target. -/
def slotSixTransfer : State :=
  { cores := [(0, { pt := { sc := { tb := Vector.replicate 4 ⟨0x100#52, true, 0⟩ } } })], bundle := { slot := 6 } }

/-- The result that links bears the slot of its transfer (`State.issue`). -/
theorem execXferLink_prepared {s : State} {n : BitVec 2} (h : (s.tbr n).prepared = true) :
    ∃ t, exec (.xferLink n) s = .next t ∧ t.scalar.pend = s.scalar.pend ++
      [{ dest := .x 30#5 (BitVec.ofNat 64 s.bundle.next.toNat), togo := 1, slot := s.bundle.slot }] := by
  refine ⟨_, rfl, ?_⟩
  rw [State.transfer, if_pos h, State.putX_of_ne (by decide), State.scalar_issue]
  rfl

/-- Refutes O25: its linking clause gives the result for x30 no slot, but an XFER's result bears the slot of the XFER:
of a transfer in slot 6 the pending result has slot 6 where the statement says 0. -/
theorem not_transferOps : ¬ Obligations.TransferOps := by
  intro h
  obtain ⟨-, -, -, link, -⟩ := h slotSixTransfer 0#3 0#2 0#5 0#15 rfl rfl rfl
  have prepared : (slotSixTransfer.tbr 0#2).prepared = true := by decide +kernel
  obtain ⟨-, t, ht, -, claimed⟩ := link prepared
  obtain ⟨u, hu, pend⟩ := execXferLink_prepared prepared
  cases ht.symm.trans hu
  have slots := congrArg (List.map Pending.slot) (pend.symm.trans claimed)
  exact absurd slots (by decide +kernel)

end Sys2Proof.Machine
end

section
/-! PROOFS. Copies issue; CCAN, CQRY and BDEF. -/
namespace Sys2Proof.Machine
open Sys2Proof.Bits

/-! ### The agent's own engine and its results -/

theorem State.eng_core {s : State} {n : Nat} (hf : s.focus = .core n) : s.eng = (s.core n).eng := by
  rw [State.eng, hf]; rfl
theorem State.eng_seq {s : State} {n : Nat} (hf : s.focus = .seq n) : s.eng = (s.seq n).eng := by
  rw [State.eng, hf]; rfl
theorem State.modOwnEng_core {s : State} {n : Nat} (hf : s.focus = .core n) (f : Engine → Engine) :
    s.modOwnEng f = s.modCore n (fun c => { c with eng := f c.eng }) := by
  rw [State.modOwnEng, hf]; rfl
theorem State.modOwnEng_seq {s : State} {n : Nat} (hf : s.focus = .seq n) (f : Engine → Engine) :
    s.modOwnEng f = s.setSeq n { s.seq n with eng := f (s.seq n).eng } := by
  rw [State.modOwnEng, hf]; rfl

theorem Core.setScalar_eng (c : Core) (r : Scalar) : (c.setScalar r).eng = c.eng := by
  unfold Core.setScalar
  split <;> rfl

theorem State.setScalar_core {s : State} {n : Nat} (hf : s.focus = .core n) (r : Scalar) :
    s.setScalar r = s.modCore n (·.setScalar r) := by
  rw [State.setScalar, hf]
theorem State.setScalar_seq {s : State} {n : Nat} (hf : s.focus = .seq n) (r : Scalar) :
    s.setScalar r = s.setSeq n { s.seq n with sc := r } := by
  rw [State.setScalar, hf]

section
variable {s : State} (hj : ∀ n, s.focus ≠ .jig n)
include hj

theorem State.eng_setScalar (r : Scalar) : (s.setScalar r).eng = s.eng := by
  cases hf : s.focus with
  | jig n => exact absurd hf (hj n)
  | core n =>
    have hf' : (s.modCore n (·.setScalar r)).focus = .core n := hf
    rw [State.setScalar_core hf, State.eng_core hf', State.eng_core hf, State.core_modCore, Core.setScalar_eng]
  | seq n =>
    have hf' : (s.setSeq n { s.seq n with sc := r }).focus = .seq n := hf
    rw [State.setScalar_seq hf, State.eng_seq hf', State.eng_seq hf, State.seq_setSeq]

/-- Changing the agent's own engine changes nothing else that the agent sees. -/
theorem State.modOwnEng_spec (f : Engine → Engine) :
    (s.modOwnEng f).eng = f s.eng ∧ (s.modOwnEng f).scalar = s.scalar ∧ (s.modOwnEng f).focus = s.focus ∧
      (s.modOwnEng f).bundle = s.bundle ∧ (s.modOwnEng f).mem = s.mem := by
  cases hf : s.focus with
  | jig n => exact absurd hf (hj n)
  | core n =>
    have hf' : (s.modCore n (fun c => { c with eng := f c.eng })).focus = .core n := hf
    have scalar : (s.modCore n (fun c => { c with eng := f c.eng })).scalar = s.scalar := by
      simp only [State.scalar, hf', hf, State.core_modCore]
    rw [State.modOwnEng_core hf, State.eng_core hf', State.eng_core hf, State.core_modCore]
    exact ⟨rfl, scalar, hf', rfl, rfl⟩
  | seq n =>
    have hf' : (s.setSeq n { s.seq n with eng := f (s.seq n).eng }).focus = .seq n := hf
    have scalar : (s.setSeq n { s.seq n with eng := f (s.seq n).eng }).scalar = s.scalar := by
      simp only [State.scalar, hf', hf, State.seq_setSeq]
    rw [State.modOwnEng_seq hf, State.eng_seq hf', State.eng_seq hf, State.seq_setSeq]
    exact ⟨rfl, scalar, hf', rfl, rfl⟩

end

/-- A result for xd, dropped for x0: what the copy and memory ops answer with. -/
def State.answerX (s : State) (d : BitVec 5) (p : Pending) : State := if d = 0#5 then s else s.issue [p]

theorem State.putX_eq_answerX (s : State) (d : BitVec 5) (lat : Nat) (v : W64) :
    s.putX d lat v = s.answerX d { dest := .x d v, togo := lat } := rfl

@[simp] theorem State.answerX_bundle (s : State) (d : BitVec 5) (p : Pending) : (s.answerX d p).bundle = s.bundle := by
  unfold State.answerX
  split
  · rfl
  · exact s.setScalar_bundle _
@[simp] theorem State.answerX_mem (s : State) (d : BitVec 5) (p : Pending) : (s.answerX d p).mem = s.mem := by
  unfold State.answerX
  split
  · rfl
  · exact s.setScalar_mem _
@[simp] theorem State.answerX_ctx (s : State) (d : BitVec 5) (p : Pending) (n : Nat) : (s.answerX d p).ctx n = s.ctx n := by
  unfold State.answerX
  split
  · rfl
  · exact congrArg (fun l => (find? l n).getD {}) (s.setScalar_ctxs _)
theorem State.answerX_eng {s : State} (hj : ∀ n, s.focus ≠ .jig n) (d : BitVec 5) (p : Pending) :
    (s.answerX d p).eng = s.eng := by
  unfold State.answerX
  split
  · rfl
  · exact State.eng_setScalar hj _
@[simp] theorem State.answerX_x (s : State) (d : BitVec 5) (p : Pending) : (s.answerX d p).scalar.x = s.scalar.x := by
  unfold State.answerX
  split
  · rfl
  · rw [State.scalar_issue]
theorem State.answerX_pend (s : State) (d : BitVec 5) (p : Pending) :
    (s.answerX d p).scalar.pend = s.scalar.pend ++ if d = 0#5 then [] else [{ p with slot := s.bundle.slot }] := by
  unfold State.answerX
  split
  · exact (List.append_nil _).symm
  · rw [State.scalar_issue]
    rfl

/-! ### Issue -/

/-- Of 32 command slots one is free while fewer than 32 commands are outstanding. -/
theorem Engine.freeSlot_of_length {e : Engine} (h : e.copies.length < 32) :
    ∃ n, e.freeSlot = some n ∧ n < 32 ∧ ∀ k ∈ e.copies, k.slot ≠ n := by
  cases free : e.freeSlot with
  | some n =>
    have clear := List.find?_some free
    exact ⟨n, rfl, List.mem_range.mp (List.mem_of_find?_eq_some free), by simpa using clear⟩
  | none =>
    have taken : List.range 32 ⊆ e.copies.map Copy.slot := fun n hn => by
      simpa using List.find?_eq_none.mp free n hn
    have := (List.subperm_of_subset List.nodup_range taken).length_le
    simp at this
    omega

theorem inVaultWindow_eq_false {a : W64} : inVaultWindow a = false ↔ ¬ (14 * 2 ^ 48 ≤ a.toNat ∧ a.toNat < 2 ^ 52) := by
  simp [inVaultWindow]

/-- Of the checks on a copy, none refuses one that may issue. -/
theorem State.copyTrap_of_allowed {s : State} {i : Instr} {a b e : BitVec 5} {op : Nat} (h : s.copyAllowed i a b e)
    (multi : op = 4 → ∃ g d a b f l e m, i = .cpym g d a b f l e m)
    (queue : op = 5 → ∃ g d a b f l e, i = .cpyq g d a b f l e) :
    s.copyTrap op (s.xr a) (s.xr b) (if e = 0#5 then none else some (s.xr e)) = none := by
  obtain ⟨hseq, hcore⟩ := h
  by_cases mode : s.mode = .seq
  · obtain ⟨he, ha, hb, hm, hq⟩ := hseq mode
    have h4 : op ≠ 4 := fun h => by
      obtain ⟨_, _, _, _, _, _, _, _, rfl⟩ := multi h
      exact hm trivial
    have h5 : op ≠ 5 := fun h => by
      obtain ⟨_, _, _, _, _, _, _, rfl⟩ := queue h
      exact hq trivial
    simp [State.copyTrap, mode, he, inVaultWindow_eq_false.mpr ha, inVaultWindow_eq_false.mpr hb, h4, h5]
  · obtain ⟨hm, hg⟩ := hcore mode
    have own : ¬ (op = 4 ∧ (s.xr b).toNat / 2 ^ 48 ≠ 14) := fun ⟨h, out⟩ => by
      obtain ⟨_, _, _, _, _, _, _, _, rfl⟩ := multi h
      exact out (hm trivial)
    unfold State.copyTrap
    rw [if_neg mode, if_neg own]
    by_cases he : e = 0#5
    · rw [if_pos he]
    · obtain ⟨pa, hpa⟩ := hg he
      simp only [if_neg he, hpa]

/-- A copy that may issue joins its engine's commands. -/
theorem State.issueCopy_spec {s : State} (hj : ∀ n, s.focus ≠ .jig n) (room : s.eng.copies.length < 32) {i : Instr}
    {op : Nat} {d a b l e : BitVec 5} (h : s.copyAllowed i a b e)
    (multi : op = 4 → ∃ g d a b f l e m, i = .cpym g d a b f l e m)
    (queue : op = 5 → ∃ g d a b f l e, i = .cpyq g d a b f l e)
    (words : ∃ v w, encode s.bundle.first i = [v, w]) : CopyIssued s (s.issueCopy op i d a b l e) i d a b l e := by
  obtain ⟨n, free, bound, clear⟩ := Engine.freeSlot_of_length room
  obtain ⟨v, w, words⟩ := words
  let k := s.newCopy n i (s.xr a) (s.xr b) (s.xr l) (s.xr e)
  let grown (g : Engine) : Engine := { g with copies := g.copies ++ [k], seqNo := (g.seqNo + 1) % 2048, count := g.count + 1 }
  have issued : s.issueCopy op i d a b l e =
      (s.modOwnEng grown).answerX d { dest := .x d (BitVec.ofNat 64 k.handle), togo := 1 } := by
    simp only [State.issueCopy, State.copyTrap_of_allowed h multi queue, free]
    rfl
  obtain ⟨eng, scalar, focus, bundle, mem⟩ := State.modOwnEng_spec hj grown
  have hj' (m : Nat) : (s.modOwnEng grown).focus ≠ .jig m := focus ▸ hj m
  refine ⟨k, ?_⟩
  rw [issued, State.answerX_eng hj', State.answerX_pend, State.answerX_bundle, State.answerX_mem, State.answerX_x, eng,
    scalar, bundle, mem]
  refine ⟨rfl, rfl, rfl, rfl, rfl, bound, clear, rfl, ?_, rfl, rfl, rfl, rfl, ?_, ?_, rfl, rfl, rfl⟩
  · simp only [words, k, State.newCopy]
    rfl
  · simp [k, State.newCopy]
  · simp [k, State.newCopy]

/-! ### Cancel, query and definition -/

theorem toNat_low (v : W64) : (v.extractLsb' 0 16).toNat = v.toNat % 2 ^ 16 := by simp

theorem State.ccan_unknown {s : State} {g : BitVec 3} {d a : BitVec 5} (hg : s.pr g = true)
    (h : s.eng.copies.find? (fun k => k.handle == ((s.xr a).extractLsb' 0 16).toNat) = none) :
    exec (.ccan g d a) s = .next (s.answerX d { dest := .x d 1#64, togo := 6 }) := by
  rw [toNat_low] at h
  change execCcan g d a s = _
  rw [execCcan, anyOp_of_guard hg]
  simp only [h]
  rfl

theorem State.ccan_outstanding {s : State} {g : BitVec 3} {d a : BitVec 5} (hg : s.pr g = true) {k : Copy}
    (h : s.eng.copies.find? (fun k => k.handle == ((s.xr a).extractLsb' 0 16).toNat) = some k) :
    exec (.ccan g d a) s =
      .next ((s.modOwnEng (fun e => e.modCopy k.slot (fun k => { k with cancelling := true }))).answerX d
        { dest := .x d 0#64, togo := 6, arrived := false, awaits := .cancel ((s.xr a).extractLsb' 0 16).toNat }) := by
  rw [toNat_low] at h ⊢
  change execCcan g d a s = _
  rw [execCcan, anyOp_of_guard hg]
  simp only [h]
  rfl

/-- A result that another unit determines: whether it comes late is the environment's choice. -/
theorem State.lateAnswer_spec (s : State) (d : BitVec 5) (v : W64) :
    let t := s.lateCode.2.answerX d { dest := .x d v, togo := 6, arrived := s.lateCode.1 == 0 }
    t.bundle = s.bundle ∧ t.mem = s.mem ∧ (∀ n, t.ctx n = s.ctx n) ∧ t.scalar.pend = s.scalar.pend ++
      if d = 0#5 then [] else [{ dest := .x d v, togo := 6, arrived := s.lateCode.1 == 0, slot := s.bundle.slot }] := by
  obtain ⟨late, h⟩ := s.lateCode_eq
  dsimp only
  rw [h, State.answerX_pend, State.answerX_bundle, State.answerX_mem]
  exact ⟨rfl, rfl, fun n => State.answerX_ctx _ _ _ n, rfl⟩

theorem State.exec_cqry {s : State} {g : BitVec 3} {d a : BitVec 5} (hg : s.pr g = true) :
    exec (.cqry g d a) s = .next (s.lateCode.2.answerX d {
      dest := .x d (BitVec.ofNat 64 (s.eng.query ((s.xr a).extractLsb' 0 16).toNat)), togo := 6, arrived := s.lateCode.1 == 0 }) := by
  rw [toNat_low]
  change execCqry g d a s = _
  rw [execCqry, anyOp_of_guard hg]
  simp only [State.lateNext, bne, Bool.not_not]
  rfl

/-- CQRY's word of an outstanding command: bits 63 and 62 above the bytes done. -/
theorem Engine.query_outstanding {e : Engine} {h : Nat} {k : Copy} (find : e.copies.find? (fun k => k.handle == h) = some k) :
    let v := BitVec.ofNat 64 (e.query h)
    v.getLsbD 63 = true ∧ v.getLsbD 62 = true ∧ v.extractLsb' 0 40 = BitVec.ofNat 40 k.done := by
  have word : e.query h = 2 ^ 63 + 2 ^ 62 + k.done % 2 ^ 40 := by simp only [Engine.query, find]
  have bits (n : Nat) (hn : n < 64) : (BitVec.ofNat 64 (e.query h)).getLsbD n = decide (e.query h / 2 ^ n % 2 = 1) := by
    rw [BitVec.getLsbD_ofNat, Nat.testBit_eq_decide_div_mod_eq, decide_eq_true hn, Bool.true_and]
  refine ⟨?_, ?_, ?_⟩
  · rw [bits 63 (by decide), word]
    simp only [decide_eq_true_eq]
    omega
  · rw [bits 62 (by decide), word]
    simp only [decide_eq_true_eq]
    omega
  · apply BitVec.eq_of_toNat_eq
    rw [word]
    simp only [BitVec.extractLsb'_toNat, BitVec.toNat_ofNat, Nat.shiftRight_zero]
    omega

theorem Engine.query_never {e : Engine} {h : Nat} (copies : e.copies = []) (last : find? e.last (h % 32) = none) :
    e.query h = 0 := by
  simp [Engine.query, copies, last]

theorem State.exec_bdef {s : State} {g : BitVec 3} {d a b l : BitVec 5} (hg : s.pr g = true)
    (hj : ∀ n, s.focus ≠ .jig n) {v : Nat} {bufs : List SwapBuf}
    (h : s.defineBuf s.stream s.view.nlbay (s.xr a) (s.xr b) (s.xr l) = (v, bufs)) :
    ∃ t, exec (.bdef g d a b l) s = .next t ∧ t.bundle = s.bundle ∧ t.mem = s.mem ∧ (t.ctx s.stream).bufs = bufs ∧
      t.scalar.pend = s.scalar.pend ++ if d = 0#5 then [] else
        [{ dest := .x d (BitVec.ofNat 64 v), togo := 6, arrived := s.lateCode.1 == 0, slot := s.bundle.slot }] := by
  have stream : s.view.stream = s.stream := by
    unfold State.view State.stream State.my State.me
    cases hf : s.focus with
    | jig n => exact absurd hf (hj n)
    | core n => rfl
    | seq n => rfl
  let s' := s.setCtx s.stream { s.ctx s.stream with bufs := bufs }
  refine ⟨s'.lateCode.2.answerX d { dest := .x d (BitVec.ofNat 64 v), togo := 6, arrived := s'.lateCode.1 == 0 }, ?_, ?_⟩
  · change execBdef g d a b l s = _
    rw [execBdef, anyOp_of_guard hg]
    simp only [stream, h, State.lateNext, bne, Bool.not_not]
    rfl
  · obtain ⟨bundle, mem, ctx, pend⟩ := s'.lateAnswer_spec d (BitVec.ofNat 64 v)
    have code : s'.lateCode.1 = s.lateCode.1 := State.lateCode_congr rfl
    have scalar : s'.scalar = s.scalar := rfl
    exact ⟨bundle, mem, (ctx _).symm ▸ congrArg Context.bufs (s.ctx_setCtx _ _), code ▸ scalar ▸ pend⟩

theorem halfInRange_of_low {n : Nat} {a l : W64} (h : a.toNat + l.toNat ≤ 13 * 2 ^ 48) (hl : 0 < l.toNat) :
    halfInRange n a l = true := by
  simp only [halfInRange, Bool.or_eq_true, decide_eq_true_eq]
  omega

theorem halfInRange_of_high {n : Nat} {a l : W64} (h : 2 ^ 52 ≤ a.toNat) (hn : n ≤ 128) : halfInRange n a l = false := by
  simp only [halfInRange, Bool.or_eq_false_iff, Bool.and_eq_false_iff, decide_eq_false_iff_not]
  omega

section
variable {s : State} {n m : Nat} {a b l : W64}

theorem State.defineBuf_new (ha : a.toNat + l.toNat ≤ 13 * 2 ^ 48) (hb : b.toNat + l.toNat ≤ 13 * 2 ^ 48)
    (ha' : a.toNat % 128 = 0) (hb' : b.toNat % 128 = 0) (hl' : l.toNat % 128 = 0) (hl : 0 < l.toNat) (hl39 : l.toNat ≤ 2 ^ 39)
    (none : (s.ctx n).bufs = []) (clear : a.toNat + l.toNat ≤ b.toNat ∨ b.toNat + l.toNat ≤ a.toNat) :
    s.defineBuf n m a b l = (0, [{ a := a.toNat, b := b.toNat, units := l.toNat / 128 }]) := by
  have nonzero : l ≠ 0#64 := fun h => by simp [h] at hl
  have aligned : ¬ (a.toNat % 128 ≠ 0 ∨ b.toNat % 128 ≠ 0 ∨ l.toNat % 128 ≠ 0 ∨ 2 ^ 39 < l.toNat) := by omega
  have apart : rangesMeet a.toNat l.toNat b.toNat l.toNat = false := by
    simp only [rangesMeet, Bool.and_eq_false_iff, decide_eq_false_iff_not]
    omega
  rw [State.defineBuf, if_neg nonzero, halfInRange_of_low ha hl, halfInRange_of_low hb hl]
  simp only [aligned, apart, none, if_false]
  rfl

theorem State.defineBuf_outOfRange (hl : 0 < l.toNat) (ha : 2 ^ 52 ≤ a.toNat) (hm : m ≤ 128) :
    s.defineBuf n m a b l = (4, (s.ctx n).bufs) := by
  have nonzero : l ≠ 0#64 := fun h => by simp [h] at hl
  rw [State.defineBuf, if_neg nonzero, halfInRange_of_high ha hm]
  rfl

theorem State.defineBuf_remove {x : SwapBuf} (hl : l.toNat = 0) (find : (s.ctx n).bufs.find? (fun x => x.a == a.toNat) = some x)
    (renamed : x.renamed = none) (held : s.heldHalf n x.a false = false) (held' : s.heldHalf n x.a true = false) :
    s.defineBuf n m a b l = (0, (s.ctx n).bufs.filter (fun x => x.a != a.toNat)) := by
  have zero : l = 0#64 := BitVec.eq_of_toNat_eq hl
  rw [State.defineBuf, if_pos zero]
  simp only [find, renamed, held, held']
  rfl

end

/-! ### The obligation -/

/-- Settles O33: an issue goes through `State.issueCopy`; CCAN, CQRY and BDEF answer by what their table holds. -/
theorem copiesIssueAndControl : Obligations.CopiesIssueAndControl := by
  constructor
  · intro s g d a y l e f h q ty m dir tgt port rs hg hj room
    have issues {i : Instr} {op : Nat} {d a b l e : BitVec 5}
        (step : exec i s = .next (if s.pr g then s.issueCopy op i d a b l e else s)) (allowed : s.copyAllowed i a b e)
        (multi : op = 4 → ∃ g d a b f l e m, i = .cpym g d a b f l e m)
        (queue : op = 5 → ∃ g d a b f l e, i = .cpyq g d a b f l e)
        (words : ∃ v w, encode s.bundle.first i = [v, w]) : ∃ t, exec i s = .next t ∧ CopyIssued s t i d a b l e :=
      ⟨_, by rw [step, if_pos hg], State.issueCopy_spec hj room allowed multi queue words⟩
    refine ⟨fun c => ?_, fun c => ?_, fun c => ?_, fun c => ?_, fun c => ?_, fun c => ?_, fun c => ?_, fun c => ?_,
      fun c peer => ?_, fun c => ?_⟩
    · exact issues (op := 0) rfl c nofun nofun ⟨_, _, rfl⟩
    · exact issues (op := 1) rfl c nofun nofun ⟨_, _, rfl⟩
    · exact issues (op := 2) rfl c nofun nofun ⟨_, _, rfl⟩
    · exact issues (op := 3) rfl c nofun nofun ⟨_, _, rfl⟩
    · exact issues (op := 4) rfl c (fun _ => ⟨_, _, _, _, _, _, _, _, rfl⟩) nofun ⟨_, _, rfl⟩
    · exact issues (op := 5) rfl c nofun (fun _ => ⟨_, _, _, _, _, _, _, rfl⟩) ⟨_, _, rfl⟩
    · exact issues (op := 6) rfl c nofun nofun ⟨_, _, rfl⟩
    · exact issues (op := 7) rfl c nofun nofun ⟨_, _, rfl⟩
    · have unprivileged : ¬ (tgt = 1#1 ∧ s.mode = .point) := fun ⟨t, p⟩ => peer t p
      refine issues (op := 8) ?_ c nofun nofun ⟨_, _, rfl⟩
      change execCph g d a y f l e dir tgt port rs s = _
      rw [execCph, anyOp, if_neg unprivileged]
    · exact issues (op := 10) rfl c nofun nofun ⟨_, _, rfl⟩
  · intro s g d a y l hg hj
    dsimp only
    refine ⟨State.ccan_unknown hg, fun k find => ?_, ?_, ?_, ?_, ?_⟩
    · refine ⟨_, State.ccan_outstanding hg find, ?_⟩
      obtain ⟨eng, scalar, focus, bundle, mem⟩ :=
        State.modOwnEng_spec hj fun e => e.modCopy k.slot fun k => { k with cancelling := true }
      rw [State.answerX_bundle, State.answerX_mem, State.answerX_pend, scalar, bundle, mem,
        State.answerX_eng (fun n => focus ▸ hj n), eng]
      refine ⟨rfl, rfl, fun k' mem' slot => ?_, rfl⟩
      obtain ⟨j, -, rfl⟩ := List.mem_map.mp mem'
      by_cases hk : j.slot = k.slot
      · rw [if_pos hk]
      · rw [if_neg hk] at slot
        exact absurd slot hk
    · let v := BitVec.ofNat 64 (s.eng.query ((s.xr a).extractLsb' 0 16).toNat)
      obtain ⟨bundle, mem, -, pend⟩ := s.lateAnswer_spec d v
      refine ⟨_, v, State.exec_cqry hg, ?_⟩
      exact ⟨bundle, mem, pend, fun k find => Engine.query_outstanding find,
        fun copies last => congrArg (BitVec.ofNat 64) (Engine.query_never copies last)⟩
    · intro ha hb ha' hb' hl' hl hl39 none clear
      exact State.exec_bdef hg hj (State.defineBuf_new ha hb ha' hb' hl' hl hl39 none clear)
    · intro hl ha hn
      exact State.exec_bdef hg hj (State.defineBuf_outOfRange hl ha hn)
    · intro x hl find renamed held held'
      exact State.exec_bdef hg hj (State.defineBuf_remove hl find renamed held held')

end Sys2Proof.Machine
end

section
/-! PROOFS. Micro-words that load planes and stream operands. -/
namespace Sys2Proof.Machine
open Sys2Proof.Bits

/-! ### A micro-word of the running call -/

/-- A shadow load does not touch the call. -/
theorem Matrix.load_call (m : Matrix) (c : Option Call) (n : Nat) :
    ({ m with call := c } : Matrix).load n = { m.load n with call := c } := by
  unfold Matrix.load
  dsimp only
  split
  · rfl
  · split <;> rfl

theorem State.modMy_of_me {s : State} {n : Nat} (h : s.me = n) (f : Core → Core) : s.modMy f = s.modCore n f := by
  rw [State.modMy, h]

/-- What a word leaves of the core whose jig takes it, before its cycles pass: the matrix unit as `m` leaves it. -/
def MicroLeft (s : State) (n : Nat) (m : Matrix → Matrix) (s' : State) : Prop :=
  s'.focus = s.focus ∧ s'.core n = { s.core n with mx := m (s.core n).mx } ∧ (∀ k, k ≠ n → s'.core k = s.core k)

section
variable {s : State} {n : Nat} {c : Call} (hf : s.focus = .jig n) (hc : (s.core n).mx.call = some c)
include hf

theorem State.my_jig : s.my = s.core n := by rw [State.my, State.me, hf]

omit hf in
theorem MicroLeft.refl : MicroLeft s n id s := ⟨rfl, rfl, fun _ _ => rfl⟩

theorem microLeft_modMx (m : Matrix → Matrix) : MicroLeft s n m (s.modMx m) := by
  have me : s.me = n := by rw [State.me, hf]
  refine ⟨rfl, ?_, fun k hk => ?_⟩
  · rw [State.modMx, State.modMy, me, State.core_modCore]
  · rw [State.modMx, State.modMy, me, State.core_modCore_ne _ _ hk]

include hc

/-- The cycles of a word pass: the call is put back with them, and the shadow load goes on beside. -/
theorem MicroLeft.went {m : Matrix → Matrix} {s' : State} (left : MicroLeft s n m s') (c' : Call) (cycles : Nat)
    (start : c'.cycles = c.cycles) :
    MicroWent s n { c' with cycles := c.cycles + cycles } m (s'.passCycles c' cycles) := by
  obtain ⟨focus, core, others⟩ := left
  have me : s'.me = n := by rw [State.me, focus, hf]
  have put : s'.passCycles c' cycles =
      (s'.modCore n (fun k => { k with mx := { k.mx with call := some { c' with cycles := c'.cycles + cycles } } })).modCore n
        (fun k => { k with mx := k.mx.load cycles }) := by
    rw [State.passCycles, State.setCall, State.modMy_of_me me]
    exact State.modMy_of_me (s := s'.modCore n _) me _
  have mine : (s'.passCycles c' cycles).core n = { s.core n with mx :=
      { (m (s.core n).mx).load cycles with call := some { c' with cycles := c.cycles + cycles } } } := by
    rw [put, State.core_modCore, State.core_modCore, core, Matrix.load_call, start]
  have passed : c.cycles + cycles - ((s.core n).mx.call.map (·.cycles)).getD 0 = cycles := by
    rw [hc]
    exact Nat.add_sub_cancel_left ..
  have focus' : (s'.passCycles c' cycles).focus = .jig n := by
    rw [put]
    exact focus.trans hf
  refine ⟨?_, by rw [mine], ?_, fun k hk => ?_⟩
  · rw [mine, passed]
  · simp only [State.scalar, focus', hf, mine]
  · rw [put, State.core_modCore_ne _ _ hk, State.core_modCore_ne _ _ hk, others k hk]

theorem micro_go {k : State → Call → Micro} {s' : State} {c' : Call} {cycles : Nat} (step : k s c = .go s' c' cycles)
    (bound : c.cycles + cycles ≤ (s.core n).depthOf c) :
    micro s k = .next (s'.passCycles { c' with stuck := none } cycles) := by
  rw [← State.my_jig hf] at hc bound
  simp only [micro, hc, step, if_neg (Nat.not_lt.mpr bound)]

theorem micro_wait {k : State → Call → Micro} (step : k s c = .wait) (bound : c.cycles + 1 < (s.core n).depthOf c) :
    micro s k = .next (s.passCycles { c with stuck := none } 1) := by
  rw [← State.my_jig hf] at hc bound
  simp only [micro, hc, step, if_neg (Nat.not_le.mpr bound)]

end

theorem Call.using_of_sound {c : Call} {p : BitVec 3} (sound : c.spoilt.contains p.toNat = false) (k : W64 → Micro) :
    c.using_ p k = k (c.ptr p) := by
  rw [Call.using_, sound]
  rfl

/-! ### Planes and banks -/

section
variable {s : State} {n : Nat} {c : Call} (hf : s.focus = .jig n) (hc : (s.core n).mx.call = some c)
include hf hc

/-- A word of one cycle that changes the matrix unit alone. -/
theorem micro_modMx {k : State → Call → Micro} {m : Matrix → Matrix} (step : k s c = .go (s.modMx m) c.step 1)
    (bound : c.cycles + 1 ≤ (s.core n).depthOf c) : ∃ t, micro s k = .next t ∧ t.mem = s.mem ∧
      MicroWent s n { c with cycles := c.cycles + 1, stuck := none, idx := c.idx + 1 } m t :=
  ⟨_, micro_go hf hc step bound, rfl, (microLeft_modMx hf m).went hf hc { c.step with stuck := none } 1 rfl⟩

/-- A word that waits takes a cycle of its call. -/
theorem micro_waits {k : State → Call → Micro} (step : k s c = .wait) (bound : c.cycles + 1 < (s.core n).depthOf c) :
    ∃ t, micro s k = .next t ∧ t.mem = s.mem ∧ MicroWent s n { c with cycles := c.cycles + 1, stuck := none } id t :=
  ⟨_, micro_wait hf hc step bound, rfl, MicroLeft.refl.went hf hc { c with stuck := none } 1 rfl⟩

section
variable (bound : c.cycles + 1 ≤ (s.core n).depthOf c)
include bound

theorem exec_jLdw {p : BitVec 3} {f : BitVec 4} {bs : List Byte} (loading : (s.core n).mx.loading = false)
    (loaded : (s.core n).mx.loaded = false) (sound : c.spoilt.contains p.toNat = false)
    (read : s.callRead c (c.ptr p) (tileSize f.toNat) 128 = .ok bs) : ∃ t, exec (.jLdw p f) s = .next t ∧ t.mem = s.mem ∧
      MicroWent s n { c with cycles := c.cycles + 1, stuck := none, idx := c.idx + 1 } (fun m => { m with
        shadow := some ⟨f.toNat, bs, 0⟩, loading := true,
        loadLeft := s.loadCycles c (c.ptr p).toNat (tileSize f.toNat) }) t := by
  rw [← State.my_jig hf] at loading loaded
  change ∃ t, execJLdw p f s = .next t ∧ _
  unfold execJLdw
  refine micro_modMx hf hc ?_ bound
  simp only [loading, loaded, Call.using_of_sound sound, read]
  rfl

theorem exec_jSwapw (loading : (s.core n).mx.loading = false) : ∃ t, exec .jSwapw s = .next t ∧ t.mem = s.mem ∧
    MicroWent s n { c with cycles := c.cycles + 1, stuck := none, idx := c.idx + 1 }
      (fun m => { m with cur := m.shadow, shadow := m.cur, loaded := false }) t := by
  rw [← State.my_jig hf] at loading
  change ∃ t, execJSwapw s = .next t ∧ _
  unfold execJSwapw
  refine micro_modMx hf hc ?_ bound
  simp only [loading]
  rfl

theorem exec_jSkipmap {p : BitVec 3} {w : Plane} {bs : List Byte} (shadow : (s.core n).mx.shadow = some w)
    (sound : c.spoilt.contains p.toNat = false)
    (read : s.callRead c (c.ptr p) (if w.fmt = 11 then 32 else 16) 16 = .ok bs) :
    ∃ t, exec (.jSkipmap p) s = .next t ∧ t.mem = s.mem ∧
      MicroWent s n { c with cycles := c.cycles + 1, stuck := none, idx := c.idx + 1 }
        (fun m => { m with shadow := some { w with skip := leNat bs } }) t := by
  have here : s.my.mx.shadow = some w := by rw [State.my_jig hf, shadow]
  obtain ⟨t, step, mem, mx, rest⟩ := micro_modMx hf hc (k := fun s c => .go (s.modMx fun m => { m with
    shadow := m.shadow.map (fun w => { w with skip := leNat bs }) }) c.step 1) rfl bound
  refine ⟨t, ?_, mem, ?_, rest⟩
  · rw [← step]
    change execJSkipmap p s = _
    simp only [execJSkipmap, micro, State.my_jig hf, hc, shadow, Call.using_of_sound sound, read]
  · rw [mx]
    simp only [shadow]
    rfl

theorem exec_jAccz (k ty : BitVec 1) : ∃ t, exec (.jAccz k ty) s = .next t ∧ t.mem = s.mem ∧
    MicroWent s n { c with cycles := c.cycles + 1, stuck := none, idx := c.idx + 1 }
      (fun m => m.setBank k ⟨ty == 1#1, []⟩) t := by
  change ∃ t, execJAccz k ty s = .next t ∧ _
  unfold execJAccz
  exact micro_modMx hf hc rfl bound

end

end

/-! ### Rows through a plane -/

theorem Bank.row_put_self (b : Bank) (r : Nat) (v : List W32) : ({ b with rows := put b.rows r v } : Bank).row r = v := by
  simp [Bank.row]
theorem Bank.row_put_ne (b : Bank) {r i : Nat} (v : List W32) (h : i ≠ r) :
    ({ b with rows := put b.rows r v } : Bank).row i = b.row i := by
  simp only [Bank.row, find?_put_ne _ _ h]

/-- Without a check mismatch each row of a stream passes once, on what its accumulator row held. -/
theorem streamRows_sound {int : Bool} {p : Plane} {el : Nat → Nat → FVal} {groups : Nat → List Nat} {org pass0 : Nat}
    {bad : Nat → Bool} (sound : ∀ q, bad q = false) (rs : List Nat) (distinct : rs.Nodup) (b : Bank) :
    ∃ b' fl, streamRows int p el groups org bad pass0 rs b = (some b', fl) ∧ b'.int = b.int ∧
      (∀ r ∈ rs, b'.row (org + r) = (passRow int p (el r) (groups (r / 8)) (b.row (org + r))).1) ∧
      ∀ x, (∀ r ∈ rs, x ≠ org + r) → b'.row x = b.row x := by
  induction rs generalizing b with
  | nil => exact ⟨b, _, rfl, rfl, nofun, fun _ _ => rfl⟩
  | cons r rs ih =>
    obtain ⟨fresh, distinct⟩ := List.nodup_cons.mp distinct
    let out := passRow int p (el r) (groups (r / 8)) (b.row (org + r))
    let b1 : Bank := { b with rows := put b.rows (org + r) out.1 }
    obtain ⟨b', fl, run, hint, inside, outside⟩ := ih distinct b1
    have later (i : Nat) (hi : i ∈ rs) : org + i ≠ org + r := fun h => fresh (Nat.add_left_cancel h ▸ hi)
    refine ⟨b', out.2 ||| fl, ?_, hint, fun i hi => ?_, fun x hx => ?_⟩
    · simp only [streamRows, sound, Bool.false_eq_true, if_false]
      rw [run]
    · rcases List.mem_cons.mp hi with rfl | hi
      · rw [outside _ fun j hj h => later j hj h.symm]
        exact b.row_put_self _ _
      · rw [inside i hi]
        exact congrArg (fun l => (passRow int p (el i) (groups (i / 8)) l).1) (b.row_put_ne _ (later i hi))
    · rw [outside x fun j hj => hx j (List.mem_cons_of_mem _ hj)]
      exact b.row_put_ne _ (hx r List.mem_cons_self)

/-- Where the whole stream fits, each of its blocks does. -/
theorem blocks_fit {upTo : Nat → Nat} (mono : Monotone upTo) {blocks slip room : Nat} (fits : slip + upTo blocks ≤ room) :
    ((List.range blocks).filter (fun b => decide (slip + upTo (b + 1) ≤ room))).length = blocks := by
  have all : (List.range blocks).filter (fun b => decide (slip + upTo (b + 1) ≤ room)) = List.range blocks := by
    refine List.filter_eq_self.mpr fun b hb => ?_
    have : upTo (b + 1) ≤ upTo blocks := mono (Nat.succ_le_of_lt (List.mem_range.mp hb))
    simp only [decide_eq_true_eq]
    omega
  rw [all, List.length_range]

/-- The cycles of a stream's first blocks, added one after another. -/
theorem foldl_blocks_eq_sum (f : Nat → Nat) (n : Nat) :
    (List.range n).foldl (fun t b => t + f b) 0 = ((List.range n).map f).sum := by
  rw [List.sum_eq_foldl, List.foldl_map]

theorem sum_range_monotone (f : Nat → Nat) : Monotone fun n => ((List.range n).map f).sum :=
  monotone_nat_of_le_succ fun n => by simp [List.range_succ]

/-- The cycles of the first `n` blocks of a stream of R rows (R193, R375). -/
def streamCycles (rows groups : Nat) (act : Nat → List Nat) (wide : Bool) (n : Nat) : Nat :=
  ((List.range n).map (fun b => blockCycles (min 8 (rows - 8 * b)) (act b).length groups wide)).sum

/-- J.STRM that its call's depth leaves room for: all its rows go into the bank, and the call goes on. -/
theorem exec_jStrm {s : State} {n : Nat} {c : Call} (hf : s.focus = .jig n) (hc : (s.core n).mx.call = some c)
    {p q : BitVec 3} {f : BitVec 4} {k : BitVec 1} {r : BitVec 8} {o : BitVec 5} {e : BitVec 1} {w : Plane}
    {data map : List Byte} {act : Nat → List Nat} (cur : (s.core n).mx.cur = some w)
    (int : ((s.core n).mx.bank k).int = accumulatesInt w.fmt f.toNat) (soundP : c.spoilt.contains p.toNat = false)
    (soundQ : e = 1#1 → c.spoilt.contains q.toNat = false)
    (read : s.streamRead c (c.ptr p) (streamSize f.toNat (planeK w.fmt) (r.toNat + 1)) = .ok data)
    (readMap : (if e = 1#1 then s.callRead c (c.ptr q) (ceilDiv (planeK w.fmt / 8 * ceilDiv (r.toNat + 1) 8) 64 * 8) 8
      else .ok []) = .ok map)
    (hact : act = activeGroups w.skip (leNat map) (planeK w.fmt / 8)) (sound : s.health.checkBad = [])
    {cost : Nat} (hcost : cost = s.retireCuts.headD 0 + streamCycles (r.toNat + 1) (planeK w.fmt / 8) act
      (fmtWidth w.fmt == 16 || fmtWidth f.toNat == 16) (ceilDiv (r.toNat + 1) 8))
    (bound : c.cycles + cost ≤ (s.core n).depthOf c) :
    ∃ t b fl, exec (.jStrm p f k r o e q) s = .next t ∧ t.mem = s.mem ∧
      streamRows (accumulatesInt w.fmt f.toNat) w (fun r' i => operandElem f.toNat data ((r.toNat + 1) * planeK w.fmt / 2)
        (r' * planeK w.fmt + i)) act (8 * o.toNat) (fun q => s.health.checkBad.contains (s.me, q)) c.passes
        (List.range (r.toNat + 1)) ((s.core n).mx.bank k) = (some b, fl) ∧
      MicroWent s n { c with cycles := c.cycles + cost, stuck := none, idx := c.idx + 1, passes := c.passes + (r.toNat + 1) }
        (fun m => { m.setBank k b with mstat := m.mstat ||| fl }) t := by
  obtain ⟨b, fl, run, -⟩ := streamRows_sound (int := accumulatesInt w.fmt f.toNat) (p := w) (el := fun r' i => operandElem
    f.toNat data ((r.toNat + 1) * planeK w.fmt / 2) (r' * planeK w.fmt + i)) (groups := act) (org := 8 * o.toNat)
    (bad := fun q => s.health.checkBad.contains (s.me, q)) (pass0 := c.passes) (by simp [sound]) (List.range (r.toNat + 1))
    List.nodup_range ((s.core n).mx.bank k)
  let s1 : State := { s with retireCuts := s.retireCuts.tail }
  let m (m : Matrix) : Matrix := { m.setBank k b with mstat := m.mstat ||| fl }
  have left : MicroLeft s n m (s1.modMx m) := microLeft_modMx (s := s1) hf m
  have mine : ({ s with retireCuts := s.retireCuts.tail } : State).my = s.core n := State.my_jig (s := s1) hf
  have me : ({ s with retireCuts := s.retireCuts.tail } : State).me = s.me := rfl
  have fit : ((List.range (ceilDiv (r.toNat + 1) 8)).filter (fun i => decide (s.retireCuts.headD 0 + (List.range (i + 1)).foldl
      (fun t b => t + blockCycles (min 8 (r.toNat + 1 - 8 * b)) (act b).length (planeK w.fmt / 8)
        (fmtWidth w.fmt == 16 || fmtWidth f.toNat == 16)) 0 ≤ (s.core n).depthOf c - c.cycles))).length =
      ceilDiv (r.toNat + 1) 8 := by
    simp only [foldl_blocks_eq_sum]
    refine blocks_fit (sum_range_monotone _) ?_
    rw [streamCycles] at hcost
    omega
  have whole : min (r.toNat + 1) (8 * ceilDiv (r.toNat + 1) 8) = r.toNat + 1 := by
    unfold ceilDiv
    omega
  change ∃ t b fl, execJStrm p f k r o e q s = .next t ∧ _
  unfold execJStrm
  refine ⟨_, b, fl, micro_go hf hc (s' := s1.modMx m)
    (c' := { c.step with passes := c.passes + (r.toNat + 1) }) (cycles := cost) ?_ bound, rfl, run,
    left.went hf hc { c.step with passes := c.passes + (r.toNat + 1), stuck := none } cost rfl⟩
  have total : s.retireCuts.headD 0 + (List.range (ceilDiv (r.toNat + 1) 8)).foldl
      (fun t b => t + blockCycles (min 8 (r.toNat + 1 - 8 * b)) (act b).length (planeK w.fmt / 8)
        (fmtWidth w.fmt == 16 || fmtWidth f.toNat == 16)) 0 = cost := by
    rw [hcost, foldl_blocks_eq_sum]
    rfl
  subst hact
  by_cases he : e = 1#1
  · simp only [if_pos he] at readMap
    simp only [State.my_jig hf, cur, int, ne_eq, not_true, if_false, Call.using_of_sound soundP, if_pos he,
      Call.using_of_sound (soundQ he), read, readMap, mine, me, fit, whole, run, Nat.lt_irrefl, total]
    rfl
  · simp only [if_neg he] at readMap
    simp only [State.my_jig hf, cur, int, ne_eq, not_true, if_false, Call.using_of_sound soundP, if_neg he,
      read, readMap, mine, me, fit, whole, run, Nat.lt_irrefl, total]
    rfl

/-- A stream from its first row on, row by row of the bank. -/
theorem streamRows_range {int : Bool} {p : Plane} {el : Nat → Nat → FVal} {groups : Nat → List Nat} {org pass0 rows : Nat}
    {bad : Nat → Bool} (sound : ∀ q, bad q = false) {b b' : Bank} {fl : BitVec 9}
    (run : streamRows int p el groups org bad pass0 (List.range rows) b = (some b', fl)) :
    b'.int = b.int ∧ ∀ x, b'.row x = if org ≤ x ∧ x < org + rows then
      (passRow int p (el (x - org)) (groups ((x - org) / 8)) (b.row x)).1 else b.row x := by
  obtain ⟨b1, fl1, run1, hint, inside, outside⟩ :=
    streamRows_sound (int := int) (p := p) (el := el) (groups := groups) (org := org) (pass0 := pass0) sound
      (List.range rows) List.nodup_range b
  cases run.symm.trans run1
  refine ⟨hint, fun x => ?_⟩
  split
  case isTrue h =>
    have := inside (x - org) (List.mem_range.mpr (by omega))
    rwa [Nat.add_sub_cancel' h.1] at this
  case isFalse h =>
    refine outside x fun r hr => ?_
    have := List.mem_range.mp hr
    omega

/-- Settles O41: each word takes its step through `micro`; a stream that its call's depth leaves room for passes each of
its rows once. -/
theorem jigPlanesAndStreams : Obligations.JigPlanesAndStreams := by
  intro s n c p q f k ty e r o hf hc bound
  dsimp only
  refine ⟨fun bs loading loaded sound read => ?_, fun busy room => ?_, fun loading => exec_jSwapw hf hc bound loading,
    fun loading room => ?_, fun w bs shadow sound read => exec_jSkipmap hf hc bound shadow sound read, ?_, ?_⟩
  · obtain ⟨t, step, mem, went⟩ := exec_jLdw hf hc bound loading loaded sound read
    refine ⟨t, _, step, mem, ?_, went⟩
    have rate : ∀ ps, s.sliceRate ps = 512 ∨ s.sliceRate ps = 256 := fun ps => by
      unfold State.sliceRate
      split <;> simp
    unfold State.loadCycles ceilDiv
    split
    · rename_i ps _
      exact (rate ps).imp (fun h => by rw [h]; rfl) (fun h => by rw [h]; rfl)
    · exact .inr rfl
  · change ∃ t, execJLdw p f s = .next t ∧ _
    unfold execJLdw
    refine micro_waits hf hc ?_ room
    rw [← State.my_jig hf] at busy
    simp [busy]
  · change ∃ t, execJSwapw s = .next t ∧ _
    unfold execJSwapw
    refine micro_waits hf hc ?_ room
    rw [← State.my_jig hf] at loading
    simp [loading]
  · obtain ⟨t, step, mem, went⟩ := exec_jAccz hf hc bound k ty
    refine ⟨t, step, mem, ?_⟩
    exact went
  · intro w data map cur int soundP soundQ read none readMap sound room
    have blocks : ceilDiv (r.toNat + 1) 8 = (r.toNat + 8) / 8 := rfl
    have readMap' : (if e = 1#1 then s.callRead c (c.ptr q) (ceilDiv (planeK w.fmt / 8 * ceilDiv (r.toNat + 1) 8) 64 * 8) 8
        else .ok []) = .ok map := by
      split
      case isTrue he =>
        rw [Nat.mul_comm _ 8]
        exact readMap he
      case isFalse he => rw [none (by bv_omega)]
    obtain ⟨t, b, fl, step, mem, run, went⟩ := exec_jStrm hf hc (k := k) (o := o) cur int soundP soundQ read readMap' rfl sound (by
      unfold streamCycles blockCycles
      simp only [Bool.or_eq_true, beq_iff_eq]
      rfl) room
    obtain ⟨hint, rows⟩ := streamRows_range (by simp [sound]) run
    refine ⟨t, _, b, fl, step, mem, went, rfl, rfl, rfl, rfl, hint, fun x => ?_⟩
    have last : x < 8 * o.toNat + (r.toNat + 1) ↔ x ≤ 8 * o.toNat + r.toNat := Nat.lt_succ_iff
    rw [rows x, hint, int]
    simp only [last]

end Sys2Proof.Machine
end

section
/-! PROOFS. What accesses to memory leave as it was: the agents, but for their logical times, waits and L1 copies. -/
namespace Sys2Proof.Machine
open Sys2Proof.Bits

/-- A core but for what an access to memory may change of it: its logical times, its no-return atomics on their way, its
wait, the cause of its freeze and its L1 copies. -/
def Core.kept (c : Core) : Core :=
  { c with pts := 0, nr := [], nrTop := 0, wait := .none, woken := false, lateWhy := 0, l1 := [] }
/-- A command sequencer but for its logical time. -/
def Seq.kept (q : Seq) : Seq := { q with pts := 0 }

/-- Accesses to memory lead from one state to another: memory, lines and caches may differ, and of the agents what
`Core.kept` and `Seq.kept` leave out. -/
structure State.ByAccess (s t : State) : Prop where
  focus : t.focus = s.focus
  bundle : t.bundle = s.bundle
  inp : t.inp = s.inp
  late : t.late = s.late
  core : ∀ n, (t.core n).kept = (s.core n).kept
  seq : ∀ n, (t.seq n).kept = (s.seq n).kept

namespace State.ByAccess

theorem refl (s : State) : s.ByAccess s := ⟨rfl, rfl, rfl, rfl, fun _ => rfl, fun _ => rfl⟩

theorem trans {s t u : State} (h : s.ByAccess t) (h' : t.ByAccess u) : s.ByAccess u :=
  ⟨h'.focus.trans h.focus, h'.bundle.trans h.bundle, h'.inp.trans h.inp, h'.late.trans h.late,
    fun n => (h'.core n).trans (h.core n), fun n => (h'.seq n).trans (h.seq n)⟩

theorem foldl {β : Type} {f : State → β → State} (hf : ∀ (s : State) b, s.ByAccess (f s b)) (l : List β) (s : State) :
    s.ByAccess (l.foldl f s) :=
  List.foldlRecOn (motive := s.ByAccess) l f (refl s) fun t ht b _ => ht.trans (hf t b)

theorem of_homes {s t : State} (h : s.SameButHomes t) : s.ByAccess t := by
  rw [h]
  exact ⟨rfl, rfl, rfl, rfl, fun _ => rfl, fun _ => rfl⟩

variable {s t : State} (h : s.ByAccess t)
include h

theorem me : t.me = s.me := by rw [State.me, h.focus, State.me]
theorem my : t.my.kept = s.my.kept := by rw [State.my, h.me, State.my, h.core]
theorem withheld : t.my.withheld = s.my.withheld := by
  simpa only [Core.kept] using congrArg Core.withheld h.my
theorem pt (n : Nat) : (t.core n).pt = (s.core n).pt := by
  simpa only [Core.kept, Seq.kept] using congrArg Core.pt (h.core n)
theorem frame (n : Nat) : (t.core n).frame = (s.core n).frame := by
  simpa only [Core.kept, Seq.kept] using congrArg Core.frame (h.core n)
theorem fr (n : Nat) : (t.core n).fr = (s.core n).fr := by
  simpa only [Core.kept, Seq.kept] using congrArg Core.fr (h.core n)
theorem sc (n : Nat) : (t.seq n).sc = (s.seq n).sc := by
  simpa only [Core.kept, Seq.kept] using congrArg Seq.sc (h.seq n)

theorem scalar : t.scalar = s.scalar := by
  unfold State.scalar
  rw [h.focus]
  cases s.focus with
  | core n => simp only [h.pt n, h.frame n, h.fr n]
  | seq n => exact h.sc n
  | jig n => simp only [h.pt n]

theorem arith : t.arith = s.arith := by
  unfold State.arith
  rw [h.focus]
  cases s.focus with
  | core n => simpa only [Core.kept] using congrArg (fun c : Core => c.pt.ar) h.my
  | seq n => simpa only [Seq.kept] using congrArg Seq.ar (h.seq n)
  | jig n => simpa only [Core.kept] using congrArg (fun c : Core => c.pt.ar) h.my

end State.ByAccess

theorem State.byAccess_modCore (s : State) (n : Nat) {f : Core → Core} (h : ∀ c, (f c).kept = c.kept) :
    s.ByAccess (s.modCore n f) := by
  refine ⟨rfl, rfl, rfl, rfl, fun m => ?_, fun _ => rfl⟩
  by_cases hm : m = n
  · rw [hm, State.core_modCore, h]
  · rw [State.core_modCore_ne s f hm]

theorem State.byAccess_setLine (s : State) (n : Nat) (l : LineRec) : s.ByAccess (s.setLine n l) :=
  ⟨rfl, rfl, rfl, rfl, fun _ => rfl, fun _ => rfl⟩

theorem State.byAccess_setPts (s : State) (t : Nat) : s.ByAccess (s.setPts t) := by
  unfold State.setPts
  split
  · next n _ =>
    refine ⟨rfl, rfl, rfl, rfl, fun _ => rfl, fun i => ?_⟩
    by_cases h : i = n
    · rw [h, State.seq_setSeq]
      rfl
    · rw [State.seq_setSeq_ne _ _ h]
  · exact s.byAccess_modCore _ fun _ => rfl

/-! ### A write joins (R226, R232, R244) -/

theorem State.byAccess_writtenBack (s : State) (line : Nat) : s.ByAccess (s.writtenBack line) := by
  unfold State.writtenBack
  extract_lets r
  split
  · exact (s.byAccess_setLine line _).trans (State.byAccess_modCore _ _ fun _ => rfl)
  · exact .refl s

theorem State.byAccess_wake (s : State) (pa : Nat) : s.ByAccess (s.wake pa) := by
  have woken (c : Core) : c.wakeHere.kept = c.kept := by
    unfold Core.wakeHere
    split <;> rfl
  unfold State.wake
  split
  · refine ⟨rfl, rfl, rfl, rfl, fun n => ?_, fun _ => rfl⟩
    have entries : s.cores.map (fun e => if e.2.watches pa then (e.1, e.2.wakeHere) else e) =
        s.cores.map (fun e => (e.1, if e.2.watches pa then e.2.wakeHere else e.2)) :=
      List.map_congr_left fun e _ => by split <;> rfl
    simp only [State.core, entries]
    rw [find?_map (fun _ (c : Core) => if c.watches pa then c.wakeHere else c)]
    cases find? s.cores n with
    | none => rfl
    | some c =>
      simp only [Option.map_some, Option.getD_some]
      split
      · exact woken c
      · rfl
  · exact .refl s

theorem State.byAccess_covered (s : State) (sec line : Nat) (bytes : List (Nat × Byte)) (leaf : Option Nat) :
    s.ByAccess ((s.noteKey sec leaf).coverWords line bytes) := by
  have key : s.ByAccess (s.noteKey sec leaf) := by
    unfold State.noteKey
    split
    · exact .refl s
    · split
      · exact ⟨rfl, rfl, rfl, rfl, fun _ => rfl, fun _ => rfl⟩
      · split
        · exact .refl s
        · exact ⟨rfl, rfl, rfl, rfl, fun _ => rfl, fun _ => rfl⟩
  refine key.trans ?_
  unfold State.coverWords
  split
  · exact .refl _
  · exact ⟨rfl, rfl, rfl, rfl, fun _ => rfl, fun _ => rfl⟩

theorem State.byAccess_setDirty (s : State) (leaf : Option Nat) : s.ByAccess (s.setDirty leaf) := by
  unfold State.setDirty
  split
  · exact .refl s
  · split
    · exact .refl s
    · exact .trans (.of_homes (s.sameButHomes_touchLine _)) ⟨rfl, rfl, rfl, rfl, fun _ => rfl, fun _ => rfl⟩

theorem State.byAccess_join (s : State) (line w : Nat) (bytes : List (Nat × Byte)) (leaf : Option Nat) :
    s.ByAccess (s.join line w bytes leaf) := by
  unfold State.join
  extract_lets r s1 s2 s3 s4
  have written : s.ByAccess s3 := (s.byAccess_setDirty leaf).trans ⟨rfl, rfl, rfl, rfl, fun _ => rfl, fun _ => rfl⟩
  exact (written.trans (s3.byAccess_covered _ line bytes leaf)).trans (.foldl (fun s b => s.byAccess_wake _) _ _)

theorem State.byAccess_joinOutside (s : State) (pa time : Nat) (bytes : List (Nat × Byte)) (leaf : Option Nat) :
    s.ByAccess (s.joinOutside pa time bytes leaf) := by
  refine .trans ?_ (State.byAccess_join _ _ time bytes leaf)
  split
  · exact .refl s
  · exact s.byAccess_writtenBack _

theorem State.byAccess_gaugeStatus (s : State) (pa srck handle code : Nat) :
    s.ByAccess (s.gaugeStatus pa srck handle code) := by
  unfold State.gaugeStatus
  split
  · exact .refl s
  · exact s.byAccess_joinOutside _ _ _ _

theorem State.byAccess_addToGauge (s : State) (srck handle pa n time : Nat) :
    s.ByAccess (s.addToGauge srck handle pa n time) := by
  unfold State.addToGauge
  split
  · exact s.byAccess_gaugeStatus _ _ _ _
  · exact s.byAccess_joinOutside _ _ _ _

/-! ### A home serves its requests (R209, R230 to R234) -/

theorem State.byAccess_putL1 (s : State) (n : Nat) (k : L1Copy) : s.ByAccess (s.putL1 n k) := by
  unfold State.putL1
  extract_lets old kept v t
  have placed : s.ByAccess t := s.byAccess_modCore n fun _ => rfl
  split
  · exact s.byAccess_modCore n fun _ => rfl
  · split
    · exact placed.trans ((State.ByAccess.of_homes (t.sameButHomes_touchLine _)).trans (State.byAccess_setLine _ _ _))
    · exact placed

theorem State.byAccess_readFor (s : State) (q : Req) (line : Nat) : s.ByAccess (s.readFor q line) := by
  have read := State.ByAccess.of_homes (s.sameButHomes_readLine line q.leaf q.hint)
  unfold State.readFor
  dsimp only
  split
  · exact read
  · exact read.trans (State.byAccess_modCore _ _ fun _ => rfl)

theorem State.byAccess_giveRead (s : State) (q : Req) (line : Nat) (bound : Option Nat) :
    s.ByAccess (s.giveRead q line bound) := by
  unfold State.giveRead
  extract_lets r ts fin fin' bad s1 t
  have leased : s.ByAccess s1 := ⟨rfl, rfl, rfl, rfl, fun _ => rfl, fun _ => rfl⟩
  exact (leased.trans (s1.byAccess_putL1 _ _)).trans (t.byAccess_readFor q line)

theorem State.byAccess_giveOwner (s : State) (q : Req) (line : Nat) (data : Bool) :
    s.ByAccess (s.giveOwner q line data) := by
  unfold State.giveOwner
  extract_lets bad s1 r s2
  have read : s.ByAccess s1 := by
    unfold s1
    split
    · exact s.byAccess_readFor q line
    · exact .refl s
  have given : s.ByAccess s2 := read.trans (s1.byAccess_setLine _ _)
  split
  · exact given.trans (s2.byAccess_modCore _ fun _ => rfl)
  · exact given.trans (s2.byAccess_putL1 _ _)

theorem State.byAccess_applyNr (s : State) (core line : Nat) : s.ByAccess (s.applyNr core line) := by
  unfold State.applyNr
  extract_lets c
  split
  · exact .refl s
  · extract_lets old ts bad s1 s2
    have read : s.ByAccess s1 := .of_homes (s.sameButHomes_readLine _ _ _)
    have joined : s.ByAccess s2 := by
      unfold s2
      split
      · exact read
      · exact read.trans (s1.byAccess_join _ _ _ _)
    exact joined.trans (s2.byAccess_modCore _ fun _ => rfl)

theorem State.byAccess_serveIdle {s t : State} {line : Nat} {q : Req} (h : s.serveIdle line q = some t) : s.ByAccess t := by
  unfold State.serveIdle at h
  dsimp only at h
  split at h
  · split at h
    · split at h
      · cases h
        exact s.byAccess_giveRead _ _ _
      · cases h
    · cases h
      exact s.byAccess_giveRead _ _ _
  · split at h
    · cases h
    · cases h
      exact s.byAccess_giveOwner _ _ _
  · split at h
    · cases h
    · cases h
      exact s.byAccess_giveOwner _ _ _
  · split at h
    · cases h
    · cases h
      exact s.byAccess_applyNr _ _

theorem State.byAccess_serveQueue (s : State) (line n : Nat) : s.ByAccess (s.serveQueue line n) := by
  induction n generalizing s with
  | zero => exact .refl s
  | succ n ih =>
    unfold State.serveQueue
    extract_lets r
    split
    · exact .refl s
    · next q rest _ =>
      extract_lets popped
      have out : s.ByAccess popped := s.byAccess_setLine line _
      split
      · split
        · exact .refl s
        · exact out.trans (ih popped)
      · split
        · exact .refl s
        · split
          · exact out.trans (ih popped)
          · exact s.byAccess_setLine line _
        · split
          · exact .refl s
          · split
            · exact .refl s
            · next served => exact (out.trans (State.byAccess_serveIdle served)).trans (ih _)

end Sys2Proof.Machine
end

section
/-! PROOFS. The engines' events: units, completion, cancel and the ends of calls. -/
namespace Sys2Proof.Machine
open Sys2Proof.Bits

/-! ### What leaves the engines as they are -/

/-- What an engine event reads of a core: its engine, its matrix unit, whether its point is ending. -/
def Core.units (c : Core) : Engine × Matrix × Bool := (c.eng, c.mx, c.ending)

/-- Every agent's engine and matrix unit are as they were; memory, logical times, lines and caches may differ. -/
structure State.KeepsUnits (s t : State) : Prop where
  inp : t.inp = s.inp
  focus : t.focus = s.focus
  core : ∀ n, (t.core n).units = (s.core n).units
  seq : ∀ n, (t.seq n).eng = (s.seq n).eng

namespace State.KeepsUnits

theorem refl (s : State) : s.KeepsUnits s := ⟨rfl, rfl, fun _ => rfl, fun _ => rfl⟩

theorem trans {s t u : State} (h : s.KeepsUnits t) (h' : t.KeepsUnits u) : s.KeepsUnits u :=
  ⟨h'.inp.trans h.inp, h'.focus.trans h.focus, fun n => (h'.core n).trans (h.core n), fun n => (h'.seq n).trans (h.seq n)⟩

theorem foldl {β : Type} {f : State → β → State} (hf : ∀ (s : State) b, s.KeepsUnits (f s b)) (l : List β) (s : State) :
    s.KeepsUnits (l.foldl f s) :=
  List.foldlRecOn (motive := s.KeepsUnits) l f (refl s) fun t ht b _ => ht.trans (hf t b)

theorem of_access {s t : State} (h : s.ByAccess t) : s.KeepsUnits t where
  inp := h.inp
  focus := h.focus
  core n := by simpa only [Core.kept, Core.units] using congrArg Core.units (h.core n)
  seq n := by simpa only [Seq.kept] using congrArg Seq.eng (h.seq n)

variable {s t : State} (h : s.KeepsUnits t)
include h

theorem eng (n : Nat) : (t.core n).eng = (s.core n).eng := congrArg Prod.fst (h.core n)
theorem mx (n : Nat) : (t.core n).mx = (s.core n).mx := congrArg (fun u : Engine × Matrix × Bool => u.2.1) (h.core n)
theorem ending (n : Nat) : (t.core n).ending = (s.core n).ending :=
  congrArg (fun u : Engine × Matrix × Bool => u.2.2) (h.core n)

theorem getEng (a : Agent) : t.getEng a [] = s.getEng a [] := by
  unfold State.getEng
  cases a with
  | seq n => exact h.seq n
  | core n => exact h.eng n
  | jig n => exact h.eng n

end State.KeepsUnits

theorem State.keepsUnits_modCore (s : State) (n : Nat) {f : Core → Core} (h : ∀ c, (f c).units = c.units) :
    s.KeepsUnits (s.modCore n f) := by
  refine ⟨rfl, rfl, fun m => ?_, fun _ => rfl⟩
  by_cases hm : m = n
  · rw [hm, State.core_modCore, h]
  · rw [State.core_modCore_ne s f hm]

theorem State.keepsUnits_setSeq (s : State) (n : Nat) {q : Seq} (h : q.eng = (s.seq n).eng) : s.KeepsUnits (s.setSeq n q) := by
  refine ⟨rfl, rfl, fun _ => rfl, fun m => ?_⟩
  by_cases hm : m = n
  · rw [hm, State.seq_setSeq, h]
  · rw [State.seq_setSeq_ne _ _ hm]

/-! ### The command of an engine event -/

/-- Only the slot numbers tell the commands of an engine apart. -/
theorem copy_eq_of_slot {l : List Copy} (distinct : (l.map (·.slot)).Nodup) {j k : Copy} (hj : j ∈ l) (hk : k ∈ l)
    (h : j.slot = k.slot) : j = k := List.inj_on_of_nodup_map distinct hj hk h

theorem getEng_modEng (s : State) (a : Agent) (f : Engine → Engine) : (s.modEng a [] f).getEng a [] = f (s.getEng a []) := by
  unfold State.getEng State.modEng
  cases a with
  | seq n => exact congrArg Seq.eng (s.seq_setSeq n _)
  | core n => exact congrArg Core.eng (s.core_modCore n _)
  | jig n => exact congrArg Core.eng (s.core_modCore n _)

theorem State.modEng_mem (s : State) (a : Agent) (f : Engine → Engine) : (s.modEng a [] f).mem = s.mem := by
  unfold State.modEng
  cases a <;> rfl
theorem State.modEng_inp (s : State) (a : Agent) (f : Engine → Engine) : (s.modEng a [] f).inp = s.inp := by
  unfold State.modEng
  cases a <;> rfl

theorem State.noteWrote_spec (s : State) (a : Agent) (k : Copy) :
    s.KeepsUnits (s.noteWrote a [] k) ∧ (s.noteWrote a [] k).mem = s.mem := by
  unfold State.noteWrote
  cases a with
  | seq n => exact ⟨s.keepsUnits_setSeq n rfl, rfl⟩
  | core n => exact ⟨s.keepsUnits_modCore n fun _ => rfl, rfl⟩
  | jig n => exact ⟨s.keepsUnits_modCore n fun _ => rfl, rfl⟩

theorem State.sameButPosts_notify (s : State) (stream : Nat) (n : Notif) : s.SameButPosts (s.notify stream n) := by
  unfold State.notify
  split
  · exact s.sameButPosts_putRecord n
  · exact ⟨rfl, rfl⟩

theorem State.sameButPosts_releaseForming (s : State) (stream : Nat) : s.SameButPosts (s.releaseForming stream) := by
  unfold State.releaseForming
  extract_lets fs go
  split
  · exact ⟨rfl, rfl⟩
  · exact State.SameButPosts.trans (t := s.modStrm stream _) ⟨rfl, rfl⟩
      (List.foldlRecOn (motive := (s.modStrm stream _).SameButPosts) go _ ⟨rfl, rfl⟩
        fun t ht e _ => ht.trans (t.sameButPosts_notify stream e.1))

/-- The end of a command completes points and releases records; it leaves engines and memory. -/
theorem State.settleCopy_spec (s : State) (k : Copy) : s.KeepsUnits (s.settleCopy k) ∧ (s.settleCopy k).mem = s.mem := by
  unfold State.settleCopy
  split
  · obtain ⟨same, -⟩ := s.sameButPosts_releaseForming k.stream
    rw [same]
    exact ⟨⟨rfl, rfl, fun _ => rfl, fun _ => rfl⟩, rfl⟩
  · next id _ =>
    have mem : (s.settlePoints id).mem = s.mem := by rw [s.sameButTasks_settlePoints id]
    refine ⟨?_, mem⟩
    unfold State.settlePoints
    split
    · exact .refl s
    · exact .foldl (fun s x => (⟨rfl, rfl, fun _ => rfl, fun _ => rfl⟩ : s.KeepsUnits (s.modTask id _))) _ s

/-- The slot of a command of agent `a` is free, its record holds a code and the bytes done, and memory is as it was. -/
def SlotFreed (s t : State) (a : Agent) (k : Copy) (code done : Nat) : Prop :=
  (∀ j ∈ (t.getEng a []).copies, j.slot ≠ k.slot) ∧
    find? (t.getEng a []).last k.slot = some ⟨k.handle, code, done⟩ ∧ t.mem = s.mem

theorem Engine.finish_spec {e : Engine} (distinct : (e.copies.map (·.slot)).Nodup) {k : Copy} (hk : k ∈ e.copies)
    (code done : Nat) : (∀ j ∈ (e.finish k.slot code done).copies, j.slot ≠ k.slot) ∧
      find? (e.finish k.slot code done).last k.slot = some ⟨k.handle, code, done⟩ := by
  have found : e.copies.find? (fun j => j.slot == k.slot) = some k := by
    cases find : e.copies.find? (fun j => j.slot == k.slot) with
    | none => exact absurd (List.find?_eq_none.mp find k hk) (by simp)
    | some j =>
      have slot : j.slot = k.slot := by simpa using List.find?_some find
      rw [copy_eq_of_slot distinct (List.mem_of_find?_eq_some find) hk slot]
  unfold Engine.finish
  simp only [found]
  exact ⟨fun j hj => by simpa using (List.mem_filter.mp hj).2, find?_put_self _ _ _⟩

/-- A command that ends frees its slot, whatever else the end sets going beside the engines and memory. -/
theorem slotFreed_of_finish {s t : State} {a : Agent} {k : Copy} {code done : Nat}
    (distinct : ((s.getEng a []).copies.map (·.slot)).Nodup) (hk : k ∈ (s.getEng a []).copies)
    (kept : (s.modEng a [] (·.finish k.slot code done)).KeepsUnits t) (mem : t.mem = s.mem) :
    SlotFreed s t a k code done := by
  obtain ⟨free, last⟩ := Engine.finish_spec distinct hk code done
  unfold SlotFreed
  rw [kept.getEng a, getEng_modEng]
  exact ⟨free, last, mem⟩

theorem State.slotFreed (s : State) {a : Agent} {k : Copy} (distinct : ((s.getEng a []).copies.map (·.slot)).Nodup)
    (hk : k ∈ (s.getEng a []).copies) (code done : Nat) :
    SlotFreed s (((s.modEng a [] (·.finish k.slot code done)).noteWrote a [] k).settleCopy k) a k code done := by
  obtain ⟨noted, mem⟩ := (s.modEng a [] (·.finish k.slot code done)).noteWrote_spec a k
  obtain ⟨settled, mem'⟩ := ((s.modEng a [] (·.finish k.slot code done)).noteWrote a [] k).settleCopy_spec k
  exact slotFreed_of_finish distinct hk (noted.trans settled) (mem'.trans (mem.trans (s.modEng_mem a _)))

/-! ### A CPY without gauge: how it ends -/

section
variable {s : State} {k : Copy}

theorem State.copyGauges_of_none (s : State) (h : k.hasGauge = false) : s.copyGauges k = [] := by
  rw [State.copyGauges, h]
  rfl
theorem State.gaugesFree_of_none (s : State) (h : k.hasGauge = false) : s.gaugesFree k = true := by
  rw [State.gaugesFree, s.copyGauges_of_none h, h]
  rfl
theorem State.copyAdd_of_none (s : State) (h : k.hasGauge = false) (n : Nat) : s.copyAdd k n = s := by
  rw [State.copyAdd, s.copyGauges_of_none h]
  rfl

theorem Copy.moved_of_plain (owed : k.owed = 0) (shadow : k.shadowBytes = []) : k.moved = k.done := by
  rw [Copy.moved, owed, shadow]
  rfl

/-- The walk of a CPY of not more than 2^40 bytes. -/
theorem State.walkOf_cpy (s : State) (op : k.op = 0) (size : k.rl.toNat ≤ 2 ^ 40) :
    s.walkOf k = .ok ⟨k.rl.toNat, fun i => addr64 k.ra i, fun i => addr64 k.rb i⟩ := by
  simp only [State.walkOf, op, if_neg (Nat.not_lt.mpr size)]

theorem State.walkOf_cpy_long (s : State) (op : k.op = 0) (size : 2 ^ 40 < k.rl.toNat) : s.walkOf k = .error ecDesc := by
  simp only [State.walkOf, op, if_pos size]

theorem State.landShadow_of_nil (s : State) (core : Option Nat) (h : k.shadowBytes = []) : s.landShadow core k = (s, k, 0) := by
  rw [State.landShadow, h]
  rfl

/-- The started command that an engine event is about. -/
theorem State.inpCopy_spec {e : Engine} (nums : s.inp.nums = []) (h : s.inpCopy = some (e, k)) :
    e = s.getEng s.inp.who [] ∧ k ∈ e.copies ∧ k.slot = s.inp.n1 ∧ k.started = true := by
  unfold State.inpCopy at h
  rw [nums] at h
  obtain ⟨j, find, pair⟩ := Option.map_eq_some_iff.mp h
  obtain ⟨rfl, rfl⟩ := Prod.mk.injEq .. ▸ pair
  have found := List.find?_some find
  simp only [Bool.and_eq_true, beq_iff_eq] at found
  exact ⟨rfl, List.mem_of_find?_eq_some find, found⟩

section
variable (op : k.op = 0) (gauge : k.hasGauge = false) (failing : k.failing = none) (owed : k.owed = 0)
  (shadow : k.shadowBytes = []) (bufs : (s.ctx k.stream).bufs = [])
include op failing owed shadow bufs

theorem State.copyStep_finished (size : k.rl.toNat ≤ 2 ^ 40) (all : k.done = k.rl.toNat) (a : Agent) (earlier : List Copy) :
    s.copyStep a [] k earlier = .finished := by
  have read : s.readBlock k = .ok (s, k) := by simp only [State.readBlock, op]
  simp only [State.copyStep, failing, op, read, s.walkOf_cpy op size, Copy.moved_of_plain owed shadow, all, shadow, bufs,
    Option.isSome_none, Bool.false_eq_true, if_false, Nat.le_refl, if_true]
  rfl

omit owed shadow bufs in
theorem State.copyStep_desc (size : 2 ^ 40 < k.rl.toNat) (a : Agent) (earlier : List Copy) :
    s.copyStep a [] k earlier = .fails ecDesc := by
  have read : s.readBlock k = .ok (s, k) := by simp only [State.readBlock, op]
  simp only [State.copyStep, failing, op, read, s.walkOf_cpy_long op size, Option.isSome_none, Bool.false_eq_true, if_false]
  rfl

end

end

/-! ### COPY_COMPLETE and CANCEL_ACK -/

theorem exec_copyComplete_finished {s : State} {e : Engine} {k : Copy} (nums : s.inp.nums = []) (hk : s.inpCopy = some (e, k))
    (distinct : (e.copies.map (·.slot)).Nodup) (op : k.op = 0) (gauge : k.hasGauge = false) (cancelling : k.cancelling = false)
    (failing : k.failing = none) (owed : k.owed = 0) (shadow : k.shadowBytes = []) (bufs : (s.ctx k.stream).bufs = [])
    (size : k.rl.toNat ≤ 2 ^ 40) (all : k.done = k.rl.toNat) :
    ∃ u, exec .copyComplete s = .next u ∧ SlotFreed s u s.inp.who k 0 k.done := by
  obtain ⟨rfl, mem, -⟩ := s.inpCopy_spec nums hk
  refine ⟨_, ?_, s.slotFreed distinct mem 0 k.done⟩
  change execCopyComplete s = _
  have total : s.copyTotal k = (k.rl.toNat, s) := by
    simp only [State.copyTotal, op, s.walkOf_cpy op size]
    rfl
  simp only [execCopyComplete, hk, cancelling, nums, Bool.false_and, Bool.false_eq_true, if_false,
    s.copyStep_finished op failing owed shadow bufs size all, s.gaugesFree_of_none gauge, if_true]
  simp only [State.finishCopy, total, s.landShadow_of_nil _ shadow, op, all]
  simp [op, s.copyAdd_of_none gauge]

theorem exec_copyComplete_desc {s : State} {e : Engine} {k : Copy} (nums : s.inp.nums = []) (hk : s.inpCopy = some (e, k))
    (distinct : (e.copies.map (·.slot)).Nodup) (op : k.op = 0) (gauge : k.hasGauge = false) (cancelling : k.cancelling = false)
    (failing : k.failing = none) (owed : k.owed = 0) (shadow : k.shadowBytes = []) (size : 2 ^ 40 < k.rl.toNat) :
    ∃ u, exec .copyComplete s = .next u ∧ SlotFreed s u s.inp.who k ecDesc k.done := by
  obtain ⟨rfl, mem, -⟩ := s.inpCopy_spec nums hk
  refine ⟨_, ?_, s.slotFreed distinct mem ecDesc k.done⟩
  change execCopyComplete s = _
  have total : s.copyTotal k = (k.rl.toNat, s) := by
    simp only [State.copyTotal, op, s.walkOf_cpy_long op size]
    rfl
  have unread : s.noteCopyRead k = s := by
    simp only [State.noteCopyRead, s.walkOf_cpy_long op size]
    rfl
  simp only [execCopyComplete, hk, cancelling, nums, Bool.false_and, Bool.false_eq_true, if_false,
    s.copyStep_desc op failing size, failing, Option.isSome_none, unread]
  simp only [State.failCopy, s.gaugesFree_of_none gauge, s.landShadow_of_nil _ shadow, s.copyGauges_of_none gauge,
    List.foldl_nil, total, s.copyAdd_of_none gauge, owed]
  rfl

/-- The command that CANCEL_ACK ends: one that CCAN has marked, with all its bytes counted. -/
theorem cancelled_find {s : State} {e : Engine} {k : Copy} {n : Nat} (mem : k ∈ e.copies)
    (distinct : (e.copies.map (·.slot)).Nodup) (slot : k.slot = n) (cancelling : k.cancelling = true) (owed : k.owed = 0) :
    e.copies.find? (fun k => k.slot == n && (decide (k.owed = 0) || s.gaugesFree k) && (k.failing.isNone || k.cancelling) &&
      (k.cancelling || (k.started && (k.task.bind s.freezing).isSome))) = some k := by
  cases find : e.copies.find? _ with
  | none => exact absurd (List.find?_eq_none.mp find k mem) (by simp [slot, owed, cancelling])
  | some j =>
    have found := List.find?_some find
    simp only [Bool.and_eq_true, beq_iff_eq] at found
    rw [copy_eq_of_slot distinct (List.mem_of_find?_eq_some find) mem (found.1.1.1.trans slot.symm)]

theorem exec_cancelAck {s : State} {k : Copy} (nums : s.inp.nums = []) (mem : k ∈ (s.getEng s.inp.who []).copies)
    (distinct : ((s.getEng s.inp.who []).copies.map (·.slot)).Nodup) (slot : k.slot = s.inp.n1)
    (cancelling : k.cancelling = true) (owed : k.owed = 0) :
    ∃ u, exec .cancelAck s = .next u ∧ SlotFreed s u s.inp.who k 0x8000 k.done := by
  have counted : ({ k with owed := 0 } : Copy) = k := congrArg (fun n => ({ k with owed := n } : Copy)) owed.symm
  have unrecorded : s.noteIntent k = s := by
    rw [State.noteIntent, cancelling]
    rfl
  let w : State := (s.modEng s.inp.who [] (·.finish k.slot 0x8000 k.done)).noteWrote s.inp.who [] k
  obtain ⟨noted, wmem⟩ := (s.modEng s.inp.who [] (·.finish k.slot 0x8000 k.done)).noteWrote_spec s.inp.who k
  have winp : w.inp = s.inp := noted.inp.trans (s.modEng_inp _ _)
  have ended (u : State) (arrived : w.KeepsUnits u) (umem : u.mem = w.mem) :
      SlotFreed s (u.settleCopy k) s.inp.who k 0x8000 k.done := by
    obtain ⟨settled, smem⟩ := u.settleCopy_spec k
    exact slotFreed_of_finish distinct mem (noted.trans (arrived.trans settled))
      (smem.trans (umem.trans (wmem.trans (s.modEng_mem _ _))))
  change ∃ u, execCancelAck s = .next u ∧ _
  unfold execCancelAck
  simp only [nums, cancelled_find (s := s) mem distinct slot cancelling owed, owed, Nat.lt_irrefl, if_false, Nat.add_zero,
    counted, unrecorded, show (State.noteWrote (State.modEng s s.inp.who [] (·.finish k.slot 0x8000 k.done)) s.inp.who [] k) = w from rfl,
    winp]
  refine ⟨_, rfl, ?_⟩
  split
  · rename_i h
    cases h
  · exact ended _ (w.keepsUnits_setSeq _ rfl) rfl
  · exact ended _ (w.keepsUnits_modCore _ fun _ => rfl) rfl
  · exact ended _ (w.keepsUnits_modCore _ fun _ => rfl) rfl

/-! ### The end of a call at its depth (R375, R387) -/

/-- A call that no gauge keeps waiting ends: its banks are cleared, its code stands. -/
theorem State.endOne_spec {j : State} {n : Nat} {c : Call} (hf : j.focus = .jig n) (call : (j.core n).mx.call = some c)
    (free : ∀ pa, j.wordCell { j.view with engine := true } (c.mp.get 7) 32 = .ok pa → j.gaugeBusy (some n) pa = false)
    (code : Nat) : (j.endOne code).focus = .jig n ∧ ((j.endOne code).core n).ending = (j.core n).ending ∧
      ∃ kept, ((j.endOne code).core n).mx =
        { (j.core n).mx with bank0 := {}, bank1 := {}, call := none, lastCode := code, kept := kept } := by
  have me : j.me = n := by rw [State.me, hf]
  have mine : j.my = j.core n := State.my_jig hf
  let stop (k : Core) : Core := { k with
    pt := if k.pt.mpFilled then { k.pt with mp := k.pt.mpNext, mpFilled := false } else k.pt,
    mx := { k.mx with bank0 := {}, bank1 := {}, call := none, lastCode := code,
                      kept := if code = ecCheck then k.mx.kept ++ c.holds else k.mx.kept } }
  have after (u : State) (kept : (j.modMy stop).KeepsUnits u) (ended : j.endOne code = u) :
      (j.endOne code).focus = .jig n ∧ ((j.endOne code).core n).ending = (j.core n).ending ∧ ∃ kept,
        ((j.endOne code).core n).mx =
          { (j.core n).mx with bank0 := {}, bank1 := {}, call := none, lastCode := code, kept := kept } := by
    have core : (j.modMy stop).core n = stop (j.core n) := by rw [State.modMy_of_me me, State.core_modCore]
    rw [ended, kept.focus, kept.ending, kept.mx, core]
    exact ⟨hf, rfl, _, rfl⟩
  cases cell : j.wordCell { j.view with engine := true } (c.mp.get 7) 32 with
  | error e =>
    refine after _ (.refl _) ?_
    simp only [State.endOne, mine, call, cell]
    rfl
  | ok pa =>
    have idle := free pa cell
    refine after ((if code = 0 then j.modMy stop else (j.modMy stop).gaugeStatus pa 1 0xFFFF code).addToGauge 1 0xFFFF pa 1
      (j.callTime pa)) (.trans ?_ (.of_access (State.byAccess_addToGauge _ _ _ _ _ _))) ?_
    · split
      · exact .refl _
      · exact .of_access (State.byAccess_gaugeStatus _ _ _ _ _)
    · simp only [State.endOne, mine, call, cell, me, idle, Bool.false_eq_true, if_false]
      rfl

/-- The last call of a core whose point is not ending leaves its matrix unit idle. -/
theorem State.endCall_last {j : State} {n : Nat} {c : Call} (hf : j.focus = .jig n) (call : (j.core n).mx.call = some c)
    (queued : (j.core n).mx.queued = none) (ending : (j.core n).ending = false)
    (free : ∀ pa, j.wordCell { j.view with engine := true } (c.mp.get 7) 32 = .ok pa → j.gaugeBusy (some n) pa = false)
    (code : Nat) : let m := ((j.endCall code).core n).mx
      m.call = none ∧ m.lastCode = code ∧ m.bank0 = {} ∧ m.bank1 = {} := by
  obtain ⟨focus, ending', kept, mx⟩ := State.endOne_spec hf call free code
  let u := j.endOne code
  let next (k : Core) : Core := { k with mx := { k.mx with call := k.mx.queued, queued := none } }
  have mine : u.my = u.core n := State.my_jig focus
  have core : (u.modMy next).my = next (u.core n) := by rw [State.my_modMy, mine]
  have idle : (next (u.core n)).mx.call = none := by simp only [next, u, mx, queued]
  have last : (next (u.core n)).ending = false := ending'.trans ending
  have ended : j.endCall code = u.modMy next := by
    have stopped : u.my.mx.call.isSome = false := by rw [mine, mx]; rfl
    have started : (u.modMy next).startCall = u.modMy next := by simp only [State.startCall, core, idle]
    have held : (u.modMy next).endHeld = u.modMy next := by
      rw [State.endHeld, core, last]
      simp
    unfold State.endCall
    simp only [show j.endOne code = u from rfl, stopped, Bool.false_eq_true, if_false]
    exact (congrArg State.endHeld started).trans held
  have core' : (u.modMy next).core n = next (u.core n) := by
    rw [State.modMy_of_me (by rw [State.me, focus]), State.core_modCore]
  intro m
  have hm : m = (next (u.core n)).mx := by simp only [m, ended, core']
  simp only [hm, next, u, mx, queued, and_self]

theorem exec_jigDepthExpire {s : State} {c : Call} (call : (s.core s.inp.n1).mx.call = some c)
    (due : c.ending = none) (depth : (s.core s.inp.n1).depthOf c ≤ c.cycles) (late : (s.core s.inp.n1).wait ≠ .late) :
    exec .jigDepthExpire s = .next (s.asAgent (.jig s.inp.n1) (·.endCall ecDepth)) := by
  change execJigDepthExpire s = _
  have any : (s.core s.inp.n1).mx.call.any (fun c => c.ending.isNone && decide ((s.core s.inp.n1).depthOf c ≤ c.cycles)) = true := by
    rw [call]
    simp [due, depth]
  rw [execJigDepthExpire, if_pos ⟨any, late⟩]

theorem exec_jigDepthExpire_early {s : State}
    (h : (∃ c, (s.core s.inp.n1).mx.call = some c ∧ c.cycles < (s.core s.inp.n1).depthOf c) ∨ (s.core s.inp.n1).wait = .late) :
    exec .jigDepthExpire s = .next s := by
  change execJigDepthExpire s = _
  rw [execJigDepthExpire, if_neg]
  rintro ⟨due, late⟩
  rcases h with ⟨c, call, early⟩ | frozen
  · rw [call] at due
    simp only [Option.any_some, Bool.and_eq_true, decide_eq_true_eq] at due
    omega
  · exact late frozen

theorem exec_shadowLoadDone {s : State} (loading : (s.core s.inp.n1).mx.loading = true)
    (call : (s.core s.inp.n1).mx.call = none) (late : (s.core s.inp.n1).wait ≠ .late) :
    exec .shadowLoadDone s = .next (s.modCore s.inp.n1
      (fun c => { c with mx := { c.mx with loading := false, loaded := true, loadLeft := 0 } })) := by
  change execShadowLoadDone s = _
  rw [execShadowLoadDone, if_pos ⟨loading, by rw [call]; rfl, late⟩]

theorem exec_shadowLoadDone_stays {s : State}
    (h : (∃ c, (s.core s.inp.n1).mx.call = some c) ∨ (s.core s.inp.n1).wait = .late) : exec .shadowLoadDone s = .next s := by
  change execShadowLoadDone s = _
  rw [execShadowLoadDone, if_neg]
  rintro ⟨-, idle, late⟩
  rcases h with ⟨c, call⟩ | frozen
  · rw [call] at idle
    exact absurd idle (by simp)
  · exact late frozen

/-! ### The next unit of a CPY (R198, R235) -/

theorem addr64_nat (r : W64) (i : Nat) : addr64 r (i : Nat) = (r.toNat + i) % 2 ^ 64 := by
  have : wrap64 (i : Nat) = BitVec.ofNat 64 i := by simp [wrap64]
  rw [addr64, this, BitVec.toNat_add, BitVec.toNat_ofNat, Nat.add_mod_mod]

/-- A run of ascending addresses ends with its aligned unit, or with its bytes. -/
theorem unitRun_addr64 (r : W64) (n i : Nat) :
    unitRun (fun i => addr64 r (i : Nat)) (addr64 r (i : Nat) / 128) n i = min n (128 - addr64 r (i : Nat) % 128) := by
  suffices general : ∀ n t, t ≤ 128 - addr64 r (i : Nat) % 128 →
      unitRun (fun i => addr64 r (i : Nat)) (addr64 r (i : Nat) / 128) n (i + t) = min n (128 - addr64 r (i : Nat) % 128 - t) from
    general n 0 (Nat.zero_le _)
  intro n
  induction n with
  | zero => intro t _; simp [unitRun]
  | succ n ih =>
    intro t ht
    have here : addr64 r ((i + t : Nat) : Int) = (addr64 r (i : Nat) + t) % 2 ^ 64 := by
      rw [addr64_nat, addr64_nat]
      omega
    have bound : addr64 r (i : Nat) < 2 ^ 64 := by
      rw [addr64_nat]
      omega
    unfold unitRun
    rw [here]
    by_cases inside : t < 128 - addr64 r (i : Nat) % 128
    · have same : (addr64 r (i : Nat) + t) % 2 ^ 64 / 128 = addr64 r (i : Nat) / 128 := by omega
      rw [if_pos same, Nat.add_assoc, ih (t + 1) (by omega)]
      omega
    · have other : (addr64 r (i : Nat) + t) % 2 ^ 64 / 128 ≠ addr64 r (i : Nat) / 128 := by omega
      rw [if_neg other]
      omega

/-- Reading source units changes a command's units, what is known bad of them, and its logical time. -/
def Copy.SameButReads (k k1 : Copy) : Prop := k1 = { k with units := k1.units, bads := k1.bads, top := k1.top }

theorem State.sameButHomes_noteWalk (s : State) (k : Copy) (va : Nat) : s.SameButHomes (s.noteWalk k va) := by
  unfold State.noteWalk
  split
  · exact s.sameButHomes_noteTlb _ _
  · exact .refl s

/-- A source unit is read at its line's home. -/
theorem State.readAt_spec {s u : State} (written : s.KeepsUnits u) (mem : u.mem = s.mem) (line : Nat) (l : LineRec) (k : Copy)
    (va : Nat) (leaf : Option Nat) : s.KeepsUnits (((u.setLine line l).noteWalk k va).readLine line leaf 0) ∧
      (((u.setLine line l).noteWalk k va).readLine line leaf 0).mem = s.mem := by
  have homes := ((u.setLine line l).sameButHomes_noteWalk k va).trans (State.sameButHomes_readLine _ line leaf 0)
  have stamped : u.KeepsUnits (u.setLine line l) := ⟨rfl, rfl, fun _ => rfl, fun _ => rfl⟩
  exact ⟨written.trans (stamped.trans (.of_access (.of_homes homes))), homes.mem_eq.trans mem⟩

theorem State.fetchUnit_spec {s s1 : State} {k k1 : Copy} {va : Nat} (h : s.fetchUnit k va = .ok (s1, k1)) :
    s.KeepsUnits s1 ∧ s1.mem = s.mem ∧ k.SameButReads k1 := by
  unfold State.fetchUnit at h
  split at h
  · cases h
    exact ⟨.refl s, rfl, rfl⟩
  · split at h
    · cases h
    · split at h
      · cases h
      · cases h
      · next pa leaf _ =>
        dsimp only at h
        split_ifs at h
        · cases h
          obtain ⟨kept, mem⟩ := State.readAt_spec (.refl s) rfl (pa / 128) _ k _ leaf
          exact ⟨kept, mem, rfl⟩
        · cases h
          obtain ⟨-, mem⟩ := s.keepsHost_writtenBack (pa / 128)
          obtain ⟨kept, mem⟩ := State.readAt_spec (.of_access (s.byAccess_writtenBack (pa / 128))) mem (pa / 128) _ k _ leaf
          exact ⟨kept, mem, rfl⟩

theorem State.fetchUnits_spec {s s1 : State} {k k1 : Copy} {vas : List Nat} (h : s.fetchUnits k vas = .ok (s1, k1)) :
    s.KeepsUnits s1 ∧ s1.mem = s.mem ∧ k.SameButReads k1 := by
  induction vas generalizing s k with
  | nil =>
    cases h
    exact ⟨.refl _, rfl, rfl⟩
  | cons a as ih =>
    unfold State.fetchUnits at h
    split at h
    · cases h
    · next s' k' read =>
      obtain ⟨kept, mem, same⟩ := State.fetchUnit_spec read
      obtain ⟨kept', mem', same'⟩ := ih h
      refine ⟨kept.trans kept', mem'.trans mem, ?_⟩
      unfold Copy.SameButReads at same same' ⊢
      rw [same', same]

/-- Outside the tiers an error lies in a word of 64 bits. -/
theorem State.dataFault_word (s : State) {x y : Nat} (hx : isTier x = false) (hy : isTier y = false) (word : x / 8 = y / 8)
    (leaf leaf' : Option Nat) : s.dataFault x leaf = s.dataFault y leaf' := by
  have cell : isGaugeCell x = isGaugeCell y := by
    rw [Bool.eq_iff_iff]
    simp only [isGaugeCell, isVault, Bool.or_eq_true, Bool.and_eq_true, decide_eq_true_eq]
    omega
  simp only [State.dataFault, hx, hy, cell, word, Bool.false_eq_true, if_false]

/-- A run of bytes whose ends meet no error covers no bad word in part. -/
theorem State.wordsFault_of_mergeFault {s : State} {pa n : Nat} {leaf : Option Nat} {pairs : List (Nat × Byte)}
    (vault : isTier pa = false) (good : s.mergeFault pa n leaf = none)
    (offs : pairs.map (fun p => p.1 % 128) = (List.range n).map (fun t => pa % 128 + t)) :
    s.wordsFault pa pairs = none := by
  have above (x : Nat) (hx : pa / 128 * 128 ≤ x) : isTier x = false := by
    simp only [isTier, decide_eq_false_iff_not] at vault ⊢
    omega
  have first : pa % 8 ≠ 0 → s.dataFault pa leaf = none := fun h => by
    by_contra bad
    have some := Option.isSome_iff_ne_none.mpr bad
    rw [State.mergeFault, vault] at good
    simp only [Bool.false_eq_true, if_false, h, some, ne_eq, not_false_eq_true, and_self, if_true] at good
    exact bad good
  have last : (pa + n) % 8 ≠ 0 → s.dataFault (pa + n) leaf = none := fun h => by
    rw [State.mergeFault, vault] at good
    split at good
    · cases ‹false = true›
    · split at good
      · next h => exact absurd good (Option.isSome_iff_ne_none.mp h.2)
      · exact good
  unfold State.wordsFault
  split
  · rfl
  · dsimp only
    rw [offs, List.findSome?_eq_none_iff]
    intro o ho
    obtain ⟨t, ht, rfl⟩ := List.mem_map.mp ho
    have ht := List.mem_range.mp ht
    split
    · rfl
    · next partly =>
      have outside : ∃ i, i < 8 ∧ ((pa % 128 + t) / 8 * 8 + i < pa % 128 ∨ pa % 128 + n ≤ (pa % 128 + t) / 8 * 8 + i) := by
        by_contra all
        refine partly (List.all_eq_true.mpr fun i hi => ?_)
        have hi := List.mem_range.mp hi
        have : ¬ ((pa % 128 + t) / 8 * 8 + i < pa % 128 ∨ pa % 128 + n ≤ (pa % 128 + t) / 8 * 8 + i) := fun h => all ⟨i, hi, h⟩
        simp only [List.contains_iff_mem, List.mem_map, List.mem_range]
        exact ⟨(pa % 128 + t) / 8 * 8 + i - pa % 128, by omega, by omega⟩
      obtain ⟨i, hi, out⟩ := outside
      rcases out with low | high
      · rw [s.dataFault_word (above _ (by omega)) vault (y := pa) (by omega) none leaf]
        exact first (by omega)
      · rw [s.dataFault_word (above _ (by omega)) (above (pa + n) (by omega)) (by omega) none leaf]
        exact last (by omega)

/-- A run of addresses in one line is a run of offsets. -/
theorem map_offsets_of_run {a off m : Nat} {bs : List Byte} (len : bs.length = m) (fits : a % 128 + m ≤ 128) (h : off = a % 128) :
    (((List.range m).map (a + ·)).zip bs).map (fun p => (p.1 % 128, p.2)) = offsets off bs := by
  refine List.ext_getElem (by simp [offsets, len]) fun j hj hj' => ?_
  have hj : j < m := by simpa [len] using hj
  simp only [offsets, List.getElem_map, List.getElem_zip, List.getElem_range, Prod.mk.injEq, and_true]
  omega

/-- A unit that meets no fault is written whole at its cells. -/
theorem State.writeUnit_cell {s : State} {k : Copy} {v : View} {a m pa : Nat} {leaf : Option Nat} {bs : List Byte}
    (core : Option Nat) (len : bs.length = m) (pos : 0 < m) (fits : a % 128 + m ≤ 128) (waits : s.engineWaits v a = false)
    (cell : s.resolveRaw v .store a = .ok (.cell pa leaf)) (held : s.bankHeld (pa / 128) = false)
    (good : s.mergeFault pa m leaf = none) (off : pa % 128 = a % 128) :
    ∃ u time, s.writeUnit core k v (((List.range m).map (a + ·)).zip bs) = .unit m u (k.wroteAt core pa time) [] ∧
      s.KeepsUnits u ∧ u.mem = Memory.setAll (Memory.dirtied s.mem leaf) pa bs := by
  have run := map_offsets_of_run (off := pa % 128) len fits off
  have size : (((List.range m).map (a + ·)).zip bs).length = m := by simp [len]
  have row : s.rowHeld (pa / 128) = false := by rw [State.rowHeld, held]; rfl
  have sound : (if isTier pa then none else s.wordsFault pa (((List.range m).map (a + ·)).zip bs)) = none := by
    split
    · rfl
    · next vault =>
      refine State.wordsFault_of_mergeFault (by simpa using vault) good ?_
      have firsts := congrArg (List.map Prod.fst) run
      rw [List.map_map] at firsts
      refine firsts.trans ?_
      rw [offsets, List.map_fst_zip (by simp), len]
      exact List.map_congr_left fun t _ => Nat.add_comm t _
  obtain ⟨b, rest, hbs⟩ := List.exists_cons_of_length_pos (len ▸ pos : 0 < bs.length)
  obtain ⟨m', hm⟩ := Nat.exists_eq_succ_of_ne_zero (Nat.ne_of_gt pos)
  obtain ⟨tail, head⟩ : ∃ tail, ((List.range m).map (a + ·)).zip bs = (a, b) :: tail := by
    rw [hm, hbs, List.range_succ_eq_map]
    exact ⟨_, rfl⟩
  let s1 := s.noteWalk k a
  let s2 := if isTier pa then s1.fetchData (pa / 128) k.hint else s1
  have homes : s.SameButHomes s2 := by
    refine (s.sameButHomes_noteWalk k a).trans ?_
    unfold s2
    split
    · exact s1.sameButHomes_fetchData _ _
    · exact .refl s1
  refine ⟨s2.joinOutside pa (s.outsideTime (pa / 128) k.top) (offsets (pa % 128) bs) leaf, s.outsideTime (pa / 128) k.top, ?_,
    State.KeepsUnits.of_access (.trans (.of_homes homes) (s2.byAccess_joinOutside _ _ _ _)), ?_⟩
  · rw [← run]
    rw [head] at size sound ⊢
    unfold State.writeUnit
    simp only [waits, cell, row, sound, Bool.false_eq_true, if_false, size]
    rfl
  · rw [(s2.joinOutside_writes pa _ bs leaf).2, homes.mem_eq]

/-- The bytes of the next unit of a CPY: up to the end of its aligned destination unit. -/
def Copy.nextBytes (k : Copy) : Nat := min (k.rl.toNat - k.done) (128 - addr64 k.rb (k.done : Nat) % 128)
/-- The source addresses of the next unit of a CPY. -/
def Copy.nextSources (k : Copy) : List Nat := (List.range k.nextBytes).map (fun j => addr64 k.ra (k.done + j : Nat))

/-- The next unit of a CPY is written whole from the source units it has read. -/
theorem State.copyStep_unit {s s1 : State} {k k1 : Copy} {pa : Nat} {leaf : Option Nat} (op : k.op = 0)
    (failing : k.failing = none) (owed : k.owed = 0) (shadow : k.shadowBytes = []) (bufs : (s.ctx k.stream).bufs = [])
    (size : k.rl.toNat ≤ 2 ^ 40) (more : k.done < k.rl.toNat) (read : s.fetchUnits k k.nextSources = .ok (s1, k1))
    (sound : ∀ x ∈ k.nextSources, find? k1.bads x = none) (waits : s1.engineWaits k.view (addr64 k.rb (k.done : Nat)) = false)
    (cell : s1.resolveRaw k.view .store (addr64 k.rb (k.done : Nat)) = .ok (.cell pa leaf))
    (held : s1.bankHeld (pa / 128) = false) (good : s1.mergeFault pa k.nextBytes leaf = none)
    (off : pa % 128 = addr64 k.rb (k.done : Nat) % 128) (a : Agent) (earlier : List Copy) :
    ∃ u time, s.copyStep a [] k earlier = .unit k.nextBytes u (k1.wroteAt (coreOfAgent a []) pa time) [] ∧ s.KeepsUnits u ∧
      u.mem = Memory.setAll (Memory.dirtied s.mem leaf) pa (k.nextSources.map k1.byteAt) ∧ k.SameButReads k1 := by
  obtain ⟨kept, mem, same⟩ := State.fetchUnits_spec read
  have run : unitRun (fun i => addr64 k.rb (i : Nat)) (addr64 k.rb (k.done : Nat) / 128) (min (k.rl.toNat - k.done) 4096) k.done =
      k.nextBytes := by
    rw [unitRun_addr64, Copy.nextBytes]
    omega
  have pos : 0 < k.nextBytes := by
    unfold Copy.nextBytes
    omega
  have fits : addr64 k.rb (k.done : Nat) % 128 + k.nextBytes ≤ 128 := by
    unfold Copy.nextBytes
    omega
  have dsts : (List.range k.nextBytes).map (fun j => addr64 k.rb (k.done + j : Nat)) =
      (List.range k.nextBytes).map (addr64 k.rb (k.done : Nat) + ·) := by
    refine List.map_congr_left fun j hj => ?_
    have := List.mem_range.mp hj
    rw [addr64_nat, addr64_nat] at *
    omega
  have view : k1.view = k.view := by rw [same]; rfl
  have op1 : k1.op = 0 := by rw [same]; exact op
  have writes : k1.writesDevice = true := by simp [Copy.writesDevice, op1]
  have len : (k.nextSources.map k1.byteAt).length = k.nextBytes := by simp [Copy.nextSources]
  obtain ⟨u, time, wrote, kept', mem'⟩ := State.writeUnit_cell (k := k1) (coreOfAgent a []) len pos fits waits cell held good off
  refine ⟨u, time, ?_, kept.trans kept', by rw [mem', mem], same⟩
  have block : s.readBlock k = .ok (s, k) := by simp only [State.readBlock, op]
  have bytes : s.sourceBytes k k.nextSources = .ok (s1, k1, k.nextSources.map k1.byteAt) := by
    have none : k.nextSources.findSome? (fun x => find? k1.bads x) = none := List.findSome?_eq_none_iff.mpr sound
    simp only [State.sourceBytes, op, read, none]
    rfl
  let w : Walk := ⟨k.rl.toNat, fun i => addr64 k.ra i, fun i => addr64 k.rb i⟩
  have sector : s1.destSector k1 w k.done = (s1, none) := by
    have clean : (if isTier pa then s1.dataFault pa leaf else none) = none := by
      split
      · next tier => rw [← s1.mergeFault_tier tier k.nextBytes leaf, good]
      · rfl
    simp only [State.destSector, view, w, cell, clean]
  have same8 : ¬ ((0 : Nat) = 0x08 ∧ k.toPeer = true ∧ (s.peer k.port).st ≠ 0) := fun h => absurd h.1 (by decide)
  have bytes8 : s1.destBytes k1 ((List.range k.nextBytes).map (addr64 k.rb (k.done : Nat) + ·)) (k.nextSources.map k1.byteAt) =
      .ok (k.nextSources.map k1.byteAt) := by
    simp only [State.destBytes, op1]
    rfl
  have plain : s.plainUnit a [] k w = .unit k.nextBytes u (k1.wroteAt (coreOfAgent a []) pa time) [] := by
    unfold State.plainUnit
    simp only [w, Copy.moved_of_plain owed shadow, run, op, same8, if_false, dsts]
    rw [show (List.range k.nextBytes).map (fun j => addr64 k.ra ((k.done + j : Nat) : Int)) = k.nextSources from rfl, bytes]
    simp only [writes, bufs, crossesHalf, bufHit, List.any_nil, Bool.and_false, Bool.not_true, Bool.false_eq_true, if_false,
      List.find?_nil, Option.map_none, Option.isSome_none, bytes8]
    rw [show s1.destSector k1 ⟨k.rl.toNat, fun i => addr64 k.ra i, fun i => addr64 k.rb i⟩ k.done = (s1, none) from sector]
    simp only [view]
    exact wrote
  simp only [State.copyStep, failing, op, block, s.walkOf_cpy op size, Copy.moved_of_plain owed shadow,
    Nat.not_le.mpr more, Option.isSome_none, Bool.false_eq_true, if_false]
  exact plain

/-- DESTINATION_UNIT_WRITTEN: the unit that the engine has written is counted. -/
theorem exec_destinationUnitWritten {s u : State} {e : Engine} {k k1 : Copy} {n : Nat} (nums : s.inp.nums = [])
    (hk : s.inpCopy = some (e, k)) (step : s.copyStep s.inp.who [] k (e.before k.slot) = .unit n u k1 [])
    (kept : s.KeepsUnits u) (gauge : k1.hasGauge = false) (slot : k1.slot = k.slot) (done : k1.done = k.done)
    (owed : k1.owed = 0) : ∃ t, exec .destinationUnitWritten s = .next t ∧ t.mem = u.mem ∧
      ∃ j ∈ (t.getEng s.inp.who []).copies, j.slot = k.slot ∧ j.done = k.done + n := by
  obtain ⟨rfl, mem, -⟩ := s.inpCopy_spec nums hk
  let counted : Copy := { k1 with heldAt := none, done := k1.done + (k1.owed + n), owed := 0 }
  have gauge' (o : Nat) : ({ k1 with owed := o, heldAt := none } : Copy).hasGauge = false := gauge
  refine ⟨u.modEng s.inp.who [] (·.modCopy k.slot (fun _ => counted)), ?_, u.modEng_mem _ _, counted, ?_, slot, ?_⟩
  · change execDestinationUnitWritten s = _
    simp only [execDestinationUnitWritten, hk, nums, step, u.gaugesFree_of_none (gauge' _), if_true,
      State.copyAdd_of_none _ (gauge' _)]
    rfl
  · rw [getEng_modEng, kept.getEng]
    exact List.mem_map.mpr ⟨k, mem, if_pos rfl⟩
  · change k1.done + (k1.owed + n) = k.done + n
    rw [done, owed, Nat.zero_add]

/-- Settles O57: the unit and the ends of a CPY by `State.copyStep`, the end of a call by `State.endCall`. -/
theorem engineEvents : Obligations.EngineEvents := by
  intro s
  dsimp only
  refine ⟨fun e k nums hk distinct op gauge cancelling failing owed shadow bufs => ⟨?_, ?_, ?_⟩, ?_, ?_, ?_, ?_, ?_⟩
  · intro s1 k1 pa leaf size more read sound waits cell held good off wf
    obtain ⟨u, time, step, kept, mem, same⟩ :=
      State.copyStep_unit op failing owed shadow bufs size more read sound waits cell held good off s.inp.who (e.before k.slot)
    obtain ⟨t, ran, tmem, j, hj, slot, done⟩ := exec_destinationUnitWritten nums hk step kept
      (by rw [same]; exact gauge) (by rw [same]; rfl) (by rw [same]; rfl) (by rw [same]; exact owed)
    have len : (k.nextSources.map k1.byteAt).length = k.nextBytes := by simp [Copy.nextSources]
    obtain ⟨inside, outside⟩ := Memory.get_written wf pa (k.nextSources.map k1.byteAt) leaf
    refine ⟨t, ran, fun j hj => ?_, fun x hx dirty => ?_, j, hj, slot, done⟩
    · rw [tmem, mem, inside j (by rw [List.length_map]; exact hj), List.getElem_map]
      rfl
    · rw [tmem, mem]
      exact outside x (len ▸ hx) fun a ha same => dirty (by rw [ha, same]; rfl)
  · intro size all
    obtain ⟨u, ran, freed⟩ :=
      exec_copyComplete_finished nums hk distinct op gauge cancelling failing owed shadow bufs size all
    exact ⟨u, ran, freed⟩
  · intro size
    obtain ⟨u, ran, freed⟩ := exec_copyComplete_desc nums hk distinct op gauge cancelling failing owed shadow size
    exact ⟨u, ran, freed⟩
  · intro k nums mem distinct slot cancelling owed
    exact exec_cancelAck nums mem distinct slot cancelling owed
  · intro loading call late
    refine ⟨_, exec_shadowLoadDone loading call late, ?_⟩
    rw [State.core_modCore]
    exact ⟨rfl, rfl, rfl, rfl⟩
  · intro c call queued due depth late ending free
    let j : State := { s with focus := .jig s.inp.n1 }
    refine ⟨_, exec_jigDepthExpire call due depth late, ?_⟩
    obtain ⟨idle, code, bank0, bank1⟩ := State.endCall_last (j := j) rfl call queued ending free ecDepth
    exact ⟨idle, code, bank0, bank1, rfl⟩
  · intro c call
    exact ⟨exec_shadowLoadDone_stays (.inl ⟨c, call⟩), fun early => exec_jigDepthExpire_early (.inl ⟨c, call, early⟩)⟩
  · intro late
    exact ⟨exec_shadowLoadDone_stays (.inr late), exec_jigDepthExpire_early (.inr late)⟩

end Sys2Proof.Machine
end

section
/-! PROOFS. Scalar loads, the declared load and the prefetch. -/
namespace Sys2Proof.Machine
open Sys2Proof.Bits

/-! ### Immediates and addresses (R276, R297) -/

theorem wrap64_mul (a : Int) (n : Nat) : wrap64 (a * n) = wrap64 a * BitVec.ofNat 64 n := by
  rw [wrap64, BitVec.ofInt_mul, BitVec.ofInt_natCast]
  rfl

/-- A sign-extended field as a register value. -/
theorem wrap64_sextN {w : Nat} (v : BitVec w) : wrap64 (sextN v.toNat w) = v.signExtend 64 := by
  have value : sextN v.toNat w = v.toInt := by
    rw [BitVec.toInt_eq_toNat_cond]
    simp only [sextN, Nat.mod_eq_of_lt v.isLt]
  rw [value]
  rfl

theorem State.ea_imm7 (s : State) (a : BitVec 5) (i : BitVec 7) (n : Nat) :
    s.ea a (s.immediate i.toNat 7 * n) = s.xr a + s.imm7 i * BitVec.ofNat 64 n := by
  have field : wrap64 (s.immediate i.toNat 7) = s.imm7 i := by
    unfold State.immediate State.imm7
    cases s.bundle.imm with
    | none => exact wrap64_sextN i
    | some p =>
      have joined : p.toNat * 2 ^ 7 + i.toNat = (p ++ i).toNat := by
        rw [BitVec.toNat_append, ← Nat.shiftLeft_add_eq_or_of_lt i.isLt, Nat.shiftLeft_eq]
      dsimp only
      rw [joined]
      exact wrap64_sextN (p ++ i)
  rw [State.ea, wrap64_mul, field]

theorem State.ea_field {s : State} (h : s.bundle.imm = none) (a : BitVec 5) {w : Nat} (o : BitVec w) :
    s.ea a (s.immediate o.toNat w) = s.xr a + o.signExtend 64 := by
  rw [State.ea, State.immediate, h]
  exact congrArg (s.xr a + ·) (wrap64_sextN o)

theorem extended_eq (n v : Nat) (signed : Bool) :
    (if signed then wrap64 (sextN v (8 * n)) else BitVec.ofNat 64 v) = extended n v signed := by
  have same : sextN v (8 * n) = sextN (BitVec.ofNat (8 * n) v).toNat (8 * n) := by
    simp only [sextN, BitVec.toNat_ofNat, Nat.mod_mod]
  unfold extended
  rw [same, wrap64_sextN]

/-! ### A line that the agent can read at once (R218, R227, R229, R230) -/

theorem nth_getAll (m : List Host.Cell) (a i n : Nat) (h : i < n) (d : Byte) :
    nth (Memory.getAll m a n) i d = Memory.get m (a + i) := by
  induction n generalizing a i with
  | zero => omega
  | succ n ih =>
    cases i with
    | zero => rfl
    | succ i =>
      rw [show a + (i + 1) = a + 1 + i by omega, ← ih (a + 1) i (by omega)]
      rfl

/-- The agent can read `n` bytes from cell `pa` on at once, and finds no error in them. -/
structure State.ReadReady (s : State) (pa n : Nat) (leaf : Option Nat) : Prop where
  fits : pa % 128 + n ≤ 128
  free : s.holderOf (pa / 128) = none
  home : (s.owns (pa / 128) = true ∧ isTier pa = true) ∨ ((s.line (pa / 128)).queue = [] ∧
    (isTier pa = false ∨ ((s.line (pa / 128)).home = .idle ∧ s.rowHeld (pa / 128) = false)))
  copy : (∀ m, s.focus ≠ .seq m) → ∀ k ∈ s.my.l1, k.line = pa / 128 → k.own = true
  data : ∀ k, k < n → s.lineFault (pa + k) leaf = none

/-- An error found in a line is the same in two states that know the same of it. -/
theorem State.lineFault_congr {s t : State} {line pa : Nat} (hp : pa / 128 = line) (mem : t.mem = s.mem)
    (health : t.health = s.health) (focus : t.focus = s.focus) (owns : t.owns line = s.owns line)
    (bad : (t.line line).bad = (s.line line).bad) (l1 : t.my.l1 = s.my.l1) (leaf : Option Nat) :
    t.lineFault pa leaf = s.lineFault pa leaf := by
  have data : t.dataFault pa leaf = s.dataFault pa leaf :=
    State.dataFault_congr mem (by rw [health]; exact ⟨rfl, rfl, rfl, rfl, rfl⟩) pa leaf
  simp only [State.lineFault, hp, data, focus, owns, bad, Core.lineCopy, l1]

theorem State.my_setPts (s : State) (t : Nat) : (s.setPts t).my.l1 = s.my.l1 := by
  unfold State.setPts
  split
  · rfl
  · rw [State.my_modMy]

namespace State.ReadReady
variable {s : State} {pa n : Nat} {leaf : Option Nat} (h : s.ReadReady pa n leaf)
include h

theorem inLine {k : Nat} (hk : k < n) : (pa + k) / 128 = pa / 128 := by
  have := h.fits
  omega

theorem setPts (t : Nat) : (s.setPts t).ReadReady pa n leaf where
  fits := h.fits
  free := (s.holderOf_setPts t _).trans h.free
  home := by rw [State.owns_setPts, State.line_setPts, State.rowHeld_setPts]; exact h.home
  copy := by
    rw [(s.keepsAgent_setPts t).focus, State.my_setPts]
    exact h.copy
  data k hk := by
    rw [← h.data k hk]
    exact State.lineFault_congr (h.inLine hk) (s.keepsAgent_setPts t).mem (by rw [s.setPts_eq t]; rfl)
      (s.keepsAgent_setPts t).focus (s.owns_setPts t _) (by rw [s.line_setPts]) (s.my_setPts t) leaf

theorem noteTlb (v : View) (va : Nat)
    (hw : s.owns (pa / 128) = true ∨ bankOfLine (pa / 128) = none ∨ s.noteTlb v va = s) :
    (s.noteTlb v va).ReadReady pa n leaf := by
  have homes := s.sameButHomes_noteTlb v va
  have owns : (s.noteTlb v va).owns (pa / 128) = s.owns (pa / 128) := by rw [homes]; rfl
  have line : (s.noteTlb v va).line (pa / 128) = s.line (pa / 128) := by rw [homes]; rfl
  have my : (s.noteTlb v va).my = s.my := by rw [homes]; rfl
  have focus : (s.noteTlb v va).focus = s.focus := by rw [homes]
  refine ⟨h.fits, by rw [homes]; exact h.free, ?_, by rw [focus, my]; exact h.copy, fun k hk => ?_⟩
  · rw [owns, line]
    rcases h.home with hown | ⟨hqueue, htier | ⟨hidle, hrow⟩⟩
    · exact .inl hown
    · exact .inr ⟨hqueue, .inl htier⟩
    · cases ht : isTier pa with
      | false => exact .inr ⟨hqueue, .inl rfl⟩
      | true =>
        rcases hw with hown | hbank | hsame
        · exact .inl ⟨hown, rfl⟩
        · exact .inr ⟨hqueue, .inr ⟨hidle, by simp [State.rowHeld, State.bankHeld, hbank]⟩⟩
        · exact .inr ⟨hqueue, .inr ⟨hidle, by rwa [hsame]⟩⟩
  · rw [← h.data k hk]
    exact State.lineFault_congr (h.inLine hk) homes.mem_eq (s.noteTlb_health v va) focus owns (by rw [line]) (by rw [my]) leaf

end State.ReadReady

section Reaches
variable {s : State} {va n pa : Nat} {leaf : Option Nat} (hr : s.Reaches .load va n pa leaf) (hg : s.Good pa n leaf)
include hr hg

theorem State.Reaches.readReady : s.ReadReady pa n leaf where
  fits := hr.same ▸ hr.line
  free := hr.serves.free
  home := by
    have home := hr.serves.home
    rwa [isTier_line] at home
  copy core := hr.serves.copy fun mode => by
    unfold State.mode at mode
    cases hf : s.focus with
    | seq m => exact core m hf
    | core m => rw [hf] at mode; dsimp only at mode; split at mode <;> cases mode
    | jig m => rw [hf] at mode; cases mode
  data := hg.data

/-- The line stays at hand where the load begins. -/
theorem State.Reaches.atLoad : (s.atAccess s.view va n).ReadReady pa n leaf ∧ s.ByAccess (s.atAccess s.view va n) ∧
    (s.atAccess s.view va n).mem = s.mem := by
  have ready := hr.readReady hg
  obtain ⟨t, ht, heq⟩ := s.atAccess_one s.view hr.size hr.line
  have timed : t.ReadReady pa n leaf ∧ s.ByAccess t ∧ t.mem = s.mem := by
    rcases ht with rfl | ⟨k, rfl⟩
    · exact ⟨ready, .refl t, rfl⟩
    · exact ⟨ready.setPts k, s.byAccess_setPts k, (s.keepsAgent_setPts k).mem⟩
  have walked : t.owns (pa / 128) = true ∨ bankOfLine (pa / 128) = none ∨ t.noteTlb s.view va = t := by
    rcases ht with rfl | ⟨k, rfl⟩
    · exact hr.walked
    · rw [State.owns_setPts]
      exact hr.walked.imp_right fun h => h.imp_right fun h => s.noteTlb_setPts k _ _ h
  obtain ⟨tready, access, mem⟩ := timed
  rw [heq]
  split
  · have homes := t.sameButHomes_noteTlb s.view va
    exact ⟨tready.noteTlb _ _ walked, access.trans (.of_homes homes), homes.mem_eq.trans mem⟩
  · exact ⟨tready, access, mem⟩

end Reaches

/-! ### Opening a line for a read (R227 to R232) -/

/-- A state in which the agent reads `n` bytes of an opened line as its own stores and memory have them. -/
structure State.ReadOpen (s t : State) (pa n : Nat) (leaf : Option Nat) : Prop where
  access : s.ByAccess t
  mem : t.mem = s.mem
  seen : ∀ k, k < n → t.peek (pa + k) = s.ownByte (pa + k)
  sound : ∀ k, k < n → t.lineFault (pa + k) leaf = none

/-- A byte is read as its newest withheld store or memory has it, where the agent's copy of its line is as memory. -/
theorem State.peek_eq_ownByte {s t : State} (access : s.ByAccess t) (mem : t.mem = s.mem) {x : Nat}
    (seen : (∀ m, s.focus ≠ .seq m) → ∀ k, t.my.lineCopy (x / 128) = some k → k.data = s.lineData (x / 128)) : t.peek x = s.ownByte x := by
  have own : t.my.ownByte x = s.my.ownByte x := by simp only [Core.ownByte, access.withheld]
  have copied (core : ∀ m, s.focus ≠ .seq m) : (match t.my.ownByte x with
      | some b => b
      | none => if t.owns (x / 128) then Memory.get t.mem x else match t.my.lineCopy (x / 128) with
        | some k => nth k.data (x % 128) 0#8
        | none => Memory.get t.mem x) = (s.my.ownByte x).getD (Memory.get s.mem x) := by
    rw [own, mem]
    cases s.my.ownByte x with
    | some b => rfl
    | none =>
      dsimp only
      split
      · rfl
      · split
        · next k hk =>
          rw [seen core k hk, State.lineData, nth_getAll _ _ _ _ (Nat.mod_lt _ (by decide)), Nat.div_add_mod]
          rfl
        · rfl
  unfold State.peek State.ownByte
  rw [access.focus]
  cases hf : s.focus with
  | seq m => exact congrArg (Memory.get · x) mem
  | core m => exact copied fun k hk => nomatch hf.symm.trans hk
  | jig m => exact copied fun k hk => nomatch hf.symm.trans hk

/-- A line is the agent's in two states in which the same agent withholds the same stores to it and its home names the same
core. -/
theorem State.owns_congr {s t : State} {line : Nat} (focus : t.focus = s.focus) (withheld : t.my.withheld = s.my.withheld)
    (home : (t.line line).home = (s.line line).home) (fwd : (t.line line).fwd = (s.line line).fwd) :
    t.owns line = s.owns line := by
  have me : t.me = s.me := by rw [State.me, focus, State.me]
  simp only [State.owns, focus, me, Core.oldestOf, withheld, State.ownedBy, home, fwd]

theorem State.readHere_spec (s : State) (line wts : Nat) :
    s.ByAccess (s.readHere line wts) ∧ (s.readHere line wts).mem = s.mem ∧ (s.readHere line wts).health = s.health ∧
      (s.readHere line wts).my.l1 = s.my.l1 ∧ (s.readHere line wts).owns line = s.owns line ∧
      ((s.readHere line wts).line line).bad = (s.line line).bad ∧
      ((s.readHere line wts).line line).queue = (s.line line).queue := by
  unfold State.readHere
  extract_lets r ts
  let u := s.setLine line { r with rts := max r.rts ts }
  refine ⟨(s.byAccess_setLine _ _).trans (u.byAccess_setPts ts), (u.keepsAgent_setPts ts).mem, ?_, u.my_setPts ts,
    (u.owns_setPts ts line).trans (State.owns_congr rfl rfl ?_ ?_), ?_, ?_⟩
  · rw [u.setPts_eq ts]
    rfl
  all_goals simp only [u, State.line_setPts, State.line_setLine, r]

/-- A line that enters a core's L1 is its only copy there, and stays as it was at its home. -/
theorem State.l1_putL1 (s : State) (n : Nat) (k : L1Copy) :
    ∃ others, (∀ x ∈ others, x.line ≠ k.line) ∧ ((s.putL1 n k).core n).l1 = others ++ [k] := by
  have other {p : L1Copy → Bool} : ∀ x ∈ ((s.core n).l1.filter (fun x => x.line != k.line)).filter p, x.line ≠ k.line :=
    fun x hx => by simpa using (List.mem_filter.1 (List.mem_of_mem_filter hx)).2
  unfold State.putL1
  extract_lets old kept v t
  split
  · exact ⟨old, fun x hx => by simpa using (List.mem_filter.1 hx).2, by rw [State.core_modCore]⟩
  · refine ⟨old.filter fun x => x.line != v.line, other, ?_⟩
    split
    · have touched : (t.touchLine v.line).core n = t.core n := by rw [t.sameButHomes_touchLine]; rfl
      exact (congrArg Core.l1 touched).trans (by rw [State.core_modCore])
    · rw [State.core_modCore]

/-- Reading a line's data at its home leaves memory, the lines and the copies in the L1 caches. -/
theorem State.readFor_spec (s : State) (q : Req) (line : Nat) :
    (s.readFor q line).mem = s.mem ∧ (s.readFor q line).line line = s.line line ∧
      ((s.readFor q line).core q.core).l1 = (s.core q.core).l1 := by
  unfold State.readFor
  extract_lets u why
  have homes := s.sameButHomes_readLine line q.leaf q.hint
  have memory : u.mem = s.mem := homes.mem_eq
  have lines : u.line line = s.line line := by unfold u; rw [homes]; rfl
  have cores : u.core q.core = s.core q.core := by unfold u; rw [homes]; rfl
  split
  · exact ⟨memory, lines, congrArg Core.l1 cores⟩
  · exact ⟨memory, lines, by rw [State.core_modCore, cores]⟩

/-- The answer to a read leaves the line at its home as it was, and its data in the core's L1. -/
theorem State.giveRead_spec (s : State) (q : Req) (line : Nat) (bound : Option Nat) :
    (s.giveRead q line bound).mem = s.mem ∧
      ((s.giveRead q line bound).line line).home = (s.line line).home ∧
      ((s.giveRead q line bound).line line).fwd = (s.line line).fwd ∧
      ((s.giveRead q line bound).line line).queue = (s.line line).queue ∧
      ∃ k, ((s.giveRead q line bound).core q.core).lineCopy line = some k ∧ k.data = s.lineData line ∧
        k.bad = s.dataFault (128 * line) q.leaf := by
  unfold State.giveRead
  extract_lets r ts fin fin' bad s1 t
  let k : L1Copy := { line := line, wts := r.wts, rts := fin', data := s1.lineData line, prio := hintPrio q.hint,
                      once := q.hint == 3 || bad.isSome, bad := bad }
  obtain ⟨mem, lines, copies⟩ := t.readFor_spec q line
  have placed : t.line line = s1.line line := s1.line_putL1 q.core k
  have leased : s1.line line = { r with rts := max r.rts fin' } := State.line_setLine _ _ _
  obtain ⟨others, other, l1⟩ := s1.l1_putL1 q.core k
  rw [mem, lines, placed, leased]
  refine ⟨(s1.keepsAgent_putL1 q.core k).mem, rfl, rfl, rfl, k, ?_, rfl, rfl⟩
  have first : others.find? (fun x => x.line == line && !x.own) = none :=
    List.find?_eq_none.2 fun x hx found => other x hx (by simpa using (Bool.and_eq_true_iff.1 found).1)
  rw [Core.lineCopy, copies, l1, List.find?_append, first]
  simp [k]

section OpenRead
variable {s : State} {pa n : Nat} {leaf : Option Nat} (h : s.ReadReady pa n leaf)
include h

/-- A copy of the line in the agent's own L1 is the owner's. -/
theorem State.ReadReady.lineCopy (core : ∀ m, s.focus ≠ .seq m) : s.my.lineCopy (pa / 128) = none := by
  rw [Core.lineCopy, List.find?_eq_none]
  intro k hk found
  obtain ⟨line, own⟩ : k.line = pa / 128 ∧ k.own = false := by simpa using found
  rw [h.copy core k hk line] at own
  cases own

theorem State.ReadReady.copyOf : s.copyOf (pa / 128) = none := by
  unfold State.copyOf
  split
  · rfl
  · next core =>
    rw [List.find?_eq_none]
    intro k hk found
    obtain ⟨⟨line, own⟩, -⟩ : (k.line = pa / 128 ∧ k.own = false) ∧ max s.pts k.wts ≤ k.rts := by simpa using found
    rw [h.copy core k hk line] at own
    cases own

/-- The agent's own read of a line at hand. -/
theorem State.ReadReady.readHere (wts : Nat) : s.ReadOpen (s.readHere (pa / 128) wts) pa n leaf := by
  obtain ⟨access, mem, health, l1, owns, bad, -⟩ := s.readHere_spec (pa / 128) wts
  refine ⟨access, mem, fun k hk => State.peek_eq_ownByte access mem fun core copy found => ?_, fun k hk => ?_⟩
  · rw [h.inLine hk, Core.lineCopy, l1, ← Core.lineCopy, h.lineCopy core] at found
    cases found
  · rw [← h.data k hk]
    exact State.lineFault_congr (h.inLine hk) mem health access.focus owns bad l1 leaf

theorem State.ReadReady.dataFault (ht : isTier pa = true) (t : State) {k : Nat} (hk : k < n) :
    t.dataFault (pa + k) leaf = t.dataFault (128 * (pa / 128)) leaf := by
  rw [← h.inLine hk]
  exact (t.dataFault_line (by rw [← isTier_line, h.inLine hk, isTier_line, ht]) leaf).symm

theorem State.ReadReady.tier (ht : isTier pa = true) {k : Nat} (hk : k < n) :
    isTier (pa + k) = true := by rw [← isTier_line, h.inLine hk, isTier_line, ht]

/-- A line at hand opens for a read, and nothing is found in it. -/
theorem State.ReadReady.openRead (hj : ∀ m, s.focus ≠ .jig m) (hn : 0 < n) :
    ∃ t, s.openRead (pa / 128) leaf = .ok t () ∧ s.ReadOpen t pa n leaf := by
  by_cases hown : s.owns (pa / 128) = true
  · exact ⟨_, by simp only [State.openRead, hown, if_true], h.readHere (s.line (pa / 128)).wts⟩
  obtain ⟨queue, home⟩ := h.home.resolve_left fun ho => hown ho.1
  replace hown : s.owns (pa / 128) = false := by simpa using hown
  cases ht : isTier pa with
  | false =>
    obtain ⟨-, -, -, -, -, -, left⟩ := s.readHere_spec (pa / 128) (s.line (pa / 128)).wts
    refine ⟨_, ?_, h.readHere (s.line (pa / 128)).wts⟩
    simp [State.openRead, hown, isTier_line, ht, State.behind_of_nil queue, h.free, State.leaveQueue_of_nil (left.trans queue)]
  | true =>
    obtain ⟨idle, row⟩ := home.resolve_left (by simp [ht])
    have tier : isTier (128 * (pa / 128)) = true := by rwa [isTier_line]
    have data : s.dataFault (128 * (pa / 128)) leaf = none := by
      have sound := h.data 0 hn
      rw [← h.dataFault ht s hn]
      unfold State.lineFault at sound
      rw [h.tier ht hn] at sound
      cases hf : s.focus with
      | seq m => simpa [hf] using sound
      | core m => simpa [hf, h.inLine hn, hown, h.lineCopy fun k hk => nomatch hf.symm.trans hk] using sound
      | jig m => exact absurd hf (hj m)
    cases hf : s.focus with
    | seq m =>
      have homes := s.sameButHomes_readLine (pa / 128) leaf s.hint
      obtain ⟨access, mem, health, -, -, -, left⟩ :=
        (s.readLine (pa / 128) leaf s.hint).readHere_spec (pa / 128) (s.line (pa / 128)).wts
      have reached := (State.ByAccess.of_homes homes).trans access
      have queue' : ((s.readLine (pa / 128) leaf s.hint).line (pa / 128)).queue = [] := by rw [homes]; exact queue
      have free : s.seqFree (pa / 128) = true := by simp [State.seqFree, State.behind_of_nil queue, row, idle]
      have back : s.writtenBack (pa / 128) = s := by simp [State.writtenBack, idle]
      refine ⟨_, ?_, reached, mem.trans homes.mem_eq, fun k hk => ?_, fun k hk => ?_⟩
      · simp [State.openRead, hown, tier, hf, free, h.free, back, State.leaveQueue_of_nil (left.trans queue')]
      · exact State.peek_eq_ownByte reached (mem.trans homes.mem_eq) fun core => absurd hf (core m)
      · rw [State.lineFault, h.tier ht hk, reached.focus, hf]
        refine (h.dataFault ht _ hk).trans ((State.dataFault_congr mem ?_ _ _).trans (State.dataFault_readLine data s.hint))
        rw [health]
        exact ⟨rfl, rfl, rfl, rfl, rfl⟩
    | core m =>
      have asker : s.asker = m := by simp [State.asker, State.me, hf]
      have held : s.heldBy m (pa / 128) = none := by simpa [State.holderOf, hf, State.me, State.heldBy] using h.free
      have free (q : Req) : s.homeFree (pa / 128) q = true := by simp [State.homeFree, queue, row, idle]
      let q : Req := ⟨.rd, m, s.hint, leaf⟩
      obtain ⟨mem, home, fwd, -, k, copy, whole, bad⟩ := s.giveRead_spec q (pa / 128) none
      let t := s.giveRead q (pa / 128) none
      have access : s.ByAccess t := s.byAccess_giveRead q _ none
      let u := t.setPts (s.line (pa / 128)).wts
      have timed := t.keepsAgent_setPts (s.line (pa / 128)).wts
      have reached : s.ByAccess u := access.trans (t.byAccess_setPts _)
      have copied : u.my.lineCopy (pa / 128) = some k := by
        rw [Core.lineCopy, t.my_setPts, ← Core.lineCopy, State.my_of_core (access.focus.trans hf), copy]
      refine ⟨u, ?_, reached, timed.mem.trans mem, fun i hi => ?_, fun i hi => ?_⟩
      · simp [State.openRead, hown, tier, hf, asker, h.copyOf, free, State.serveIdle, held, u, t, q]
      · refine State.peek_eq_ownByte reached (timed.mem.trans mem) fun _ k' found => ?_
        rw [h.inLine hi, copied] at found
        cases found
        rw [whole, h.inLine hi]
      · have given : u.owns (pa / 128) = false := by
          rw [t.owns_setPts, ← hown]
          exact State.owns_congr access.focus access.withheld home fwd
        rw [State.lineFault, h.tier ht hi, reached.focus, hf, h.inLine hi, given, copied]
        exact bad.trans data
    | jig m => exact absurd hf (hj m)

end OpenRead

/-! ### A load (R145, R221, R309, R310) -/

theorem State.byAccess_dropOnce (s : State) (line : Nat) : s.ByAccess (s.dropOnce line) ∧ (s.dropOnce line).mem = s.mem := by
  unfold State.dropOnce
  split
  · exact ⟨.refl s, rfl⟩
  · split
    · exact ⟨s.byAccess_modCore _ fun _ => rfl, rfl⟩
    · exact ⟨.refl s, rfl⟩

theorem State.ByAccess.ownByte {s t : State} (h : s.ByAccess t) (mem : t.mem = s.mem) (x : Nat) : t.ownByte x = s.ownByte x := by
  have own : t.my.ownByte x = s.my.ownByte x := by simp only [Core.ownByte, h.withheld]
  unfold State.ownByte
  rw [h.focus, own, mem]

theorem State.Good.storeFault {s : State} {pa n : Nat} {leaf : Option Nat} (h : s.Good pa n leaf) (va m : Nat) :
    s.storeFault va m = none := by
  unfold State.storeFault
  split
  · rfl
  · next core =>
    have sound : s.my.withheld.all (fun w => w.bad.isNone) = true := by
      refine List.all_eq_true.2 fun w hw => ?_
      rw [h.stores (fun mode => ?_) w hw, Option.isNone_none]
      unfold State.mode at mode
      cases hf : s.focus with
      | seq m => exact core m hf
      | core m => rw [hf] at mode; dsimp only at mode; split at mode <;> cases mode
      | jig m => rw [hf] at mode; cases mode
    rw [if_pos sound]

/-- What the environment decides of a load's data changes counters only. -/
theorem State.lateLoad_spec (s s0 : State) (pa : Nat) :
    (s.lateLoad s0 pa).1 = (s.lateCode.1 != 0) ∧ (s.lateLoad s0 pa).2.2.bundle = s.bundle ∧
      (s.lateLoad s0 pa).2.2.mem = s.mem ∧ (s.lateLoad s0 pa).2.2.focus = s.focus ∧
      (s.lateLoad s0 pa).2.2.scalar = s.scalar ∧ (s.lateLoad s0 pa).2.2.arith = s.arith := by
  obtain ⟨late, hlate⟩ := s.lateCode_eq
  have counted : ∃ hubs, (s.lateLoad s0 pa).2.2 = { s with late := late, hubCounters := hubs } := by
    unfold State.lateLoad
    rw [show s.lateCode = (s.lateCode.1, s.lateCode.2) from rfl, hlate]
    dsimp only
    split
    · exact ⟨_, rfl⟩
    · split
      · exact ⟨_, rfl⟩
      · exact ⟨_, rfl⟩
  obtain ⟨hubs, counted⟩ := counted
  rw [counted]
  exact ⟨rfl, rfl, rfl, rfl, rfl, rfl⟩

section Load
variable {s : State} {va n pa : Nat} {leaf : Option Nat} (hr : s.Reaches .load va n pa leaf) (hg : s.Good pa n leaf)
  (hj : ∀ m, s.focus ≠ .jig m)
include hr hg hj

/-- A load of one line that is at hand gives the bytes as the agent's own stores and memory have them. -/
theorem State.Reaches.load : ∃ t bytes, s.load s.view va n = .ok t (bytes, none) ∧ leNat bytes = s.ownValue pa n ∧
    s.ByAccess t ∧ t.mem = s.mem := by
  obtain ⟨ready, began, same⟩ := hr.atLoad hg
  obtain ⟨t, opened, access, mem, seen, sound⟩ := ready.openRead (by rw [began.focus]; exact hj) hr.size
  obtain ⟨dropped, left⟩ := t.byAccess_dropOnce (pa / 128)
  have window : ¬ fieldN va 48 4 = 13 := by
    have := hr.window
    have := hr.space
    simp only [fieldN]
    omega
  have clear : (List.range n).findSome? (fun i => (t.lineFault (pa + i) leaf).map (fun c => (c, va + i))) = none :=
    List.findSome?_eq_none_iff.2 fun i hi => by rw [sound i (List.mem_range.1 hi)]; rfl
  refine ⟨_, (List.range n).map fun i => t.peek (pa + i), ?_, ?_, (began.trans access).trans dropped,
    (left.trans mem).trans same⟩
  · rw [State.load, if_neg fun h => window h.1, segments_one hr.size hr.line]
    simp [State.resolveAll, hr.cell, State.readParts, opened, clear, worse]
  · refine congrArg leNat (List.map_congr_left fun i hi => ?_)
    rw [seen i (List.mem_range.1 hi), began.ownByte same]

theorem State.Reaches.loadX (d : BitVec 5) {ea : W64} (hva : ea.toNat = va) (signed : Bool) (arr : Nat) :
    (s.loadX d ea n signed arr).bundle = s.bundle ∧ Loaded s (s.loadX d ea n signed arr) d n signed arr pa := by
  obtain ⟨t, bytes, loaded, value, access, mem⟩ := hr.load hg hj
  obtain ⟨code, bundle, mem', focus, scalar, arith⟩ := t.lateLoad_spec s (s.firstCell va)
  let why := (t.lateLoad s (s.firstCell va)).2.1
  let w := (t.lateLoad s (s.firstCell va)).2.2
  let p : Pending := { dest := .x d (extended n (s.ownValue pa n) signed), togo := arr, arrived := s.lateCode.1 == 0, why := why }
  have core : ∀ m, w.focus ≠ .jig m := fun m h => hj m ((focus.trans access.focus).symm.trans h)
  replace bundle : w.bundle = s.bundle := bundle.trans access.bundle
  replace scalar : w.scalar = s.scalar := scalar.trans access.scalar
  replace arith : w.arith = s.arith := arith.trans access.arith
  have answered : s.loadX d ea n signed arr = if d = 0#5 then w else w.issue [p] := by
    have intime : (!(t.lateLoad s (s.firstCell va)).1) = (s.lateCode.1 == 0) := by
      rw [code, State.lateCode_congr access.late, bne, Bool.not_not]
    have space := hr.space
    simp only [State.loadX, State.withEa, State.onLoad, State.onGot, hva, space, if_true, hg.storeFault, loaded,
      value, extended_eq, Option.isNone_none, and_true, intime]
    split
    · rfl
    · rfl
  rw [answered]
  split
  · next hd => exact ⟨bundle, mem'.trans mem, arith, why, by simp [scalar, hd]⟩
  · next hd =>
    refine ⟨(State.setScalar_bundle _ _).trans bundle, (State.setScalar_mem _ _).trans (mem'.trans mem),
      (State.arith_setScalar core _).trans arith, why, ?_⟩
    rw [State.scalar_issue, scalar, bundle, if_neg hd]
    rfl

end Load

theorem loadOp_loaded {s : State} {g : BitVec 3} {d a : BitVec 5} {i : BitVec 7} {n pa : Nat} {leaf : Option Nat}
    (hp : s.pr g = true) (hj : ∀ m, s.focus ≠ .jig m) (signed : Bool)
    (hr : s.Reaches .load (s.xr a + s.imm7 i * BitVec.ofNat 64 n).toNat n pa leaf) (hg : s.Good pa n leaf) :
    ∃ t, loadOp n signed g d a i s = .next t ∧ t.bundle = s.bundle ∧ Loaded s t d n signed 6 pa :=
  ⟨_, congrArg Host.Outcome.next (if_pos hp), hr.loadX hg hj d (congrArg BitVec.toNat (s.ea_imm7 a i n)) signed 6⟩

/-! ### The hint of an op's own field (R210) -/

theorem State.fetchData_withHint (s : State) (k line hint : Nat) :
    (s.withHint k).fetchData line hint = (s.fetchData line hint).withHint k := by
  have row (s : State) : (s.withHint k).accessRow line = (s.accessRow line).withHint k := by
    unfold State.accessRow
    split <;> rfl
  have touched : (s.withHint k).touchLine line = (s.touchLine line).withHint k := by
    unfold State.touchLine
    rw [row, show (s.withHint k).cacheHit line = s.cacheHit line from rfl]
    split <;> rfl
  have allocated (s : State) : (s.withHint k).allocate line hint = (s.allocate line hint).withHint k := by
    unfold State.allocate
    split
    · rfl
    · split <;> rfl
  rw [State.fetchData, touched, allocated, State.fetchData]

theorem State.noteTlb_withHint (s : State) (k : Nat) (v : View) (va : Nat) :
    (s.withHint k).noteTlb v va = (s.noteTlb v va).withHint k := by
  have fetched (s : State) (ls : List Nat) : ls.foldl (fun s line => s.fetchData line 0) (s.withHint k) =
      (ls.foldl (fun s line => s.fetchData line 0) s).withHint k :=
    List.foldl_hom (State.withHint · k) fun s line => s.fetchData_withHint k line 0
  have entered (s : State) (e : Nat → TlbEntry) (us : List Nat) :
      us.foldl (fun s u => s.putTlb (e u)) (s.withHint k) = (us.foldl (fun s u => s.putTlb (e u)) s).withHint k := by
    refine List.foldl_hom (State.withHint · k) fun s u => ?_
    by_cases c : (s.tlb.filter (fun x => x.unit == (e u).unit)).contains (e u) = true
    · exact (if_pos c).trans (congrArg (State.withHint · k) (if_pos c : s.putTlb (e u) = _)).symm
    · exact (if_neg c).trans (congrArg (State.withHint · k) (if_neg c : s.putTlb (e u) = _)).symm
  unfold State.noteTlb
  rw [show (s.withHint k).leafFor v.units v.stream va = s.leafFor v.units v.stream va from rfl]
  split
  · rfl
  · dsimp only
    rw [show (s.withHint k).tlbHit v.units v.stream va = s.tlbHit v.units v.stream va from rfl,
      show (s.withHint k).walkLines v.stream va = s.walkLines v.stream va from rfl, fetched, ← entered]
    split <;> rfl

theorem State.Reaches.withHint {s : State} {acc : Acc} {va n pa : Nat} {leaf : Option Nat} (h : s.Reaches acc va n pa leaf)
    (k : Nat) : (s.withHint k).Reaches acc va n pa leaf where
  space := h.space
  window := h.window
  size := h.size
  line := h.line
  same := h.same
  cell := h.cell
  serves := ⟨h.serves.free, h.serves.home, h.serves.copy⟩
  walked := h.walked.imp_right fun w => w.imp_right fun w => by
    rw [State.noteTlb_withHint, show (s.withHint k).view = s.view from rfl, w]

/-! ### A prefetch (R210, R231, R311) -/

/-- A new owner leaves the queue at the line's home. -/
theorem State.giveOwner_queue (s : State) (q : Req) (line : Nat) (data : Bool) :
    ((s.giveOwner q line data).line line).queue = (s.line line).queue := by
  unfold State.giveOwner
  extract_lets bad s1 r s2
  have read : s1.line line = s.line line := by
    unfold s1
    split
    · exact (s.readFor_spec q line).2.1
    · rfl
  have given : (s2.line line).queue = (s.line line).queue := by
    simp only [s2, State.line_setLine, r, read]
  split
  · exact given
  · rw [s2.line_putL1]
    exact given

/-- A request other than a no-return atomic is served without a write. -/
theorem State.serveIdle_spec {s t : State} {line : Nat} {q : Req} (h : s.serveIdle line q = some t) (hk : q.kind ≠ .nr) :
    t.mem = s.mem ∧ (t.line line).queue = (s.line line).queue := by
  have read (b : Option Nat) : (s.giveRead q line b).mem = s.mem ∧ ((s.giveRead q line b).line line).queue = (s.line line).queue := by
    obtain ⟨mem, -, -, queue, -⟩ := s.giveRead_spec q line b
    exact ⟨mem, queue⟩
  have owner (d : Bool) : (s.giveOwner q line d).mem = s.mem ∧ ((s.giveOwner q line d).line line).queue = (s.line line).queue :=
    ⟨(s.keepsAgent_giveOwner q line d).mem, s.giveOwner_queue q line d⟩
  unfold State.serveIdle at h
  dsimp only at h
  split at h
  · split at h
    · split at h
      · cases h
        exact read _
      · cases h
    · cases h
      exact read _
  · split at h
    · cases h
    · cases h
      exact owner _
  · split at h
    · cases h
    · cases h
      exact owner _
  · next kind => exact absurd kind hk

/-- A home that serves the reads and writes of its queue changes no memory. -/
theorem State.mem_serveQueue {s : State} {line : Nat} (n : Nat) (h : ∀ q ∈ (s.line line).queue, q.kind ≠ .nr) :
    (s.serveQueue line n).mem = s.mem := by
  induction n generalizing s with
  | zero => rfl
  | succ n ih =>
    unfold State.serveQueue
    extract_lets r
    split
    · rfl
    · next q rest queue =>
      extract_lets popped
      have left : (popped.line line).queue = rest := by simp only [popped, State.line_setLine]
      have reads : ∀ q' ∈ q :: rest, q'.kind ≠ .nr := fun q' hq => h q' (by rw [show (s.line line).queue = _ from queue]; exact hq)
      have rest_reads : ∀ q' ∈ rest, q'.kind ≠ .nr := fun q' hq => reads q' (List.mem_cons_of_mem _ hq)
      have out : (popped.serveQueue line n).mem = s.mem := ih (by rw [left]; exact rest_reads)
      split
      · split
        · rfl
        · exact out
      · split
        · rfl
        · split
          · exact out
          · rfl
        · split
          · rfl
          · split
            · rfl
            · next served =>
              obtain ⟨mem, queue'⟩ := State.serveIdle_spec served (reads q List.mem_cons_self)
              exact (ih (by rw [queue', left]; exact rest_reads)).trans mem

theorem State.noteHeld_spec (s : State) (line : Nat) :
    s.ByAccess (s.noteHeld line) ∧ (s.noteHeld line).mem = s.mem ∧ (s.noteHeld line).line line = s.line line := by
  unfold State.noteHeld
  split
  · exact ⟨.refl s, rfl, rfl⟩
  · extract_lets k
    split
    · exact ⟨.refl s, rfl, rfl⟩
    · exact ⟨⟨rfl, rfl, rfl, rfl, fun _ => rfl, fun _ => rfl⟩, rfl, rfl⟩

/-- A request that enters a home's queue. -/
theorem State.enqueue_one (s : State) (line : Nat) (q : Req) :
    s.ByAccess (s.enqueue line [q]) ∧ (s.enqueue line [q]).mem = s.mem ∧
      ((s.enqueue line [q]).line line).queue = (s.line line).queue ++ [q] := by
  obtain ⟨access, mem, line_eq⟩ := s.noteHeld_spec line
  simp only [State.enqueue, List.foldl_cons, List.foldl_nil, State.line_setLine]
  split
  · exact ⟨access.trans (State.byAccess_setLine _ _ _), mem, by rw [line_eq]⟩
  · exact ⟨s.byAccess_setLine _ _, rfl, rfl⟩

theorem State.prefetchLine_spec (s : State) (line : Nat) (leaf : Option Nat) :
    s.ByAccess (s.prefetchLine line leaf) ∧
      ((∀ q ∈ (s.line line).queue, q.kind ≠ .nr) → (s.prefetchLine line leaf).mem = s.mem) := by
  have homes := s.sameButHomes_readLine line leaf s.hint
  unfold State.prefetchLine
  split
  · exact ⟨.of_homes homes, fun _ => homes.mem_eq⟩
  · split
    · exact ⟨(State.ByAccess.of_homes homes).trans (State.byAccess_modCore _ _ fun _ => rfl), fun _ => homes.mem_eq⟩
    · obtain ⟨access, mem, queue⟩ := s.enqueue_one line ⟨.rd, s.me, s.hint, leaf⟩
      unfold State.ask
      split
      · exact ⟨s.byAccess_serveQueue _ _, State.mem_serveQueue _⟩
      · refine ⟨access.trans (State.byAccess_serveQueue _ _ _), fun h => (State.mem_serveQueue _ fun q hq => ?_).trans mem⟩
        rw [queue, List.mem_append, List.mem_singleton] at hq
        rcases hq with hq | rfl
        · exact h q hq
        · exact fun kind => nomatch kind

theorem exec_pfl {s : State} {g : BitVec 3} {a : BitVec 5} {i : BitVec 7} (hp : s.pr g = true) :
    ∃ t, exec (.pfl g a i) s = .next t ∧ s.ByAccess t ∧ ((∀ l, ∀ q ∈ (s.line l).queue, q.kind ≠ .nr) → t.mem = s.mem) ∧
      (s.hint = 3 → t = s) := by
  refine ⟨_, congrArg Host.Outcome.next (if_pos hp), ?_⟩
  dsimp only
  split
  · exact ⟨.refl s, fun _ => rfl, fun _ => rfl⟩
  · next hint =>
    split
    · next pa leaf _ =>
      obtain ⟨access, mem⟩ := s.prefetchLine_spec (pa / 128) leaf
      exact ⟨access, fun h => mem (h _), fun h => absurd (.inl h) hint⟩
    · exact ⟨.refl s, fun _ => rfl, fun _ => rfl⟩

theorem ldlWidth_eq (w : BitVec 3) :
    nth [(1, false), (1, true), (2, false), (2, true), (4, false), (4, true)] w.toNat (8, false) = ldlWidth w.toNat := by
  revert w
  decide

theorem ldl_loaded {s : State} {g : BitVec 3} {d a : BitVec 5} {m : BitVec 8} {w : BitVec 3} {h : BitVec 2} {o : BitVec 16}
    {pa : Nat} {leaf : Option Nat} (hp : s.pr g = true) (hj : ∀ n, s.focus ≠ .jig n) (himm : s.bundle.imm = none)
    (hr : s.Reaches .load (s.xr a + o.signExtend 64).toNat (ldlWidth w.toNat).1 pa leaf)
    (hg : s.Good pa (ldlWidth w.toNat).1 leaf) :
    ∃ t, exec (.ldl g d a m w h o) s = .next t ∧ t.bundle = { s.bundle with hint := some h.toNat } ∧
      Loaded s t d (ldlWidth w.toNat).1 (ldlWidth w.toNat).2 (if m = 0#8 then 6 else m.toNat) pa := by
  have good : (s.withHint h.toNat).Good pa (ldlWidth w.toNat).1 leaf := ⟨hg.data, hg.merge, hg.stores⟩
  obtain ⟨bundle, mem, arith, why, scalar⟩ := (hr.withHint h.toNat).loadX good hj d
    (congrArg BitVec.toNat (s.ea_field himm a o)) (ldlWidth w.toNat).2 (if m = 0#8 then 6 else m.toNat)
  exact ⟨_, congrArg Host.Outcome.next (if_pos hp), bundle, mem, arith, why, by
    rw [scalar, State.lateCode_congr (show (s.withHint h.toNat).late = s.late from rfl)]; rfl⟩

/-- Settles O20: the line of a load that can be served at once opens with the bytes that memory and the agent's own stores
have, and what an access changes of the agents is no register; a home serves reads and writes without a write to memory. -/
theorem loadResults : Obligations.LoadResults := by
  refine ⟨fun s g d a i pa leaf hp hj => ⟨fun hr hg => ?_, fun hr hg => ?_, fun hr hg => ?_, fun hr hg => ?_⟩, ?_, ?_⟩
  · exact ⟨loadOp_loaded hp hj false hr hg, loadOp_loaded hp hj true hr hg⟩
  · exact ⟨loadOp_loaded hp hj false hr hg, loadOp_loaded hp hj true hr hg⟩
  · exact ⟨loadOp_loaded hp hj false hr hg, loadOp_loaded hp hj true hr hg⟩
  · exact loadOp_loaded hp hj false hr hg
  · intro s g d a m w h o pa leaf
    rw [ldlWidth_eq]
    exact ldl_loaded
  · intro s g a i hp
    obtain ⟨t, run, access, mem, same⟩ := exec_pfl (a := a) (i := i) hp
    exact ⟨⟨t, run, access.bundle, access.scalar, access.arith, mem⟩, fun h => same h ▸ run⟩

end Sys2Proof.Machine
end

section
/-! PROOFS. Two lanes of a vector load on one line whose bank is held between them. -/
namespace Sys2Proof.Machine
open Sys2Proof.Bits

/-! ### A read that waits for its bank (R218, R227) -/

/-- A core's read of a line that lies in a held bank waits, when the lease of every copy it has is over. -/
theorem State.openRead_waits {s : State} {line m : Nat} (leaf : Option Nat) (hf : s.focus = .core m)
    (ht : isTier (128 * line) = true) (hown : s.owns line = false) (ended : ∀ k ∈ s.my.l1, k.rts < s.pts)
    (held : s.rowHeld line = true) : s.openRead line leaf = .wait (.line line ⟨.rd, s.asker, s.hint, leaf⟩) := by
  have copy : s.copyOf line = none := by
    rw [State.copyOf, hf]
    refine List.find?_eq_none.2 fun k hk found => ?_
    have covers := of_decide_eq_true (Bool.and_eq_true_iff.1 found).2
    have := ended k hk
    omega
  have busy : s.homeFree line ⟨.rd, s.asker, s.hint, leaf⟩ = false := by
    simp [State.homeFree, held, State.needsRow]
  simp [State.openRead, hown, ht, hf, copy, busy]

theorem State.le_pts_setPts (s : State) (t : Nat) : t ≤ (s.setPts t).pts := by
  unfold State.setPts State.pts
  cases hf : s.focus with
  | seq n => simp [hf]
  | core n => simp [hf]
  | jig n => simp [hf]

theorem State.publishedIn_congr {s t : State} (h : t.ctxs = s.ctxs) : t.publishedIn = s.publishedIn := by
  funext stream va n
  simp only [State.publishedIn, State.publishedAt, State.ctx, h]

/-- An answer whose value the kernel evaluates. -/
theorem eq_ok_of_toOption {α β : Type} {e : Except α β} {b : β} (h : e.toOption = some b) : e = .ok b := by
  cases e with
  | error x => cases h
  | ok x => exact congrArg _ (Option.some.inj h)

/-! ### The state (R204, R217, R236) -/

/-- Core 0 of die 0 in a point. Every slice of the die is direct, so that its memory-side cache holds no line; the next
activation of any row of stack 0 holds its bank; two pages of 2 GiB map the same memory; and the swap buffer whose half A
begins at 0x80100000 has been published after any lease that a read is given at time 0. -/
def publishedLane : State :=
  { cores := (0, { pt := { dslices := 8, lanes := 2#7,
                           sc := { x := ((Vector.replicate 32 0#64).set 2 0x100000#64).set 3 0x80000000#64 } },
                   point := some (1, []) }) :: (List.range 63).map (fun n => (n + 1, { pt := { dslices := 8 } })),
    ctxs := [(0, { root := 1#64, bufs := [{ a := 0x80100000, b := 0x80200000, units := 1, since := Config.lease 0 + 1 }] })],
    mem := [(0, 1#8), (1, 0x40#8), (0x4000, 0x1F#8), (0x4008, 0x1F#8)],
    tlb := [⟨0, 0, 31, 0x1F, 0x4000, 0⟩, ⟨0, 0, 31, 0x1F, 0x4000, 640⟩,
      ⟨0, 0x80000000, 31, 0x1F, 0x4008, 0⟩, ⟨0, 0x80000000, 31, 0x1F, 0x4008, 640⟩],
    hbm := [(0, { rmThr := 1 })] }

/-- The addresses of its two lanes. -/
def lanePlace (i : Nat) : Nat := 0x100000 + 0x80000000 * i
/-- The leaves that map them, both to cell 0x100000. -/
def laneLeaf (i : Nat) : Option Nat := some (0x4000 + 8 * i)

theorem publishedLane_lanes : ∀ i ∈ lanesUp (publishedLane.active 0#2), i < 2 := by decide +kernel

theorem publishedLane_noteTlb {i : Nat} (h : i < 2) :
    publishedLane.noteTlb publishedLane.view (lanePlace i) = publishedLane := by
  match i, h with
  | 0, _ => rfl
  | 1, _ => rfl

theorem publishedLane_reaches {i : Nat} (h : i < 2) :
    publishedLane.Reaches .load (lanePlace i) 4 0x100000 (laneLeaf i) := by
  have cells : ∀ i, i < 2 → (publishedLane.resolve publishedLane.view .load (lanePlace i)).toOption =
    some (.cell 0x100000 (laneLeaf i)) := by decide +kernel
  have places : ∀ i, i < 2 → lanePlace i < 2 ^ 52 ∧ lanePlace i / 2 ^ 48 ≠ 13 ∧ lanePlace i % 128 = 0 := by decide
  obtain ⟨space, window, first⟩ := places i h
  refine ⟨space, window, by decide, by omega, first.symm, eq_ok_of_toOption (cells i h), ?_, ?_⟩
  · exact ⟨rfl, .inr ⟨rfl, .inr ⟨rfl, by decide +kernel⟩⟩, fun _ k hk => by cases hk⟩
  · exact .inr (.inr (publishedLane_noteTlb h))

theorem publishedLane_good {i : Nat} (h : i < 2) : publishedLane.Good 0x100000 4 (laneLeaf i) := by
  have sound : ∀ i, i < 2 → (∀ k, k < 4 → publishedLane.lineFault (0x100000 + k) (laneLeaf i) = none) ∧
      publishedLane.mergeFault 0x100000 4 (laneLeaf i) = none := by decide +kernel
  exact ⟨(sound i h).1, (sound i h).2, fun _ w hw => by cases hw⟩

/-- What the home answers lane 0. -/
def firstRead : State := publishedLane.giveRead ⟨.rd, 0, 0, laneLeaf 0⟩ 8192 none
/-- The state that lane 0 leaves, which has read its line. -/
def readLane : State := firstRead.setPts 0

theorem publishedLane_openRead : publishedLane.openRead 8192 (laneLeaf 0) = .ok readLane () := rfl

theorem readLane_dropOnce : readLane.dropOnce 8192 = readLane := by
  have single : readLane.my.l1.any (fun k => k.line == 8192 && k.once) = false := by decide +kernel
  have core : readLane.focus = .core 0 := rfl
  rw [State.dropOnce, core]
  exact if_neg (by rw [single]; decide)

theorem publishedLane_load : ∃ r, publishedLane.load publishedLane.view (lanePlace 0) 4 = .ok readLane r := by
  have cell := (publishedLane_reaches (i := 0) (by decide)).cell
  have began : publishedLane.atAccess publishedLane.view (lanePlace 0) 4 = publishedLane := rfl
  rw [State.load, if_neg (by decide), segments_one (by decide) (by decide)]
  simp only [State.resolveAll, cell, State.readParts, began, show 0x100000 / 128 = 8192 from rfl, publishedLane_openRead,
    readLane_dropOnce]
  exact ⟨_, rfl⟩

/-- The bank of the line is held once its row has been opened. -/
theorem firstRead_rowHeld : firstRead.rowHeld 8192 = true := by
  have holds : ∃ time waits, (firstRead.stack 0).holds = [(Config.bankOf 0x100000, time, waits)] := ⟨_, _, rfl⟩
  obtain ⟨time, waits, holds⟩ := holds
  have bank : bankOfLine 8192 = some (0, Config.bankOf 0x100000) := rfl
  have miss : firstRead.cacheHit 8192 = false := by decide +kernel
  simp [State.rowHeld, State.bankHeld, bank, Stack.hold?, holds, miss]

theorem firstRead_copies : ∀ k ∈ firstRead.my.l1, k.rts = Config.lease 0 := by
  have copy : ∃ k : L1Copy, k.rts = max 0 (max 0 0 + Config.lease 0) ∧ firstRead.my.l1 = [k] := ⟨_, rfl, rfl⟩
  obtain ⟨k, rts, l1⟩ := copy
  simp [l1, rts]

theorem readLane_atAccess : readLane.atAccess publishedLane.view (lanePlace 1) 4 = readLane.setPts (max 0 (Config.lease 0 + 1)) := by
  have ctxs : readLane.ctxs = publishedLane.ctxs := by
    rw [readLane, State.setPts_eq]
    rfl
  have published : publishedLane.publishedIn 0 (lanePlace 1) 4 = max 0 (Config.lease 0 + 1) := rfl
  have noted (t : Nat) : (readLane.setPts t).noteTlb publishedLane.view (lanePlace 1) = readLane.setPts t :=
    readLane.noteTlb_setPts t _ _ (firstRead.noteTlb_setPts 0 _ _ rfl)
  rw [State.atAccess, show publishedLane.view.stream = 0 from rfl, State.publishedIn_congr ctxs, published, if_pos (by omega),
    segments_one (by decide) (by decide), List.foldl_cons, List.foldl_nil, if_pos (by decide)]
  exact noted _

/-- Lane 1 comes after the publish of its buffer, and so after the lease that lane 0 was given. -/
theorem readLane_load : ∃ q, readLane.load readLane.view (lanePlace 1) 4 = .wait (.line 8192 q) := by
  have view : readLane.view = publishedLane.view := by decide +kernel
  have cell : readLane.resolve publishedLane.view .load (lanePlace 1) = .ok (.cell 0x100000 (laneLeaf 1)) :=
    eq_ok_of_toOption (by decide +kernel)
  have waits := State.openRead_waits (s := readLane.setPts (max 0 (Config.lease 0 + 1))) (line := 8192) (m := 0) (laneLeaf 1)
    rfl rfl ?_ ?_ ?_
  · rw [view, State.load, if_neg (by decide), segments_one (by decide) (by decide)]
    simp only [State.resolveAll, cell, State.readParts, readLane_atAccess, show 0x100000 / 128 = 8192 from rfl, waits]
    exact ⟨_, rfl⟩
  · rw [State.owns_setPts]
    decide +kernel
  · intro k hk
    have pts : max 0 (Config.lease 0 + 1) ≤ (readLane.setPts (max 0 (Config.lease 0 + 1))).pts := readLane.le_pts_setPts _
    rw [State.my_setPts, readLane, State.my_setPts] at hk
    have := firstRead_copies k hk
    omega
  · rw [State.rowHeld_setPts, readLane, State.rowHeld_setPts, firstRead_rowHeld]

theorem publishedLane_reach : publishedLane.LanesReach .load (publishedLane.active 0#2)
    (fun j => publishedLane.xr 2#5 + (0#16).signExtend 64 + BitVec.ofNat 64 j * publishedLane.xr 3#5) (fun _ => 0x100000) laneLeaf := by
  have base : publishedLane.xr 2#5 + (0#16).signExtend 64 = 0x100000#64 := by decide +kernel
  have step : publishedLane.xr 3#5 = 0x80000000#64 := by decide +kernel
  have place : ∀ i, i < 2 → (0x100000#64 + BitVec.ofNat 64 i * 0x80000000#64).toNat = lanePlace i := by decide
  have agrees : ∀ i, i < 2 → ∀ x ∈ [lanePlace i, publishedLane.liveVa publishedLane.view.stream publishedLane.view.task (lanePlace i)],
      ∀ e ∈ publishedLane.tlb, e.stream = publishedLane.stream → x / 2 ^ e.bits = e.base / 2 ^ e.bits →
        publishedLane.walk publishedLane.stream x = some ⟨e.at_, e.leaf, e.bits⟩ := by decide +kernel
  rw [base, step]
  exact {
    core := fun n h => by cases h
    align := fun i hi => by
      rw [place i (publishedLane_lanes i hi), lanePlace]
      omega
    reach := fun i hi => by
      rw [place i (publishedLane_lanes i hi)]
      exact publishedLane_reaches (publishedLane_lanes i hi)
    good := fun i hi => publishedLane_good (publishedLane_lanes i hi)
    rows := fun _ _ => .inr (.inr ⟨by decide +kernel, fun _ _ => rfl⟩)
    tlb := fun i hi _ => by
      rw [place i (publishedLane_lanes i hi)]
      exact ⟨publishedLane_noteTlb (publishedLane_lanes i hi), agrees i (publishedLane_lanes i hi)⟩
    room := by decide +kernel }

/-- The load waits for the line of its second lane. -/
theorem publishedLane_vlds : ∃ q,
    exec (.vlds 0#3 0#5 2#5 0#2 3#5 0#8 0#16) publishedLane = .next (publishedLane.stall (.line 8192 q)) := by
  obtain ⟨r, first⟩ := publishedLane_load
  obtain ⟨q, second⟩ := readLane_load
  have lanes : laneAddrs (publishedLane.active 0#2)
      (strideAddr (publishedLane.ea 2#5 (publishedLane.immediate (0#16).toNat 16)) (publishedLane.xr 3#5)) =
        [(0, 0x100000#64), (1, 0x80100000#64)] := by
    decide +kernel
  have reached : publishedLane.laneFault .load [(0, 0x100000#64), (1, 0x80100000#64)] = none := by decide +kernel
  have stores : [(0, 0x100000#64), (1, 0x80100000#64)].findSome? (fun e => publishedLane.storeFault e.2.toNat 4) = none := by
    decide +kernel
  have waits : publishedLane.loadLanes [(0, 0x100000#64), (1, 0x80100000#64)] = .wait (.line 8192 q) := by
    rw [State.loadLanes, show (0x100000#64 : W64).toNat = lanePlace 0 from rfl, first]
    dsimp only
    rw [State.loadLanes, show (0x80100000#64 : W64).toNat = lanePlace 1 from rfl, second]
  refine ⟨q, (congrArg Host.Outcome.next ((if_pos (by decide +kernel)).trans (if_pos (by decide +kernel)))).trans ?_⟩
  simp only [State.loadV, lanes, reached, stores, waits, State.onGot]

/-- Refutes O38: two lanes of VLDS reach one line through two pages. The read of lane 0 leaves the line's bank held, no
memory-side cache holds the line, and the address of lane 1 is in a swap buffer that was published after the lease of the
copy which lane 0 has brought; so the load waits for the line, with every lane in reach. -/
theorem not_vectorMemory : ¬ Obligations.VectorMemory := by
  intro h
  obtain ⟨lanes, -⟩ := h
  obtain ⟨-, -, vlds, -⟩ := lanes publishedLane 0#3 0#5 2#5 0#5 3#5 0#2 0#7 0#8 0#16 (fun _ => 0x100000) laneLeaf
    (by decide +kernel) (by decide +kernel)
  obtain ⟨t, run, v, m, why, bundle, -⟩ := vlds rfl publishedLane_reach
  obtain ⟨q, waits⟩ := publishedLane_vlds
  cases run.symm.trans waits
  exact absurd (congrArg Bundle.stall bundle) (by simp [State.stall, publishedLane])

end Sys2Proof.Machine
end
